-- ==== Sys2Proof/Word.lean ====
section
/-! DEFINITION. The word types of the Xannik X960 (R6, R44, R52, R76) and their plainest names. Everything that
computes with them stands in Decode.lean or under Machine/. -/

namespace Sys2Proof

/-- A byte of memory; memory is little-endian (R6). -/
abbrev Byte := BitVec 8

/-- One word of a bundle (R44). -/
abbrev Word := BitVec 32

/-- One word of an index stream (R44, R62). -/
abbrev Idx := BitVec 16

/-- A value of class S (R52). -/
abbrev D64 := BitVec 64

/-- A value of class V, the widest class; every carried value fits in it (R52). -/
abbrev Val := BitVec 4096

end Sys2Proof
end

