-- ==== Sys2Proof/Config.lean ====
section
/-! DEFINITION. What an implementation fixes, and the values the spec leaves open. An `opaque` constant has no body
that any proof can see: a claim about it holds whatever it is. -/

namespace Sys2Proof

/-- The order of events that the spec leaves open (R257, R292, R317): which of the events that could happen next
does. Applied to the plain counter `State.free`. Free value, log entry 3. [DESIGN CHOICE, log entry 3] -/
opaque Config.freeChoice : Nat → Nat

/-- An unspecified word: the content of an accumulator element after a MATRIX_FAULT (R240), applied to
`State.free` and the element number. Free value, log entry 4. [DESIGN CHOICE, log entry 4] -/
opaque Config.freeWord : Nat → Nat → BitVec 32

/-- A result that a unit delivers and the spec does not state: `.r` of a SEND (R123, R365), applied to `State.free`. Free value, log
entry 61. [DESIGN CHOICE, log entry 61] -/
opaque Config.freeVal : Nat → BitVec 4096

/-- The values the spec names but does not compute: SHA-384 digests, signatures, the HMAC tag of a hall cap frame, SPDM nonces and
certificates (R384, R422, R423, R426); and what other agents decide or measure, the frame that the pager takes (purpose 10, R271),
how far ahead a card reads (purpose 11, R317) and the energy that partition p has used (purpose 20 + p, R428), applied to
`State.free`. Applied to a purpose number and to the data as a number. Free value, log entry 5. [DESIGN CHOICE, log entry 5] -/
opaque Config.freeDigest : Nat → Nat → Nat

/-- Whether a signature of a firmware image or the tag of a frame verifies (R422, R426): purpose and data.
Free value, log entry 5. [DESIGN CHOICE, log entry 5] -/
opaque Config.verifies : Nat → Nat → Bool

/-- The figures of R4 and R1 that every chapter uses. -/
def Config.cores : Nat := 512
def Config.contexts : Nat := 2048
def Config.dies : Nat := 4
def Config.spadBytes : Nat := 1048576
def Config.dictEntries : Nat := 8192
def Config.dictChunks : Nat := 128
def Config.frames : Nat := 8
def Config.frameWords : Nat := 16384
def Config.channels : Nat := 64
def Config.cardQueue : Nat := 2048
def Config.cardsPerBangle : Nat := 128
def Config.copyOps : Nat := 32
def Config.arrayOps : Nat := 8
def Config.asyncWrites : Nat := 16
def Config.withheldStores : Nat := 64
def Config.withheldCmds : Nat := 16
def Config.linkDepth : Nat := 32
def Config.loopDepth : Nat := 4
def Config.semEntries : Nat := 16384
def Config.specEntries : Nat := 4096
def Config.recvFlits : Nat := 64
def Config.queuesPerFunc : Nat := 16
def Config.holderLimit : Nat := 1024
def Config.rrotLimit : Nat := 1048576
def Config.packagePower : Nat := 4500

/-- The number of the hub's power region, which owns the energy allowances (R316, R428). [DESIGN CHOICE, log entry 44] -/
def Config.powerRegion : Nat := 0xFFFE

/-- The shed clock of R427, in kHz, and the nominal arithmetic clock of R4. -/
def Config.shedClock : Nat := 225000
def Config.nominalClock : Nat := 1800000

end Sys2Proof
end

