-- ==== Sys2Proof/Syntax.lean ====
section
/-! DEFINITION. The abstract syntax: one constructor for every row of spec/opcode_table.json: the rows with
a word first, in the table's order, then the events.
A row with an encoding carries the fields of its word: `Mv` holds BIND, GUARD and SRC of a move slot (R47), `Hd` holds
IDLE, SURR and BSUM of a header (R45); `u` is the number of the unit of a pair (al0/al1, ls0/ls1), `f` the ordering form of
a `sem` trigger (R56). A row without an encoding is an event (95). An event's constructor has no fields: the agent it happens to
is plain data beside it (`Event.args`, which `step` puts into `State.args` before it runs the event). -/

namespace Sys2Proof

/-- The fields of a move slot beside its destination socket (R47). -/
structure Mv where
  bind  : BitVec 2
  guard : BitVec 4
  src   : BitVec 14
deriving DecidableEq, Repr

/-- The fields of a header beside its span code and SEG mark (R45). -/
structure Hd where
  idle : BitVec 4
  surr : BitVec 11
  bsum : BitVec 2
deriving DecidableEq, Repr

/-- The function units of R54, in socket order. -/
inductive FU where
  | al0 | al1 | mul | agu | br | sys | ls0 | ls1 | vec | mat | cpy | sem | tsk | lnk
deriving DecidableEq, Repr

/-- Where an uncorrectable error is detected (R400), numbered 0 to 5. -/
inductive ErrorSite where
  | scratchpad | weightStore | memory | accumulator | array | semaphore
deriving DecidableEq, Repr

/-- What firmware retires when it fails in the field (R5), numbered 0 to 2. -/
inductive RetiredUnit where
  | bangle | hbmStack | torcPort
deriving DecidableEq, Repr

/-- The instructions and events of the part: the rows of spec/opcode_table.json. -/
inductive Instr where
  /-- A plain move carries a source value into a register or operand port, writing the hidden face or the latch. (R50) -/
  | move (m : Mv) (dst : BitVec 12)
  /-- Span action that waits for span-bound writers, checks conflict marks and exchanges the faces of every written register. (R83) -/
  | flip (h : Hd) (e : BitVec 1)
  /-- Flip that also waits for every free asynchronous writer still pending before exchanging faces. (R83) -/
  | flipW (h : Hd) (e : BitVec 1)
  /-- Flip followed by a checkpoint when checkpoint mode is on. (R83) -/
  | flipC (h : Hd) (e : BitVec 1)
  /-- Flip that waits for free writers and is then followed by a checkpoint when checkpoint mode is on. (R83) -/
  | flipCw (h : Hd) (e : BitVec 1)
  /-- Takes a checkpoint into the shadow set without ending the span, releasing withheld work. (R94) -/
  | ckpt (h : Hd) (e : BitVec 1)
  /-- Header mark that asks for a background load of the following overlay segment unless the request is dropped. (R70) -/
  | seg (h : Hd) (p : BitVec 4)
  /-- 64-bit add with carry and overflow status. (R165) -/
  | alAdd (m : Mv) (u : BitVec 1)
  /-- 64-bit subtract with borrow and overflow status. (R165) -/
  | alSub (m : Mv) (u : BitVec 1)
  /-- Signed saturating add that raises SAT when it clamps. (R165) -/
  | alAdds (m : Mv) (u : BitVec 1)
  /-- Signed saturating subtract that raises SAT when it clamps. (R165) -/
  | alSubs (m : Mv) (u : BitVec 1)
  /-- Bitwise AND. (R165) -/
  | alAnd (m : Mv) (u : BitVec 1)
  /-- Bitwise OR. (R165) -/
  | alOr (m : Mv) (u : BitVec 1)
  /-- Bitwise exclusive OR. (R165) -/
  | alXor (m : Mv) (u : BitVec 1)
  /-- a AND NOT b. (R165) -/
  | alAndn (m : Mv) (u : BitVec 1)
  /-- Shift left by b[5:0] with zero fill. (R165) -/
  | alShl (m : Mv) (u : BitVec 1)
  /-- Logical shift right by b[5:0]. (R165) -/
  | alShr (m : Mv) (u : BitVec 1)
  /-- Arithmetic shift right by b[5:0]. (R165) -/
  | alSar (m : Mv) (u : BitVec 1)
  /-- Rotate right by b[5:0]. (R165) -/
  | alRor (m : Mv) (u : BitVec 1)
  /-- Signed minimum. (R165) -/
  | alMin (m : Mv) (u : BitVec 1)
  /-- Signed maximum. (R165) -/
  | alMax (m : Mv) (u : BitVec 1)
  /-- Unsigned minimum. (R165) -/
  | alMinu (m : Mv) (u : BitVec 1)
  /-- Unsigned maximum. (R165) -/
  | alMaxu (m : Mv) (u : BitVec 1)
  /-- 1 if a equals b, else 0. (R165) -/
  | alCmpeq (m : Mv) (u : BitVec 1)
  /-- 1 if a is signed less than b. (R165) -/
  | alCmplt (m : Mv) (u : BitVec 1)
  /-- 1 if a is unsigned less than b. (R165) -/
  | alCmpltu (m : Mv) (u : BitVec 1)
  /-- Selects a when c[0] is 1, else b. (R165) -/
  | alSel (m : Mv) (u : BitVec 1)
  /-- Counts leading zero bits of a. (R165) -/
  | alClz (m : Mv) (u : BitVec 1)
  /-- Counts one bits of a. (R165) -/
  | alPopc (m : Mv) (u : BitVec 1)
  /-- Low 64 bits of a times b with carry and overflow status. (R169) -/
  | mulMul (m : Mv)
  /-- High 64 bits of the signed product. (R169) -/
  | mulMulhs (m : Mv)
  /-- High 64 bits of the unsigned product. (R169) -/
  | mulMulhu (m : Mv)
  /-- Signed division truncated toward zero; traps on a zero divisor. (R169) -/
  | mulDivs (m : Mv)
  /-- Unsigned division; traps on a zero divisor. (R169) -/
  | mulDivu (m : Mv)
  /-- Signed remainder with the dividend's sign; traps on a zero divisor. (R169) -/
  | mulRems (m : Mv)
  /-- Unsigned remainder; traps on a zero divisor. (R169) -/
  | mulRemu (m : Mv)
  /-- Address plus scaled signed step, flagging results outside the virtual range. (R171) -/
  | aguAinc (m : Mv)
  /-- Ring-buffer address step modulo a length; traps on zero length. (R171) -/
  | aguAmod (m : Mv)
  /-- Two-dimensional address from base, x and y with element and row steps. (R171) -/
  | aguAxy (m : Mv)
  /-- Passes an address through, trapping BOUNDS outside the given range. (R172) -/
  | aguAbnd (m : Mv)
  /-- Transfers control to a target position after the bundle. (R127) -/
  | brJmp (m : Mv)
  /-- Pushes the next position on the link stack and transfers control. (R127) -/
  | brCall (m : Mv)
  /-- Pops the link stack and returns there, discarding deeper loop entries. (R127) -/
  | brRet (m : Mv)
  /-- Opens a counted loop with a trip count and exit position. (R127) -/
  | brLoop (m : Mv)
  /-- Closes the innermost loop and goes to its exit. (R127) -/
  | brBreakl (m : Mv)
  /-- Waits for outstanding writes, records the exit value and ends the context or task. (R129) -/
  | brHalt (m : Mv)
  /-- Offers the issue slot to other ready contexts. (R130) -/
  | brYield (m : Mv)
  /-- Raises a SOFTWARE trap with a 16-bit argument after its bundle completes. (R132) -/
  | sysTrap (m : Mv)
  /-- Returns from a handler: flips, restores set-aside state and resumes at TRAPPC. (R396) -/
  | sysTret (m : Mv)
  /-- Reads a system register as at its issue tick. (R134) -/
  | sysRdsr (m : Mv)
  /-- Writes a system register that has no row of its own, effective from the next bundle. (R134) -/
  | sysWrsr (m : Mv)
  /-- Stalls the context until selected stores have performed or asynchronous writes have landed. (R135) -/
  | sysFence (m : Mv)
  /-- Loads one byte, zero-extended. (R202) -/
  | lsLd8 (m : Mv) (u : BitVec 1)
  /-- Loads one byte, sign-extended. (R202) -/
  | lsLd8Sx (m : Mv) (u : BitVec 1)
  /-- Loads two bytes, zero-extended. (R202) -/
  | lsLd16 (m : Mv) (u : BitVec 1)
  /-- Loads two bytes, sign-extended. (R202) -/
  | lsLd16Sx (m : Mv) (u : BitVec 1)
  /-- Loads four bytes, zero-extended. (R202) -/
  | lsLd32 (m : Mv) (u : BitVec 1)
  /-- Loads four bytes, sign-extended. (R202) -/
  | lsLd32Sx (m : Mv) (u : BitVec 1)
  /-- Loads eight bytes. (R202) -/
  | lsLd64 (m : Mv) (u : BitVec 1)
  /-- Stores one byte. (R202) -/
  | lsSt8 (m : Mv) (u : BitVec 1)
  /-- Stores two bytes. (R202) -/
  | lsSt16 (m : Mv) (u : BitVec 1)
  /-- Stores four bytes. (R202) -/
  | lsSt32 (m : Mv) (u : BitVec 1)
  /-- Stores eight bytes. (R202) -/
  | lsSt64 (m : Mv) (u : BitVec 1)
  /-- Loads 512 aligned bytes into the vector result port. (R202) -/
  | lsVld (m : Mv) (u : BitVec 1)
  /-- Stores 512 aligned bytes from the vector data port. (R202) -/
  | lsVst (m : Mv) (u : BitVec 1)
  /-- Waits for a full doubleword, reads it and sets its tags empty. (R203) -/
  | lsLdfw (m : Mv) (u : BitVec 1)
  /-- Waits for a full doubleword and reads it without changing tags. (R203) -/
  | lsLdfk (m : Mv) (u : BitVec 1)
  /-- Waits for an empty doubleword, writes it and sets its tags full. (R203) -/
  | lsStew (m : Mv) (u : BitVec 1)
  /-- Writes a doubleword and sets its tags full without waiting. (R203) -/
  | lsStff (m : Mv) (u : BitVec 1)
  /-- Sets empty the tags of a byte range. (R205) -/
  | lsFeclr (m : Mv) (u : BitVec 1)
  /-- Returns the full/empty tags of 64 words as a bit mask. (R206) -/
  | lsFeq (m : Mv) (u : BitVec 1)
  /-- Loads a pattern descriptor into a pattern slot. (R210) -/
  | lsPatset (m : Mv) (u : BitVec 1)
  /-- Unpacks packed bit fields into vector lanes using a pattern slot. (R211) -/
  | lsLdpat (m : Mv) (u : BitVec 1)
  /-- Arms the core for a rotation of scratchpad bytes around the bangle ring. (R212) -/
  | lsRrot (m : Mv) (u : BitVec 1)
  /-- Lane-wise FP32 add rounded once. (R178) -/
  | vecAddF32 (m : Mv)
  /-- Lane-wise FP16 add rounded once. (R178) -/
  | vecAddF16 (m : Mv)
  /-- Lane-wise BF16 add rounded once. (R178) -/
  | vecAddBf16 (m : Mv)
  /-- Lane-wise 32-bit wrapping add. (R178) -/
  | vecAddI32 (m : Mv)
  /-- Lane-wise 16-bit wrapping add. (R178) -/
  | vecAddI16 (m : Mv)
  /-- Lane-wise 8-bit wrapping add. (R178) -/
  | vecAddI8 (m : Mv)
  /-- Lane-wise FP32 subtract rounded once. (R178) -/
  | vecSubF32 (m : Mv)
  /-- Lane-wise FP16 subtract rounded once. (R178) -/
  | vecSubF16 (m : Mv)
  /-- Lane-wise BF16 subtract rounded once. (R178) -/
  | vecSubBf16 (m : Mv)
  /-- Lane-wise 32-bit wrapping subtract. (R178) -/
  | vecSubI32 (m : Mv)
  /-- Lane-wise 16-bit wrapping subtract. (R178) -/
  | vecSubI16 (m : Mv)
  /-- Lane-wise 8-bit wrapping subtract. (R178) -/
  | vecSubI8 (m : Mv)
  /-- Lane-wise FP32 multiply rounded once. (R178) -/
  | vecMulF32 (m : Mv)
  /-- Lane-wise FP16 multiply rounded once. (R178) -/
  | vecMulF16 (m : Mv)
  /-- Lane-wise BF16 multiply rounded once. (R178) -/
  | vecMulBf16 (m : Mv)
  /-- Low 32 bits of lane-wise products. (R178) -/
  | vecMulI32 (m : Mv)
  /-- Low 16 bits of lane-wise products. (R178) -/
  | vecMulI16 (m : Mv)
  /-- Low 8 bits of lane-wise products. (R178) -/
  | vecMulI8 (m : Mv)
  /-- Lane-wise FP32 fused multiply-add. (R178) -/
  | vecFmaF32 (m : Mv)
  /-- Lane-wise FP16 fused multiply-add. (R178) -/
  | vecFmaF16 (m : Mv)
  /-- Lane-wise BF16 fused multiply-add. (R178) -/
  | vecFmaBf16 (m : Mv)
  /-- Lane-wise FP32 minimum. (R178) -/
  | vecMinF32 (m : Mv)
  /-- Lane-wise FP16 minimum. (R178) -/
  | vecMinF16 (m : Mv)
  /-- Lane-wise BF16 minimum. (R178) -/
  | vecMinBf16 (m : Mv)
  /-- Lane-wise signed 32-bit minimum. (R178) -/
  | vecMinI32 (m : Mv)
  /-- Lane-wise signed 16-bit minimum. (R178) -/
  | vecMinI16 (m : Mv)
  /-- Lane-wise signed 8-bit minimum. (R178) -/
  | vecMinI8 (m : Mv)
  /-- Lane-wise unsigned 32-bit minimum. (R178) -/
  | vecMinN32 (m : Mv)
  /-- Lane-wise unsigned 16-bit minimum. (R178) -/
  | vecMinN16 (m : Mv)
  /-- Lane-wise unsigned 8-bit minimum. (R178) -/
  | vecMinN8 (m : Mv)
  /-- Lane-wise FP32 maximum. (R178) -/
  | vecMaxF32 (m : Mv)
  /-- Lane-wise FP16 maximum. (R178) -/
  | vecMaxF16 (m : Mv)
  /-- Lane-wise BF16 maximum. (R178) -/
  | vecMaxBf16 (m : Mv)
  /-- Lane-wise signed 32-bit maximum. (R178) -/
  | vecMaxI32 (m : Mv)
  /-- Lane-wise signed 16-bit maximum. (R178) -/
  | vecMaxI16 (m : Mv)
  /-- Lane-wise signed 8-bit maximum. (R178) -/
  | vecMaxI8 (m : Mv)
  /-- Lane-wise unsigned 32-bit maximum. (R178) -/
  | vecMaxN32 (m : Mv)
  /-- Lane-wise unsigned 16-bit maximum. (R178) -/
  | vecMaxN16 (m : Mv)
  /-- Lane-wise unsigned 8-bit maximum. (R178) -/
  | vecMaxN8 (m : Mv)
  /-- Lane-wise signed 32-bit saturating add. (R179) -/
  | vecAddsI32 (m : Mv)
  /-- Lane-wise signed 16-bit saturating add. (R179) -/
  | vecAddsI16 (m : Mv)
  /-- Lane-wise signed 8-bit saturating add. (R179) -/
  | vecAddsI8 (m : Mv)
  /-- Lane-wise unsigned 32-bit saturating add. (R179) -/
  | vecAddsN32 (m : Mv)
  /-- Lane-wise unsigned 16-bit saturating add. (R179) -/
  | vecAddsN16 (m : Mv)
  /-- Lane-wise unsigned 8-bit saturating add. (R179) -/
  | vecAddsN8 (m : Mv)
  /-- FP32 lane equality into a bit mask. (R180) -/
  | vecCmpeqF32 (m : Mv)
  /-- FP16 lane equality into a bit mask. (R180) -/
  | vecCmpeqF16 (m : Mv)
  /-- BF16 lane equality into a bit mask. (R180) -/
  | vecCmpeqBf16 (m : Mv)
  /-- 32-bit lane equality into a bit mask. (R180) -/
  | vecCmpeqI32 (m : Mv)
  /-- 16-bit lane equality into a bit mask. (R180) -/
  | vecCmpeqI16 (m : Mv)
  /-- 8-bit lane equality into a bit mask. (R180) -/
  | vecCmpeqI8 (m : Mv)
  /-- FP32 lane less-than into a bit mask. (R180) -/
  | vecCmpltF32 (m : Mv)
  /-- FP16 lane less-than into a bit mask. (R180) -/
  | vecCmpltF16 (m : Mv)
  /-- BF16 lane less-than into a bit mask. (R180) -/
  | vecCmpltBf16 (m : Mv)
  /-- Signed 32-bit lane less-than into a bit mask. (R180) -/
  | vecCmpltI32 (m : Mv)
  /-- Signed 16-bit lane less-than into a bit mask. (R180) -/
  | vecCmpltI16 (m : Mv)
  /-- Signed 8-bit lane less-than into a bit mask. (R180) -/
  | vecCmpltI8 (m : Mv)
  /-- Unsigned 32-bit lane less-than into a bit mask. (R180) -/
  | vecCmpltN32 (m : Mv)
  /-- Unsigned 16-bit lane less-than into a bit mask. (R180) -/
  | vecCmpltN16 (m : Mv)
  /-- Unsigned 8-bit lane less-than into a bit mask. (R180) -/
  | vecCmpltN8 (m : Mv)
  /-- Selects 32-bit lanes of a or b by mask c. (R181) -/
  | vecSelI32 (m : Mv)
  /-- Selects 16-bit lanes of a or b by mask c. (R181) -/
  | vecSelI16 (m : Mv)
  /-- Selects 8-bit lanes of a or b by mask c. (R181) -/
  | vecSelI8 (m : Mv)
  /-- Bitwise AND of 4,096 bits. (R182) -/
  | vecAnd (m : Mv)
  /-- Bitwise OR of 4,096 bits. (R182) -/
  | vecOr (m : Mv)
  /-- Bitwise exclusive OR of 4,096 bits. (R182) -/
  | vecXor (m : Mv)
  /-- Per-lane 32-bit left shift. (R182) -/
  | vecShlI32 (m : Mv)
  /-- Per-lane 16-bit left shift. (R182) -/
  | vecShlI16 (m : Mv)
  /-- Per-lane 8-bit left shift. (R182) -/
  | vecShlI8 (m : Mv)
  /-- Per-lane 32-bit logical right shift. (R182) -/
  | vecShrI32 (m : Mv)
  /-- Per-lane 16-bit logical right shift. (R182) -/
  | vecShrI16 (m : Mv)
  /-- Per-lane 8-bit logical right shift. (R182) -/
  | vecShrI8 (m : Mv)
  /-- Per-lane 32-bit arithmetic right shift. (R182) -/
  | vecSarI32 (m : Mv)
  /-- Per-lane 16-bit arithmetic right shift. (R182) -/
  | vecSarI16 (m : Mv)
  /-- Per-lane 8-bit arithmetic right shift. (R182) -/
  | vecSarI8 (m : Mv)
  /-- Converts lanes of the source format to FP32. (R183) -/
  | vecCvtF32 (m : Mv)
  /-- Converts lanes of the source format to FP16. (R183) -/
  | vecCvtF16 (m : Mv)
  /-- Converts lanes of the source format to BF16. (R183) -/
  | vecCvtBf16 (m : Mv)
  /-- Converts lanes of the source format to 32-bit integers. (R183) -/
  | vecCvtI32 (m : Mv)
  /-- Converts lanes of the source format to 16-bit integers. (R183) -/
  | vecCvtI16 (m : Mv)
  /-- Converts lanes of the source format to 8-bit integers. (R183) -/
  | vecCvtI8 (m : Mv)
  /-- Converts lanes to E4M3, saturating on overflow. (R183) -/
  | vecCvtE4m3Sat (m : Mv)
  /-- Converts lanes to E4M3 without saturation. (R183) -/
  | vecCvtE4m3Nsat (m : Mv)
  /-- Converts lanes to E5M2, saturating on overflow. (R183) -/
  | vecCvtE5m2Sat (m : Mv)
  /-- Converts lanes to E5M2 without saturation. (R183) -/
  | vecCvtE5m2Nsat (m : Mv)
  /-- Adds 16-pair E4M3 dot groups into 32 FP32 accumulator lanes. (R184) -/
  | vecVdot16E4m3 (m : Mv)
  /-- Adds 16-pair E5M2 dot groups into 32 FP32 accumulator lanes. (R184) -/
  | vecVdot16E5m2 (m : Mv)
  /-- Adds 8-pair BF16 dot groups into 32 FP32 accumulator lanes. (R184) -/
  | vecVdot8Bf16 (m : Mv)
  /-- Reduces 128 FP32 lanes by a fixed addition tree into lane 0. (R185) -/
  | vecRsumF32 (m : Mv)
  /-- Reduces 128 integer lanes by wrapping sum into lane 0. (R185) -/
  | vecRsumI32 (m : Mv)
  /-- Reduces 128 FP32 lanes to their maximum in lane 0. (R185) -/
  | vecRmaxF32 (m : Mv)
  /-- Reduces 128 signed lanes to their maximum in lane 0. (R185) -/
  | vecRmaxI32 (m : Mv)
  /-- Lane-wise 2^x rounded once; gated by FEAT bit 1. (R186) -/
  | vecExp2F32 (m : Mv)
  /-- Lane-wise reciprocal rounded once; gated by FEAT bit 1. (R186) -/
  | vecRcpF32 (m : Mv)
  /-- Lane-wise reciprocal square root rounded once; gated by FEAT bit 1. (R186) -/
  | vecRsqF32 (m : Mv)
  /-- Permutes 32-bit lanes by indices in b. (R187) -/
  | vecShufI32 (m : Mv)
  /-- Permutes 16-bit lanes by indices in b. (R187) -/
  | vecShufI16 (m : Mv)
  /-- Permutes 8-bit lanes within each half by indices in b. (R187) -/
  | vecShufI8 (m : Mv)
  /-- Broadcasts one 32-bit lane of a to every lane. (R187) -/
  | vecBcastI32 (m : Mv)
  /-- Broadcasts one 16-bit lane of a to every lane. (R187) -/
  | vecBcastI16 (m : Mv)
  /-- Broadcasts one 8-bit lane of a to every lane. (R187) -/
  | vecBcastI8 (m : Mv)
  /-- Quantises 128 FP32 lanes to D8 bytes with four block scales; gated by FEAT bit 0. (R188) -/
  | vecVqntD8 (m : Mv)
  /-- Clears the sign of FP32 lanes. (R178) -/
  | vecAbsF32 (m : Mv)
  /-- Clears the sign of FP16 lanes. (R178) -/
  | vecAbsF16 (m : Mv)
  /-- Clears the sign of BF16 lanes. (R178) -/
  | vecAbsBf16 (m : Mv)
  /-- Absolute value of 32-bit lanes. (R178) -/
  | vecAbsI32 (m : Mv)
  /-- Absolute value of 16-bit lanes. (R178) -/
  | vecAbsI16 (m : Mv)
  /-- Absolute value of 8-bit lanes. (R178) -/
  | vecAbsI8 (m : Mv)
  /-- Queues a tile product that overwrites the working bank of an accumulator. (R232) -/
  | matMmaOv (m : Mv)
  /-- Queues a tile product accumulated into the working bank. (R232) -/
  | matMmaAc (m : Mv)
  /-- Queues a long-K product in K-steps that overwrites the working bank. (R232) -/
  | matMgemmOv (m : Mv)
  /-- Queues a long-K product in K-steps accumulated into the working bank. (R232) -/
  | matMgemmAc (m : Mv)
  /-- Queues a clear of an accumulator's working bank. (R234) -/
  | matMzero (m : Mv)
  /-- Queues an exchange of an accumulator's working and visible banks. (R234) -/
  | matAswap (m : Mv)
  /-- Reads one row of an accumulator's visible bank. (R234) -/
  | matApop (m : Mv)
  /-- Queues a write of one row into an accumulator's working bank. (R234) -/
  | matApush (m : Mv)
  /-- Fills a descriptor slot with kind, format, stride and base. (R229) -/
  | matMdesc (m : Mv)
  /-- Sets the down-converter format, saturation and scale. (R230) -/
  | matMdcv (m : Mv)
  /-- Reports the context's engine state as of its issue tick. (R235) -/
  | matMstat (m : Mv)
  /-- Stops the context until all its array operations have completed. (R234) -/
  | matMfence (m : Mv)
  /-- Captures and checks a 64-byte job card and issues it to the die's card queue. (R251) -/
  | cpyCpy (m : Mv)
  /-- Reads up to 64 bytes of memory into a register as a free asynchronous write. (R268) -/
  | cpyCpld (m : Mv)
  /-- Span-bound form of CPLD. (R268) -/
  | cpyCpldSb (m : Mv)
  /-- Writes up to 64 bytes of the data port to memory, single-copy atomic. (R269) -/
  | cpyCpst (m : Mv)
  /-- Waits until the context's released copy work has performed at a scope. (R270) -/
  | cpyDrain (m : Mv)
  /-- Asks the region's pager to make a page resident. (R271) -/
  | cpyPagereq (m : Mv)
  /-- Reports outstanding operations, SPECDROP or the remaining copy budget. (R273) -/
  | cpyJobq (m : Mv)
  /-- Polls whether a token register's write has landed. (R273) -/
  | cpyCpqry (m : Mv)
  /-- Reads cells of the slot table or the slot in force. (R261) -/
  | cpySlotq (m : Mv)
  /-- Reads a counter's VALUE; the acquire form orders later work after it. (R297) -/
  | semSld (m : Mv) (f : BitVec 1)
  /-- Withheld store of a counter value; the release form waits for earlier work. (R297) -/
  | semSst (m : Mv) (f : BitVec 1)
  /-- Adds to a counter and returns the old VALUE, with ordering forms. (R297) -/
  | semSadd (m : Mv) (f : BitVec 2)
  /-- Signed minimum into a counter, returning the old VALUE. (R297) -/
  | semSmin (m : Mv) (f : BitVec 2)
  /-- Signed maximum into a counter, returning the old VALUE. (R297) -/
  | semSmax (m : Mv) (f : BitVec 2)
  /-- Compare-and-swap on a counter, returning the old VALUE. (R297) -/
  | semScas (m : Mv) (f : BitVec 2)
  /-- Applies up to four counter operations on one die as a single step. (R299) -/
  | semStx (m : Mv) (f : BitVec 2)
  /-- Arms a serial-number watch on a counter and acquires when it is satisfied. (R300) -/
  | semSwaitge (m : Mv)
  /-- Withheld arrival at a barrier. (R302) -/
  | semBarr (m : Mv)
  /-- Withheld addition of expected bytes to a barrier's pending count. (R302) -/
  | semBexp (m : Mv)
  /-- Arms a watch for a barrier phase change and acquires when satisfied. (R303) -/
  | semBwait (m : Mv)
  /-- Returns a barrier word at once. (R303) -/
  | semBtest (m : Mv)
  /-- Transfers a whole number of quanta between accounts under a floor mode. (R306) -/
  | semCxferQ (m : Mv)
  /-- Transfers an FP32 amount rounded to nearest quanta, returning the remainder. (R306) -/
  | semCxferFRn (m : Mv)
  /-- Transfers an FP32 amount rounded toward zero, returning the remainder. (R306) -/
  | semCxferFRz (m : Mv)
  /-- Transfers an FP32 amount rounded down, returning the remainder. (R306) -/
  | semCxferFRd (m : Mv)
  /-- Reads an account's balance and flags. (R312) -/
  | semCbal (m : Mv)
  /-- Reads a class's conserved total at die, module or domain scope. (R311) -/
  | semCtotal (m : Mv)
  /-- Withheld setting of an account's floor and freeze state. (R312) -/
  | semCfloor (m : Mv)
  /-- Withheld creation of quanta in an account, for mint-policy regions. (R312) -/
  | semCmint (m : Mv)
  /-- Withheld destruction of quanta in an account, for mint-policy regions. (R312) -/
  | semCburn (m : Mv)
  /-- Sets an entry's type and initial layout. (R315) -/
  | semSinit (m : Mv)
  /-- Reports class, entry, drop-count or in-transit information by selector. (R316) -/
  | semCinfo (m : Mv)
  /-- Posts a seed record into its shard. (R352) -/
  | tskPost (m : Mv)
  /-- Ends the task and registers a continuation awaiting a condition. (R354) -/
  | tskWaitc (m : Mv)
  /-- Ends the task, frees its seed unit and takes the next seed. (R353) -/
  | tskTdone (m : Mv)
  /-- Returns the task identifier and round. (R355) -/
  | tskTid (m : Mv)
  /-- Submits the task's round writes and waits for the next round. (R356) -/
  | tskRndcmt (m : Mv)
  /-- Sends a message of up to 512 bytes down a pipe. (R365) -/
  | lnkSend (m : Mv)
  /-- Takes the oldest message of a pipe's receive queue. (R366) -/
  | lnkRecv (m : Mv)
  /-- Reports the state of a pipe end. (R367) -/
  | lnkLstat (m : Mv)
  /-- A context issues the bundle at its program position: guards and sources are read, writes go to hidden faces or latches, and triggers start their operations. (R50) Arguments: a core. -/
  | bundleIssue
  /-- One idle tick of the last bundle elapses and the context's LSC advances by one. (R116) Arguments: a ctx. -/
  | idleTick
  /-- An operation's due tick comes: its value appears at its port and its flags enter FLG, or the context stops until it arrives. (R118) Arguments: a ctx. -/
  | resultDue
  /-- A late result physically arrives and releases a context stopped at its due tick. (R119) Arguments: a ctx, b seq. -/
  | resultArrival
  /-- The holder has issued 1,024 consecutive cycles while another context was ready, so the selector treats it as not ready. (R115) Arguments: a core. -/
  | holderLimit
  /-- An asynchronous write lands in the hidden face of the current span, setting LANDED and possibly a conflict mark. (R84) Arguments: a ctx, b id. -/
  | asyncLanding
  /-- The two-cycle fetch of a literal bundle's body words ends and the bundle may issue. (R65) Arguments: a ctx. -/
  | literalBundleFetch
  /-- A frame load finishes, the frame holds its segment, and waiting contexts resume or the next load starts. (R69) Arguments: a core, b kern. -/
  | frameLoadComplete
  /-- WRSR setting CKMODE.EN turns checkpoint mode on and takes a checkpoint at the bundle's end. (R93) Arguments: a ctx. -/
  | ckmodeEnable
  /-- WRSR clearing CKMODE.EN releases withheld work and discards the shadow set. (R93) Arguments: a ctx. -/
  | ckmodeDisable
  /-- WRSR to CAPCAUSE clears the written sticky bits for the whole partition. (R429) Arguments: a part, b CAPCAUSE bits. -/
  | capcauseW1c
  /-- A store's bytes are written into the banks and become visible to other agents. (R199) Arguments: a ctx. -/
  | storePerform
  /-- A scratchpad bank enters its four-cycle refresh window. (R191) Arguments: a core. -/
  | bankRefresh
  /-- Once every core of the ring has armed, the rotation moves the bytes and delivers the status. (R213) Arguments: a bangle. -/
  | rrotRotation
  /-- An armed core waits 1,048,576 cycles and every armed RROT completes with RROT_TIMEOUT. (R213) Arguments: a bangle. -/
  | rrotTimeout
  /-- A queued array operation begins streaming once the array is free. (R226) Arguments: a core. -/
  | arrayOpStart
  /-- One K-step of an MGEMM completes, forming an interruption point. (R235) Arguments: a core. -/
  | mgemmKStep
  /-- An array operation completes and its flags enter FLG. (R227) Arguments: a core. -/
  | arrayOpComplete
  /-- An ASWAP performs after earlier operations on its accumulator complete. (R234) Arguments: a core. -/
  | aswapPerform
  /-- The weight-store calendar moves to the next refresh slot and bank. (R244) Arguments: a die. -/
  | wsRefresh
  /-- A LINEAR card is dispatched to a channel, checked, and moves its stream. (R262) Arguments: a die, b job. -/
  | cardLinear
  /-- A STRIDED card is dispatched, checked and moves its planes and rows. (R262) Arguments: a die, b job. -/
  | cardStrided
  /-- A GATHER card is dispatched and reads rows at indexed offsets into scratchpad. (R262) Arguments: a die, b job. -/
  | cardGather
  /-- A SCATTER card is dispatched and writes scratchpad rows to indexed memory offsets. (R262) Arguments: a die, b job. -/
  | cardScatter
  /-- A TILE card is dispatched and moves 64-byte aligned tiles between scratchpads. (R262) Arguments: a die, b job. -/
  | cardTile
  /-- A WSWRITE card is dispatched and writes a weight-store bank when no launch of its owner runs. (R242) Arguments: a die, b job. -/
  | cardWswrite
  /-- A MIGRATE card installs an absent-line record at the new frame. (R272) Arguments: a die, b job. -/
  | migrateArm
  /-- A MIGRATE card waits until every line of the record is valid. (R272) Arguments: a die, b job. -/
  | migrateWait
  /-- A migration line is pulled from the old frame on access or in the background. (R272) Arguments: a frame, b line. -/
  | migrateLinePull
  /-- Bytes of a card are written at the destination, setting tags with TAGF. (R207) Arguments: a die, b job. -/
  | cardBytesArrive
  /-- A piece of a card's bytes has performed and its barrier's pending count is decremented. (R265) Arguments: a die, b job. -/
  | barDecrement
  /-- A card completes, writes its bitmap, lands its token and frees its channel. (R263) Arguments: a die, b job. -/
  | cardComplete
  /-- A CPST completes at its home and its status lands in its token. (R269) Arguments: a die, b job. -/
  | cpstComplete
  /-- A 64-die-cycle boundary moves the slot table to the next slot. (R259) Arguments: a die. -/
  | slotAdvance
  /-- After old-generation cards complete, the new generation becomes current and dispatch resumes. (R276) Arguments: a asid. -/
  | generationCurrent
  /-- The pager makes a page resident or refuses it and the PAGEREQ token lands. (R271) Arguments: a die, b job, c reason, d frame. -/
  | pagerDecision
  /-- A semaphore operation reaches its entry and performs there in arrival order. (R292) Arguments: a op. -/
  | semArrive
  /-- A transfer's credit reaches the destination die and is applied or refused. (R308) Arguments: a xfer. -/
  | creditArrive
  /-- A refused credit's refund reaches the source die and restores the balance. (R309) Arguments: a xfer. -/
  | refundArrive
  /-- A credit's acknowledgement returns to the source die and the result is delivered. (R308) Arguments: a xfer. -/
  | ackArrive
  /-- The torc fabric reports a node unreachable. (R313) Arguments: a node. -/
  | nodeUnreachable
  /-- A node becomes reachable again and held credits or refunds complete. (R313) Arguments: a node. -/
  | nodeReachable
  /-- An uncorrectable error is detected in a protected store and poisons the unit. (R400) Arguments: a site, b place, c unit. -/
  | uncorrectableError
  /-- A pipe message arrives in the peer's receive queue. (R365) Arguments: a msg. -/
  | messageArrive
  /-- A context without work takes the oldest eligible seed from its own or another shard and starts it. (R349) Arguments: a ctx. -/
  | seedPickup
  /-- The tile walker creates the next step's seed when a seed unit is free. (R358) Arguments: a launch. -/
  | walkerStep
  /-- A WAITC condition holds and its continuation enters a shard as a seed. (R354) Arguments: a cont. -/
  | continuationEnter
  /-- A MOVE seed's tiles have performed and the seed enters the remote node's shard. (R369) Arguments: a seed. -/
  | moveSeedArrive
  /-- A deterministic round's writes are checked and merged in task order and the next round begins. (R361) Arguments: a launch. -/
  | roundMerge
  /-- A waiting launch is placed on bangles, installing kernels and allotting areas and contexts. (R341) Arguments: a launch. -/
  | launchPlace
  /-- A launch retires, frees its code space and area, and writes its final status. (R342) Arguments: a launch. -/
  | launchRetire
  /-- A region's core-cycle budget is spent and its contexts are pre-empted and held. (R337) Arguments: a region. -/
  | cycbExhausted
  /-- A core's contexts and matrix engine stop together and a core image is written. (R402) Arguments: a core. -/
  | coreSave
  /-- One context is saved alone after its array operations complete. (R405) Arguments: a ctx. -/
  | contextSave
  /-- A saved image is written back and its contexts and engine resume at the same ticks. (R404) Arguments: a image, b target. -/
  | restore
  /-- The host writes a queue's tail index and look-ahead begins reading packets. (R413) Arguments: a queue, b tail. -/
  | doorbellWrite
  /-- The host resets a command queue stopped by BAD_PACKET. (R414) Arguments: a queue. -/
  | queueReset
  /-- Packet that does nothing and completes at issue. (R414) Arguments: a queue. -/
  | nop
  /-- Packet that submits a launch of an image into a region. (R416) Arguments: a queue. -/
  | launch
  /-- Packet that creates a region from its control block. (R333) Arguments: a queue. -/
  | regionCreate
  /-- Packet that rereads a region control block and applies its changes. (R335) Arguments: a queue. -/
  | regionUpdate
  /-- Packet that destroys a region and returns its entries as UNSET. (R285) Arguments: a queue. -/
  | regionDestroy
  /-- Packet that grants semaphore entries to a region. (R284) Arguments: a queue. -/
  | grant
  /-- Packet that writes a die's slot table, in force at the next slot 0. (R259) Arguments: a queue. -/
  | slottab
  /-- Packet that advances an address space's generation. (R276) Arguments: a queue. -/
  | genadv
  /-- Packet that defines a scale class's quantum exponent. (R287) Arguments: a queue. -/
  | classdef
  /-- Packet that enters a called buffer of packets, nesting to depth 4. (R417) Arguments: a queue. -/
  | call
  /-- Packet that holds look-ahead until every earlier packet has completed. (R418) Arguments: a queue. -/
  | join
  /-- Packet that completes once every earlier packet of the queue has completed. (R414) Arguments: a queue. -/
  | signal
  /-- Packet that sets a partition's power cap in watts. (R427) Arguments: a queue. -/
  | capset
  /-- Packet that refunds transfers in transit toward a retired node. (R428) Arguments: a queue. -/
  | reconcile
  /-- A queue's interrupt is sent when its count, timeout or lone-completion delay is reached. (R419) Arguments: a queue. -/
  | msiXInterrupt
  /-- Each firmware core writes its heartbeat once per 16 µs frame. (R421) Arguments: a core. -/
  | heartbeat
  /-- Four missed heartbeats reset the firmware from its current image slot. (R421) -/
  | firmwareReset
  /-- A new verified firmware image takes over through a handover structure. (R424) Arguments: a image. -/
  | liveUpdate
  /-- A new image misses its first heartbeat and the old slot is restarted. (R425) -/
  | liveUpdateRollback
  /-- SPDM request for supported versions. (R423) -/
  | getVersion
  /-- SPDM request for responder capabilities. (R423) -/
  | getCapabilities
  /-- SPDM request that negotiates algorithms. (R423) Arguments: a algs. -/
  | negotiateAlgorithms
  /-- SPDM request for certificate chain digests. (R423) -/
  | getDigests
  /-- SPDM request for a certificate chain. (R423) Arguments: a slot, b offset, c length. -/
  | getCertificate
  /-- SPDM challenge-response authentication of the hub. (R423) Arguments: a slot, b nonce. -/
  | challenge
  /-- SPDM request for the firmware digest, security version and signature blocks. (R423) Arguments: a block, b nonce. -/
  | getMeasurements
  /-- A hall cap frame is received, authenticated and its shed level put in force. (R426) Arguments: a level, b sequence, c tag. -/
  | hallCapFrame
  /-- Each millisecond the hub burns each partition's used energy from its allowance account. (R428) Arguments: a part, b quanta. -/
  | energyBurn
  /-- A sensed supply sag stretches the whole die's clock. (R427) Arguments: a die, b clock. -/
  | supplySag
  /-- A hot die lowers its clock. (R427) Arguments: a die, b clock. -/
  | thermalLimit
  /-- Die reset sets every semaphore entry UNSET and every slot-table cell FREE. (R282) Arguments: a die. -/
  | dieReset
  /-- Firmware retires a failed bangle, HBM stack or torc port. (R5) Arguments: a kind, b number. -/
  | bangleRetire
  /-- The sensed supply sag ends, SAG stops stretching the die clock and its current CAPCAUSE bit clears while the sticky bit stays. (R429) Arguments: a die. -/
  | supplySagEnds
  /-- A hot die cools, THERMAL stops lowering its clock and the current THERMAL bit of CAPCAUSE clears. (R427) Arguments: a die. -/
  | thermalLimitEnds
deriving DecidableEq, Repr

/-- The agent and the numbers an event happens to; each event's docstring says which it uses. -/
structure Args where
  a : Nat := 0
  b : Nat := 0
  c : Nat := 0
  d : Nat := 0
deriving DecidableEq, Repr

/-- An event with what it happens to. -/
structure Event where
  what : Instr
  args : Args := {}
deriving DecidableEq, Repr

end Sys2Proof
end

