-- ==== Sys2Proof/WellFormed.lean ====
section
/-! DEFINITION. Which instructions have an encoding, and with which operands (R47, R48, R53, R54). An event has no
encoding and is always well-formed. -/

namespace Sys2Proof

/-- The unit blocks of R54: base socket and length. -/
def unitBlocks : List (FU × Nat × Nat) :=
  [ (.al0, 0x100, 64), (.al1, 0x140, 64), (.mul, 0x180, 64), (.agu, 0x1C0, 64), (.br, 0x200, 64), (.sys, 0x240, 64),
    (.ls0, 0x280, 64), (.ls1, 0x2C0, 64), (.vec, 0x300, 128), (.mat, 0x380, 64), (.cpy, 0x3C0, 64), (.sem, 0x400, 64),
    (.tsk, 0x440, 64), (.lnk, 0x480, 64) ]

/-- The unit whose block holds socket `d`, and the offset in the block (R54). -/
def unitOf (d : BitVec 12) : Option (FU × Nat) :=
  (unitBlocks.find? fun b => b.2.1 ≤ d.toNat && d.toNat < b.2.1 + b.2.2).map fun b => (b.1, d.toNat - b.2.1)

/-- A register socket (R53): `g`, `k`, `p1` to `p7`, `v` or `m`. -/
def isRegSocket (d : BitVec 12) : Bool :=
  let n := d.toNat
  n < 0x60 || (0x61 ≤ n && n ≤ 0x67) || (0x80 ≤ n && n ≤ 0x9F) || (0xA0 ≤ n && n ≤ 0xA7)

/-- A socket that a move may read: a register, or `.r` or `.st` of a unit (R53, R54). -/
def isSourceSocket (d : BitVec 12) : Bool :=
  isRegSocket d || (match unitOf d with | some (_, o) => o == 3 || o == 4 | none => false)

/-- A socket that a plain move may write: a register, or `.a`, `.b` or `.c` of a unit (R53, R54). -/
def isMoveSocket (d : BitVec 12) : Bool :=
  isRegSocket d || (match unitOf d with | some (_, o) => o < 3 | none => false)

/-- R48 and the third row of R58: the source field has a form that is not reserved, and a long form has bits 11:2 zero. -/
def srcFormOk (src : BitVec 14) : Bool :=
  let form := src.extractLsb' 12 2
  form != 3 && (form != 2 || src.extractLsb' 2 10 == 0)

/-- The source of a slot is legal: its form, and for a socket source the socket (R48, R53, R54). -/
def srcOk (src : BitVec 14) : Bool :=
  srcFormOk src && (src.extractLsb' 12 2 != 0 || isSourceSocket (src.extractLsb' 0 12))

/-- The fields common to every move slot are well-formed: GUARD is not the empty-slot code (R47), SRC is legal. -/
def Mv.wf (m : Mv) : Bool := m.guard != 8 && srcOk m.src

/-- The slot fields of a trigger, with none for an event, a header row or a plain move. -/
def Instr.mv? : Instr → Option Mv
  | .move _ _ => none
  | .flip _ _ => none
  | .flipW _ _ => none
  | .flipC _ _ => none
  | .flipCw _ _ => none
  | .ckpt _ _ => none
  | .seg _ _ => none
  | .alAdd m _ => some m
  | .alSub m _ => some m
  | .alAdds m _ => some m
  | .alSubs m _ => some m
  | .alAnd m _ => some m
  | .alOr m _ => some m
  | .alXor m _ => some m
  | .alAndn m _ => some m
  | .alShl m _ => some m
  | .alShr m _ => some m
  | .alSar m _ => some m
  | .alRor m _ => some m
  | .alMin m _ => some m
  | .alMax m _ => some m
  | .alMinu m _ => some m
  | .alMaxu m _ => some m
  | .alCmpeq m _ => some m
  | .alCmplt m _ => some m
  | .alCmpltu m _ => some m
  | .alSel m _ => some m
  | .alClz m _ => some m
  | .alPopc m _ => some m
  | .mulMul m => some m
  | .mulMulhs m => some m
  | .mulMulhu m => some m
  | .mulDivs m => some m
  | .mulDivu m => some m
  | .mulRems m => some m
  | .mulRemu m => some m
  | .aguAinc m => some m
  | .aguAmod m => some m
  | .aguAxy m => some m
  | .aguAbnd m => some m
  | .brJmp m => some m
  | .brCall m => some m
  | .brRet m => some m
  | .brLoop m => some m
  | .brBreakl m => some m
  | .brHalt m => some m
  | .brYield m => some m
  | .sysTrap m => some m
  | .sysTret m => some m
  | .sysRdsr m => some m
  | .sysWrsr m => some m
  | .sysFence m => some m
  | .lsLd8 m _ => some m
  | .lsLd8Sx m _ => some m
  | .lsLd16 m _ => some m
  | .lsLd16Sx m _ => some m
  | .lsLd32 m _ => some m
  | .lsLd32Sx m _ => some m
  | .lsLd64 m _ => some m
  | .lsSt8 m _ => some m
  | .lsSt16 m _ => some m
  | .lsSt32 m _ => some m
  | .lsSt64 m _ => some m
  | .lsVld m _ => some m
  | .lsVst m _ => some m
  | .lsLdfw m _ => some m
  | .lsLdfk m _ => some m
  | .lsStew m _ => some m
  | .lsStff m _ => some m
  | .lsFeclr m _ => some m
  | .lsFeq m _ => some m
  | .lsPatset m _ => some m
  | .lsLdpat m _ => some m
  | .lsRrot m _ => some m
  | .vecAddF32 m => some m
  | .vecAddF16 m => some m
  | .vecAddBf16 m => some m
  | .vecAddI32 m => some m
  | .vecAddI16 m => some m
  | .vecAddI8 m => some m
  | .vecSubF32 m => some m
  | .vecSubF16 m => some m
  | .vecSubBf16 m => some m
  | .vecSubI32 m => some m
  | .vecSubI16 m => some m
  | .vecSubI8 m => some m
  | .vecMulF32 m => some m
  | .vecMulF16 m => some m
  | .vecMulBf16 m => some m
  | .vecMulI32 m => some m
  | .vecMulI16 m => some m
  | .vecMulI8 m => some m
  | .vecFmaF32 m => some m
  | .vecFmaF16 m => some m
  | .vecFmaBf16 m => some m
  | .vecMinF32 m => some m
  | .vecMinF16 m => some m
  | .vecMinBf16 m => some m
  | .vecMinI32 m => some m
  | .vecMinI16 m => some m
  | .vecMinI8 m => some m
  | .vecMinN32 m => some m
  | .vecMinN16 m => some m
  | .vecMinN8 m => some m
  | .vecMaxF32 m => some m
  | .vecMaxF16 m => some m
  | .vecMaxBf16 m => some m
  | .vecMaxI32 m => some m
  | .vecMaxI16 m => some m
  | .vecMaxI8 m => some m
  | .vecMaxN32 m => some m
  | .vecMaxN16 m => some m
  | .vecMaxN8 m => some m
  | .vecAddsI32 m => some m
  | .vecAddsI16 m => some m
  | .vecAddsI8 m => some m
  | .vecAddsN32 m => some m
  | .vecAddsN16 m => some m
  | .vecAddsN8 m => some m
  | .vecCmpeqF32 m => some m
  | .vecCmpeqF16 m => some m
  | .vecCmpeqBf16 m => some m
  | .vecCmpeqI32 m => some m
  | .vecCmpeqI16 m => some m
  | .vecCmpeqI8 m => some m
  | .vecCmpltF32 m => some m
  | .vecCmpltF16 m => some m
  | .vecCmpltBf16 m => some m
  | .vecCmpltI32 m => some m
  | .vecCmpltI16 m => some m
  | .vecCmpltI8 m => some m
  | .vecCmpltN32 m => some m
  | .vecCmpltN16 m => some m
  | .vecCmpltN8 m => some m
  | .vecSelI32 m => some m
  | .vecSelI16 m => some m
  | .vecSelI8 m => some m
  | .vecAnd m => some m
  | .vecOr m => some m
  | .vecXor m => some m
  | .vecShlI32 m => some m
  | .vecShlI16 m => some m
  | .vecShlI8 m => some m
  | .vecShrI32 m => some m
  | .vecShrI16 m => some m
  | .vecShrI8 m => some m
  | .vecSarI32 m => some m
  | .vecSarI16 m => some m
  | .vecSarI8 m => some m
  | .vecCvtF32 m => some m
  | .vecCvtF16 m => some m
  | .vecCvtBf16 m => some m
  | .vecCvtI32 m => some m
  | .vecCvtI16 m => some m
  | .vecCvtI8 m => some m
  | .vecCvtE4m3Sat m => some m
  | .vecCvtE4m3Nsat m => some m
  | .vecCvtE5m2Sat m => some m
  | .vecCvtE5m2Nsat m => some m
  | .vecVdot16E4m3 m => some m
  | .vecVdot16E5m2 m => some m
  | .vecVdot8Bf16 m => some m
  | .vecRsumF32 m => some m
  | .vecRsumI32 m => some m
  | .vecRmaxF32 m => some m
  | .vecRmaxI32 m => some m
  | .vecExp2F32 m => some m
  | .vecRcpF32 m => some m
  | .vecRsqF32 m => some m
  | .vecShufI32 m => some m
  | .vecShufI16 m => some m
  | .vecShufI8 m => some m
  | .vecBcastI32 m => some m
  | .vecBcastI16 m => some m
  | .vecBcastI8 m => some m
  | .vecVqntD8 m => some m
  | .vecAbsF32 m => some m
  | .vecAbsF16 m => some m
  | .vecAbsBf16 m => some m
  | .vecAbsI32 m => some m
  | .vecAbsI16 m => some m
  | .vecAbsI8 m => some m
  | .matMmaOv m => some m
  | .matMmaAc m => some m
  | .matMgemmOv m => some m
  | .matMgemmAc m => some m
  | .matMzero m => some m
  | .matAswap m => some m
  | .matApop m => some m
  | .matApush m => some m
  | .matMdesc m => some m
  | .matMdcv m => some m
  | .matMstat m => some m
  | .matMfence m => some m
  | .cpyCpy m => some m
  | .cpyCpld m => some m
  | .cpyCpldSb m => some m
  | .cpyCpst m => some m
  | .cpyDrain m => some m
  | .cpyPagereq m => some m
  | .cpyJobq m => some m
  | .cpyCpqry m => some m
  | .cpySlotq m => some m
  | .semSld m _ => some m
  | .semSst m _ => some m
  | .semSadd m _ => some m
  | .semSmin m _ => some m
  | .semSmax m _ => some m
  | .semScas m _ => some m
  | .semStx m _ => some m
  | .semSwaitge m => some m
  | .semBarr m => some m
  | .semBexp m => some m
  | .semBwait m => some m
  | .semBtest m => some m
  | .semCxferQ m => some m
  | .semCxferFRn m => some m
  | .semCxferFRz m => some m
  | .semCxferFRd m => some m
  | .semCbal m => some m
  | .semCtotal m => some m
  | .semCfloor m => some m
  | .semCmint m => some m
  | .semCburn m => some m
  | .semSinit m => some m
  | .semCinfo m => some m
  | .tskPost m => some m
  | .tskWaitc m => some m
  | .tskTdone m => some m
  | .tskTid m => some m
  | .tskRndcmt m => some m
  | .lnkSend m => some m
  | .lnkRecv m => some m
  | .lnkLstat m => some m
  | .bundleIssue => none
  | .idleTick => none
  | .resultDue => none
  | .resultArrival => none
  | .holderLimit => none
  | .asyncLanding => none
  | .literalBundleFetch => none
  | .frameLoadComplete => none
  | .ckmodeEnable => none
  | .ckmodeDisable => none
  | .capcauseW1c => none
  | .storePerform => none
  | .bankRefresh => none
  | .rrotRotation => none
  | .rrotTimeout => none
  | .arrayOpStart => none
  | .mgemmKStep => none
  | .arrayOpComplete => none
  | .aswapPerform => none
  | .wsRefresh => none
  | .cardLinear => none
  | .cardStrided => none
  | .cardGather => none
  | .cardScatter => none
  | .cardTile => none
  | .cardWswrite => none
  | .migrateArm => none
  | .migrateWait => none
  | .migrateLinePull => none
  | .cardBytesArrive => none
  | .barDecrement => none
  | .cardComplete => none
  | .cpstComplete => none
  | .slotAdvance => none
  | .generationCurrent => none
  | .pagerDecision => none
  | .semArrive => none
  | .creditArrive => none
  | .refundArrive => none
  | .ackArrive => none
  | .nodeUnreachable => none
  | .nodeReachable => none
  | .uncorrectableError => none
  | .messageArrive => none
  | .seedPickup => none
  | .walkerStep => none
  | .continuationEnter => none
  | .moveSeedArrive => none
  | .roundMerge => none
  | .launchPlace => none
  | .launchRetire => none
  | .cycbExhausted => none
  | .coreSave => none
  | .contextSave => none
  | .restore => none
  | .doorbellWrite => none
  | .queueReset => none
  | .nop => none
  | .launch => none
  | .regionCreate => none
  | .regionUpdate => none
  | .regionDestroy => none
  | .grant => none
  | .slottab => none
  | .genadv => none
  | .classdef => none
  | .call => none
  | .join => none
  | .signal => none
  | .capset => none
  | .reconcile => none
  | .msiXInterrupt => none
  | .heartbeat => none
  | .firmwareReset => none
  | .liveUpdate => none
  | .liveUpdateRollback => none
  | .getVersion => none
  | .getCapabilities => none
  | .negotiateAlgorithms => none
  | .getDigests => none
  | .getCertificate => none
  | .challenge => none
  | .getMeasurements => none
  | .hallCapFrame => none
  | .energyBurn => none
  | .supplySag => none
  | .thermalLimit => none
  | .dieReset => none
  | .bangleRetire => none
  | .supplySagEnds => none
  | .thermalLimitEnds => none

/-- Well-formed: the word that encodes the instruction exists and is legal (R47, R48, R53, R54, R45). -/
def Instr.wellFormed (i : Instr) : Bool :=
  match i with
  | .move m d => m.wf && isMoveSocket d
  | .seg _ p => decide (p ≤ 5)
  | i => match i.mv? with
    | some m => m.wf
    | none => true

end Sys2Proof
end

