-- ==== Sys2Proof/Decode.lean ====
section
/-! DEFINITION. The decoder, total on every word and every bundle, and the encoder, from the tables of "Code store"
(R44 to R58). -/

namespace Sys2Proof

/-- Why a word, a slot or a bundle is refused; each names its row of R58. -/
inductive DecodeError where
  /-- Header bits 9:0 non-zero (R45). -/
  | headerBits
  /-- A reserved span code (R45). -/
  | reservedSpan
  /-- BSUM is not the summary of the marks (R49). -/
  | bsum
  /-- Source form 0b11, or long-form SRC bits 11:2 non-zero, in this slot (R48). -/
  | sourceForm (slot : Nat)
  /-- The surrender mask breaks R49. -/
  | surrender
  /-- An empty slot with another bit set (R47). -/
  | emptyBits (slot : Nat)
  /-- Two moves to one socket, two triggers of one unit, or a trigger with a move to its `.a` (R51). -/
  | twice
  /-- A source socket that is unassigned or not readable (R53, R54). -/
  | sourceSocket (slot : Nat) (sock : BitVec 12)
  /-- A destination socket that is unassigned or not writable (R53, R54). -/
  | destSocket (slot : Nat) (sock : BitVec 12)
  /-- A trigger gated by a FEAT bit that is not given (R57). -/
  | gated (slot : Nat) (sock : BitVec 12)
  /-- Not a bundle of twelve words (R44). -/
  | length
deriving DecidableEq, Repr

/-! ## Fields of a word -/

def slotBind  (w : Word) : BitVec 2  := w.extractLsb' 30 2
def slotGuard (w : Word) : BitVec 4  := w.extractLsb' 26 4
def slotDst   (w : Word) : BitVec 12 := w.extractLsb' 14 12
def slotSrc   (w : Word) : BitVec 14 := w.extractLsb' 0 14
def slotMv    (w : Word) : Mv := ⟨slotBind w, slotGuard w, slotSrc w⟩

def hdrIdle (w : Word) : BitVec 4  := w.extractLsb' 28 4
def hdrSpan (w : Word) : BitVec 4  := w.extractLsb' 24 4
def hdrSurr (w : Word) : BitVec 11 := w.extractLsb' 13 11
def hdrSeg  (w : Word) : BitVec 1  := w.extractLsb' 12 1
def hdrBsum (w : Word) : BitVec 2  := w.extractLsb' 10 2
def hdrZero (w : Word) : BitVec 10 := w.extractLsb' 0 10
def hdrHd   (w : Word) : Hd := ⟨hdrIdle w, hdrSurr w, hdrBsum w⟩

/-! ## Trigger sockets (R56) -/

/-- The `al` triggers from offset 0x08 of the block, in socket order (R56). -/
def alOps : List (Mv → BitVec 1 → Instr) := [
    .alAdd, .alSub, .alAdds, .alSubs, .alAnd, .alOr, .alXor, .alAndn, .alShl, .alShr, .alSar, .alRor, .alMin,
    .alMax, .alMinu, .alMaxu, .alCmpeq, .alCmplt, .alCmpltu, .alSel, .alClz, .alPopc ]

/-- The `mul` triggers from offset 0x08 of the block, in socket order (R56). -/
def mulOps : List (Mv → Instr) := [
    .mulMul, .mulMulhs, .mulMulhu, .mulDivs, .mulDivu, .mulRems, .mulRemu ]

/-- The `agu` triggers from offset 0x08 of the block, in socket order (R56). -/
def aguOps : List (Mv → Instr) := [
    .aguAinc, .aguAmod, .aguAxy, .aguAbnd ]

/-- The `br` triggers from offset 0x08 of the block, in socket order (R56). -/
def brOps : List (Mv → Instr) := [
    .brJmp, .brCall, .brRet, .brLoop, .brBreakl, .brHalt, .brYield ]

/-- The `sys` triggers from offset 0x08 of the block, in socket order (R56). -/
def sysOps : List (Mv → Instr) := [
    .sysTrap, .sysTret, .sysRdsr, .sysWrsr, .sysFence ]

/-- The `ls` triggers from offset 0x08 of the block, in socket order (R56). -/
def lsOps : List (Mv → BitVec 1 → Instr) := [
    .lsLd8, .lsLd8Sx, .lsLd16, .lsLd16Sx, .lsLd32, .lsLd32Sx, .lsLd64, .lsSt8, .lsSt16, .lsSt32, .lsSt64, .lsVld,
    .lsVst, .lsLdfw, .lsLdfk, .lsStew, .lsStff, .lsFeclr, .lsFeq, .lsPatset, .lsLdpat, .lsRrot ]

/-- The `vec` triggers from offset 0x08 of the block, in socket order (R56). -/
def vecOps : List (Mv → Instr) := [
    .vecAddF32, .vecAddF16, .vecAddBf16, .vecAddI32, .vecAddI16, .vecAddI8, .vecSubF32, .vecSubF16, .vecSubBf16,
    .vecSubI32, .vecSubI16, .vecSubI8, .vecMulF32, .vecMulF16, .vecMulBf16, .vecMulI32, .vecMulI16, .vecMulI8,
    .vecFmaF32, .vecFmaF16, .vecFmaBf16, .vecMinF32, .vecMinF16, .vecMinBf16, .vecMinI32, .vecMinI16, .vecMinI8,
    .vecMinN32, .vecMinN16, .vecMinN8, .vecMaxF32, .vecMaxF16, .vecMaxBf16, .vecMaxI32, .vecMaxI16, .vecMaxI8,
    .vecMaxN32, .vecMaxN16, .vecMaxN8, .vecAddsI32 ] ++ [
    .vecAddsI16, .vecAddsI8, .vecAddsN32, .vecAddsN16, .vecAddsN8, .vecCmpeqF32, .vecCmpeqF16, .vecCmpeqBf16,
    .vecCmpeqI32, .vecCmpeqI16, .vecCmpeqI8, .vecCmpltF32, .vecCmpltF16, .vecCmpltBf16, .vecCmpltI32, .vecCmpltI16,
    .vecCmpltI8, .vecCmpltN32, .vecCmpltN16, .vecCmpltN8, .vecSelI32, .vecSelI16, .vecSelI8, .vecAnd, .vecOr,
    .vecXor, .vecShlI32, .vecShlI16, .vecShlI8, .vecShrI32, .vecShrI16, .vecShrI8, .vecSarI32, .vecSarI16,
    .vecSarI8, .vecCvtF32, .vecCvtF16, .vecCvtBf16, .vecCvtI32, .vecCvtI16 ] ++ [
    .vecCvtI8, .vecCvtE4m3Sat, .vecCvtE4m3Nsat, .vecCvtE5m2Sat, .vecCvtE5m2Nsat, .vecVdot16E4m3, .vecVdot16E5m2,
    .vecVdot8Bf16, .vecRsumF32, .vecRsumI32, .vecRmaxF32, .vecRmaxI32, .vecExp2F32, .vecRcpF32, .vecRsqF32,
    .vecShufI32, .vecShufI16, .vecShufI8, .vecBcastI32, .vecBcastI16, .vecBcastI8, .vecVqntD8, .vecAbsF32,
    .vecAbsF16, .vecAbsBf16, .vecAbsI32, .vecAbsI16, .vecAbsI8 ]

/-- The `mat` triggers from offset 0x08 of the block, in socket order (R56). -/
def matOps : List (Mv → Instr) := [
    .matMmaOv, .matMmaAc, .matMgemmOv, .matMgemmAc, .matMzero, .matAswap, .matApop, .matApush, .matMdesc, .matMdcv,
    .matMstat, .matMfence ]

/-- The `cpy` triggers from offset 0x08 of the block, in socket order (R56). -/
def cpyOps : List (Mv → Instr) := [
    .cpyCpy, .cpyCpld, .cpyCpldSb, .cpyCpst, .cpyDrain, .cpyPagereq, .cpyJobq, .cpyCpqry, .cpySlotq ]

/-- The `sem` triggers from offset 0x08 of the block, in socket order (R56). -/
def semOps : List (Mv → Instr) := [
    fun m => .semSld m 0, fun m => .semSld m 1, fun m => .semSst m 0, fun m => .semSst m 1, fun m => .semSadd m 0,
    fun m => .semSadd m 1, fun m => .semSadd m 2, fun m => .semSadd m 3, fun m => .semSmin m 0,
    fun m => .semSmin m 1, fun m => .semSmin m 2, fun m => .semSmin m 3, fun m => .semSmax m 0,
    fun m => .semSmax m 1, fun m => .semSmax m 2, fun m => .semSmax m 3, fun m => .semScas m 0,
    fun m => .semScas m 1, fun m => .semScas m 2, fun m => .semScas m 3, fun m => .semStx m 0,
    fun m => .semStx m 1, fun m => .semStx m 2, fun m => .semStx m 3, .semSwaitge, .semBarr, .semBexp, .semBwait,
    .semBtest, .semCxferQ, .semCxferFRn, .semCxferFRz, .semCxferFRd, .semCbal, .semCtotal, .semCfloor, .semCmint,
    .semCburn, .semSinit, .semCinfo ]

/-- The `tsk` triggers from offset 0x08 of the block, in socket order (R56). -/
def tskOps : List (Mv → Instr) := [
    .tskPost, .tskWaitc, .tskTdone, .tskTid, .tskRndcmt ]

/-- The `lnk` triggers from offset 0x08 of the block, in socket order (R56). -/
def lnkOps : List (Mv → Instr) := [
    .lnkSend, .lnkRecv, .lnkLstat ]

/-- The trigger at a socket, with none where the socket is no trigger (R54, R56). -/
def triggerAt (d : BitVec 12) : Option (Mv → Instr) :=
  match unitOf d with
  | none => none
  | some (u, o) =>
    if o < 8 then none else
    let k := o - 8
    match u with
    | .al0 => (alOps[k]?).map fun f m => f m 0
    | .al1 => (alOps[k]?).map fun f m => f m 1
    | .mul => mulOps[k]?
    | .agu => aguOps[k]?
    | .br  => brOps[k]?
    | .sys => sysOps[k]?
    | .ls0 => (lsOps[k]?).map fun f m => f m 0
    | .ls1 => (lsOps[k]?).map fun f m => f m 1
    | .vec => vecOps[k]?
    | .mat => matOps[k]?
    | .cpy => cpyOps[k]?
    | .sem => semOps[k]?
    | .tsk => tskOps[k]?
    | .lnk => lnkOps[k]?

/-- The FEAT bit that gates a trigger socket (R57). -/
def gateOf (d : BitVec 12) : Option Nat :=
  if d = 0x36D#12 then some 0
  else if d = 0x364#12 ∨ d = 0x365#12 ∨ d = 0x366#12 then some 1
  else none

/-- An empty slot is the word 0x2000_0000 and no other (R47). -/
def emptySlot : Word := 0x20000000#32

/-- The move or trigger of one slot word, alone: the checks of R58 that concern one slot, in the order of its rows. -/
def decodeSlot (w : Word) (slot : Nat := 0) : Except DecodeError Instr :=
  if slotGuard w = 8 then .error (.emptyBits slot)
  else if !srcFormOk (slotSrc w) then .error (.sourceForm slot)
  else if !srcOk (slotSrc w) then .error (.sourceSocket slot ((slotSrc w).extractLsb' 0 12))
  else match triggerAt (slotDst w) with
    | some f => .ok (f (slotMv w))
    | none =>
      if isMoveSocket (slotDst w) then .ok (.move (slotMv w) (slotDst w))
      else .error (.destSocket slot (slotDst w))

/-- The span action a header names (R45); none for no action or a reserved code. -/
def decodeSpan (w : Word) : Option Instr :=
  let h := hdrHd w
  let e := hdrSeg w
  if hdrZero w ≠ 0 then none
  else if hdrSpan w = 1 then some (.flip h e)
  else if hdrSpan w = 2 then some (.flipW h e)
  else if hdrSpan w = 3 then some (.flipC h e)
  else if hdrSpan w = 4 then some (.flipCw h e)
  else if hdrSpan w = 5 then some (.ckpt h e)
  else none

/-- The SEG mark of a header (R45, R70); none where the span code is reserved. -/
def decodeSeg (w : Word) : Option Instr :=
  if hdrZero w = 0 ∧ hdrSeg w = 1 ∧ hdrSpan w ≤ 5 then some (.seg (hdrHd w) (hdrSpan w)) else none

/-! ## Whole bundles (R44, R49, R51, R58) -/

/-- Slots taken by the long immediate of a slot word; 0 where its source is not one (R48). -/
def longSlots (w : Word) : Nat :=
  if slotGuard w ≠ 8 ∧ (slotSrc w).extractLsb' 12 2 = 2 then
    (if (slotSrc w).extractLsb' 0 2 = 2 then 2 else 1)
  else 0

/-- The slots that R49 has surrendered, walking the slots from s0: `owe` more slots are owed to the last long
immediate. None when the mask breaks R49. -/
def surrenderOk (surr : BitVec 11) : Nat → Nat → List Word → Bool
  | _, owe, [] => owe == 0
  | k, owe, w :: ws =>
    if owe = 0 then
      if surr.getLsbD k then false
      else surrenderOk surr (k + 1) (longSlots w) ws
    else surr.getLsbD k && surrenderOk surr (k + 1) (owe - 1) ws

/-- The slots that hold a move: neither surrendered nor empty, with their numbers. -/
def liveSlots (surr : BitVec 11) (slots : List Word) : List (Nat × Word) :=
  (slots.zipIdx.map fun p => (p.2, p.1)).filter fun p => !surr.getLsbD p.1 && slotGuard p.2 != 8

/-- The binding summary of the marks (R45, R49). -/
def bsumOf (live : List (Nat × Word)) : BitVec 2 :=
  let any := live.any fun p => slotBind p.2 == 1 || slotBind p.2 == 2
  let req := live.any fun p => slotBind p.2 == 2
  (if any then 1#2 else 0#2) ||| (if req then 2#2 else 0#2)

/-- The unit a socket triggers. -/
def triggerUnit (d : BitVec 12) : Option FU :=
  match triggerAt d with
  | some _ => (unitOf d).map (·.1)
  | none => none

/-- R51 over the destinations of a bundle: each names no latch twice. -/
def destsOk : List (BitVec 12) → Bool
  | [] => true
  | d :: ds =>
    let clash := fun d' => d' == d ||
      (match unitOf d, unitOf d' with
       | some (u, o), some (u', o') =>
         u == u' && (((triggerAt d).isSome && (triggerAt d').isSome) ||
                     ((triggerAt d).isSome && o' == 0) || (o == 0 && (triggerAt d').isSome))
       | _, _ => false)
    !ds.any clash && destsOk ds

/-- The first failing row of R58, with the FEAT bits the bundle may use; none for a legal bundle. It looks at
encodings alone; what guards say is judged at the issue (R163). -/
def bundleError (feat : BitVec 64) (ws : List Word) : Option DecodeError :=
  match ws with
  | [] => some .length
  | h :: slots =>
    if slots.length ≠ 11 then some .length else
    let surr := hdrSurr h
    let live := liveSlots surr slots
    let kept := (slots.zipIdx.map fun p => (p.2, p.1)).filter fun p => !surr.getLsbD p.1
    if hdrZero h ≠ 0 then some .headerBits
    else if hdrSpan h > 5 then some .reservedSpan
    else if hdrBsum h ≠ bsumOf live then some .bsum
    else match live.find? fun p => !srcFormOk (slotSrc p.2) with
    | some p => some (.sourceForm p.1)
    | none =>
    if !surrenderOk surr 0 0 slots then some .surrender
    else match kept.find? fun p => slotGuard p.2 == 8 && p.2 != emptySlot with
    | some p => some (.emptyBits p.1)
    | none =>
    if !destsOk (live.map fun p => slotDst p.2) then some .twice
    else match live.find? fun p => !srcOk (slotSrc p.2) with
    | some p => some (.sourceSocket p.1 ((slotSrc p.2).extractLsb' 0 12))
    | none =>
    match live.find? fun p => !(isMoveSocket (slotDst p.2) || (triggerAt (slotDst p.2)).isSome) with
    | some p => some (.destSocket p.1 (slotDst p.2))
    | none =>
    match live.find? fun p => match gateOf (slotDst p.2) with | some b => !feat.getLsbD b | none => false with
    | some p => some (.gated p.1 (slotDst p.2))
    | none => none

/-- A decoded bundle: its header, its slots as words, and its moves and triggers by slot (R44). -/
structure Bundle where
  header : Word
  slots  : List Word
  moves  : List (Nat × Instr)
deriving DecidableEq, Repr

/-- The moves and triggers of the live slots. -/
def decodeSlots : List (Nat × Word) → Except DecodeError (List (Nat × Instr))
  | [] => .ok []
  | p :: ps =>
    match decodeSlot p.2 p.1, decodeSlots ps with
    | .ok i, .ok is => .ok ((p.1, i) :: is)
    | .error e, _ => .error e
    | _, .error e => .error e

/-- The bundle of twelve words (R44), refused by the first failing row of R58. -/
def decodeBundle (feat : BitVec 64) (ws : List Word) : Except DecodeError Bundle :=
  match bundleError feat ws, ws with
  | some e, _ => .error e
  | none, [] => .error .length
  | none, h :: slots =>
    match decodeSlots (liveSlots (hdrSurr h) slots) with
    | .ok ms => .ok ⟨h, slots, ms⟩
    | .error e => .error e

/-- The words of a run of bytes, little-endian (R6). -/
def wordsOfBytes : List Byte → List Word
  | a :: b :: c :: d :: rest => (d ++ c ++ b ++ a) :: wordsOfBytes rest
  | _ => []

/-- The bundle of 48 bytes (R44); every other list of bytes is refused. -/
def decodeBytes (feat : BitVec 64) (bs : List Byte) : Except DecodeError Bundle :=
  if bs.length = 48 then decodeBundle feat (wordsOfBytes bs) else .error .length

/-- The words of a run of index words, low half first (R44). -/
def wordsOfIdx : List Idx → List Word
  | lo :: hi :: rest => (hi ++ lo) :: wordsOfIdx rest
  | _ => []

/-- The instruction read from one 32-bit word alone, numbered as the opcode table numbers it. A word alone does not say
whether it is a header or a slot; a word whose bits 25:14 name a trigger is read as a slot, else a header word
with a span code or the SEG mark is read as that, else it is read as a plain move (log entry 6). [DESIGN CHOICE, log entry 6] -/
def decodeTableWord (nbits w : Nat) : Option Instr :=
  if nbits ≠ 32 then none else
  let b : Word := BitVec.ofNat 32 w
  if (triggerAt (slotDst b)).isSome then (decodeSlot b).toOption
  else match decodeSpan b with
    | some i => some i
    | none => match decodeSeg b with
      | some i => some i
      | none => (decodeSlot b).toOption

/-! ## The encoder -/

/-- The trigger socket of an instruction, from the opcode table's fixed fields (R56). -/
def socketOf : Instr → Option (BitVec 12)
  | .move _ d => some d
  | .flip _ _ => none
  | .flipW _ _ => none
  | .flipC _ _ => none
  | .flipCw _ _ => none
  | .ckpt _ _ => none
  | .seg _ _ => none
  | .alAdd _ u => some (2#5 ++ u ++ 0x08#6)
  | .alSub _ u => some (2#5 ++ u ++ 0x09#6)
  | .alAdds _ u => some (2#5 ++ u ++ 0x0A#6)
  | .alSubs _ u => some (2#5 ++ u ++ 0x0B#6)
  | .alAnd _ u => some (2#5 ++ u ++ 0x0C#6)
  | .alOr _ u => some (2#5 ++ u ++ 0x0D#6)
  | .alXor _ u => some (2#5 ++ u ++ 0x0E#6)
  | .alAndn _ u => some (2#5 ++ u ++ 0x0F#6)
  | .alShl _ u => some (2#5 ++ u ++ 0x10#6)
  | .alShr _ u => some (2#5 ++ u ++ 0x11#6)
  | .alSar _ u => some (2#5 ++ u ++ 0x12#6)
  | .alRor _ u => some (2#5 ++ u ++ 0x13#6)
  | .alMin _ u => some (2#5 ++ u ++ 0x14#6)
  | .alMax _ u => some (2#5 ++ u ++ 0x15#6)
  | .alMinu _ u => some (2#5 ++ u ++ 0x16#6)
  | .alMaxu _ u => some (2#5 ++ u ++ 0x17#6)
  | .alCmpeq _ u => some (2#5 ++ u ++ 0x18#6)
  | .alCmplt _ u => some (2#5 ++ u ++ 0x19#6)
  | .alCmpltu _ u => some (2#5 ++ u ++ 0x1A#6)
  | .alSel _ u => some (2#5 ++ u ++ 0x1B#6)
  | .alClz _ u => some (2#5 ++ u ++ 0x1C#6)
  | .alPopc _ u => some (2#5 ++ u ++ 0x1D#6)
  | .mulMul _ => some 0x188#12
  | .mulMulhs _ => some 0x189#12
  | .mulMulhu _ => some 0x18A#12
  | .mulDivs _ => some 0x18B#12
  | .mulDivu _ => some 0x18C#12
  | .mulRems _ => some 0x18D#12
  | .mulRemu _ => some 0x18E#12
  | .aguAinc _ => some 0x1C8#12
  | .aguAmod _ => some 0x1C9#12
  | .aguAxy _ => some 0x1CA#12
  | .aguAbnd _ => some 0x1CB#12
  | .brJmp _ => some 0x208#12
  | .brCall _ => some 0x209#12
  | .brRet _ => some 0x20A#12
  | .brLoop _ => some 0x20B#12
  | .brBreakl _ => some 0x20C#12
  | .brHalt _ => some 0x20D#12
  | .brYield _ => some 0x20E#12
  | .sysTrap _ => some 0x248#12
  | .sysTret _ => some 0x249#12
  | .sysRdsr _ => some 0x24A#12
  | .sysWrsr _ => some 0x24B#12
  | .sysFence _ => some 0x24C#12
  | .lsLd8 _ u => some (5#5 ++ u ++ 0x08#6)
  | .lsLd8Sx _ u => some (5#5 ++ u ++ 0x09#6)
  | .lsLd16 _ u => some (5#5 ++ u ++ 0x0A#6)
  | .lsLd16Sx _ u => some (5#5 ++ u ++ 0x0B#6)
  | .lsLd32 _ u => some (5#5 ++ u ++ 0x0C#6)
  | .lsLd32Sx _ u => some (5#5 ++ u ++ 0x0D#6)
  | .lsLd64 _ u => some (5#5 ++ u ++ 0x0E#6)
  | .lsSt8 _ u => some (5#5 ++ u ++ 0x0F#6)
  | .lsSt16 _ u => some (5#5 ++ u ++ 0x10#6)
  | .lsSt32 _ u => some (5#5 ++ u ++ 0x11#6)
  | .lsSt64 _ u => some (5#5 ++ u ++ 0x12#6)
  | .lsVld _ u => some (5#5 ++ u ++ 0x13#6)
  | .lsVst _ u => some (5#5 ++ u ++ 0x14#6)
  | .lsLdfw _ u => some (5#5 ++ u ++ 0x15#6)
  | .lsLdfk _ u => some (5#5 ++ u ++ 0x16#6)
  | .lsStew _ u => some (5#5 ++ u ++ 0x17#6)
  | .lsStff _ u => some (5#5 ++ u ++ 0x18#6)
  | .lsFeclr _ u => some (5#5 ++ u ++ 0x19#6)
  | .lsFeq _ u => some (5#5 ++ u ++ 0x1A#6)
  | .lsPatset _ u => some (5#5 ++ u ++ 0x1B#6)
  | .lsLdpat _ u => some (5#5 ++ u ++ 0x1C#6)
  | .lsRrot _ u => some (5#5 ++ u ++ 0x1D#6)
  | .vecAddF32 _ => some 0x308#12
  | .vecAddF16 _ => some 0x309#12
  | .vecAddBf16 _ => some 0x30A#12
  | .vecAddI32 _ => some 0x30B#12
  | .vecAddI16 _ => some 0x30C#12
  | .vecAddI8 _ => some 0x30D#12
  | .vecSubF32 _ => some 0x30E#12
  | .vecSubF16 _ => some 0x30F#12
  | .vecSubBf16 _ => some 0x310#12
  | .vecSubI32 _ => some 0x311#12
  | .vecSubI16 _ => some 0x312#12
  | .vecSubI8 _ => some 0x313#12
  | .vecMulF32 _ => some 0x314#12
  | .vecMulF16 _ => some 0x315#12
  | .vecMulBf16 _ => some 0x316#12
  | .vecMulI32 _ => some 0x317#12
  | .vecMulI16 _ => some 0x318#12
  | .vecMulI8 _ => some 0x319#12
  | .vecFmaF32 _ => some 0x31A#12
  | .vecFmaF16 _ => some 0x31B#12
  | .vecFmaBf16 _ => some 0x31C#12
  | .vecMinF32 _ => some 0x31D#12
  | .vecMinF16 _ => some 0x31E#12
  | .vecMinBf16 _ => some 0x31F#12
  | .vecMinI32 _ => some 0x320#12
  | .vecMinI16 _ => some 0x321#12
  | .vecMinI8 _ => some 0x322#12
  | .vecMinN32 _ => some 0x323#12
  | .vecMinN16 _ => some 0x324#12
  | .vecMinN8 _ => some 0x325#12
  | .vecMaxF32 _ => some 0x326#12
  | .vecMaxF16 _ => some 0x327#12
  | .vecMaxBf16 _ => some 0x328#12
  | .vecMaxI32 _ => some 0x329#12
  | .vecMaxI16 _ => some 0x32A#12
  | .vecMaxI8 _ => some 0x32B#12
  | .vecMaxN32 _ => some 0x32C#12
  | .vecMaxN16 _ => some 0x32D#12
  | .vecMaxN8 _ => some 0x32E#12
  | .vecAddsI32 _ => some 0x32F#12
  | .vecAddsI16 _ => some 0x330#12
  | .vecAddsI8 _ => some 0x331#12
  | .vecAddsN32 _ => some 0x332#12
  | .vecAddsN16 _ => some 0x333#12
  | .vecAddsN8 _ => some 0x334#12
  | .vecCmpeqF32 _ => some 0x335#12
  | .vecCmpeqF16 _ => some 0x336#12
  | .vecCmpeqBf16 _ => some 0x337#12
  | .vecCmpeqI32 _ => some 0x338#12
  | .vecCmpeqI16 _ => some 0x339#12
  | .vecCmpeqI8 _ => some 0x33A#12
  | .vecCmpltF32 _ => some 0x33B#12
  | .vecCmpltF16 _ => some 0x33C#12
  | .vecCmpltBf16 _ => some 0x33D#12
  | .vecCmpltI32 _ => some 0x33E#12
  | .vecCmpltI16 _ => some 0x33F#12
  | .vecCmpltI8 _ => some 0x340#12
  | .vecCmpltN32 _ => some 0x341#12
  | .vecCmpltN16 _ => some 0x342#12
  | .vecCmpltN8 _ => some 0x343#12
  | .vecSelI32 _ => some 0x344#12
  | .vecSelI16 _ => some 0x345#12
  | .vecSelI8 _ => some 0x346#12
  | .vecAnd _ => some 0x347#12
  | .vecOr _ => some 0x348#12
  | .vecXor _ => some 0x349#12
  | .vecShlI32 _ => some 0x34A#12
  | .vecShlI16 _ => some 0x34B#12
  | .vecShlI8 _ => some 0x34C#12
  | .vecShrI32 _ => some 0x34D#12
  | .vecShrI16 _ => some 0x34E#12
  | .vecShrI8 _ => some 0x34F#12
  | .vecSarI32 _ => some 0x350#12
  | .vecSarI16 _ => some 0x351#12
  | .vecSarI8 _ => some 0x352#12
  | .vecCvtF32 _ => some 0x353#12
  | .vecCvtF16 _ => some 0x354#12
  | .vecCvtBf16 _ => some 0x355#12
  | .vecCvtI32 _ => some 0x356#12
  | .vecCvtI16 _ => some 0x357#12
  | .vecCvtI8 _ => some 0x358#12
  | .vecCvtE4m3Sat _ => some 0x359#12
  | .vecCvtE4m3Nsat _ => some 0x35A#12
  | .vecCvtE5m2Sat _ => some 0x35B#12
  | .vecCvtE5m2Nsat _ => some 0x35C#12
  | .vecVdot16E4m3 _ => some 0x35D#12
  | .vecVdot16E5m2 _ => some 0x35E#12
  | .vecVdot8Bf16 _ => some 0x35F#12
  | .vecRsumF32 _ => some 0x360#12
  | .vecRsumI32 _ => some 0x361#12
  | .vecRmaxF32 _ => some 0x362#12
  | .vecRmaxI32 _ => some 0x363#12
  | .vecExp2F32 _ => some 0x364#12
  | .vecRcpF32 _ => some 0x365#12
  | .vecRsqF32 _ => some 0x366#12
  | .vecShufI32 _ => some 0x367#12
  | .vecShufI16 _ => some 0x368#12
  | .vecShufI8 _ => some 0x369#12
  | .vecBcastI32 _ => some 0x36A#12
  | .vecBcastI16 _ => some 0x36B#12
  | .vecBcastI8 _ => some 0x36C#12
  | .vecVqntD8 _ => some 0x36D#12
  | .vecAbsF32 _ => some 0x36E#12
  | .vecAbsF16 _ => some 0x36F#12
  | .vecAbsBf16 _ => some 0x370#12
  | .vecAbsI32 _ => some 0x371#12
  | .vecAbsI16 _ => some 0x372#12
  | .vecAbsI8 _ => some 0x373#12
  | .matMmaOv _ => some 0x388#12
  | .matMmaAc _ => some 0x389#12
  | .matMgemmOv _ => some 0x38A#12
  | .matMgemmAc _ => some 0x38B#12
  | .matMzero _ => some 0x38C#12
  | .matAswap _ => some 0x38D#12
  | .matApop _ => some 0x38E#12
  | .matApush _ => some 0x38F#12
  | .matMdesc _ => some 0x390#12
  | .matMdcv _ => some 0x391#12
  | .matMstat _ => some 0x392#12
  | .matMfence _ => some 0x393#12
  | .cpyCpy _ => some 0x3C8#12
  | .cpyCpld _ => some 0x3C9#12
  | .cpyCpldSb _ => some 0x3CA#12
  | .cpyCpst _ => some 0x3CB#12
  | .cpyDrain _ => some 0x3CC#12
  | .cpyPagereq _ => some 0x3CD#12
  | .cpyJobq _ => some 0x3CE#12
  | .cpyCpqry _ => some 0x3CF#12
  | .cpySlotq _ => some 0x3D0#12
  | .semSld _ f => some (0x204#11 ++ f)
  | .semSst _ f => some (0x205#11 ++ f)
  | .semSadd _ f => some (0x103#10 ++ f)
  | .semSmin _ f => some (0x104#10 ++ f)
  | .semSmax _ f => some (0x105#10 ++ f)
  | .semScas _ f => some (0x106#10 ++ f)
  | .semStx _ f => some (0x107#10 ++ f)
  | .semSwaitge _ => some 0x420#12
  | .semBarr _ => some 0x421#12
  | .semBexp _ => some 0x422#12
  | .semBwait _ => some 0x423#12
  | .semBtest _ => some 0x424#12
  | .semCxferQ _ => some 0x425#12
  | .semCxferFRn _ => some 0x426#12
  | .semCxferFRz _ => some 0x427#12
  | .semCxferFRd _ => some 0x428#12
  | .semCbal _ => some 0x429#12
  | .semCtotal _ => some 0x42A#12
  | .semCfloor _ => some 0x42B#12
  | .semCmint _ => some 0x42C#12
  | .semCburn _ => some 0x42D#12
  | .semSinit _ => some 0x42E#12
  | .semCinfo _ => some 0x42F#12
  | .tskPost _ => some 0x448#12
  | .tskWaitc _ => some 0x449#12
  | .tskTdone _ => some 0x44A#12
  | .tskTid _ => some 0x44B#12
  | .tskRndcmt _ => some 0x44C#12
  | .lnkSend _ => some 0x488#12
  | .lnkRecv _ => some 0x489#12
  | .lnkLstat _ => some 0x48A#12
  | .bundleIssue => none
  | .idleTick => none
  | .resultDue => none
  | .resultArrival => none
  | .holderLimit => none
  | .asyncLanding => none
  | .literalBundleFetch => none
  | .frameLoadComplete => none
  | .ckmodeEnable => none
  | .ckmodeDisable => none
  | .capcauseW1c => none
  | .storePerform => none
  | .bankRefresh => none
  | .rrotRotation => none
  | .rrotTimeout => none
  | .arrayOpStart => none
  | .mgemmKStep => none
  | .arrayOpComplete => none
  | .aswapPerform => none
  | .wsRefresh => none
  | .cardLinear => none
  | .cardStrided => none
  | .cardGather => none
  | .cardScatter => none
  | .cardTile => none
  | .cardWswrite => none
  | .migrateArm => none
  | .migrateWait => none
  | .migrateLinePull => none
  | .cardBytesArrive => none
  | .barDecrement => none
  | .cardComplete => none
  | .cpstComplete => none
  | .slotAdvance => none
  | .generationCurrent => none
  | .pagerDecision => none
  | .semArrive => none
  | .creditArrive => none
  | .refundArrive => none
  | .ackArrive => none
  | .nodeUnreachable => none
  | .nodeReachable => none
  | .uncorrectableError => none
  | .messageArrive => none
  | .seedPickup => none
  | .walkerStep => none
  | .continuationEnter => none
  | .moveSeedArrive => none
  | .roundMerge => none
  | .launchPlace => none
  | .launchRetire => none
  | .cycbExhausted => none
  | .coreSave => none
  | .contextSave => none
  | .restore => none
  | .doorbellWrite => none
  | .queueReset => none
  | .nop => none
  | .launch => none
  | .regionCreate => none
  | .regionUpdate => none
  | .regionDestroy => none
  | .grant => none
  | .slottab => none
  | .genadv => none
  | .classdef => none
  | .call => none
  | .join => none
  | .signal => none
  | .capset => none
  | .reconcile => none
  | .msiXInterrupt => none
  | .heartbeat => none
  | .firmwareReset => none
  | .liveUpdate => none
  | .liveUpdateRollback => none
  | .getVersion => none
  | .getCapabilities => none
  | .negotiateAlgorithms => none
  | .getDigests => none
  | .getCertificate => none
  | .challenge => none
  | .getMeasurements => none
  | .hallCapFrame => none
  | .energyBurn => none
  | .supplySag => none
  | .thermalLimit => none
  | .dieReset => none
  | .bangleRetire => none
  | .supplySagEnds => none
  | .thermalLimitEnds => none

/-- A slot word from its fields (R47). -/
def slotWord (m : Mv) (d : BitVec 12) : Word := m.bind ++ m.guard ++ d ++ m.src

/-- A header word from its fields (R45). -/
def headerWord (h : Hd) (span : BitVec 4) (e : BitVec 1) : Word :=
  h.idle ++ span ++ h.surr ++ e ++ h.bsum ++ 0#10

/-- The word of an instruction; none for an event (R45, R47, R56). -/
def encode (i : Instr) : Option Word :=
  match i with
  | .flip h e => some (headerWord h 1 e)
  | .flipW h e => some (headerWord h 2 e)
  | .flipC h e => some (headerWord h 3 e)
  | .flipCw h e => some (headerWord h 4 e)
  | .ckpt h e => some (headerWord h 5 e)
  | .seg h p => some (headerWord h p 1)
  | .move m d => some (slotWord m d)
  | i => match i.mv?, socketOf i with
    | some m, some d => some (slotWord m d)
    | _, _ => none

end Sys2Proof
end

