-- ==== Sys2Proof/Machine/Sparse.lean ====
section
/-! DEFINITION. Data by key: lists of (key, value) pairs in rising order of key. `Sparse` lists hold no entry equal to what
an unlisted key reads as, so equal contents are equal lists (memory, accumulator banks, slot-table cells). `Tab` lists
keep every entry written (contexts, cores, launches). `NatSet` lists are sets of numbers. -/

namespace Sys2Proof.Machine

/-- What a sparse list holds at `k`; `d` where it lists nothing. -/
def Sparse.get {α : Type} (d : α) : List (Nat × α) → Nat → α
  | [], _ => d
  | (a, v) :: t, k => if a = k then v else Sparse.get d t k

/-- Write `v` at `k`, keeping the canonical form. -/
def Sparse.put {α : Type} [DecidableEq α] (d : α) : List (Nat × α) → Nat → α → List (Nat × α)
  | [], k, v => if v = d then [] else [(k, v)]
  | (a, w) :: t, k, v =>
    if k < a then (if v = d then (a, w) :: t else (k, v) :: (a, w) :: t)
    else if k = a then (if v = d then t else (k, v) :: t)
    else (a, w) :: Sparse.put d t k v

/-- The canonical form: keys strictly rising, no entry equal to the default. -/
def Sparse.wf {α : Type} [DecidableEq α] (d : α) : List (Nat × α) → Bool
  | [] => true
  | (a, v) :: t => v != d && t.all (fun p => decide (a < p.1)) && Sparse.wf d t

/-- The entry of a table at `k`; `d` where it has none. -/
def Tab.get {α : Type} (d : α) : List (Nat × α) → Nat → α := Sparse.get d

/-- The entry of a table at `k`, if it has one. -/
def Tab.find {α : Type} : List (Nat × α) → Nat → Option α
  | [], _ => none
  | (a, v) :: t, k => if a = k then some v else Tab.find t k

/-- Write the entry at `k`. -/
def Tab.put {α : Type} : List (Nat × α) → Nat → α → List (Nat × α)
  | [], k, v => [(k, v)]
  | (a, w) :: t, k, v =>
    if k < a then (k, v) :: (a, w) :: t
    else if k = a then (k, v) :: t
    else (a, w) :: Tab.put t k v

/-- Remove the entry at `k`. -/
def Tab.del {α : Type} (t : List (Nat × α)) (k : Nat) : List (Nat × α) := t.filter fun p => p.1 != k

/-- Sets of numbers as strictly rising lists. -/
def NatSet.mem (l : List Nat) (k : Nat) : Bool := l.contains k

def NatSet.insert : List Nat → Nat → List Nat
  | [], k => [k]
  | a :: t, k => if k < a then k :: a :: t else if k = a then a :: t else a :: NatSet.insert t k

def NatSet.erase (l : List Nat) (k : Nat) : List Nat := l.filter (· != k)

/-- Insert before the first element that does not come before or with it. -/
def insertBy {α : Type} (le : α → α → Bool) (a : α) : List α → List α
  | [] => [a]
  | b :: bs => if le b a then b :: insertBy le a bs else a :: b :: bs

/-- A list in rising order; equal elements keep their order. -/
def sortBy {α : Type} (le : α → α → Bool) (l : List α) : List α := l.foldl (fun r a => insertBy le a r) []

/-- Every one of `n` numbers from `k` upward. -/
def natsFrom (k n : Nat) : List Nat := (List.range n).map (k + ·)

/-- Byte memory: Host cells in canonical form. What an unlisted address reads as is 0 (log entry 7). [DESIGN CHOICE, log entry 8] -/
abbrev Memory := List Host.Cell

/-- What a byte that nothing has written reads as (log entry 7). [DESIGN CHOICE, log entry 7] -/
def Memory.blank : Byte := 0

def Memory.read (m : Memory) (a : Nat) : Byte := Sparse.get Memory.blank m a
def Memory.write (m : Memory) (a : Nat) (v : Byte) : Memory := Sparse.put Memory.blank m a v

/-- The canonical form of memory: addresses strictly rising, no entry equal to what an unlisted address reads as.
[DESIGN CHOICE, log entry 8] -/
def Memory.wf (m : Memory) : Bool := Sparse.wf Memory.blank m

/-- The `n` bytes from `a`, lowest address first. -/
def Memory.readBytes (m : Memory) (a : Nat) : Nat → List Byte
  | 0 => []
  | n + 1 => m.read a :: Memory.readBytes m (a + 1) n

/-- Write bytes from `a` upward. -/
def Memory.writeBytes (m : Memory) (a : Nat) : List Byte → Memory
  | [] => m
  | b :: bs => Memory.writeBytes (m.write a b) (a + 1) bs

/-- A little-endian number of bytes (R6). -/
def leNat : List Byte → Nat
  | [] => 0
  | b :: bs => b.toNat + 256 * leNat bs

/-- The `n` little-endian bytes of a number (R6). -/
def leBytes : Nat → Nat → List Byte
  | 0, _ => []
  | n + 1, v => BitVec.ofNat 8 v :: leBytes n (v / 256)

end Sys2Proof.Machine
end

