-- ==== Sys2Proof/Machine/State.lean ====
section
/-! DEFINITION. The state of the module as plain data, and its state after reset. Each structure names the rules that give
it. Fields marked "model" are the model's own (log entries 2, 3, 8). -/

namespace Sys2Proof.Machine

/-- How a step can stop the machine with a fault. The spec gives every fault of the part an effect (R390, R399, R336),
so no step raises one: the type is empty, which is safe. -/
inductive Fault where
deriving DecidableEq, Repr

/-- Why an instruction has no meaning. -/
inductive Refusal where
  /-- Raised by the dispatch alone, for an instruction that is not modelled yet. Safe: nothing runs. -/
  | notModelled (mnemonic : String)
deriving DecidableEq, Repr

/-! ## Registers and ports (R52, R76 to R81, R91) -/

/-- A two-faced register with its written bit, writer class, conflict mark and pending state (R79, R80, R91). The class is
CORE when `core`, ASYNC when only `asyn`, NONE otherwise (R80, R86). -/
structure Face (w : Nat) where
  vis  : BitVec w := 0
  hid  : BitVec w := 0
  wr   : Bool := false
  core : Bool := false
  asyn : Bool := false
  conf : Bool := false
  pend : Bool := false
  land : Bool := false
deriving DecidableEq, Repr

/-- The register files of a context (R76); `g[0]` is never written, `p[0]` stands for no predicate. -/
structure RegFile where
  g : Vector (Face 64) 64 := Vector.replicate 64 {}
  k : Vector (Face 64) 32 := Vector.replicate 32 {}
  p : Vector (Face 1) 8 := Vector.replicate 8 {}
  v : Vector (Face 4096) 32 := Vector.replicate 32 {}
  m : Vector (Face 512) 8 := Vector.replicate 8 {}
deriving DecidableEq, Repr

/-- The port latches of one unit (R78): `.a`, `.b`, `.c`, `.r` with its enabled bits (R175), `.st`. [DESIGN CHOICE, log entry 12] -/
structure Latch where
  a  : Val := 0
  b  : Val := 0
  c  : Val := 0
  r  : Val := 0
  en : Val := BitVec.allOnes 4096
  st : D64 := 0
deriving DecidableEq, Repr

/-- The latches of every unit, in the order of R54. -/
abbrev Latches := Vector Latch 14

/-! ## Traps (R390, R397) -/

/-- The trap codes of R390. -/
inductive Trap where
  | illegalIndex | illegalBundle | illegalSocket | undersizedCount | doubleWrite | pendingDeadlock | eagerPlacement
  | spadRange | misaligned | fpTrap | intDivzero | bounds | software | tretOutside | badStatus | segmentFault
  | softError | matrixFault | notRestartable | detConflict | privilege
deriving DecidableEq, Repr

/-- A trap with what TRAPSTAT records of it (R397). [DEDUCED, log entry 22] -/
structure TrapInfo where
  code : Trap
  sock : Nat := 0
  slot : Nat := 15
  elem : Option Nat := none
  arg  : Nat := 0
deriving DecidableEq, Repr

/-! ## Results in flight (R118 to R120, R136) -/

/-- A result on its way to its port. -/
structure InFlight where
  unit    : FU
  seq     : Nat
  bundle  : Nat                       -- model: number of the bundle that triggered it
  due     : Nat                       -- LSC value at which it is due (R118)
  r       : Option (Val × Val) := none  -- value and enabled bits, if `.r` is delivered
  st      : Option D64 := none
  flags   : BitVec 6 := 0
  lanes   : List (Nat × BitVec 6) := [] -- per element: the flags it raised (R161), lowest first
  arrived : Bool := false             -- the result is physically there (R119)
  engine  : Bool := false             -- another event brings it (R119)
  late    : Option TrapInfo := none   -- a late-detected fault it carries (R201)
  need    : Option (Nat × Nat) := none  -- MSTAT: array operation, and the K-steps it must have done (R235)
deriving DecidableEq, Repr

/-! ## Scratchpad operations of a context (R198, R199, R204, R208) -/

/-- A field of an extractor pattern (R209). -/
structure PatField where
  off : Nat
  width : Nat            -- as stored: width - 1
  sx  : Bool
deriving DecidableEq, Repr

/-- A pattern slot's content (R209). -/
structure Pattern where
  per    : Nat           -- as stored: period - 1
  fields : List PatField
deriving DecidableEq, Repr

/-- What a scratchpad operation does when its turn comes. -/
inductive LsKind where
  | load (bytes : Nat) (sx : Bool)
  | store (data : List Byte)
  | ldfw | ldfk
  | stew (data : List Byte)
  | stff (data : List Byte)
  | feclr (bytes : Nat)
  | feq
  | ldpat (pat : Pattern) (lane : Nat)
  | rrot (dst size : Nat)
deriving DecidableEq, Repr

/-- A scratchpad operation that has been triggered and has not had its turn. -/
structure LsOp where
  seq    : Nat
  bundle : Nat
  unit1  : Bool          -- `ls1`
  kind   : LsKind
  addr   : Nat
  arrive : Nat           -- model: arrival number for R204's order
deriving DecidableEq, Repr

/-! ## Semaphore work (R281 to R316) -/

/-- An entry of a semaphore file: its 128 bits, its OWNER, and whether it is POISONED (R282, R314). -/
structure SemEntry where
  word   : BitVec 128 := 0
  owner  : Nat := 0xFFFF
  poison : Bool := false
deriving DecidableEq, Repr

/-- What a semaphore operation does at its entry (R288). -/
inductive SemKind where
  | sld | sst | sadd | smin | smax | scas
  | stx (slots : List (Nat × Nat × Nat × Nat))   -- op, address, operand, compare; by slot number
  | swaitge | barr | bexp | bwait | btest
  | cxfer (form : Nat)                           -- 0 q, 1 rn, 2 rz, 3 rd
  | cbal | ctotal | cfloor | cmint | cburn | sinit | cinfo
  | bdec                                         -- a card's barrier decrement held to a merge (R265, R361)
deriving DecidableEq, Repr

/-- A semaphore operation between its trigger and its performance (R292). -/
structure SemOp where
  id     : Nat
  ctx    : Nat
  die    : Nat                  -- the issuing die
  region : Nat
  kind   : SemKind
  addr   : Nat
  b      : D64
  c      : D64
  result : Option Nat := none   -- the in-flight result it delivers (its trigger number)
  rel    : Bool := false        -- a release form (R294)
  relSt  : Nat := 0             -- what the release covers: stores of earlier triggers
  read   : List Nat := []       -- CTOTAL: the files it has read (R311)
  sum    : Int := 0             -- CTOTAL: what they held
  late   : List Nat := []       -- CTOTAL: transfers credited in a file that it had read (R311)
  spoilt : Bool := false        -- CTOTAL: it has read a POISONED account (R311)
  armed  : Bool := false        -- it has reached its entry and waits there (R300, R303, R308)
deriving DecidableEq, Repr

/-- The deterministic round's overlay of a task (R360): its writes and tag changes, newest first, and its held operations. -/
structure Overlay where
  bytes : List ((Nat × Nat) × Byte) := []  -- (space, address), value; space 0 is MEM, 2 is CORE (R248)
  tags  : List (Nat × Bool) := []          -- core*2^18 + word, FULL
  sems  : List SemOp := []
  bad   : List (Nat × Nat) := []           -- poisoned units (R267): (0, 64-byte unit) or (2, 16-byte bank word)
  good  : List (Nat × Nat) := []           -- units that one write has covered whole
deriving DecidableEq, Repr

/-! ## Matrix engine (R217 to R240) -/

/-- A descriptor slot's content (R222). -/
structure Desc where
  kind : Nat
  fmt  : Nat
  stride : Nat
  base : Nat
deriving DecidableEq, Repr

/-- The state of an accumulator bank for one context (R101). -/
inductive BankState where
  | clean | read | fresh | lost
deriving DecidableEq, Repr

/-- One accumulator: two physical banks of 128 x 128 FP32 elements (key row*128 + column, unlisted +0), and which of
them is the working bank (R217, R109). -/
structure Acc where
  b0 : List (Nat × BitVec 32) := []
  b1 : List (Nat × BitVec 32) := []
  work1 : Bool := false
deriving DecidableEq, Repr

/-- What an operation of the array queue does (R232, R234). -/
inductive ArrayKind where
  | mma (ov gemm : Bool) (k : Nat) (da db : Desc) (dcv : Nat)
  | mzero
  | apush (row : Nat) (data : Val)
  | aswap
deriving DecidableEq, Repr

/-- An entry of a core's array queue (R226, R237). -/
structure ArrayOp where
  id     : Nat
  ctx    : Nat
  acc    : Nat
  kind   : ArrayKind
  tick   : Nat              -- completion tick, on its context's LSC (R225)
  started : Bool := false
  ksteps : Nat := 0         -- K-steps done (R235)
  flags  : BitVec 6 := 0
  discard : Bool := false   -- rolled back: its flags never reach FLG (R100)
  stop   : Bool := false    -- rolled back while running: stops at its next K-step (R239)
  fault  : Option TrapInfo := none
  postCk : Bool := false    -- triggered after its context's checkpoint (R239)
  bundle : Nat := 0         -- model: number of the bundle that triggered it (R231)
  rows   : List (Nat × (List Byte × List Nat)) := []  -- rows its streams have read: row*2, and 1 for B; bytes (R231), bad words (R240)
  view   : Option Overlay := none  -- deterministic round: what its task had written at its trigger (R327)
deriving DecidableEq, Repr

/-- What a context knows of an array operation it triggered, until its completion tick has passed (R227, R235). -/
structure ArrayTick where
  id   : Nat
  acc  : Nat
  tick : Nat
  swap : Bool
  done : Bool := false
  flags : BitVec 6 := 0     -- what it brings to FLG at its tick (R236)
  src   : Option Nat := none  -- the accumulator it reads as its A source (R224)
deriving DecidableEq, Repr

/-- The latest MGEMM of a context (R235): trigger tick, K-steps in all, ticks a K-step. -/
structure Gemm where
  id    : Nat := 0
  start : Nat := 0
  total : Nat := 0
  per   : Nat := 0
deriving DecidableEq, Repr

/-! ## Asynchronous writes (R89 to R91) -/

/-- An asynchronous write that has been issued and has not landed. -/
structure AsyncW where
  id      : Nat
  dst     : BitVec 12                -- `g`, `v` or `m` socket
  sb      : Bool                     -- span-bound
  value   : Option Val := none       -- once the engine has brought it
  handler : Bool := false            -- issued in handler state (R395, R396)
  postCk  : Bool := false            -- issued after the last checkpoint (R100)
  drop    : Bool := false            -- of a discarded operation: leaves no trace (R100)
  fault   : Option TrapInfo := none  -- an uncorrectable unit read by CPLD (R267)
  twin    : Option Nat := none       -- a residency mask: the write it lands with (R268)
deriving DecidableEq, Repr

/-! ## Waits before the next bundle (R114) -/

/-- What a context waits for before its next bundle, after the bundle that triggered it. -/
inductive Wait where
  | storesTo (seq : Nat)             -- FENCE bit 0: stores up to this trigger number (R135)
  | asyncTo (id : Nat)               -- FENCE bit 1: asynchronous writes up to this number (R135)
  | copyTo (scope : Nat)             -- DRAIN (R270)
  | semDone (seq : Nat)              -- acquire, or SWAITGE and BWAIT (R294, R320), by its trigger number
  | semSent (op : Nat)               -- the release of R294, before the operation is sent
  | arrayTo (id : Nat)               -- MFENCE (R234)
  | aswap (id : Nat)                 -- ASWAP (R234)
  | round (launch number : Nat)      -- RNDCMT (R356)
deriving DecidableEq, Repr

/-! ## Copy work (R247 to R273) -/

/-- A run of stream bytes that a card has read and not written: stream offset, bytes, whether a byte came from an
uncorrectable unit (R266, R267). -/
structure Piece where
  pos   : Nat
  bytes : List Byte
  bad   : Bool
deriving DecidableEq, Repr

/-- What a copy job is. -/
inductive JobKind where
  | card (words : List D64)                      -- the captured card (R249, R252)
  | cpld (va bytes : Nat) (dst : BitVec 12) (sb : Bool) (mask : Option (BitVec 12))
  | cpst (va : Nat) (data : List Byte)
  | pagereq (va : Nat) (write : Bool)
deriving DecidableEq, Repr

/-- A copy job of a die, from its issue to its completion (R252 to R263). -/
structure Job where
  id     : Nat
  ctx    : Nat
  core   : Nat
  region : Nat
  launch : Nat
  kind   : JobKind
  asid   : Nat
  gen    : Nat
  token  : Nat                        -- `g` register of the status word, 0 for none
  handler : Bool := false             -- triggered in handler state (R395)
  async  : Option Nat := none         -- the asynchronous write its token or value lands by
  async2 : Option Nat := none         -- CPLD's residency mask
  chan   : Option Nat := none         -- the channel it holds once dispatched
  words  : List Nat := []             -- the index list, once read (R262)
  read   : Nat := 0                   -- stream bytes read, from the stream's start without a gap
  early  : List (Nat × Nat) := []     -- runs read beyond them: offset and length
  leaves : List (Nat × D64 × Nat) := []  -- the destination pages as dispatch found them: an address, leaf, log2 of the size (R262)
  buf    : List Piece := []           -- read and not written yet
  owed   : Nat := 0                   -- bytes performed whose barrier decrement is not applied yet
  held   : Nat := 0                   -- budget set aside (R254)
  status : Nat := 0                   -- status code so far (R263)
  info   : Nat := 0
  absent : List Nat := []             -- 1 KiB chunks that held absent bytes (R264)
  poison : Option Nat := none         -- stream offset of the first poisoned byte
  unreach : Option Nat := none        -- a node that could not be reached
  moving : Bool := false              -- passed R262 and moves its stream
  ended  : Bool := false              -- its status stands: by a check of R262, or every byte has performed
  ov     : Option Nat := none         -- deterministic round: the overlay it writes to (R327, R360)
  moved  : List (Nat × Nat) := []     -- cores it names whose scratchpad stands in an image, or on another core, since (R280)
  marked : List Nat := []             -- destination units that it has written poisoned (R267)
deriving DecidableEq, Repr

/-! ## Transfers and continuations (R308, R354) -/

/-- Where a transfer between dies stands (R308, R309, R313). -/
inductive XferStage where
  | credit | refund | ack
deriving DecidableEq, Repr

/-- A transfer between dies (R308); its number orders it among the transfers of its context and stands for the sequence
number that its credit carries. -/
structure Xfer where
  id    : Nat
  ctx   : Nat
  region : Nat
  result : Option Nat
  src   : Nat
  dst   : Nat
  amount : Nat
  cls   : Nat
  rem   : BitVec 32
  status : Nat
  stage : XferStage := .credit
  told  : Bool := false         -- its result has been delivered (R313)
deriving DecidableEq, Repr

/-- A WAITC continuation that waits for its condition (R354). -/
inductive ContCond where
  | counter (addr : Nat) (threshold : D64)
  | barrier (addr : Nat) (phase : Bool)
  | tag (core addr : Nat)
deriving DecidableEq, Repr

/-! ## Seeds and tasks (R345 to R356) -/

/-- A seed in existence (R345), with the status word of a continuation (R354) and the place it may be taken. -/
structure Seed where
  slot  : Nat
  ckEn  : Bool := false
  pin   : Bool := false
  move  : Bool := false
  round : Nat := 0
  pos   : Nat := 0
  key   : Nat := 0
  task  : D64 := 0
  live  : List D64 := []
  g6    : Option D64 := none       -- continuation: the watch's status word
  only  : Option Nat := none       -- TAG continuation: the core that may take it
  initial : Bool := true           -- not a continuation: may start in residual code (R371)
deriving DecidableEq, Repr

/-- A continuation that waits (R354). -/
structure Cont where
  id     : Nat
  launch : Nat
  ctx    : Nat
  region : Nat
  cond   : ContCond
  seed   : Seed
  armed  : Bool := false           -- its watch has reached the entry
  status : Option D64 := none      -- the condition has been met, or could not be armed
deriving DecidableEq, Repr

/-- A seed with MOVE on its way with its tiles (R369). -/
structure MoveSeed where
  id     : Nat
  launch : Nat
  region : Nat
  node   : Nat
  seed   : Seed
  tiles  : List (Nat × Nat × Nat)  -- source, destination, length
  gen    : Nat := 0                -- the generation at POST (R276)
  shard  : Nat := 0                -- the shard that it enters at this node (R348)
  ctx    : Nat := 0                -- the context that posted it
  ov     : Option Nat := none      -- deterministic round: the overlay its tiles are written to (R327)
  copied : Bool := false           -- its tiles have been written
deriving DecidableEq, Repr

/-- The task a context runs (R346, R355). -/
structure Task where
  seed : Option Seed := none       -- holds the seed's SEEDB unit
  id   : D64 := 0
  round : Nat := 0
deriving DecidableEq, Repr

/-! ## Checkpoint mode (R93 to R101) -/

/-- A command or store withheld by checkpoint mode (R95). -/
inductive Withheld where
  | store (op : LsOp)
  | job (j : Job)
  | sem (op : SemOp)
  | send (pipe : Nat) (data : List Byte)
deriving DecidableEq, Repr

/-- A landing that a rollback must apply again (R100): socket and value, of a write issued at or before the checkpoint. -/
structure Landing where
  dst   : BitVec 12
  value : Val
  free  : Bool
deriving DecidableEq, Repr

/-- An open loop (R127). -/
structure LoopEnt where
  start : Nat
  exit  : Nat
  left  : Nat
  iter  : Nat
  depth : Nat
deriving DecidableEq, Repr

/-- The shadow set (R94); due ticks are kept on the LSC, which a rollback sets back. -/
structure Shadow where
  regs  : RegFile
  lat   : Latches
  desc  : Vector (Option Desc) 8
  dcv   : Nat
  infl  : List InFlight
  swaps : Vector Nat 4
  link  : List Nat
  loops : List LoopEnt
  flg   : D64
  aticks : List ArrayTick
  gemm  : Gemm
  pos   : Nat
  tick  : Nat
  seq   : Nat                  -- model: trigger number at the checkpoint
deriving DecidableEq, Repr

/-! ## Bundles being carried out (R50, R403) -/

/-- The five span actions (R82), and none. -/
inductive SpanCode where
  | none | flip | flipW | flipC | flipCw | ckpt
deriving DecidableEq, Repr

/-- How a bundle ends the task or the context, after its span action (R129, R353, R356). -/
inductive EndKind where
  | halt | tdone | waitc | rndcmt
deriving DecidableEq, Repr

/-- The steps of a TRET (R396): its flip, the interrupted bundle's span action, the interrupted bundle's HALT. -/
inductive TretStep where
  | start | spanAction | finish
deriving DecidableEq, Repr

/-- What remains to be done of a bundle, in order. -/
inductive Todo where
  | check (n : Nat)            -- the checks of slot n's trigger (R391)
  | slot (n : Nat)
  | last (n : Nat)             -- the slot of a TRAP or TRET, which acts after the span action
  | seg
  | land                       -- landings that coincide with the bundle (R84)
  | span
  | event (e : Event)
  | endTask (k : EndKind)
  | tret (step : TretStep)
  | withdraw                   -- a bundle judged for its traps alone goes back before its issue (R407)
deriving DecidableEq, Repr

/-- A bundle between its issue and its end (R50): what its moves read, what is still to be done. -/
structure Frame where
  pos    : Nat
  next   : Nat                 -- NEXT of R126
  brSet  : Bool := false       -- a `br` operation set the position
  header : Word
  slots  : List Word
  todo   : List Todo
  regs   : RegFile             -- the registers at the issue tick
  lat    : Latches             -- the latches at the issue tick
  pats   : Vector (Option Pattern) 8   -- the pattern slots at the issue tick (R210)
  brR    : D64
  brSt   : D64
  cur    : Nat := 15           -- the slot being carried out
  dry    : Bool := false       -- only the checks of the slot are made (R163, R391)
  exit   : D64 := 0            -- HALT of this bundle: its exit value
  cont   : Option Cont := none -- WAITC of this bundle: its continuation
  code   : SpanCode := .none   -- the span action still to be done
  ck     : Bool := false       -- a checkpoint was taken in this bundle
  freed  : Bool := false       -- the end of the task has made its release (R129 step 2)
  dead   : Bool := false       -- a fault ends the context (R336)
  dwp    : Option D64 := none  -- WRSR of DWP in this bundle: governs from the next bundle (R87)
deriving DecidableEq, Repr

/-- The state set aside at trap entry (R394, R103). -/
structure Aside where
  regs  : RegFile
  lat   : Latches
  infl  : List InFlight        -- due ticks on the LSC, which TRET sets back to `tick`
  link  : List Nat
  loops : List LoopEnt
  idle  : Nat
  tick  : Nat
  span  : SpanCode := .none    -- the span action still to be done (R88)
  exit  : D64 := 0             -- the held HALT's exit value (R133)
  aticks : List ArrayTick := []
  ls    : List LsOp := []      -- withdrawn operations, armed again at TRET (R394)
  waits : List Wait := []
  recvs : List (Nat × Nat) := []  -- withdrawn RECVs (R366)
deriving DecidableEq, Repr

/-! ## Contexts (R112, R105) -/

/-- Whether a context runs (R112, R401). -/
inductive CtxStatus where
  | halted       -- HALTED: has executed HALT, or holds no work
  | seeking (turn : Nat) (again : Bool)  -- looks for a seed at this step of its turn; `again`: a seed came behind it (R349)
  | running
  | saved        -- saved without having halted
deriving DecidableEq, Repr

/-- The context-scope system registers (R105). -/
structure SysRegs where
  flg      : D64 := 0
  dwp      : D64 := 0
  ckmode   : D64 := 0
  trapstat : D64 := 0x00000FFF80000000#64
  trappc   : D64 := 0
  trapopc  : D64 := 0
  trapiter : D64 := 0
  rpc      : Nat := 0
  rolls    : Nat := 0
  impl     : Nat := 0
  scb      : Bool := false
  ltb      : Bool := false     -- LATTAB.DECL
  retimed  : Bool := false
deriving DecidableEq, Repr

/-- One context (R112). [DESIGN CHOICE, log entry 2] -/
structure Ctx where
  status  : CtxStatus := .halted
  launch  : Option Nat := none
  kslot   : Nat := 0
  gang    : Bool := false
  task    : Task := {}
  pc      : Nat := 0
  lsc     : Nat := 0
  idle    : Nat := 0
  regs    : RegFile := {}
  lat     : Latches := Vector.replicate 14 {}
  infl    : List InFlight := []
  seq     : Nat := 0           -- model: trigger number
  bundle  : Nat := 0           -- model: bundle number
  link    : List Nat := []
  loops   : List LoopEnt := []
  sys     : SysRegs := {}
  pats    : Vector (Option Pattern) 8 := Vector.replicate 8 none
  desc    : Vector (Option Desc) 8 := Vector.replicate 8 none
  dcv     : Nat := 0
  banks   : Vector BankState 8 := Vector.replicate 8 .clean   -- index accumulator*2 + physical bank
  swaps   : Vector Nat 4 := Vector.replicate 4 0
  gemm    : Gemm := {}
  aticks  : List ArrayTick := []
  shadow  : Option Shadow := none
  aside   : Option Aside := none
  handler : Bool := false      -- HANDLER_STATE (R394)
  frame   : Option Frame := none
  waits   : List Wait := []
  ls      : List LsOp := []
  recvs   : List (Nat × Nat) := []   -- RECVs that have taken nothing: trigger number and pipe (R366)
  held    : List Withheld := []
  going   : List Withheld := []  -- released commands and stores that have not issued yet, in order (R98, R253, R365)
  async   : List AsyncW := []
  landed  : List Landing := []   -- landings since the checkpoint of writes issued at or before it (R100)
  fetched : Bool := false        -- the body words of its literal bundle are there (R65)
  foreign : Bool := false        -- original code has transferred to a residual position, which R381 forbids
  late    : List TrapInfo := []  -- late faults detected and not taken (R391)
  ov      : Overlay := {}
  wrote   : List Nat := []     -- accumulator banks that its task has written (R360): accumulator*2 + physical bank
  stop    : Bool := false      -- stopped for a context save (R405)
deriving DecidableEq, Repr

/-! ## Code store (R59 to R75) -/

/-- A segment of a kernel (R67). -/
structure Segment where
  start : Nat
  len   : Nat
  addr  : Nat
deriving DecidableEq, Repr

/-- A frame of the index store (R66, R69). -/
structure IdxFrame where
  seg     : Option Nat := none     -- the segment it holds
  words   : List Idx := []
  loading : Option Nat := none
  used    : Nat := 0               -- model: when it was last issued from
  gen     : Nat := 0               -- the generation its load carries (R71, R276)
deriving DecidableEq, Repr

/-- Residual code of one entry point (R381): base, index words, new entries, and the position map: for each residual
bundle its position, its original position and its TRAPITER. -/
structure Residual where
  entry   : Nat
  base    : Nat
  words   : List Idx
  entries : List (List Word)
  map     : List (Nat × Nat × D64)
deriving DecidableEq, Repr

/-- A kernel installed on a core (R60): the physical chunks of its chunk map, its dictionary, its frames. -/
structure Kernel where
  launch  : Nat
  kslot   : Nat
  allow   : Nat                    -- its `dict` allowance
  chunks  : List Nat
  dict    : List (Option (List Word))
  segs    : List Segment
  frames  : List IdxFrame
  resids  : List Residual := []
  demand  : List (Nat × Nat)       -- contexts that wait for a segment, in order of arrival
  faulted : List Nat := []         -- contexts whose demanded load failed (R71)
  feat    : Nat                    -- required feature mask
  retimed : Bool := false          -- retimed for the native table (R387)
  lit     : List (Nat × Nat) := [] -- what retiming adds to the IDLE field of a literal bundle, by its position (R387)
deriving DecidableEq, Repr

/-! ## Cores -/

/-- An RROT armed at a core (R213). -/
structure RrotArm where
  ctx  : Nat
  seq  : Nat
  src  : Nat
  dst  : Nat
  size : Nat
deriving DecidableEq, Repr

/-- One control core. -/
structure Core where
  spad    : Memory := []
  empty   : List Nat := []          -- words whose tag is EMPTY (R203)
  poison  : List Nat := []          -- 16-byte bank words that hold an uncorrectable error (R201)
  tagBad  : List Nat := []          -- words whose tag holds a parity error (R201)
  area    : Option (Nat × Nat) := none  -- the launch that holds the area, and its bytes (R193)
  accs    : Vector Acc 4 := Vector.replicate 4 {}
  accBad  : List Nat := []          -- poisoned banks: accumulator*2 + physical bank (R240)
  arrayBad : Bool := false          -- uncorrectable error in the array
  aq      : List ArrayOp := []      -- the array queue, oldest first (R226)
  kernels : List Kernel := []
  chunks  : List Nat := []          -- dictionary chunks allotted (R59)
  frames  : Nat := 0                -- frames allotted (R66)
  holder  : Nat := 0                -- R113
  yielded : Bool := false           -- R115
  issued  : Nat := 0                -- consecutive cycles of the holder with another context READY (R115)
  rrot    : List RrotArm := []      -- armed first, then the RROTs that wait behind it (R213)
  rrots   : Nat := 0                -- rotations that this core's RROTs have completed (R213)
  cycle   : Nat := 0                -- cycles from die reset at the last bank-calendar boundary (R191)
  saving  : Bool := false           -- stopped for a core save (R402)
deriving DecidableEq, Repr

/-! ## Dies -/

/-- A cached translation (R275); `chan` 64 is the die TLB. -/
structure TlbEnt where
  chan : Nat
  asid : Nat
  gen  : Nat
  size : Nat                        -- log2 of the page size
  page : Nat
  leaf : D64
  at_  : Nat                        -- the physical address of the table entry it was read from
deriving DecidableEq, Repr

/-- The key material of the specialisation cache (R384). -/
structure SpecKey where
  image  : Nat
  kernel : Nat
  entry  : Nat
  args   : List Byte
  ltb    : Bool
  feat   : Nat
  policy : Nat
deriving DecidableEq, Repr

/-- An entry of a die's specialisation cache (R383). -/
structure SpecEnt where
  key    : SpecKey
  region : Nat
  bytes  : Nat
  used   : Nat
  code   : Residual
  report : D64
  users  : List Nat                 -- launches that run it
  own    : Bool := false            -- cut short by BUDGET or SPACE: it serves its one user and is never hit (R383)
  bad    : List (Nat × Nat) := []   -- `:q` moves of its region that did not fold: position and slot (R378)
  seen   : List (Nat × Nat) := []   -- `:q` moves of its region that folded
deriving DecidableEq, Repr

/-- One compute die (the hub die has only a semaphore file). -/
structure Die where
  ws      : Memory := []            -- weight store (R241)
  wsBad   : List Nat := []          -- poisoned 64-byte units (R246)
  jobs    : List Job := []          -- in queue order (R252)
  slots   : List (Nat × Byte) := [] -- slot table: slot*64 + channel; unlisted cells are FREE (R259)
  newSlots : Option (List (Nat × Byte)) := none
  cycle   : Nat := 0                -- die cycles from die reset at the last calendar boundary (R244, R259)
  spec    : Nat := 0                -- SPECDROP (R275)
  tlb     : List TlbEnt := []
  drops   : List (Nat × Nat) := []  -- drop count of each region (R291)
  cache   : List SpecEnt := []
  sag     : Option Nat := none      -- the clock SAG demands, in kHz (R427)
  thermal : Option Nat := none
deriving DecidableEq, Repr

/-! ## The module -/

/-- An address space (R276). -/
structure Space where
  root    : Option Nat := none      -- physical address of the root table (R274)
  gen     : Nat := 0
  advance : Option (Nat × Nat) := none  -- an advance in progress: queue and TAG of the GENADV
deriving DecidableEq, Repr

/-- A migration record (R272): new frame, old frame, absent lines, and whether background pulling has begun. -/
structure Migration where
  new    : Nat
  old    : Nat
  absent : List Nat
  active : Bool := false
  asid   : Nat
deriving DecidableEq, Repr

/-- A write of a copy operation that some agent need not see yet (R270, R317, R321): the operation with its context, core and die, the
widest scope at which the write has performed (0 context, 1 core, 2 die, 3 domain), its 64-byte unit, the unit as it was before the
write, the bytes written with their place in the unit, and the contexts that see it from now on. [DESIGN CHOICE, log entry 27] -/
structure Lag where
  job   : Nat
  ctx   : Nat
  core  : Nat
  die   : Nat
  level : Nat
  unit  : Nat
  old   : List Byte
  off   : Nat := 0
  data  : List Byte := []
  known : List Nat := []
deriving DecidableEq, Repr

/-- A region (R333): its control block's words D0 to D12, and what has been spent. -/
structure Region where
  rcb    : List D64
  cycb   : Nat := 0                 -- what remains of each budget (R337)
  copyb  : Nat := 0
  seeds  : Nat := 0                 -- seeds in existence
  heldC  : Bool := false            -- CYCB is spent
deriving DecidableEq, Repr

/-- A partition (R331, R427 to R429). [DESIGN CHOICE, log entry 44] -/
structure Partition where
  bangles : List Nat := []          -- module bangle numbers: die*16 + bangle
  cap     : Nat := 0                -- CAPSET watts, 0 for none
  account : Nat := 0                -- semaphore address of its energy allowance
  partClk : Option Nat := none      -- the clock that the cap demands, in kHz
  watts   : Nat := 0                -- power used in the last millisecond
  sticky  : BitVec 5 := 0           -- CAPCAUSE 12:8
deriving DecidableEq, Repr

/-- A kernel of an image (R42, R26 to R32). [DESIGN CHOICE, log entry 9] -/
structure KernelImage where
  allow   : Nat
  feat    : Nat                     -- required feature mask
  group   : Nat := 0                -- residency group (R27)
  grid    : Nat × Nat               -- virtual bangles, cores a bangle
  dict    : List (List Word)
  segs    : List Segment
  stream  : Nat                     -- index words in all
  part    : Nat × Nat               -- scratchpad part: base and bytes (R193)
  data    : List (Nat × List Byte)  -- scratchpad contents (R29, R30)
  dynamic : List Nat := []          -- `k` registers declared `dyn`
  badSeg  : Option Nat := none      -- the lowest segment whose table entry's reserved fields are not zero (R67)
deriving DecidableEq, Repr

/-- A pipe of an image: sending kernel, receiving kernel, and for a link the peer node (R32, R363). -/
structure Pipe where
  number : Nat
  sender : Option Nat
  receiver : Option Nat
  peer   : Option (Nat × Nat) := none   -- node, and pipe number there
deriving DecidableEq, Repr

/-- An image (R42): the spec gives its contents and no byte layout, so it is data at an address (log entry 9).
[DESIGN CHOICE, log entry 9] -/
structure Image where
  skenis3 : Bool
  ltb     : Bool
  digest  : Nat
  kernels : List KernelImage
  pipes   : List Pipe
  objects : List (Nat × List Byte)  -- memory objects: address and contents (R29)
deriving DecidableEq, Repr

/-- Kinds of launch (R338). -/
inductive LaunchKind where
  | gang | operator | task
deriving DecidableEq, Repr

/-- A submitted task of a deterministic round, waiting for the merge (R361). -/
structure RoundTask where
  id : D64
  ov : Overlay
deriving DecidableEq, Repr

/-- The contents at the start of a deterministic round, as its tasks read them (R327, R328, R360): memory, its poison and its
migrations, each core's scratchpad and EMPTY tags, the entries and the transfers. -/
structure RoundBase where
  mem     : Memory := []
  memBad  : List Nat := []
  migs    : List Migration := []
  spads   : List (Nat × (Memory × List Nat)) := []
  sems    : List (Nat × SemEntry) := []
  transit : List (Nat × Nat) := []
  xfers   : List Xfer := []
deriving DecidableEq, Repr

/-- The walker of an operator launch (R357, R358). -/
structure Walker where
  slot  : Nat := 0
  ckEn  : Bool := false
  pin   : Bool := false
  pos   : Nat := 0
  keyc  : Nat := 0
  bases : List D64 := []
  levels : List (Nat × List Nat) := []  -- count, and the strides of the four cursors
  next  : Nat := 0
  total : Nat := 0
deriving DecidableEq, Repr

/-- Where a launch stands. -/
inductive LaunchStage where
  | waiting | placed | preempted | retired
deriving DecidableEq, Repr

/-- A launch (R338 to R343). -/
structure Launch where
  region  : Nat
  image   : Image
  kind    : LaunchKind
  klist   : List Nat                -- the kernels it installs, in the order of the list for a gang
  args    : List Byte               -- the uniform argument block, filled to 256 bytes (R77)
  policy  : Nat                     -- the policy word (R384)
  status  : Nat                     -- host address of the status block, 0 for none
  queue   : Nat
  tag     : Nat
  order   : Nat                     -- order of submission (R341)
  stage   : LaunchStage := .waiting
  code    : Nat := 0
  die     : Nat := 255
  kfail   : Nat := 0
  detail  : Nat := 0
  info    : List D64 := [0, 0, 0, 0, 0]
  bangles : List Nat := []          -- the bangles of the grid, in virtual order (R339)
  perB    : Nat := 1                -- cores a bangle
  ctxs    : List (Nat × List Nat) := []  -- each core of the grid and the contexts held there (R340)
  handlers : List (List D64) := []  -- the handler table's copy, a block of 32 for each kernel (R392, R393)
  shards  : List (List Seed) := []
  walker  : Walker := {}
  opbOk   : Bool := true            -- the operator parameter block passes R357
  seeds   : List Seed := []         -- a task launch's initial seeds that do not exist yet
  kindOk  : Bool := true            -- the kernel list and the initial seed records pass R338 and R416
  entries : List (Nat × Nat) := []  -- entry points: kernel slot and position (R371)
  exits   : List (Nat × D64) := []  -- exit values by grid context (R343)
  spec    : List D64 := [0, 0, 0, 0]
  tlist   : Bool := false           -- escalation recorded (R399)
  det     : Bool := false
  round   : Nat := 0
  tasks   : List RoundTask := []
  waiting : List Nat := []          -- contexts at RNDCMT
  base    : Option RoundBase := none  -- what the round in force reads (R327, R360)
  faulted : Bool := false           -- a fault ends it (R336)
  closed  : List (Nat × Nat) := []  -- links whose peer context has halted: virtual core and pipe (R366, R367)
deriving DecidableEq, Repr

/-- A message on its way, or in the receive queue of a recv end (R363 to R366); `place` is the launch, the grid
place and the pipe. -/
structure Message where
  id    : Nat
  place : Nat × Nat × Nat
  data  : List Byte
  here  : Bool := false
deriving DecidableEq, Repr

/-- A packet that has been issued and has not completed (R414). -/
structure OpenPacket where
  tag : Nat
  op  : Nat
  launch : Option Nat := none
  asid : Option Nat := none         -- GENADV
deriving DecidableEq, Repr

/-- A buffer of packets (R417): address in host memory, next byte, end; `path` tells this call from every other that the
queue holds: the offsets of the CALL packets that lead to it. -/
structure CallFrame where
  addr  : Nat
  path  : List Nat
  at_   : Nat
  len   : Nat
  tag   : Nat
deriving DecidableEq, Repr

/-- A command queue (R413 to R419). -/
structure Queue where
  func    : Nat := 0
  base    : Nat := 0
  log     : Nat := 4
  head    : Nat := 0                -- byte offset of the next packet
  tail    : Nat := 0
  headAt  : Nat := 0                -- where the head index is written back
  stopped : Bool := false
  open_   : List OpenPacket := []
  calls   : List CallFrame := []    -- innermost first
  pre     : List (List Nat × List Byte) := []  -- units that look-ahead has fetched: path of the call and unit (R418)
  ring    : Nat := 0                -- completion ring: base, index, records in all
  ringAt  : Nat := 0
  ringLen : Nat := 4096
  count   : Nat := 1
  timeout : Nat := 0
  held    : Nat := 0                -- completions held
  vectors : Nat := 0                -- interrupts sent
deriving DecidableEq, Repr

/-- A PCIe function (R412). -/
structure Func where
  pf   : Bool := false
  link : Nat := 0                   -- the link of a physical function; the two links share the virtual ones
  part : Option Nat := none         -- the partition that a virtual function is bound to
deriving DecidableEq, Repr

/-- The functions of the module (R412): one physical function for each link, numbers 0 and 1, and 64 virtual ones.
[DESIGN CHOICE, log entry 14] -/
def functions : List (Nat × Func) :=
  (0, { pf := true, link := 0 }) :: (1, { pf := true, link := 1 }) :: (List.range 64).map fun v => (v + 2, {})

/-- A firmware image (R422, R424). -/
structure FwImage where
  code    : Nat
  digest  : Nat
  version : Nat
  sigRsa  : Nat
  sigSlh  : Nat
  handover : Nat                    -- the handover major version it knows
  boots   : Bool := true            -- its first heartbeat comes
deriving DecidableEq, Repr

/-- Mbondatin and the identity of the hub (R420 to R425). -/
structure Firmware where
  slots    : List FwImage := [⟨0, 0, 0, 0, 0, 1, true⟩, ⟨0, 0, 0, 0, 0, 1, true⟩]
  cur      : Nat := 0
  missed   : List Nat := [0, 0, 0, 0]
  paused   : Bool := false
  quiesced : Bool := false
  handover : Option Nat := none     -- the handover structure's version
  first    : Bool := true           -- the first heartbeat of the running image has come
  minVer   : Nat := 0               -- fused minimum security version
  measured : Nat := 0               -- digest of the measured image
  beats    : Nat := 0
  resets   : Nat := 0
  staged   : List FwImage := []     -- images written to the inactive slot by system software
deriving DecidableEq, Repr

/-- The SPDM responder (R423). -/
structure Spdm where
  version : Bool := false
  caps    : Bool := false
  algs    : Nat := 0
  reply   : List Nat := []          -- the last response, as numbers
  chain   : List Byte := []         -- the certificate chain
deriving DecidableEq, Repr

/-- The hub's power controller (R426 to R429). -/
structure Power where
  level    : Nat := 0
  sequence : Nat := 0
  dropped  : Nat := 0
  accepted : Bool := false
  module   : Option Nat := none     -- the clock MODULE demands
deriving DecidableEq, Repr

/-- A saved image (R401 to R406): what its header holds. The content stands in the tables under the core number 512 + image, and the
context numbers of that core: what completes into a saved context finds it there (R111). -/
structure Saved where
  kind    : Nat                     -- 0 core image, 1 context image
  ctxs    : List Nat                -- the contexts present, by their place on the core
  region  : Nat
  core    : Nat
  feat    : Nat                     -- REQFEAT
  bytes   : Nat                     -- SIZE
  version : Nat := 1                -- VERSION
  launch  : Nat
  home    : Nat                     -- model: the number of the core, or image, that holds the launch's place
  code    : List Kernel := []       -- model: the launch's kernels with their residual code, as the contexts ran them (R75, R385)
deriving DecidableEq, Repr

/-- The header of an image: its words D0 to D7 (R406). -/
def Saved.header (i : Saved) : List D64 :=
  [BitVec.ofNat 64 (i.version * 2 ^ 48 + i.kind * 2 ^ 40 + (i.ctxs.map fun c => 2 ^ c).sum % 256 * 2 ^ 32 + i.region % 65536 * 2 ^ 16 + i.core % 512),
   BitVec.ofNat 64 i.bytes, BitVec.ofNat 64 (i.feat % 2 ^ 32), 0, 0, 0, 0, 0]

/-- The state of the module and of what it is attached to. [DESIGN CHOICE, log entry 2] -/
structure State where
  active  : Option Nat := none      -- model: the context whose bundle is being carried out
  args    : Args := {}              -- model: what the running event happens to
  sched   : List Event := []        -- model: what happens next
  free    : Nat := 0                -- model: counter of free values
  count   : Nat := 1                -- model: numbers for jobs, operations and messages
  cycles  : Nat := 0                -- model: steps in which time passed
  ctxs    : List (Nat × Ctx) := []
  cores   : List (Nat × Core) := []
  dies    : List (Nat × Die) := []
  feat    : Nat := 3                -- FEAT, the same on every core (R408)
  stepB   : Bool := false           -- stepping B0 (R122)
  node    : Nat := 0                -- this module's node number (R3)
  nodes   : List Nat := [0]         -- nodes of the load-store domain (R281)
  unreach : List Nat := []          -- nodes reported unreachable (R313)
  mem     : Memory := []            -- memory of the domain, at node*2^44 + physical address (R278)
  memBad  : List Nat := []          -- poisoned 64-byte units (R267)
  lags    : List Lag := []          -- writes that not every agent need see yet, oldest first (R270, R317)
  cxl     : Nat := 0                -- populated bytes of the CXL tier (R278)
  hbm     : List Nat := []          -- retired HBM stacks (R5)
  peers   : List (Nat × (Nat × List Nat)) := []  -- the same two of the other nodes of the domain (R278)
  ports   : List Nat := []          -- retired torc ports (R5)
  retired : List Nat := []          -- retired bangles (R5)
  spaces  : List (Nat × Space) := []
  migs    : List Migration := []
  sems    : List (Nat × SemEntry) := []  -- by the address of R281
  classes : List (Nat × Nat) := [(255, 20)]  -- defined scale classes and their exponents (R287)
  transit : List (Nat × Nat) := []  -- in-transit counts (R308): at (node, die)*256 + class
  semOps  : List SemOp := []
  xfers   : List Xfer := []
  conts   : List Cont := []
  moves   : List MoveSeed := []
  msgs    : List Message := []
  regions : List (Nat × Region) := []
  parts   : List (Nat × Partition) := []
  images  : List ((Nat × Nat) × Image) := []   -- by ASID and virtual address
  loaded  : List (Nat × Nat) := []  -- images whose memory objects are written: ASID and digest (R29)
  launches : List (Nat × Launch) := []
  nlaunch : Nat := 0
  saves   : List (Nat × Saved) := []
  host    : Memory := []            -- host memory
  funcs   : List (Nat × Func) := functions
  queues  : List (Nat × Queue) := []
  fw      : Firmware := {}
  spdm    : Spdm := {}
  power   : Power := {}
deriving DecidableEq, Repr

/-- The machine right after reset: no context started, every tag full, every semaphore entry UNSET, every slot-table cell
FREE (R76, R282, R259); every register at the value the spec gives, or a log entry names.
[DEDUCED, log entry 1] [DESIGN CHOICE, log entry 7] [DESIGN CHOICE, log entry 12] [DESIGN CHOICE, log entry 13] -/
def State.reset : State := {}

end Sys2Proof.Machine
end

