-- ==== Sys2Proof/Machine/Flags.lean ====
section
/-! DEFINITION. The six arithmetic flags (R158, R159), the status words of the scalar units (R164) and of `vec` (R176), the
merge into FLG and the enabled flags (R160, R161). -/

namespace Sys2Proof.Machine

/-- Flag sets in the bit positions of FLG 5:0 (R159). -/
abbrev FlagSet := BitVec 6

def fIV : FlagSet := 0x01#6
def fDZ : FlagSet := 0x02#6
def fOF : FlagSet := 0x04#6
def fUF : FlagSet := 0x08#6
def fNX : FlagSet := 0x10#6
def fSAT : FlagSet := 0x20#6

def flagIf (b : Bool) (f : FlagSet) : FlagSet := if b then f else 0

/-- The status word of `al0`, `al1` and `mul`: V, C, and N and Z of the result (R164, R165). -/
def aluStatus (v c : Bool) (r : D64) : D64 :=
  (BitVec.ofBool v ++ BitVec.ofBool c ++ BitVec.ofBool r.msb ++ BitVec.ofBool (r == 0)).setWidth 64

/-- The flags of every lane together (R158). -/
def lanesFlags (l : List (Nat × FlagSet)) : FlagSet := l.foldl (fun f p => f ||| p.2) 0

/-- The lowest lane that raised a flag of `among` (R161, R176). -/
def lowestLane (among : FlagSet) (l : List (Nat × FlagSet)) : Option Nat :=
  (l.filter fun p => p.2 &&& among != 0).foldl
    (fun m p => match m with | none => some p.1 | some n => some (min n p.1)) none

/-- `vec.st` (R176). -/
def vecStatus (l : List (Nat × FlagSet)) : D64 :=
  let lane := lowestLane 0x3F#6 l
  BitVec.ofNat 64 ((if lane.isSome then 2 ^ 25 else 0) + (lane.getD 0x1FF) * 2 ^ 16 + (lanesFlags l).toNat)

/-- Flags enter FLG by OR (R159). -/
def mergeFlags (flg : D64) (f : FlagSet) : D64 := flg ||| f.setWidth 64

/-- The flags whose trap enable FLG holds (R159, R160). -/
def enabledFlags (flg : D64) : FlagSet := flg.extractLsb' 8 6

/-- The bits of FLG that WRSR may set (R159, R106). -/
def flgMask : D64 := 0x3F3F#64

end Sys2Proof.Machine
end

