-- ==== Sys2Proof/Machine/Formats.lean ====
section
/-! DEFINITION. Number formats and exact arithmetic (R137 to R157): every operation is computed exactly on integers and
rounded once. A finite value is a sign, a natural significand and a power of two. -/

namespace Sys2Proof.Machine

/-- A floating-point format (R137): widths, bias, its codes of the largest finite value, of infinity where it has one, and
of the canonical NaN. -/
structure Fmt where
  ebits : Nat
  fbits : Nat
  bias  : Nat
  max   : Nat
  inf   : Option Nat
  nan   : Nat
deriving DecidableEq, Repr

def f32 : Fmt := ⟨8, 23, 127, 0x7F7FFFFF, some 0x7F800000, 0x7FC00000⟩
def f16 : Fmt := ⟨5, 10, 15, 0x7BFF, some 0x7C00, 0x7E00⟩
def bf16 : Fmt := ⟨8, 7, 127, 0x7F7F, some 0x7F80, 0x7FC0⟩
def e4m3 : Fmt := ⟨4, 3, 7, 0x7E, none, 0x7F⟩
def e5m2 : Fmt := ⟨5, 2, 15, 0x7B, some 0x7C, 0x7E⟩

def Fmt.width (f : Fmt) : Nat := 1 + f.ebits + f.fbits
def Fmt.signBit (f : Fmt) : Nat := 2 ^ (f.ebits + f.fbits)
/-- The exponent of the smallest normal value. -/
def Fmt.emin (f : Fmt) : Int := 1 - (f.bias : Int)

/-- A decoded value (R138); `fin` is (-1)^neg * m * 2^e. -/
inductive Fp where
  | nan
  | inf (neg : Bool)
  | fin (neg : Bool) (m : Nat) (e : Int)
deriving DecidableEq, Repr

/-- The value of an encoding (R138, R139). -/
def Fmt.decode (f : Fmt) (code : Nat) : Fp :=
  let neg := (code / f.signBit) % 2 == 1
  let mag := code % f.signBit
  let e := mag / 2 ^ f.fbits
  let m := mag % 2 ^ f.fbits
  match f.inf with
  | some i => if mag = i then .inf neg else if mag > i then .nan
              else if e = 0 then .fin neg m (f.emin - f.fbits)
              else .fin neg (m + 2 ^ f.fbits) ((e : Int) - f.bias - f.fbits)
  | none => if mag > f.max then .nan
            else if e = 0 then .fin neg m (f.emin - f.fbits)
            else .fin neg (m + 2 ^ f.fbits) ((e : Int) - f.bias - f.fbits)

/-- The rounding helpers of R146. -/
inductive Mode where
  | rne | rz | rd
deriving DecidableEq, Repr

/-- `m / 2^k` rounded to a natural number; the sign decides ROUND_RD. The flag says whether it is inexact. -/
def roundShift (md : Mode) (neg : Bool) (m k : Nat) : Nat × Bool :=
  let q := m / 2 ^ k
  let r := m % 2 ^ k
  let up := match md with
    | .rne => decide (2 * r > 2 ^ k) || (2 * r == 2 ^ k && k != 0 && q % 2 == 1)
    | .rz => false
    | .rd => neg && r != 0
  (if up then q + 1 else q, r != 0)

/-- ROUND of a non-zero magnitude m * 2^e into a format (R146, R147): the code and the flags. -/
def Fmt.roundMag (f : Fmt) (md : Mode) (neg : Bool) (m : Nat) (e : Int) : Nat × FlagSet :=
  let top : Int := (Nat.log2 m : Int) + e
  let q : Int := if top ≥ f.emin then top - f.fbits else f.emin - f.fbits
  let (sig, inexact) :=
    if q ≤ e then (m * 2 ^ (e - q).toNat, false) else roundShift md neg m (q - e).toNat
  let code := (q - (f.emin - f.fbits)).toNat * 2 ^ f.fbits + sig
  let s := if neg then f.signBit else 0
  if code > f.max then
    let toMax := match md with | .rne => false | .rz => true | .rd => !neg
    let c := if toMax then f.max else f.inf.getD f.nan
    (s + c, fOF ||| fNX)
  else (s + code, flagIf (inexact && decide (top < f.emin)) fUF ||| flagIf inexact fNX)

/-- ROUND of any decoded value (R147, R148, R149): a NaN becomes the canonical NaN without a flag. -/
def Fmt.round (f : Fmt) (md : Mode) (v : Fp) : Nat × FlagSet :=
  match v with
  | .nan => (f.nan, 0)
  | .inf neg => match f.inf with
    | some i => ((if neg then f.signBit else 0) + i, 0)
    | none => (f.nan, 0)
  | .fin neg m e => if m = 0 then ((if neg then f.signBit else 0), 0) else f.roundMag md neg m e

/-- The signed integer of a sign and a magnitude. -/
def signed (neg : Bool) (m : Nat) : Int := if neg then -(m : Int) else m

/-- The exact sum, with the sign of an exact zero under ROUND_RNE (R148, R139). -/
def Fp.add (x y : Fp) : Fp × FlagSet :=
  match x, y with
  | .nan, _ => (.nan, 0)
  | _, .nan => (.nan, 0)
  | .inf a, .inf b => if a = b then (.inf a, 0) else (.nan, fIV)
  | .inf a, .fin _ _ _ => (.inf a, 0)
  | .fin _ _ _, .inf b => (.inf b, 0)
  | .fin a m e, .fin b n d =>
    let l := min e d
    let t : Int := signed a m * 2 ^ (e - l).toNat + signed b n * 2 ^ (d - l).toNat
    if t = 0 then (.fin (a && b && m == 0 && n == 0) 0 0, 0)
    else (.fin (decide (t < 0)) t.natAbs l, 0)

/-- The exact sum, with the sign of an exact zero under a mode (R148). -/
def Fp.addIn (md : Mode) (x y : Fp) : Fp × FlagSet :=
  match md, x, y, Fp.add x y with
  | .rd, .fin a _ _, .fin b _ _, (.fin _ 0 _, fl) => (.fin (a || b) 0 0, fl)
  | _, _, _, r => r

/-- The exact product (R139, R148). -/
def Fp.mul (x y : Fp) : Fp × FlagSet :=
  match x, y with
  | .nan, _ => (.nan, 0)
  | _, .nan => (.nan, 0)
  | .inf a, .inf b => (.inf (xor a b), 0)
  | .inf a, .fin b m _ => if m = 0 then (.nan, fIV) else (.inf (xor a b), 0)
  | .fin a m _, .inf b => if m = 0 then (.nan, fIV) else (.inf (xor a b), 0)
  | .fin a m e, .fin b n d => (.fin (xor a b) (m * n) (e + d), 0)

def Fp.neg (x : Fp) : Fp :=
  match x with
  | .nan => .nan
  | .inf a => .inf (!a)
  | .fin a m e => .fin (!a) m e

/-- Comparison of two values, none where one is a NaN; -0 and +0 are equal. -/
def Fp.cmp (x y : Fp) : Option Ordering :=
  match x, y with
  | .nan, _ => none
  | _, .nan => none
  | .inf a, .inf b => some (if a = b then .eq else if a then .lt else .gt)
  | .inf a, .fin _ _ _ => some (if a then .lt else .gt)
  | .fin _ _ _, .inf b => some (if b then .gt else .lt)
  | .fin a m e, .fin b n d =>
    let l := min e d
    some (compare (signed a m * 2 ^ (e - l).toNat) (signed b n * 2 ^ (d - l).toNat))

def Fp.isNeg : Fp → Bool
  | .nan => false
  | .inf a => a
  | .fin a _ _ => a

/-- MIN's order (R178): a value less than another, -0 less than +0. -/
def Fp.less (x y : Fp) : Bool :=
  match Fp.cmp x y with
  | some .lt => true
  | some .eq => x.isNeg && !y.isNeg
  | _ => false

/-! ## Lane operations on codes -/

def Fmt.add (f : Fmt) (a b : Nat) : Nat × FlagSet :=
  let (v, fl) := Fp.add (f.decode a) (f.decode b)
  let (c, g) := f.round .rne v
  (c, fl ||| g)

def Fmt.sub (f : Fmt) (a b : Nat) : Nat × FlagSet :=
  let (v, fl) := Fp.add (f.decode a) (f.decode b).neg
  let (c, g) := f.round .rne v
  (c, fl ||| g)

def Fmt.mul (f : Fmt) (a b : Nat) : Nat × FlagSet :=
  let (v, fl) := Fp.mul (f.decode a) (f.decode b)
  let (c, g) := f.round .rne v
  (c, fl ||| g)

/-- One rounding of a * b + c (R178). [DEDUCED, log entry 49] -/
def Fmt.fma (f : Fmt) (a b c : Nat) : Nat × FlagSet :=
  let (p, fl) := Fp.mul (f.decode a) (f.decode b)
  let (v, fm) := Fp.add p (f.decode c)
  let (r, g) := f.round .rne v
  (r, fl ||| fm ||| g)

def Fmt.minmax (f : Fmt) (max : Bool) (a b : Nat) : Nat :=
  match f.decode a, f.decode b with
  | .nan, _ => f.nan
  | _, .nan => f.nan
  | x, y => if max then (if x.less y then b else a) else (if y.less x then b else a)

/-- ABS (R178). -/
def Fmt.abs (f : Fmt) (a : Nat) : Nat :=
  match f.decode a with
  | .nan => f.nan
  | _ => a % f.signBit

/-! ## Conversions (R149, R150, R183) -/

/-- A source or destination format of CVT (R183). -/
inductive Kind where
  | fp (f : Fmt)
  | int (w : Nat)
  | nat (w : Nat)
deriving DecidableEq, Repr

def Kind.width : Kind → Nat
  | .fp f => f.width
  | .int w => w
  | .nat w => w

/-- The least and the greatest value of an integer kind (R141). -/
def Kind.range : Kind → Int × Int
  | .fp _ => (0, 0)
  | .int w => (-(2 ^ (w - 1) : Int), 2 ^ (w - 1) - 1)
  | .nat w => (0, 2 ^ w - 1)

/-- The code of an integer in two's complement of width `w`. -/
def intCode (w : Nat) (v : Int) : Nat := (v % (2 ^ w : Int)).toNat

/-- The signed reading of a code of width `w`. -/
def intOf (w : Nat) (c : Nat) : Int := if c < 2 ^ (w - 1) then c else (c : Int) - 2 ^ w

/-- A value clamped to an integer kind, with SAT when it clamps (R141, R150). -/
def clampTo (k : Kind) (v : Int) : Nat × FlagSet :=
  let (lo, hi) := k.range
  if v < lo then (intCode k.width lo, fSAT) else if v > hi then (intCode k.width hi, fSAT) else (intCode k.width v, 0)

/-- A finite value rounded to an integer (R146, R150). -/
def roundInt (md : Mode) (neg : Bool) (m : Nat) (e : Int) : Int × Bool :=
  if e ≥ 0 then (signed neg (m * 2 ^ e.toNat), false)
  else let (q, x) := roundShift md neg m (-e).toNat; (signed neg q, x)

/-- Conversion to a floating-point format; `sat` is none outside FP8, else whether the form is `.sat` (R149, R150). -/
def toFmt (f : Fmt) (sat : Option Bool) (v : Fp) : Nat × FlagSet :=
  match sat with
  | none => f.round .rne v
  | some s =>
    match v with
    | .nan => (f.nan, 0)
    | .inf neg =>
      let b := if neg then f.signBit else 0
      if s then (b + f.max, fSAT)
      else match f.inf with
        | some i => (b + i, 0)
        | none => (f.nan, fIV)
    | .fin neg m e =>
      if m = 0 then ((if neg then f.signBit else 0), 0) else
      let (c, fl) := f.roundMag .rne neg m e
      if fl &&& fOF ≠ 0 then
        let b := if neg then f.signBit else 0
        if s then (b + f.max, fSAT ||| fNX)
        else match f.inf with
          | some i => (b + i, fOF ||| fNX)
          | none => (f.nan, fOF ||| fNX)
      else (c, fl)

/-- CONVERT of R183. [DEDUCED, log entry 49] -/
def convert (src dst : Kind) (sat : Option Bool) (c : Nat) : Nat × FlagSet :=
  if src = dst then (c, 0) else
  match src, dst with
  | .fp a, .fp b => toFmt b sat (a.decode c)
  | .fp a, k => match a.decode c with
    | .nan => (0, fIV)
    | .inf neg => let (lo, hi) := k.range; (intCode k.width (if neg then lo else hi), fSAT)
    | .fin neg m e =>
      let (v, x) := roundInt .rne neg m e
      let (r, fl) := clampTo k v
      (r, fl ||| flagIf x fNX)
  | k, .fp b =>
    let v : Int := match k with | .int w => intOf w c | _ => c
    toFmt b sat (.fin (decide (v < 0)) v.natAbs 0)
  | k, k' =>
    let v : Int := match k with | .int w => intOf w c | _ => c
    clampTo k' v

/-! ## D8 (R143 to R145) -/

/-- The value of a D8 byte in units of 2^-6 (R143). -/
def d8Value (c : Nat) : Int :=
  let term := fun (s e : Nat) => if e = 7 then (0 : Int) else signed (s == 1) (2 ^ (6 - e))
  term (c / 128 % 2) (c / 16 % 8) + term (c / 8 % 2) (c % 8)

/-- A canonical D8 byte (R145). -/
def d8Canonical (c : Nat) : Bool :=
  let sa := c / 128 % 2; let ea := c / 16 % 8; let sb := c / 8 % 2; let eb := c % 8
  decide (ea ≤ eb) && (ea != 7 || sa == 0) && (eb != 7 || sb == 0) && !(ea != 7 && eb != 7 && sa != sb && ea == eb)

/-- The canonical bytes with their values. -/
def d8Table : List (Int × Nat) := ((List.range 256).filter d8Canonical).map fun c => (d8Value c, c)

/-- ROUND_D8 of a finite value (R145): nearest, a tie to the smaller magnitude, then the smallest code (R188). -/
def roundD8 (neg : Bool) (m : Nat) (e : Int) : Nat × FlagSet :=
  -- in units of 2^-6 scaled by 2^s
  let s := if e < -6 then (-6 - e).toNat else 0
  let y : Int := signed neg (m * 2 ^ (e + 6 + s).toNat)
  let two : Int := 128 * 2 ^ s
  if y > two then (0x00, fSAT ||| fNX) else if y < -two then (0x88, fSAT ||| fNX) else
  let better := fun (p q : Int × Nat) =>
    let dp := (p.1 * 2 ^ s - y).natAbs; let dq := (q.1 * 2 ^ s - y).natAbs
    if dp < dq then true else if dq < dp then false
    else if p.1.natAbs < q.1.natAbs then true else if q.1.natAbs < p.1.natAbs then false else decide (p.2 < q.2)
  let best := d8Table.foldl (fun b p => if better p b then p else b) (0, 0x77)
  (best.2, flagIf (best.1 * 2 ^ s != y) fNX)

/-! ## Dot groups (R151 to R157) -/

/-- One product of a group: sign, magnitude q, exponent u, and its special class. -/
structure Prod where
  neg : Bool
  q   : Nat
  u   : Int
  nan : Bool := false
  iv  : Bool := false       -- an infinity with a zero
  inf : Bool := false
deriving DecidableEq, Repr

/-- The product of two decoded operands (R151, R152). -/
def prodOf (x y : Fp) : Prod :=
  match x, y with
  | .nan, _ => { neg := false, q := 0, u := 0, nan := true }
  | _, .nan => { neg := false, q := 0, u := 0, nan := true }
  | .fin a m e, .fin b n d => { neg := xor a b, q := m * n, u := e + d }
  | .inf a, .fin b n _ => { neg := xor a b, q := 0, u := 0, iv := n == 0, inf := n != 0 }
  | .fin a m _, .inf b => { neg := xor a b, q := 0, u := 0, iv := m == 0, inf := m != 0 }
  | .inf a, .inf b => { neg := xor a b, q := 0, u := 0, inf := true }

/-- The group's sum in an aligned adder of `f` fraction bits (R153, R155, R156), special values first (R152). -/
def groupSum (f : Nat) (ps : List Prod) : Fp × FlagSet :=
  if ps.any (·.nan) then (.nan, 0)
  else if ps.any (·.iv) then (.nan, fIV)
  else if ps.any (fun p => p.inf && p.neg) && ps.any (fun p => p.inf && !p.neg) then (.nan, fIV)
  else if ps.any (·.inf) then (.inf (ps.any fun p => p.inf && p.neg), 0)
  else
    match (ps.filter fun p => p.q != 0).map (·.u) with
    | [] => (.fin false 0 0, 0)
    | u0 :: us =>
      let top := us.foldl max u0
      let s : Int := ps.foldl (fun s p =>
        if p.q = 0 then s else s + signed p.neg (p.q * 2 ^ f / 2 ^ (top - p.u).toNat)) 0
      (.fin (decide (s < 0)) s.natAbs (top - f), 0)

/-- DOT16_FP8 over decoded operands (R153). -/
def dotFp8 (ps : List (Fp × Fp)) : Fp × FlagSet := groupSum 12 (ps.map fun p => prodOf p.1 p.2)

/-- DOT8_BF16, rounded once into FP32 (R155). -/
def dotBf16 (ps : List (Fp × Fp)) : Fp × FlagSet :=
  let (g, fl) := groupSum 20 (ps.map fun p => prodOf p.1 p.2)
  let (c, fr) := f32.round .rne g
  (f32.decode c, fl ||| fr)

/-- DOT16_I8 (R154). -/
def dotI8 (ps : List (Nat × Nat)) : Fp × FlagSet :=
  let s := ps.foldl (fun s p => s + intOf 8 p.1 * intOf 8 p.2) (0 : Int)
  (.fin (decide (s < 0)) s.natAbs 0, 0)

/-- The products of one D8 weight with its activation (R156). -/
def d8Prods (w : Nat) (x : Fp) : List Prod :=
  let term := fun (s e : Nat) (m : Nat) (ex : Int) (neg : Bool) =>
    if e = 7 then ([] : List Prod) else [{ neg := xor (s == 1) neg, q := m, u := ex - e }]
  match x with
  | .nan => [{ neg := false, q := 0, u := 0, nan := true }]
  | .inf a => if d8Value w = 0 then [{ neg := false, q := 0, u := 0, iv := true }]
              else [{ neg := xor a (decide (d8Value w < 0)), q := 0, u := 0, inf := true }]
  | .fin a m e => term (w / 128 % 2) (w / 16 % 8) m e a ++ term (w / 8 % 2) (w % 8) m e a

/-- DOT32_D8 (R156). -/
def dotD8 (ws : List Nat) (x8 : Nat) (xs : List Fp) : Fp × FlagSet :=
  if x8 = 255 then (.nan, fIV) else
  match groupSum 21 ((ws.zip xs).flatMap fun p => d8Prods p.1 p.2) with
  | (.fin n m e, fl) => (.fin n m (e + x8 - 127), fl)
  | g => g

/-- ACC_ADD (R157) on FP32 codes. -/
def accAdd (acc : Nat) (g : Fp) : Nat × FlagSet :=
  let (v, fl) := Fp.add (f32.decode acc) g
  let (c, fr) := f32.round .rne v
  (c, fl ||| fr)

/-! ## Special functions (R186) -/

/-- ⌊√n⌋ for n below 4^(k+1), one bit at a time. -/
def isqrtGo (n : Nat) : Nat → Nat → Nat
  | 0, r => if (r + 1) * (r + 1) ≤ n then r + 1 else r
  | k + 1, r => if (r + 2 ^ (k + 1)) * (r + 2 ^ (k + 1)) ≤ n then isqrtGo n k (r + 2 ^ (k + 1)) else isqrtGo n k r

def isqrt (n : Nat) : Nat := isqrtGo n (Nat.log2 n / 2 + 1) 0

/-- Bits of the fixed-point evaluation of EXP2 (log entry 10). -/
def expBits : Nat := 256

/-- ln 2 in units of 2^-256: the series of 1 / (k 2^k). -/
def ln2Fix : Nat := (List.range 270).foldl (fun s k => s + 2 ^ expBits / ((k + 1) * 2 ^ (k + 1))) 0

/-- exp(y) for y in units of 2^-256, 0 ≤ y < 1: 70 terms of its series. [DEDUCED, log entry 10] -/
def expFix (y : Nat) : Nat :=
  ((List.range 70).foldl (fun (p : Nat × Nat) k =>
    let t := p.2 * y / 2 ^ expBits / (k + 1); (p.1 + t, t)) (2 ^ expBits, 2 ^ expBits)).1

/-- 2^x for an FP32 code, rounded once (R186). [DEDUCED, log entry 10] -/
def exp2F32 (c : Nat) : Nat × FlagSet :=
  match f32.decode c with
  | .nan => (f32.nan, 0)
  | .inf neg => if neg then (0, 0) else (0x7F800000, 0)
  | .fin neg m e =>
    if m = 0 then (0x3F800000, 0)
    else if e ≥ 0 ∧ m * 2 ^ (min e 20).toNat ≥ 1024 then
      (if neg then (0, fUF ||| fNX) else (0x7F800000, fOF ||| fNX))
    else
      -- x in units of 2^-256 (e ≥ -149), as a floor and a fraction
      let x : Int := signed neg (m * 2 ^ (e + 256).toNat)
      let n : Int := x / 2 ^ expBits
      let f : Nat := (x % 2 ^ expBits).toNat
      if n ≥ 128 then (0x7F800000, fOF ||| fNX)
      else if n < -1000 then (0, fUF ||| fNX)
      else if f = 0 then f32.roundMag .rne false 1 n
      else f32.roundMag .rne false (2 * expFix (f * ln2Fix / 2 ^ expBits) + 1) (n - expBits - 1)

/-- 1/x for an FP32 code, rounded once (R186). -/
def rcpF32 (c : Nat) : Nat × FlagSet :=
  match f32.decode c with
  | .nan => (f32.nan, 0)
  | .inf neg => ((if neg then 0x80000000 else 0), 0)
  | .fin neg m e =>
    if m = 0 then ((if neg then 0xFF800000 else 0x7F800000), fDZ)
    else f32.roundMag .rne neg (2 * (2 ^ 96 / m) + (if 2 ^ 96 % m = 0 then 0 else 1)) (-97 - e)

/-- 1/√x for an FP32 code, rounded once (R186). -/
def rsqF32 (c : Nat) : Nat × FlagSet :=
  match f32.decode c with
  | .nan => (f32.nan, 0)
  | .inf neg => if neg then (f32.nan, fIV) else (0, 0)
  | .fin neg m e =>
    if m = 0 then ((if neg then 0xFF800000 else 0x7F800000), fDZ)
    else if neg then (f32.nan, fIV)
    else
      let (m, e) := if e % 2 = 0 then (m, e) else (2 * m, e - 1)
      let q := isqrt (2 ^ 192 / m)
      f32.roundMag .rne false (2 * q + (if q * q * m = 2 ^ 192 then 0 else 1)) (-97 - e / 2)

end Sys2Proof.Machine
end

