-- ==== Sys2Proof/Machine/Operands.lean ====
section
/-! DEFINITION. Registers, faces and ports: what a move reads and what it writes, for every source form, width class and
destination (R48 to R55, R76 to R92, R175). -/

namespace Sys2Proof.Machine

/-! ## Sources and destinations of moves (R50, R52, R79 to R92) -/

def FU.idx : FU → Fin 14
  | .al0 => 0 | .al1 => 1 | .mul => 2 | .agu => 3 | .br => 4 | .sys => 5 | .ls0 => 6 | .ls1 => 7 | .vec => 8
  | .mat => 9 | .cpy => 10 | .sem => 11 | .tsk => 12 | .lnk => 13

def latchOf (l : Latches) (u : FU) : Latch := l[FU.idx u]
def setLatch (l : Latches) (u : FU) (x : Latch) : Latches := l.set (FU.idx u) x

/-- A landed pending register whose value a read makes visible (R92). -/
def Face.promotes {w : Nat} (f : Face w) : Bool := f.pend && f.land && f.asyn && !f.core && !f.conf

/-- What a move reads from a register: its visible face, or the value that promotion makes visible (R79, R92). -/
def Face.read {w : Nat} (f : Face w) : BitVec w := if f.promotes then f.hid else f.vis

/-- Token promotion (R92). -/
def Face.promote {w : Nat} (f : Face w) : Face w :=
  if f.promotes then { f with vis := f.hid, wr := false, core := false, asyn := false, pend := false, land := false } else f

/-- A write of `mask`'s bits by a move (R80, R85, R86). -/
def Face.coreWrite {w : Nat} (dwp : D64) (bits mask : BitVec w) (f : Face w) : Face w :=
  let old := if f.wr then f.hid else f.vis
  let new := (old &&& ~~~mask) ||| (bits &&& mask)
  if f.asyn then
    if dwp = 2 then { f with wr := true, core := true }
    else { f with hid := new, wr := true, core := true, conf := f.conf || dwp == 0 }
  else { f with hid := new, wr := true, core := true }

/-- The landing of an asynchronous write (R80, R86, R91); `free` marks a write that set the pending bit. -/
def Face.asyncWrite {w : Nat} (dwp : D64) (free : Bool) (bits : BitVec w) (f : Face w) : Face w :=
  let f := { f with land := f.land || (free && f.pend) }
  if f.asyn then { f with hid := bits, wr := true, conf := true }
  else if f.core then
    if dwp = 1 then { f with asyn := true }
    else { f with hid := bits, asyn := true, conf := f.conf || dwp == 0 }
  else { f with hid := bits, wr := true, asyn := true }

/-- The exchange of a written register at a flip (R83). -/
def Face.flip {w : Nat} (f : Face w) : Face w :=
  if f.wr then
    { f with vis := f.hid, hid := f.vis, wr := false, core := false, asyn := false,
             pend := f.pend && !f.land, land := f.land && !f.pend }
  else f

/-- A handler starts with no register written (R103). -/
def Face.clearSpan {w : Nat} (f : Face w) : Face w := { vis := f.vis, hid := f.hid }

/-- The span state of `f` with the visible face of `now` (R103). -/
def Face.restoreSpan {w : Nat} (f now : Face w) : Face w := { f with vis := now.vis }

/-- What a function on faces of every width does to a register file. -/
def RegFile.map (r : RegFile) (fg : Face 64 → Face 64) (fp : Face 1 → Face 1) (fv : Face 4096 → Face 4096)
    (fm : Face 512 → Face 512) : RegFile :=
  { g := r.g.map fg, k := r.k.map fg, p := r.p.map fp, v := r.v.map fv, m := r.m.map fm }

/-- A change to the register at a socket; `g0` and sockets of no register change nothing (R53, R81). -/
def RegFile.modify (r : RegFile) (d : BitVec 12) (fg : Face 64 → Face 64) (fp : Face 1 → Face 1)
    (fv : Face 4096 → Face 4096) (fm : Face 512 → Face 512) : RegFile :=
  let n := d.toNat
  if n = 0 then r
  else if n < 0x40 then { r with g := r.g.setIfInBounds n (fg (r.g[n]?.getD {})) }
  else if n < 0x60 then { r with k := r.k.setIfInBounds (n - 0x40) (fg (r.k[n - 0x40]?.getD {})) }
  else if 0x61 ≤ n ∧ n ≤ 0x67 then { r with p := r.p.setIfInBounds (n - 0x60) (fp (r.p[n - 0x60]?.getD {})) }
  else if 0x80 ≤ n ∧ n ≤ 0x9F then { r with v := r.v.setIfInBounds (n - 0x80) (fv (r.v[n - 0x80]?.getD {})) }
  else if 0xA0 ≤ n ∧ n ≤ 0xA7 then { r with m := r.m.setIfInBounds (n - 0xA0) (fm (r.m[n - 0xA0]?.getD {})) }
  else r

/-- The value a move reads from a register socket, zero-extended (R52, R79, R92); `g0` reads zero (R53). -/
def RegFile.read (r : RegFile) (d : BitVec 12) : Val :=
  let n := d.toNat
  if n = 0 then 0
  else if n < 0x40 then ((r.g[n]?.getD {}).read).setWidth 4096
  else if n < 0x60 then ((r.k[n - 0x40]?.getD {}).read).setWidth 4096
  else if 0x61 ≤ n ∧ n ≤ 0x67 then ((r.p[n - 0x60]?.getD {}).read).setWidth 4096
  else if 0x80 ≤ n ∧ n ≤ 0x9F then (r.v[n - 0x80]?.getD {}).read
  else if 0xA0 ≤ n ∧ n ≤ 0xA7 then ((r.m[n - 0xA0]?.getD {}).read).setWidth 4096
  else 0

/-- The flags of a register: written, core, async, conflict, pending, landed. -/
structure FaceBits where
  wr : Bool := false
  core : Bool := false
  asyn : Bool := false
  conf : Bool := false
  pend : Bool := false
  land : Bool := false
deriving DecidableEq, Repr

def Face.bits {w : Nat} (f : Face w) : FaceBits := ⟨f.wr, f.core, f.asyn, f.conf, f.pend, f.land⟩

def RegFile.bits (r : RegFile) (d : BitVec 12) : FaceBits :=
  let n := d.toNat
  if n = 0 then {}
  else if n < 0x40 then (r.g[n]?.getD {}).bits
  else if n < 0x60 then (r.k[n - 0x40]?.getD {}).bits
  else if 0x61 ≤ n ∧ n ≤ 0x67 then (r.p[n - 0x60]?.getD {}).bits
  else if 0x80 ≤ n ∧ n ≤ 0x9F then (r.v[n - 0x80]?.getD {}).bits
  else if 0xA0 ≤ n ∧ n ≤ 0xA7 then (r.m[n - 0xA0]?.getD {}).bits
  else {}

/-- Every register socket, in ascending order (R53). -/
def regSockets : List (BitVec 12) :=
  (natsFrom 0 0x60 ++ natsFrom 0x61 7 ++ natsFrom 0x80 32 ++ natsFrom 0xA0 8).map (BitVec.ofNat 12)

def RegFile.promote (r : RegFile) (d : BitVec 12) : RegFile :=
  r.modify d Face.promote Face.promote Face.promote Face.promote

def RegFile.coreWrite (r : RegFile) (dwp : D64) (d : BitVec 12) (bits mask : Val) : RegFile :=
  r.modify d (Face.coreWrite dwp (bits.setWidth 64) (BitVec.allOnes 64))
    (Face.coreWrite dwp (bits.setWidth 1) (BitVec.allOnes 1))
    (Face.coreWrite dwp bits mask)
    (Face.coreWrite dwp (bits.setWidth 512) (BitVec.allOnes 512))

def RegFile.asyncWrite (r : RegFile) (dwp : D64) (free : Bool) (d : BitVec 12) (bits : Val) : RegFile :=
  r.modify d (Face.asyncWrite dwp free (bits.setWidth 64)) (Face.asyncWrite dwp free (bits.setWidth 1))
    (Face.asyncWrite dwp free bits) (Face.asyncWrite dwp free (bits.setWidth 512))

/-- A free operation that targets the register issues (R91). -/
def RegFile.setPending (r : RegFile) (d : BitVec 12) : RegFile :=
  r.modify d (fun f => { f with pend := true, land := false }) (fun f => { f with pend := true, land := false })
    (fun f => { f with pend := true, land := false }) (fun f => { f with pend := true, land := false })

def RegFile.flip (r : RegFile) : RegFile := r.map Face.flip Face.flip Face.flip Face.flip
def RegFile.clearSpan (r : RegFile) : RegFile := r.map Face.clearSpan Face.clearSpan Face.clearSpan Face.clearSpan

/-- The set-aside span state with the visible faces the handler left (R103). -/
def RegFile.restoreSpan (r now : RegFile) : RegFile :=
  { g := Vector.zipWith Face.restoreSpan r.g now.g, k := Vector.zipWith Face.restoreSpan r.k now.k
    p := Vector.zipWith Face.restoreSpan r.p now.p, v := Vector.zipWith Face.restoreSpan r.v now.v
    m := Vector.zipWith Face.restoreSpan r.m now.m }

/-- The lowest-numbered conflicted register (R88). -/
def RegFile.conflict (r : RegFile) : Option (BitVec 12) := regSockets.find? fun d => (r.bits d).conf

/-- The trap entry of a DOUBLE_WRITE clears every conflict mark (R88). -/
def RegFile.clearConflicts (r : RegFile) : RegFile :=
  r.map (fun f => { f with conf := false }) (fun f => { f with conf := false }) (fun f => { f with conf := false })
    (fun f => { f with conf := false })

/-- The width class of an operand port or trigger (R55). -/
def portWide (u : FU) (o : Nat) : Bool :=
  match u with
  | .vec => o < 4 || 8 ≤ o
  | .ls0 | .ls1 | .mat | .lnk => o == 1 || o == 3
  | .cpy => o == 1
  | _ => false

/-- A value cut to class S where the port is not of class V (R52, R55). -/
def cutTo (wide : Bool) (v : Val) : Val := if wide then v else (v.setWidth 64).setWidth 4096

/-- The value, and the bits it enables, that the source of slot `n` carries (R48, R50 step 2, R175). -/
def sourceVal (f : Frame) (src : BitVec 14) (n : Nat) : Val × Val :=
  let full : Val := BitVec.allOnes 4096
  let low := src.extractLsb' 0 12
  match (src.extractLsb' 12 2).toNat with
  | 0 =>
    match unitOf low with
    | some (.br, 3) => (f.brR.setWidth 4096, full)
    | some (.br, 4) => (f.brSt.setWidth 4096, full)
    | some (u, 3) => ((latchOf f.lat u).r, if u = .vec then (latchOf f.lat u).en else full)
    | some (u, 4) => ((latchOf f.lat u).st.setWidth 4096, full)
    | _ => (f.regs.read low, full)
  | 1 => ((low.signExtend 64).setWidth 4096, full)
  | 2 =>
    let w1 := f.slots.getD (n + 1) 0
    let w2 := f.slots.getD (n + 2) 0
    let v : D64 := match (src.extractLsb' 0 2).toNat with
      | 0 => w1.signExtend 64
      | 1 => w1.setWidth 64
      | 2 => w2 ++ w1
      | _ => w1 ++ 0#32
    (v.setWidth 4096, full)
  | _ => (0, full)

/-- The condition of a guard on the visible faces of the predicates (R47, R50 step 1). -/
def guardHolds (r : RegFile) (g : BitVec 4) : Bool :=
  let p := (r.p[(g.extractLsb' 0 3).toNat]?.getD {}).read
  if g = 0 then true
  else if g < 8 then p == 1
  else if g = 8 then false
  else p == 0

/-- The write of a plain move (R50 step 3, R52, R78, R80, R81, R175). -/
def writeMove (x : Ctx) (d : BitVec 12) (v : Val × Val) : Ctx :=
  match unitOf d with
  | some (u, o) =>
    let l := latchOf x.lat u
    let w := cutTo (portWide u o) v.1
    let l := if o = 0 then { l with a := w } else if o = 1 then { l with b := w } else if o = 2 then { l with c := w } else l
    { x with lat := setLatch x.lat u l }
  | none => { x with regs := x.regs.coreWrite x.sys.dwp d v.1 v.2 }

end Sys2Proof.Machine
end

