-- ==== Sys2Proof/Machine/Ops.lean ====
section
/-! DEFINITION. The named operations over the state: contexts, cores and dies; regions;
results in flight (R118); the waits of R114; checkpoints (R94 to R101); taking an exception, escalation and the fault
domains (R394, R399, R336), and the return (R396). -/

namespace Sys2Proof.Machine

/-- The outcome of every meaning. -/
abbrev Res := Host.Outcome State Fault Refusal

/-! ## Contexts, cores, dies -/

def ctxOf (s : State) (c : Nat) : Ctx := Tab.get {} s.ctxs c
def setCtx (s : State) (c : Nat) (x : Ctx) : State := { s with ctxs := Tab.put s.ctxs c x }
def modCtx (s : State) (c : Nat) (f : Ctx → Ctx) : State := setCtx s c (f (ctxOf s c))

def coreOf (s : State) (k : Nat) : Core := Tab.get {} s.cores k
def setCore (s : State) (k : Nat) (x : Core) : State := { s with cores := Tab.put s.cores k x }
def modCore (s : State) (k : Nat) (f : Core → Core) : State := setCore s k (f (coreOf s k))

def dieOf (s : State) (d : Nat) : Die := Tab.get {} s.dies d
def setDie (s : State) (d : Nat) (x : Die) : State := { s with dies := Tab.put s.dies d x }
def modDie (s : State) (d : Nat) (f : Die → Die) : State := setDie s d (f (dieOf s d))

/-- The core, bangle and die of a context (R2); contexts are numbered over the module. -/
def ctxCore (c : Nat) : Nat := c / 4
def coreDie (k : Nat) : Nat := k / 128
def coreBangle (k : Nat) : Nat := k / 8
def ctxDie (c : Nat) : Nat := coreDie (ctxCore c)

def launchOf (s : State) (l : Nat) : Option Launch := Tab.find s.launches l
def setLaunch (s : State) (l : Nat) (x : Launch) : State := { s with launches := Tab.put s.launches l x }
def modLaunch (s : State) (l : Nat) (f : Launch → Launch) : State :=
  match launchOf s l with
  | some x => setLaunch s l (f x)
  | none => s

/-- A fresh number for a job, an operation or a message (model). -/
def fresh (s : State) : Nat × State := (s.count, { s with count := s.count + 1 })

/-- The next free value's number (model). -/
def nextFree (s : State) : Nat × State := (s.free, { s with free := s.free + 1 })

/-! ## Regions (R332 to R334) -/

def regionOf (s : State) (r : Nat) : Region := Tab.get { rcb := [] } s.regions r
def rcbWord (s : State) (r n : Nat) : D64 := (regionOf s r).rcb.getD n 0
def modRegion (s : State) (r : Nat) (f : Region → Region) : State :=
  match Tab.find s.regions r with
  | some x => { s with regions := Tab.put s.regions r (f x) }
  | none => s

def parentOf (s : State) (r : Nat) : Nat := ((rcbWord s r 0).extractLsb' 32 16).toNat
def partOf (s : State) (r : Nat) : Nat := ((rcbWord s r 0).extractLsb' 24 8).toNat
def asidOf (s : State) (r : Nat) : Nat := ((rcbWord s r 0).extractLsb' 8 16).toNat

/-- A region and its ancestors, nearest first. -/
def lineage (s : State) : Nat → Nat → List Nat
  | 0, _ => []
  | n + 1, r => if (Tab.find s.regions r).isSome then r :: lineage s n (parentOf s r) else []

def ancestors (s : State) (r : Nat) : List Nat := lineage s (s.regions.length + 1) r

/-- The region whose field with INH bit `bit` holds for `r` (R334). -/
def fieldRegion (s : State) (r bit : Nat) : Nat :=
  ((ancestors s r).find? fun a => !(rcbWord s a 1).getLsbD bit).getD r

/-- The region against which `r` spends the budget of control-block word `w` (R334). -/
def budgetRegion (s : State) (r w : Nat) : Nat :=
  ((ancestors s r).find? fun a => rcbWord s a w != BitVec.allOnes 64).getD r

def prioOf (s : State) (r : Nat) : Nat := ((rcbWord s (fieldRegion s r 0) 2).extractLsb' 0 4).toNat
def fdomOf (s : State) (r : Nat) : Nat := ((rcbWord s (fieldRegion s r 1) 2).extractLsb' 4 2).toNat
def detOf (s : State) (r : Nat) : Bool := (rcbWord s (fieldRegion s r 2) 2).getLsbD 6
def capRankOf (s : State) (r : Nat) : Nat := ((rcbWord s (fieldRegion s r 3) 2).extractLsb' 8 4).toNat
def ckptPolicy (s : State) (r : Nat) : Bool := (rcbWord s (fieldRegion s r 4) 2).getLsbD 12
def scbPolicy (s : State) (r : Nat) : Bool := (rcbWord s (fieldRegion s r 5) 2).getLsbD 13
def mintPolicy (s : State) (r : Nat) : Bool := (rcbWord s (fieldRegion s r 6) 2).getLsbD 14
def migratePolicy (s : State) (r : Nat) : Bool := (rcbWord s (fieldRegion s r 7) 2).getLsbD 15
def bankRegion (s : State) (r : Nat) : Nat := fieldRegion s r 8
def banksOf (s : State) (r d : Nat) : D64 := rcbWord s (bankRegion s r) (3 + d)
def htabOf (s : State) (r : Nat) : Nat := ((rcbWord s (fieldRegion s r 9) 7).extractLsb' 0 56).toNat

/-- The launch, the region and the partition of a context. -/
def ctxRegion (s : State) (c : Nat) : Nat :=
  match (ctxOf s c).launch with
  | some l => match launchOf s l with | some x => x.region | none => 0xFFFF
  | none => 0xFFFF
def ctxPart (s : State) (c : Nat) : Nat := partOf s (ctxRegion s c)

/-- The bytes of the area that the context's launch holds on its core; 0 where it holds none or an empty one (R193). -/
def areaOf (s : State) (c : Nat) : Nat :=
  match (coreOf s (ctxCore c)).area, (ctxOf s c).launch with
  | some (l, n), some l' => if l = l' then n else 0
  | _, _ => 0

/-- The kernel a context runs, installed on its core. -/
def kernelOf (s : State) (c : Nat) : Option Kernel :=
  match (ctxOf s c).launch with
  | some l => (coreOf s (ctxCore c)).kernels.find? fun k => k.launch == l && k.kslot == (ctxOf s c).kslot
  | none => none

/-! ## The bundle being carried out -/

/-- The context whose bundle is being carried out, with its frame. -/
def current (s : State) : Option (Nat × Ctx × Frame) :=
  match s.active with
  | none => none
  | some c => match (ctxOf s c).frame with
    | some f => some (c, ctxOf s c, f)
    | none => none

/-- The position after a bundle (R63): a bundle of the dictionary or a literal one is recorded in `next`. The loop check of
R127 on fall-through. -/
def loopCheck (depth : Nat) : Nat → List LoopEnt → List LoopEnt × Nat
  | next, [] => ([], next)
  | next, e :: es =>
    if e.depth = depth ∧ next = e.exit then
      if e.left > 1 then ({ e with left := e.left - 1, iter := e.iter + 1 } :: es, e.start)
      else loopCheck depth next es
    else (e :: es, next)

/-- The loop stack and the position at which the context goes on after the bundle (R94, R127, R133). -/
def settled (x : Ctx) (f : Frame) : List LoopEnt × Nat :=
  if f.brSet then (x.loops, f.next) else loopCheck x.link.length f.next x.loops

/-- The context at the end of its bundle: stacks, position, policy; LSC `lsc` and idle ticks `idle`. -/
def closeBundle (x : Ctx) (f : Frame) (at_ : List LoopEnt × Nat) (lsc idle : Nat) : Ctx :=
  { x with loops := at_.1, pc := at_.2, lsc := lsc, idle := idle, frame := none
           sys := { x.sys with dwp := f.dwp.getD x.sys.dwp } }

/-- A position lies in residual code of a kernel (R381). -/
def inResidual (k : Kernel) (pos : Nat) : Bool := k.resids.any fun r => decide (r.base ≤ pos) && decide (pos < r.base + r.words.length)

/-- A transfer from original code to a residual position (R381). -/
def illTransfer (k : Option Kernel) (from_ to_ : Nat) : Bool :=
  match k with
  | some k => inResidual k to_ && !inResidual k from_
  | none => false

/-- The end of a bundle (R116, R127): the loop check where no `br` operation set a position, the tick, the idle ticks. -/
def endBundle (s : State) (c : Nat) : State :=
  let x := ctxOf s c
  match x.frame with
  | none => { s with active := none }
  | some f =>
    let y := closeBundle x f (settled x f) (x.lsc + 1) (hdrIdle f.header).toNat
    { setCtx s c { y with foreign := illTransfer (kernelOf s c) f.pos y.pc } with active := none }

/-- Put an item back and let the other agents move: an ENGINE_WAIT inside a bundle (R82, R129, R396). -/
def suspend (s : State) (c : Nat) (t : Todo) : State :=
  { modCtx s c (fun x => { x with frame := x.frame.map fun f => { f with todo := t :: f.todo } }) with active := none }

def modFrame (x : Ctx) (f : Frame → Frame) : Ctx := { x with frame := x.frame.map f }

/-! ## Results (R118 to R120) -/

/-- A tick of the declared table (R123). -/
def latency (x : Ctx) (a b : Nat) : Nat := if x.sys.ltb then b else a

/-- A result triggered by the bundle being carried out, due after the declared latency (R118). -/
def addResult (x : Ctx) (u : FU) (lat : Nat) (r : Option (Val × Val)) (st : Option D64) (flags : BitVec 6 := 0)
    (lanes : List (Nat × BitVec 6) := []) (engine : Bool := false) : Ctx :=
  { x with
    infl := x.infl ++ [{ unit := u, seq := x.seq, bundle := x.bundle, due := x.lsc + lat, r := r, st := st,
                         flags := flags, lanes := lanes, engine := engine }]
    seq := x.seq + 1 }

def fillList (l : List InFlight) (q : Nat) (f : InFlight → InFlight) : List InFlight :=
  l.map fun e => if e.seq = q then f e else e

/-- What an arriving result does to every copy of it: in flight, in the shadow set, set aside (R94, R394). -/
def fillResult (x : Ctx) (q : Nat) (f : InFlight → InFlight) : Ctx :=
  { x with
    infl := fillList x.infl q f
    shadow := x.shadow.map fun h => { h with infl := fillList h.infl q f }
    aside := x.aside.map fun a => { a with infl := fillList a.infl q f } }

/-- A result delivered to its port (R78, R118). -/
def deliver (lat : Latches) (e : InFlight) : Latches :=
  let l := latchOf lat e.unit
  let l := match e.r with | some v => { l with r := v.1, en := v.2 } | none => l
  let l := match e.st with | some v => { l with st := v } | none => l
  setLatch lat e.unit l

/-- The units whose results are delivered together: those that can raise FP_TRAP are one group (R160, R161). -/
def unitGroup : FU → FU
  | .al1 | .mul | .vec => .al0
  | u => u

/-- A result is due and has arrived, with every other due result of its group (R118, R119). -/
def ripe (x : Ctx) (e : InFlight) : Bool :=
  decide (e.due ≤ x.lsc) && !x.infl.any fun d => decide (d.due ≤ x.lsc) && unitGroup d.unit == unitGroup e.unit && !d.arrived

/-- A result whose port shows it: no later one of its unit is due at its tick (R120). -/
def shown (l : List InFlight) (e : InFlight) : Bool :=
  !l.any fun d => d.unit == e.unit && d.due == e.due && decide (e.seq < d.seq)

/-- What a completed array operation does to every copy of its tick (R94, R239). -/
def fillTick (x : Ctx) (id : Nat) (flags : BitVec 6) : Ctx :=
  let f := fun (l : List ArrayTick) => l.map fun t => if t.id = id then { t with done := true, flags := flags } else t
  { x with
    aticks := f x.aticks
    shadow := x.shadow.map fun h => { h with aticks := f h.aticks }
    aside := x.aside.map fun a => { a with aticks := f a.aticks } }

/-- An array operation's tick has come and it has completed (R227). -/
def tickRipe (x : Ctx) (t : ArrayTick) : Bool := decide (t.tick ≤ x.lsc) && t.done

/-- An array operation names an accumulator, as its target or as its source (R224, R235). -/
def ArrayTick.names (t : ArrayTick) (n : Nat) : Bool := t.acc == n || t.src == some n

/-! ## Asynchronous writes (R90, R91) -/

def spanBound (x : Ctx) : Nat := (x.async.filter fun a => a.sb && !a.drop).length

/-- The span-bound writes of the current span: those of the handler in handler code, else those of the program (R82, R395). -/
def spanOwed (x : Ctx) : Nat := (x.async.filter fun a => a.sb && !a.drop && a.handler == x.aside.isSome).length
def freeOut (x : Ctx) : Nat := (x.async.filter fun a => !a.sb && !a.drop).length

/-- Checkpoint mode is on and not suspended by a handler (R93, R395). -/
def ckOn (x : Ctx) : Bool := x.sys.ckmode == 1 && !x.handler

/-- An asynchronous write is issued (R89 to R91): its number and its pending bit. `handler` says that handler code triggered
it; the write of the interrupted code belongs to the span state set aside (R395). `eager` marks one that stands before the
checkpoint of its own bundle (R99); any other is issued at or before the last checkpoint (R100). -/
def issueAsync (x : Ctx) (id : Nat) (d : BitVec 12) (sb handler eager : Bool) (twin : Option Nat := none) : Ctx :=
  if d = 0 then x else
  let mark := fun (r : RegFile) => if sb then r else r.setPending d
  let w : AsyncW := { id := id, dst := d, sb := sb, handler := handler, postCk := eager && ckOn x, twin := twin }
  let sh : Option Shadow := if eager || handler then x.shadow else x.shadow.map fun h => { h with regs := mark h.regs }
  let x : Ctx := { x with async := x.async ++ [w], shadow := sh }
  if handler || x.aside.isNone then { x with regs := mark x.regs }
  else { x with aside := x.aside.map fun a => { a with regs := mark a.regs } }

/-! ## Checkpoints (R93 to R101) -/

/-- CHECKPOINT's capture (R94): the restart position and tick are those after the bundle. -/
def capture (x : Ctx) (pos tick : Nat) (link : List Nat) (loops : List LoopEnt) : Ctx :=
  { x with
    shadow := some { regs := x.regs, lat := x.lat, desc := x.desc, dcv := x.dcv
                     infl := x.infl, aticks := x.aticks, gemm := x.gemm
                     swaps := x.swaps, link := link, loops := loops, flg := x.sys.flg, pos := pos, tick := tick
                     seq := x.seq }
    banks := Vector.replicate 8 .clean
    landed := []
    async := x.async.map fun a => { a with postCk := false }
    sys := { x.sys with rpc := pos } }

/-! ## Status words (R397) -/

def Trap.code : Trap → Nat
  | .illegalIndex => 0x01 | .illegalBundle => 0x02 | .illegalSocket => 0x03 | .undersizedCount => 0x04
  | .doubleWrite => 0x05 | .pendingDeadlock => 0x06 | .eagerPlacement => 0x07 | .spadRange => 0x08
  | .misaligned => 0x09 | .fpTrap => 0x0A | .intDivzero => 0x0B | .bounds => 0x0C | .software => 0x0D
  | .tretOutside => 0x0E | .badStatus => 0x0F | .segmentFault => 0x10 | .softError => 0x11 | .matrixFault => 0x12
  | .notRestartable => 0x13 | .detConflict => 0x14 | .privilege => 0x15

def bit (b : Bool) (n : Nat) : Nat := if b then 2 ^ n else 0

/-- The status word of a trap (R397). -/
def statusWord (t : TrapInfo) (spanPend rolled late haltPend : Bool) : D64 :=
  BitVec.ofNat 64 (t.sock * 2 ^ 44 + t.slot * 2 ^ 40 + (t.elem.getD 0x1FF) * 2 ^ 31 + bit spanPend 30 + bit rolled 29 +
    bit late 28 + bit t.elem.isSome 27 + bit haltPend 26 + t.arg % 65536 * 2 ^ 8 + t.code.code)

/-- A position as TRAPPC and TRAPOPC hold it, in bits 19:0 (R398). -/
def posWord (pos : Nat) : D64 := BitVec.ofNat 64 (pos % 2 ^ 20)

/-- The original position and the iteration word that a trap records (R388, R398): for a trapping bundle of residual code,
which stands at `from_` where the context goes on elsewhere, those of the position map; in original code `pos` itself
and 0. [DEDUCED, log entry 51] -/
def originalOf (s : State) (c pos : Nat) (from_ : Option Nat := none) : Nat × D64 :=
  match kernelOf s c with
  | none => (pos, 0)
  | some k =>
    match (k.resids.flatMap fun r => r.map).find? fun m => m.1 == from_.getD pos with
    | some m => (m.2.1, m.2.2)
    | none => (pos, 0)

/-! ## The fault domains (R336) and escalation (R399) -/

/-- The exit value of a context, in the launch's status by grid context (R343). -/
def gridIndex (l : Launch) (c : Nat) : Option Nat :=
  match l.ctxs.findIdx? fun p => p.2.contains c with
  | none => none
  | some i => match (l.ctxs.getD i (0, [])).2.findIdx? (· == c) with
    | some x => some (i * 4 + x)
    | none => none

def setExit (l : Launch) (c : Nat) (v : D64) : Launch :=
  match gridIndex l c with
  | some i => { l with exits := Tab.put l.exits i (v &&& 0xFFFFFFFF#64) }
  | none => l

/-- A seed ceases to exist: its SEEDB unit is free (R347). -/
def freeSeed (s : State) (r : Nat) : State :=
  modRegion s (budgetRegion s r 10) fun x => { x with seeds := x.seeds - 1 }

/-- A context that a fault of its launch ends (R336): it runs no more, its exit value is 0xFFFF_FFFF, its seed is freed. Its semaphore
operations go on, and a watch that is armed stays so until it is satisfied. [DESIGN CHOICE, log entry 71] -/
def killCtx (s : State) (c : Nat) : State :=
  let x := ctxOf s c
  match x.launch with
  | none => s
  | some l =>
    if x.status = .halted then s else
    let s := modLaunch s l fun y => setExit y c 0xFFFFFFFF#64
    let s := if x.task.seed.isSome then freeSeed s (ctxRegion s c) else s
    let s := modCtx s c fun x => { x with status := .halted, frame := none, waits := [], infl := [], ls := [], held := [], going := [], recvs := []
                                          async := [], task := {}, link := [], loops := [], idle := 0
                                          aticks := [] }
    let s := modCore s (ctxCore c) fun k => { k with rrot := k.rrot.filter fun a => a.ctx != c }
    { s with active := if s.active = some c then none else s.active }

/-- A launch that a fault ends: every context ends, and the launch is to retire with FAULTED. -/
def killLaunch (s : State) (l : Nat) : State :=
  match launchOf s l with
  | none => s
  | some y =>
    if y.stage = .retired then s else
    let s := (y.ctxs.flatMap (·.2)).foldl (fun s c => if (ctxOf s c).launch = some l then killCtx s c else s) s
    modLaunch s l fun y => { y with faulted := true }

/-- A frame in which only the end of the context remains (R336: it ends as by HALT). -/
def endFrame (x : Ctx) (exit : D64) : Frame :=
  { pos := x.pc, next := x.pc, brSet := true, header := 0, slots := [], todo := [.endTask .halt], regs := x.regs
    lat := x.lat, pats := x.pats, brR := 0, brSt := 0, exit := exit, dead := true }

/-- The regions from `r` up to the one whose FDOM is not PARENT (R336), and that one's FDOM. -/
def domainPath (s : State) : Nat → Nat → List Nat × Nat
  | 0, r => ([r], 0)
  | n + 1, r =>
    let f := fdomOf s r
    if f = 3 then let (p, g) := domainPath s n (parentOf s r); (r :: p, g) else ([r], f)

/-- The effect of a fault that no handler recovers (R336): in region `r`, launch `l`, and the context if there is one. -/
def faultDomain (s : State) (r l : Nat) (c : Option Nat) : State :=
  let (path, f) := domainPath s (s.regions.length + 1) r
  match f with
  | 0 => match c with
    | some c =>
      let s := if s.active = some c then { s with active := none } else s
      modCtx s c fun x => { x with frame := some (endFrame x 0xFFFFFFFF#64), waits := [], held := [], idle := 0 }
    | none => s
  | 1 => killLaunch s l
  | _ => (s.launches.filter fun p => path.contains p.2.region).foldl (fun s p => killLaunch s p.1) s

/-- ESCALATE (R399): the launch records its first escalation, the context issues no more, R336 applies. -/
def escalate (s : State) (c : Nat) (t : TrapInfo) (pc : Nat) (rolled late : Bool) (span halt : Bool := false)
    (from_ : Option Nat := none) : State :=
  match (ctxOf s c).launch with
  | none => s
  | some l =>
    let (opc, iter) := originalOf s c pc from_
    let s := modLaunch s l fun y =>
      if y.tlist then y else
      { y with tlist := true
               info := [BitVec.ofNat 64 (2 ^ 63 + c), statusWord t span rolled late halt, posWord pc, posWord opc, iter] }
    faultDomain s (ctxRegion s c) l (some c)

/-! ## Rollback (R100, R101) -/

/-- A landing applied again after the restore (R100). -/
def reland (dwp : D64) (r : RegFile) (n : Landing) : RegFile := r.asyncWrite dwp n.free n.dst n.value

/-- The exchange of an accumulator's banks (R217). -/
def swapAcc (k : Core) (n : Nat) : Core :=
  let a := k.accs[n]?.getD {}
  { k with accs := k.accs.setIfInBounds n { a with work1 := !a.work1 } }

/-- The array queue after its context rolls back (R239): what has not started leaves, a running MGEMM stops at its next
K-step, flags of what was triggered after the checkpoint never reach FLG. -/
def rollQueue (c : Nat) (q : List ArrayOp) : List ArrayOp :=
  (q.filter fun o => !(o.ctx == c && o.postCk && !o.started)).map fun o =>
    if o.ctx = c ∧ o.postCk then { o with discard := true, stop := true } else o

/-- An array operation names the accumulator, as its target or as its source (R224, R234). -/
def touches (n : Nat) (o : ArrayOp) : Bool :=
  o.acc == n || (match o.kind with | .mma _ _ _ da _ _ => da.kind == 2 && da.base == n | _ => false)

/-- Undo the context's own ASWAPs since the checkpoint (R100): at once where no operation on the accumulator is queued, else
behind those that are. -/
def undoSwaps (s : State) (c : Nat) (now was : Vector Nat 4) : State :=
  (List.range 4).foldl (fun s n =>
    if (now[n]?.getD 0 - was[n]?.getD 0) % 2 = 1 then
      let k := ctxCore c
      if (coreOf s k).aq.any (touches n) then
        modCore s k fun x => { x with aq := x.aq ++ [{ id := 0, ctx := c, acc := n, kind := .aswap, tick := 0, discard := true }] }
      else modCore s k fun x => swapAcc x n
    else s) s

/-- The copy jobs after a rollback of their context: those whose writes go with it leave no trace (R100). -/
def dropJobs (c : Nat) (gone : List AsyncW) (d : Die) : Die :=
  { d with jobs := d.jobs.filter fun j => !(j.ctx == c && gone.any fun a => j.async == some a.id) }

/-- ROLLBACK (R100) of a context to its shadow set. What the checkpoint's own bundle waits for stays to be waited for, where the
context stands there; DWP keeps what WRSR gave it, in the bundle that is given up too (R87, R94). -/
def rollback (s : State) (c : Nat) : State :=
  let x := ctxOf s c
  match x.shadow with
  | none => s
  | some h =>
    let k := ctxCore c
    let s := modCore s k fun y => { y with aq := rollQueue c y.aq
                                           rrot := y.rrot.filter fun a => !(a.ctx == c && decide (h.seq ≤ a.seq)) }
    let s := undoSwaps s c x.swaps h.swaps
    let s := { s with semOps := s.semOps.filter fun o => !(o.ctx == c && (o.kind == .swaitge || o.kind == .bwait) &&
                        (match o.result with | some q => decide (h.seq ≤ q) | none => false))
                      dies := s.dies.map fun d => (d.1, dropJobs c (x.async.filter (·.postCk)) d.2) }
    let dwp := (x.frame.bind (·.dwp)).getD x.sys.dwp
    let y : Ctx := { x with
      held := []
      regs := x.landed.foldl (reland dwp) h.regs
      lat := h.lat, desc := h.desc, dcv := h.dcv
      infl := h.infl
      swaps := h.swaps
      link := h.link, loops := h.loops
      sys := { x.sys with dwp := dwp, flg := h.flg, rolls := if x.sys.rolls < 255 then x.sys.rolls + 1 else 255 }
      pc := h.pos, lsc := h.tick, idle := 0
      frame := none, late := [], foreign := false
      waits := if x.frame.isNone ∧ x.lsc + x.idle = h.tick then x.waits else []
      ls := x.ls.filter fun o => decide (o.seq < h.seq)
      aticks := h.aticks, gemm := h.gemm
      recvs := x.recvs.filter fun r => decide (r.1 < h.seq)
      async := x.async.filter fun a => !a.postCk }
    { setCtx s c y with active := if s.active = some c then none else s.active }

/-! ## Taking an exception (R394) -/

/-- The entry of the handler table for a code (R392); none where it counts as invalid. -/
def handlerOf (s : State) (c : Nat) (t : Trap) : Option Nat :=
  match (ctxOf s c).launch with
  | none => none
  | some l => match launchOf s l with
    | none => none
    | some y =>
      let e := ((y.handlers.getD (ctxOf s c).kslot []).getD t.code 0)
      if e.getLsbD 63 ∧ e.extractLsb' 20 43 = 0 ∧ t ≠ .badStatus ∧ t ≠ .notRestartable ∧ t ≠ .detConflict then
        some (e.extractLsb' 0 20).toNat
      else none

/-- A scratchpad operation that R403 withdraws: full/empty operations and RROT, with all that is held behind them. -/
def LsOp.withdraws (o : LsOp) : Bool :=
  match o.kind with
  | .ldfw | .ldfk | .stew _ | .rrot _ _ => true
  | _ => false

/-- A trap taken after its bundle, whose waits come before the handler's first bundle (R390, R114). -/
def Trap.after (t : Trap) : Bool := t == .software || t == .tretOutside || t == .doubleWrite

/-- The context stands at a due tick whose result has not arrived (R119). -/
def atDue (x : Ctx) : Bool := x.infl.any fun e => decide (e.due ≤ x.lsc) && !e.arrived

/-- A wait for the watch of a SWAITGE or BWAIT: a trap that ends it leaves only its result to be waited for (R394). -/
def watchWait (s : State) (c : Nat) : Wait → Bool
  | .semDone q => s.semOps.any fun o => o.ctx == c && o.result == some q && (o.kind == .swaitge || o.kind == .bwait)
  | _ => false

/-- The context demands no segment any more, and no failed load is held against it (R71). -/
def dropDemand (c : Nat) (k : Core) : Core :=
  { k with kernels := k.kernels.map fun y => { y with demand := y.demand.filter fun d => d.1 != c
                                                      faulted := y.faulted.filter (· != c) } }

/-- Trap entry (R394): code and record `t`, raised at position `pc` by the bundle at `from_` where that is another position; `span`
is the span action still to be done, `halt` the exit value of a HALT that is held (R133, R88): one that a rollback does not issue
again. A handler runs in original code alone (R392). [DEDUCED, log entry 19] [DEDUCED, log entry 51] [DEDUCED, log entry 57] -/
def enterTrap (s : State) (c : Nat) (t : TrapInfo) (pc : Nat) (span : SpanCode := .none) (halt : Option D64 := none)
    (from_ : Option Nat := none) : State :=
  let x := ctxOf s c
  let late := t.code = .softError ∨ t.code = .matrixFault
  if x.handler ∨ t.code = .badStatus ∨ t.code = .notRestartable ∨ t.code = .detConflict then
    escalate s c t pc false late (span != .none) halt.isSome from_
  else if late ∧ x.sys.ckmode ≠ 1 then escalate s c t pc false late
  else if x.sys.ckmode = 1 ∧ x.banks.toList.any (· == .lost) then
    escalate s c { code := .notRestartable, arg := t.code.code } (match x.shadow with | some h => h.pos | none => pc) false late
  else
    let waiting := (late || t.code = .fpTrap) && atDue x
    let rolled := x.sys.ckmode = 1 ∧ x.shadow.isSome
    let s := if rolled then rollback s c else s
    let x := ctxOf s c
    let pc := if rolled then x.pc else pc
    let from_ := if rolled then none else from_
    match handlerOf s c t.code with
    | none => escalate s c t pc rolled late (!rolled && span != .none) halt.isSome from_
    | some pos =>
      let (opc, iter) := originalOf s c pc from_
      let gone := if waiting then x.ls.dropWhile fun o => !o.withdraws else []
      let a : Aside := { regs := if t.code = .doubleWrite ∧ !rolled then x.regs.clearConflicts else x.regs
                         lat := x.lat, infl := x.infl
                         link := x.link, loops := x.loops, idle := x.idle, tick := x.lsc
                         span := if rolled then .none else span, exit := halt.getD 0, ls := gone, aticks := x.aticks
                         waits := if t.code.after then [] else x.waits.filter fun w => !watchWait s c w
                         recvs := if waiting then x.recvs else [] }
      let y : Ctx := { x with
        aside := some a, handler := true
        regs := x.regs.clearSpan
        lat := Vector.replicate 14 {}
        infl := [], link := [], loops := [], idle := 0, late := []
        waits := if t.code.after then x.waits else []
        recvs := if waiting then [] else x.recvs
        ls := if waiting then x.ls.takeWhile fun o => !o.withdraws else x.ls
        frame := none, fetched := false, pc := pos
        foreign := (kernelOf s c).any fun k => inResidual k pos
        sys := { x.sys with
          trapstat := statusWord t (!rolled && span != .none) rolled late halt.isSome
          trappc := posWord pc, trapopc := posWord opc, trapiter := iter } }
      let s := modCore s (ctxCore c) fun k => dropDemand c { k with rrot := k.rrot.filter fun r => !(r.ctx == c && gone.any fun o => o.seq == r.seq) }
      { setCtx s c y with active := if s.active = some c then none else s.active }

/-- A trap precise at the bundle (R102, R163): the context is as before the bundle, none of whose moves acts. -/
def preciseTrap (s : State) (c : Nat) (t : TrapInfo) : State :=
  let x := ctxOf s c
  match x.frame with
  | none => enterTrap s c t x.pc
  | some f =>
    let x := { x with regs := f.regs, lat := f.lat, frame := none
                      infl := x.infl.filter fun e => e.bundle != x.bundle
                      ls := x.ls.filter fun o => o.bundle != x.bundle }
    enterTrap { setCtx s c x with active := none } c t f.pos

/-- The traps detected and not taken, of which one is taken at the next boundary: SOFT_ERROR, then MATRIX_FAULT, then
FP_TRAP (R391); of several of one kind the earliest, so of FP_TRAPs that meet at one boundary the one of the earliest due tick (R161).
[DEDUCED, log entry 23] -/
def pickLate (l : List TrapInfo) : Option TrapInfo :=
  match l.find? fun t => t.code == .softError with
  | some t => some t
  | none => match l.find? fun t => t.code == .matrixFault with
    | some t => some t
    | none => l.head?

/-- Every result due at the context's tick has arrived, and every array operation's tick that has come (R119, R227). -/
def ticksClear (x : Ctx) : Bool := !(x.infl.any fun e => decide (e.due ≤ x.lsc)) && !(x.aticks.any fun t => decide (t.tick ≤ x.lsc))

/-- The traps that may be taken now: at the issue tick of the next bundle every one; in a wait among the idle ticks a late
fault, while an FP_TRAP stays for that issue tick (R390, R394). -/
def lateNow (x : Ctx) : List TrapInfo :=
  if x.idle = 0 then x.late else if ticksClear x then [] else x.late.filter fun t => t.code != .fpTrap

/-- Take a pending late fault or FP_TRAP, at a boundary or in a wait, which it ends (R391, R394). [DEDUCED, log entry 23] -/
def takeLate (s : State) (c : Nat) : State :=
  let x := ctxOf s c
  match pickLate (if x.frame.isSome then x.late else lateNow x) with
  | none => s
  | some t => enterTrap (modCtx s c fun x => { x with late := [] }) c t x.pc

/-! ## Triggers -/

/-- The operands of a trigger (R162): `a` moved to it, `b` and `c` from the latches. -/
structure Opnds where
  a : Val
  b : Val
  c : Val
deriving DecidableEq, Repr

def Opnds.a64 (o : Opnds) : D64 := o.a.setWidth 64
def Opnds.b64 (o : Opnds) : D64 := o.b.setWidth 64
def Opnds.c64 (o : Opnds) : D64 := o.c.setWidth 64

/-- A trigger's own checks: the trap it takes, if any, for a context and operands. -/
abbrev Check := State → Nat → Opnds → Option Trap

/-- Checks in order: the first failure decides (R197, R290). -/
def firstOf (l : List Check) : Check := fun s c o => l.findSome? fun k => k s c o

/-- The span code of the bundle being carried out. -/
def frameSpan (f : Frame) : Nat := (hdrSpan f.header).toNat

/-- An eager trigger in checkpoint mode stands in a bundle with FLIP.C, FLIP.CW or CKPT (R99). -/
def eagerCheck : Check := fun s c _ =>
  match (ctxOf s c).frame with
  | some f => if ckOn (ctxOf s c) ∧ frameSpan f < 3 then some .eagerPlacement else none
  | none => none

/-- No checks. -/
def noCheck : Check := fun _ _ _ => none

/-- The operands that a trigger of unit `u` in the bundle of `f` has (R52, R55, R162). -/
def opndsAt (x : Ctx) (f : Frame) (m : Mv) (u : FU) : Opnds :=
  ⟨cutTo (portWide u 8) (sourceVal f m.src f.cur).1, (latchOf x.lat u).b, (latchOf x.lat u).c⟩

/-- The `.a` latch of the unit takes the trigger's operand (R78, R162). -/
def latchA (s : State) (c : Nat) (u : FU) (a : Val) : State :=
  modCtx s c fun x => { x with lat := setLatch x.lat u { latchOf x.lat u with a := a } }

/-- The mould of every trigger (R50, R162, R163): a false guard does nothing; a failing check traps precisely; else the
`.a` latch takes `a` and the operation starts. -/
def trigger (s : State) (m : Mv) (u : FU) (sock : BitVec 12) (chk : Check) (act : State → Nat → Opnds → State) : Res :=
  match current s with
  | none => .next s
  | some (c, x, f) =>
    if !guardHolds f.regs m.guard then .next s else
    let o := opndsAt x f m u
    match chk s c o with
    | some t => .next (preciseTrap s c { code := t, sock := sock.toNat, slot := f.cur })
    | none => if f.dry then .next s else .next (act (latchA s c u o.a) c o)

end Sys2Proof.Machine
end

