-- ==== Sys2Proof/Machine/Mem.lean ====
section
/-! DEFINITION. Storage: the scratchpad as a context sees it (R189 to R201, R360), the memory of the domain, its poison, its
migrations (R267, R272, R278), and translation (R274 to R277). -/

namespace Sys2Proof.Machine

/-! ## Scratchpad -/

/-- The context runs a task of a deterministic region (R359, R360). [DEDUCED, log entry 31] -/
def inRound (s : State) (c : Nat) : Bool :=
  detOf s (ctxRegion s c) && (ctxOf s c).task.seed.isSome

/-- What R360 forbids inside a deterministic round traps PRIVILEGE: LDFW, STEW, RROT, eager `sem` triggers, RECV. [DEDUCED, log entry 31] -/
def roundDenied : Check := fun s c _ => if inRound s c then some .privilege else none

/-- What a round of the context's launch reads: its contents as of the round's start (R327). -/
def roundBase (s : State) (c : Nat) : Option RoundBase :=
  if inRound s c then ((ctxOf s c).launch.bind (launchOf s)).bind (·.base) else none

/-- A core's scratchpad and EMPTY tags at the round's start. -/
def RoundBase.core (b : RoundBase) (k : Nat) : Memory × List Nat := Tab.get ([], []) b.spads k

def ovByte (o : Overlay) (space a : Nat) : Option Byte :=
  (o.bytes.find? fun p => p.1 == (space, a)).map (·.2)
def ovTag (o : Overlay) (w : Nat) : Option Bool := (o.tags.find? fun p => p.1 == w).map (·.2)

/-- A byte of core `k`'s scratchpad as a task of a round that runs in context `ov` sees it, by the round's start and its own
writes (R327); without `ov`, as it stands. -/
def coreByte (s : State) (ov : Option Nat) (k a : Nat) : Byte :=
  match ov with
  | some c => (ovByte (ctxOf s c).ov 2 (k * 2 ^ 20 + a)).getD (match roundBase s c with
    | some b => (b.core k).1.read a
    | none => (coreOf s k).spad.read a)
  | none => (coreOf s k).spad.read a

/-- The context as the reader of an overlay, inside a round. -/
def roundCtx (s : State) (c : Nat) : Option Nat := if inRound s c then some c else none

/-- A byte of a core's scratchpad as other agents see it, for a task of a round as R327 gives it. -/
def spadByte (s : State) (c a : Nat) : Byte := coreByte s (roundCtx s c) (ctxCore c) a

/-- A tag of a core's scratchpad, FULL or not, by word (R203, R360). -/
def tagFull (s : State) (c w : Nat) : Bool :=
  let k := ctxCore c
  let base := !NatSet.mem (match roundBase s c with | some b => (b.core k).2 | none => (coreOf s k).empty) w
  if inRound s c then (ovTag (ctxOf s c).ov (k * 2 ^ 18 + w)).getD base else base

/-- What a store, STEW or STFF writes, and to which tags: address, bytes, tags of the bytes (R202 to R205). -/
def LsOp.writes (o : LsOp) : List Byte :=
  match o.kind with
  | .store d => d
  | .stew d => d
  | .stff d => d
  | _ => []
def LsOp.tagWrite (o : LsOp) : Option (Nat × Bool) :=
  match o.kind with
  | .stew _ => some (8, true)
  | .stff _ => some (8, true)
  | .feclr n => some (n, false)
  | .ldfw => some (8, false)
  | _ => none

/-- The scratchpad stores among withheld work. -/
def storesOf (l : List Withheld) : List LsOp := l.filterMap fun w => match w with | .store o => some o | _ => none

/-- The context's own stores that a load of `bundle` sees and that have not performed, in trigger order: pending, released and
withheld ones (R198). -/
def ownStores (x : Ctx) (bundle : Nat) : List LsOp :=
  let set := match x.aside with | some a => a.ls | none => []
  sortBy (fun a b => decide (a.seq ≤ b.seq))
    ((set ++ x.ls ++ storesOf x.going ++ storesOf x.held).filter fun o => decide (o.bundle < bundle) && o.kind != .ldfw)

/-- A byte as a context sees its scratchpad from `bundle` on (R198). -/
def viewByte (s : State) (c bundle a : Nat) : Byte :=
  (ownStores (ctxOf s c) bundle).foldl (fun v o =>
    if o.addr ≤ a ∧ a < o.addr + o.writes.length then o.writes.getD (a - o.addr) 0 else v) (spadByte s c a)

def viewBytes (s : State) (c bundle a n : Nat) : List Byte := (natsFrom a n).map (viewByte s c bundle)

/-- A tag as a context sees it (R206). -/
def viewTag (s : State) (c bundle w : Nat) : Bool :=
  (ownStores (ctxOf s c) bundle).foldl (fun v o =>
    match o.tagWrite with
    | some (n, f) => if o.addr ≤ 4 * w ∧ 4 * w < o.addr + n then f else v
    | none => v) (tagFull s c w)

/-- The bank words of a run of bytes (R190). -/
def bankWords (a n : Nat) : List Nat := if n = 0 then [] else natsFrom (a / 16) ((a + n - 1) / 16 - a / 16 + 1)

/-- A unit as a task of a round finds it, where `was` says that it holds an uncorrectable error without the task's writes (R267): the
task has written it poisoned, or has not written it whole. -/
def Overlay.isBad (o : Overlay) (space u : Nat) (was : Bool) : Bool := o.bad.contains (space, u) || (was && !o.good.contains (space, u))

/-- A bank word of core `k` holds an uncorrectable error (R201), for a task of a round as its overlay has it (R267). -/
def wordBad (s : State) (ov : Option Nat) (k w : Nat) : Bool :=
  let was := NatSet.mem (coreOf s k).poison w
  match ov with
  | some c => (ctxOf s c).ov.isBad 2 (k * 2 ^ 16 + w) was
  | none => was

/-- Whether a run of bytes of the context's core holds an uncorrectable error as the context reads it (R201). -/
def spadBad (s : State) (c a n : Nat) : Bool := (bankWords a n).any fun w => wordBad s (roundCtx s c) (ctxCore c) w

/-- A write of all 16 bytes of a bank word clears its poison (R201). -/
def clearPoison (p : List Nat) (a n : Nat) : List Nat :=
  (bankWords a n).foldl (fun p w => if a ≤ 16 * w ∧ 16 * w + 16 ≤ a + n then NatSet.erase p w else p) p

/-- Write bytes into a core's banks (R199, R201). -/
def spadWrite (s : State) (k a : Nat) (bs : List Byte) : State :=
  modCore s k fun x => { x with spad := Memory.writeBytes x.spad a bs, poison := clearPoison x.poison a bs.length }

/-- The words of a run of bytes, by number. -/
def tagWords (a n : Nat) : List Nat := if n = 0 then [] else natsFrom (a / 4) ((a + n - 1) / 4 - a / 4 + 1)

/-- Set the tags of a run of bytes (R203, R205); a tag written is sound again (R201). -/
def setTags (s : State) (k a n : Nat) (full : Bool) : State :=
  modCore s k fun x => { x with empty := (tagWords a n).foldl (fun e w => if full then NatSet.erase e w else NatSet.insert e w) x.empty
                                tagBad := (tagWords a n).foldl NatSet.erase x.tagBad }

/-- A tag of a run of bytes holds a parity error (R201). [DEDUCED, log entry 25] -/
def tagsBad (s : State) (k a n : Nat) : Bool := (tagWords a n).any fun w => NatSet.mem (coreOf s k).tagBad w

/-- The units of `size` bytes that a run of `n` bytes at `a` covers whole. -/
def wholeUnits (size a n : Nat) : List Nat :=
  let first := (a + size - 1) / size
  natsFrom first ((a + n) / size - first)

/-- An overlay with bytes written; a unit written whole holds no error there (R201, R267, R360). -/
def Overlay.write (o : Overlay) (space a : Nat) (bs : List Byte) : Overlay :=
  let whole := (wholeUnits (if space = 0 then 64 else 16) a bs.length).map fun u => (space, u)
  { o with
    bytes := (bs.zipIdx.map fun p => ((space, a + p.2), p.1)).reverse ++ o.bytes
    bad := o.bad.filter fun u => !whole.contains u
    good := whole ++ o.good }

/-- Write for a task of a round: into its overlay (R360). -/
def ovWrite (s : State) (c space a : Nat) (bs : List Byte) : State := modCtx s c fun x => { x with ov := x.ov.write space a bs }
def ovTags (s : State) (c a n : Nat) (full : Bool) : State :=
  modCtx s c fun x => { x with ov := { x.ov with tags := (tagWords a n).map (fun w => (ctxCore c * 2 ^ 18 + w, full)) ++ x.ov.tags } }

/-- A context's own write and tag change at the banks, or in its overlay inside a round. -/
def ctxWrite (s : State) (c a : Nat) (bs : List Byte) : State :=
  if bs = [] then s
  else if inRound s c then ovWrite s c 2 (ctxCore c * 2 ^ 20 + a) bs else spadWrite s (ctxCore c) a bs
def ctxTags (s : State) (c a n : Nat) (full : Bool) : State :=
  if inRound s c then ovTags s c a n full else setTags s (ctxCore c) a n full

/-! ## Memory of the domain (R278) -/

/-- The key of a physical address of a node. -/
def physKey (node pa : Nat) : Nat := node * 2 ^ 44 + pa

/-- The bytes of an HBM stack: 64 GB, a power of 1,000 (R7, R278). [DEDUCED, log entry 29] -/
def hbmBytes : Nat := 64000000000

/-- The `n` bytes from a physical address of a node of the domain are backed (R278, R5). [DEDUCED, log entry 29] -/
def backedAt (s : State) (node pa n : Nat) : Bool :=
  let (cxl, hbm) := if node = s.node then (s.cxl, s.hbm) else Tab.get (0, []) s.peers node
  let k := pa / 2 ^ 37
  s.nodes.contains node &&
    (if k < 12 then !NatSet.mem hbm k && decide (pa % 2 ^ 37 + n ≤ hbmBytes)
     else decide (2 ^ 43 ≤ pa) && decide (pa + n ≤ 2 ^ 43 + cxl))

/-- The same of this module's node. -/
def backed (s : State) (pa n : Nat) : Bool := backedAt s s.node pa n

/-- The record that marks the line of a key absent (R272). -/
def absentAt (migs : List Migration) (key : Nat) : Option Migration :=
  migs.find? fun m => decide (m.new ≤ key) && decide (key < m.new + 2 ^ 19) && m.absent.contains ((key - m.new) / 1024)

/-- The key at which the byte of a key stands: behind every record that still marks its line absent (R272). -/
def lineKey (migs : List Migration) : Nat → Nat → Nat
  | 0, key => key
  | n + 1, key =>
    match absentAt migs key with
    | some m => lineKey migs n (m.old + (key - m.new))
    | none => key

/-- Pull an absent line of a migration target (R272), also from an old frame whose node cannot be reached now, of which the spec says
nothing. [DESIGN CHOICE, log entry 67] -/
def pullLine (s : State) (m : Migration) (line : Nat) : State :=
  let old := m.old + 1024 * line
  let bad := (List.range 16).filter fun i => NatSet.mem s.memBad (old / 64 + i)
  let u0 := (m.new + 1024 * line) / 64
  { s with mem := Memory.writeBytes s.mem (m.new + 1024 * line) (Memory.readBytes s.mem old 1024)
           memBad := (List.range 16).foldl (fun p i => if bad.contains i then NatSet.insert p (u0 + i) else NatSet.erase p (u0 + i)) s.memBad
           migs := (s.migs.map fun r => if r.new = m.new then { r with absent := r.absent.filter (· != line) } else r).filter
                     fun r => r.absent != [] }

/-- Make the line of a key present: the line it is pulled from first, where that is absent itself (R272, R277). The first argument
bounds the records. -/
def touchLine : Nat → State → Nat → State
  | 0, s, _ => s
  | n + 1, s, key =>
    match absentAt s.migs key with
    | some m => pullLine (touchLine n s (m.old + (key - m.new))) m ((key - m.new) / 1024)
    | none => s

def touchKey (s : State) (key : Nat) : State := touchLine s.migs.length s key

/-- Write bytes at a key within one 64-byte unit, for every agent to see; a write of the whole unit clears its poison (R267). -/
def memWrite (s : State) (key : Nat) (bs : List Byte) : State :=
  let s := touchKey s key
  { s with mem := Memory.writeBytes s.mem key bs
           lags := s.lags.filter fun l => l.unit != key / 64
           memBad := if key % 64 = 0 ∧ bs.length = 64 then NatSet.erase s.memBad (key / 64) else s.memBad }

/-- A job of a die writes bytes within one 64-byte unit (R265, R269): every agent sees them from now on, or at first the agents of its
context, core or die alone, and those of a wider scope once it has performed there (R270, R321); every agent, where the context no
longer stands on the die. [DESIGN CHOICE, log entry 27] -/
def copyWrite (s : State) (die : Nat) (j : Job) (key : Nat) (bs : List Byte) : State :=
  let (n, s) := nextFree s
  let level := Config.freeChoice n % 5
  if level = 4 ∨ ctxDie j.ctx ≠ die then memWrite s key bs
  else
    let s := touchKey s key
    let l : Lag := { job := j.id, ctx := j.ctx, core := ctxCore j.ctx, die := die, level := level, unit := key / 64
                     old := Memory.readBytes s.mem (key / 64 * 64) 64, off := key % 64, data := bs }
    { memWrite s key bs with lags := s.lags ++ [l] }

/-- An agent that reads memory: the die by whose channel it reads, the core and the context it reads for; which writes that it need not
see it sees, by their place in State.lags (R317), all of them where there is no such choice; whether it reads a unit in one instant
(R268), or byte by byte. -/
structure Reader where
  die  : Nat
  core : Option Nat := none
  ctx  : Option Nat := none
  pick : Option Nat := none
  once : Bool := false
deriving DecidableEq, Repr

/-- Where the scratchpad of a core is that a card names: on that core, or where the image went that it was saved to (R280). -/
def Job.spadCore (j : Job) (core : Nat) : Nat := (List.lookup core j.moved).getD core

/-- The reader that a job is. -/
def Job.reader (j : Job) (die : Nat) : Reader := { die := die, core := some (j.spadCore j.core), ctx := some j.ctx }

/-- A write has performed at a scope that holds the reader (R270). -/
def Lag.seen (l : Lag) (r : Reader) : Bool :=
  decide (3 ≤ l.level) || (decide (2 ≤ l.level) && l.die == r.die) || (decide (1 ≤ l.level) && r.core == some l.core) || r.ctx == some l.ctx

/-- A reader must see a write: its own context's, and one that its context has come to see by an acquire or an earlier read (R268, R320,
R321). -/
def Lag.must (l : Lag) (r : Reader) : Bool :=
  match r.ctx with
  | some c => c == l.ctx || l.known.contains c
  | none => l.seen r

/-- A reader sees the write that stands at place `i` of State.lags: a plain read before it orders nothing, so of the writes that have
performed for it the reader may miss those that it need not see (R317). [DESIGN CHOICE, log entry 27] -/
def Lag.picked (l : Lag) (r : Reader) (i : Nat) : Bool :=
  l.must r || (l.seen r && match r.pick with | some n => n / 2 ^ i % 2 == 1 | none => true)

/-- The writes of a unit of memory, oldest first, with whether a reader sees each: in one instant it sees those before one that it
sees. -/
def seenLags (s : State) (r : Reader) (unit : Nat) : List (Lag × Bool) :=
  let l := (s.lags.zipIdx.filter fun p => p.1.unit == unit).map fun p => (p.1, p.1.picked r p.2)
  if r.once then l.zipIdx.map fun p => (p.1.1, (l.drop p.2).any (·.2)) else l

/-- A byte of a unit that those of its writes make which are seen: of the last one that covers the byte, else as it was before. -/
def lagByte (l : List (Lag × Bool)) (i : Nat) : Byte :=
  l.foldl (fun v p => if p.2 ∧ p.1.off ≤ i ∧ i < p.1.off + p.1.data.length then p.1.data.getD (i - p.1.off) 0 else v)
    (match l with | p :: _ => p.1.old.getD i 0 | [] => 0)

/-- A byte of memory as an agent reads it (R270, R317, R321). -/
def seenByte (s : State) (r : Reader) (key : Nat) : Byte :=
  let l := seenLags s r (key / 64)
  if l.all (·.2) then s.mem.read key else lagByte l (key % 64)

/-- The context sees these writes from now on. -/
def knowLags (p : Lag → Bool) (c : Nat) (ls : List Lag) : List Lag :=
  ls.map fun l => if p l then { l with known := NatSet.insert l.known c } else l

/-- An acquire of the context: it sees every write that has performed for it (R320, R321). -/
def acquire (s : State) (c : Nat) : State :=
  { s with lags := knowLags (fun l => l.seen { die := ctxDie c, core := some (ctxCore c), ctx := some c }) c s.lags }

/-- What an access of the context has seen of a unit, its later ones see (R268). [DESIGN CHOICE, log entry 27] -/
def keepSeen (s : State) (r : Reader) (c unit : Nat) : State :=
  { s with lags := knowLags (fun l => (seenLags s r unit).any fun p => p.2 && p.1 == l) c s.lags }

/-- Writes that every agent sees from now on, with the older ones of their units. -/
def flushLags (p : Lag → Bool) : List Lag → List Lag
  | [] => []
  | l :: ls => if p l || ls.any (fun m => m.unit == l.unit && p m) then flushLags p ls else l :: flushLags p ls

/-- The writes of a copy operation so far perform at domain scope (R265, R270). -/
def performDomain (s : State) (job : Nat) : State :=
  { s with lags := s.lags.map fun l => if l.job = job then { l with level := max 3 l.level } else l }

/-- Every agent sees every write of a copy operation, whose token lands or whose context has gone (R263, R270). [DESIGN CHOICE, log entry 27] -/
def performWide (s : State) (job : Nat) : State := { s with lags := flushLags (fun l => l.job == job) s.lags }

/-- The write of a job of that number, counted from 1, performs at the next wider scope (R270): core, die, domain; then every agent sees
it. -/
def widenLag (s : State) (job n : Nat) : State :=
  match (s.lags.filter fun l => l.job == job)[n - 1]? with
  | some w => { s with lags := if w.level < 3 then s.lags.map fun l => if l = w then { l with level := l.level + 1 } else l
                                else flushLags (· == w) s.lags }
  | none => s

/-! ## Translation (R274 to R277) -/

/-- The outcome of a walk. -/
inductive Trans where
  | invalid
  | absent (leaf : D64) (at_ size : Nat)       -- valid, not resident
  | page (leaf : D64) (at_ size : Nat)
deriving DecidableEq, Repr

def pteNode (e : D64) : Nat := (e.extractLsb' 44 13).toNat
def pteAddr (e : D64) : Nat := (e.extractLsb' 12 32).toNat * 4096
def pteA : D64 := BitVec.ofNat 64 (2 ^ 59)

/-- The levels of the walk (R274): lowest index bit, index width, whether a leaf may and must stand here. -/
def walkLevels : List (Nat × Nat × Bool × Bool) :=
  [(46, 10, false, false), (37, 9, true, false), (28, 9, true, false), (19, 9, true, true)]

def read64 (m : Memory) (a : Nat) : D64 := BitVec.ofNat 64 (leNat (Memory.readBytes m a 8))

/-- The four-level walk from a table (R274); a line of a table that is absent is pulled first (R272). -/
def walk (s : State) (va table : Nat) : List (Nat × Nat × Bool × Bool) → Trans × State
  | [] => (.invalid, s)
  | (lo, w, mayLeaf, mustLeaf) :: rest =>
    let at_ := table + 8 * (va / 2 ^ lo % 2 ^ w)
    let s := touchKey s (physKey s.node at_)
    let e := read64 s.mem (physKey s.node at_)
    let leaf := e.getLsbD 62
    if !e.getLsbD 63 || e.getLsbD 57 || e.extractLsb' 0 12 != 0 || (leaf && !mayLeaf) || (!leaf && mustLeaf) then (.invalid, s)
    else if leaf then
      if pteAddr e % 2 ^ lo ≠ 0 ∨ !backedAt s (pteNode e) (pteAddr e) (2 ^ lo) then (.invalid, s)
      else (if e.getLsbD 61 then .page e at_ lo else .absent e at_ lo, s)
    else if pteNode e ≠ s.node ∨ !backed s (pteAddr e) 4096 then (.invalid, s)
    else walk s va (pteAddr e) rest

def spaceOf (s : State) (asid : Nat) : Space := Tab.get {} s.spaces asid

/-- The walk of an address in an address space. -/
def walkVa (s : State) (asid va : Nat) : Trans × State :=
  match (spaceOf s asid).root with
  | some r => if backed s r 8192 then walk s va r walkLevels else (.invalid, s)
  | none => (.invalid, s)

/-- Keep a translation: the channel's TLB and the die's (R275). [DESIGN CHOICE, log entry 30] -/
def cacheEntry (l : List TlbEnt) (e : TlbEnt) : List TlbEnt :=
  let l := e :: l.filter fun o => !(o.chan == e.chan && o.asid == e.asid && o.page == e.page && o.size == e.size)
  let own := l.filter fun o => o.chan == e.chan
  (own.take (if e.chan = 64 then 16384 else 256)) ++ l.filter fun o => o.chan != e.chan

/-- An entry of a table gets its A bit, atomically (R275). -/
def setAccessed (s : State) (at_ : Nat) : State :=
  let key := physKey s.node at_
  let s := touchKey s key
  memWrite s key (leBytes 8 (read64 s.mem key ||| pteA).toNat)

/-- A demand translation uses an entry of a TLB: one whose A is clear sets A in its leaf, once; the entry stands in the channel's TLB and
in the die's (R275). -/
def useEntry (s : State) (die : Nat) (e : TlbEnt) : State :=
  let s := if e.leaf &&& pteA = 0 then setAccessed s e.at_ else s
  let e := { e with leaf := e.leaf ||| pteA }
  modDie s die fun d => { d with tlb := cacheEntry (cacheEntry d.tlb e) { e with chan := 64 } }

/-- A demand translation on a die's channel (R274, R275): by a cached entry of the current generation, also where the tables have
changed since, or by a walk as if it were cached no more, which the spec leaves open where the walk would not come to the same; a resident
entry is cached.
[DESIGN CHOICE, log entry 30] -/
def translate (s : State) (die chan asid va : Nat) : Trans × State :=
  let gen := (spaceOf s asid).gen
  let hit := (dieOf s die).tlb.find? fun e => (e.chan == chan || e.chan == 64) && e.asid == asid && e.gen == gen &&
    e.page == va / 2 ^ e.size
  let (n, s) := nextFree s
  let same := fun (e : TlbEnt) => let w := walkVa s asid va; decide (w.1 = .page e.leaf e.at_ e.size) && w.2.migs == s.migs
  match hit.filter fun e => same e || Config.freeChoice n % 2 == 0 with
  | some e => (.page e.leaf e.at_ e.size, useEntry s die { e with chan := chan })
  | none => match walkVa s asid va with
    | (.page l at_ sz, s) => (.page l at_ sz, useEntry s die ⟨chan, asid, gen, sz, va / 2 ^ sz, l, at_⟩)
    | r => r

/-- The key a translated page gives an address. -/
def pageKey (leaf : D64) (size va : Nat) : Nat := physKey (pteNode leaf) (pteAddr leaf + va % 2 ^ size)

/-- One byte read through an address space: its value, absent, poisoned, and an unreachable home node (R277, R313). -/
structure ByteIn where
  val : Byte := 0
  absent : Bool := false
  bad : Bool := false
  unreach : Option Nat := none
deriving DecidableEq, Repr

/-- The key of an address under its translation, as of a round's start: by the tables and the records of that time, which still give
the frame that held the contents then; a page that was not resident stands where it stands now (R327). [DEDUCED, log entry 31] -/
def baseKey (s : State) (b : RoundBase) (asid va : Nat) : Option Nat :=
  match (walkVa { s with mem := b.mem, migs := b.migs } asid va).1 with
  | .page l _ sz => some (lineKey b.migs b.migs.length (pageKey l sz va))
  | _ => none

/-- The byte of an address under a translation, without what a task has written itself; a task of a round reads the round's start (R327). -/
def byteAt (s : State) (ov : Option Nat) (r : Reader) (asid : Nat) (t : Trans) (va : Nat) : ByteIn × State :=
  match t with
  | .page leaf _ sz =>
    if NatSet.mem s.unreach (pteNode leaf) then ({ unreach := some (pteNode leaf) }, s)
    else
      match (ov.bind (roundBase s)).bind fun b => (baseKey s b asid va).map fun k => (b, k) with
      | some (b, k) => ({ val := b.mem.read k, bad := NatSet.mem b.memBad (k / 64) }, s)
      | none =>
        let key := pageKey leaf sz va
        let s := touchKey s key
        ({ val := seenByte s r key, bad := NatSet.mem s.memBad (key / 64) }, match r.ctx with | some c => keepSeen s r c (key / 64) | none => s)
  | _ => ({ absent := true }, s)

/-- The same with the task's own writes over it (R327), whose unit is in error as the task finds it (R267). -/
def byteFor (s : State) (ov : Option Nat) (r : Reader) (asid : Nat) (t : Trans) (va : Nat) : ByteIn × State :=
  let (b, s) := byteAt s ov r asid t va
  match ov with
  | none => (b, s)
  | some c =>
    let o := (ctxOf s c).ov
    let bad := o.isBad 0 (va / 64) b.bad
    (match ovByte o 0 va with
     | some v => { val := v, bad := bad }
     | none => { b with bad := bad && !b.absent && b.unreach.isNone }, s)

/-- Read one byte of MEM for a context (its overlay inside a round) on a channel of its die. -/
def readMem (s : State) (ov : Option Nat) (r : Reader) (chan asid va : Nat) : ByteIn × State :=
  let (t, s) := translate s r.die chan asid va
  byteFor s ov r asid t va

/-- Read `n` bytes of MEM that lie within one 64-byte unit, in one instant, under one translation (R268). -/
def readUnit (s : State) (ov : Option Nat) (r : Reader) (chan asid va n : Nat) : List ByteIn × State :=
  let (t, s) := translate s r.die chan asid va
  (natsFrom va n).foldl (fun (p : List ByteIn × State) a => let (b, s) := byteFor p.2 ov r asid t a; (p.1 ++ [b], s)) ([], s)

/-- Read `n` consecutive bytes of MEM, one 64-byte unit after the other. The first argument bounds the units. -/
def readUnits (ov : Option Nat) (r : Reader) (chan asid : Nat) : Nat → State → Nat → Nat → List ByteIn × State
  | 0, s, _, _ => ([], s)
  | k + 1, s, va, n =>
    if n = 0 then ([], s)
    else
      let m := min n (64 - va % 64)
      let (bs, s) := readUnit s ov r chan asid va m
      let (cs, s) := readUnits ov r chan asid k s (va + m) (n - m)
      (bs ++ cs, s)

/-- Read consecutive bytes of MEM. -/
def readMems (s : State) (ov : Option Nat) (r : Reader) (chan asid va n : Nat) : List ByteIn × State :=
  readUnits ov r chan asid n s va n

/-- Whether a page may be written: the reason it may not, as R263 names it, or the node that cannot be reached. -/
inductive Writable where
  | yes (leaf : D64) (size : Nat)
  | wfault
  | unreach (node : Nat) (leaf : D64) (size : Nat)
deriving DecidableEq, Repr

/-- A write by a leaf. -/
def leafWritable (s : State) (leaf : D64) (sz : Nat) : Writable :=
  if !leaf.getLsbD 60 then .wfault
  else if NatSet.mem s.unreach (pteNode leaf) then .unreach (pteNode leaf) leaf sz
  else .yes leaf sz

def writable (s : State) (die chan asid va : Nat) : Writable × State :=
  match translate s die chan asid va with
  | (.page leaf _ sz, s) => (leafWritable s leaf sz, s)
  | (_, s) => (.wfault, s)

/-- A run of bytes from an address, cut at 64-byte units: address and bytes of each. The first argument bounds the pieces. -/
def unitChunks {α : Type} : Nat → Nat → List α → List (Nat × List α)
  | 0, _, _ => []
  | n + 1, a, l => if l.isEmpty then [] else (a, l.take (64 - a % 64)) :: unitChunks n (a + (64 - a % 64)) (l.drop (64 - a % 64))

/-- Write bytes of MEM that lie within one 64-byte unit, where the page may be written. -/
def writeMem (s : State) (die chan asid va : Nat) (bs : List Byte) : State :=
  match writable s die chan asid va with
  | (.yes leaf sz, s) => memWrite s (pageKey leaf sz va) bs
  | (_, s) => s

/-- A copy operation writes bytes within one 64-byte unit of a page that it has found writable: into its round's overlay (R360),
else at the page's home. -/
def copyStore (s : State) (die : Nat) (j : Job) (leaf : D64) (sz va : Nat) (bs : List Byte) : State :=
  match j.ov with
  | some c => ovWrite s c 0 va bs
  | none => copyWrite s die j (pageKey leaf sz va) bs

/-- Poison the 64-byte unit of a writable page that a poisoned source feeds (R267). -/
def poisonMem (s : State) (ov : Option Nat) (leaf : D64) (sz va : Nat) : State :=
  match ov with
  | some c => modCtx s c fun x => { x with ov := { x.ov with bad := (0, va / 64) :: x.ov.bad } }
  | none => { s with memBad := NatSet.insert s.memBad (pageKey leaf sz va / 64) }

end Sys2Proof.Machine
end

