-- ==== Sys2Proof/Machine/Vec.lean ====
section
/-! DEFINITION. The vector unit (R173 to R188), one meaning for each trigger: lanes, the inhibit mask of `m0`, enabled
lanes, and the status word. -/

namespace Sys2Proof.Machine

/-- Lane `i` of width `w` (R9). -/
def lane (w : Nat) (v : Nat) (i : Nat) : Nat := v / 2 ^ (i * w) % 2 ^ w

/-- Lanes of width `w` as one number, lane 0 lowest (R9). -/
def pack (w : Nat) : List Nat → Nat
  | [] => 0
  | x :: xs => x % 2 ^ w + 2 ^ w * pack w xs

/-- One lane of a result: its value, its flags, whether it is enabled (R174, R175). -/
structure LaneOut where
  val : Nat
  flags : FlagSet := 0
  en : Bool := true
deriving DecidableEq, Repr

/-- A vector result: value, enabled bits, and the flags of each lane that raised any (R175, R176). -/
structure VecOut where
  val : Val
  en  : Val
  lanes : List (Nat × FlagSet)
deriving DecidableEq, Repr

/-- A result from its lanes; disabled lanes hold zero (R175). -/
def vecOut (w : Nat) (ls : List LaneOut) : VecOut :=
  { val := BitVec.ofNat 4096 (pack w (ls.map fun l => if l.en then l.val else 0))
    en := BitVec.ofNat 4096 (pack w (ls.map fun l => if l.en then 2 ^ w - 1 else 0))
    lanes := (ls.zipIdx.filter fun p => p.1.en && p.1.flags != 0).map fun p => (p.2, p.1.flags) }

/-- The inhibit mask: the visible face of `m0` at the issue tick (R174). -/
def inhibitMask (s : State) (c : Nat) : BitVec 512 :=
  match (ctxOf s c).frame with
  | some f => (f.regs.m[0]).read
  | none => 0

/-- The `n` lanes of a result whose lane `i` is `f i` where it is not inhibited. -/
def perLane (n : Nat) (inh : BitVec 512) (f : Nat → Nat × FlagSet) : List LaneOut :=
  (List.range n).map fun i =>
    if inh.getLsbD i then { val := 0, en := false } else let x := f i; { val := x.1, flags := x.2 }

/-- A trigger of `vec`: its result and status word are due after the latency (R123, R176). -/
def vecTrigger (s : State) (m : Mv) (sock : BitVec 12) (la lb : Nat) (chk : Check)
    (f : BitVec 512 → Nat → Nat → Nat → VecOut) : Res :=
  trigger s m .vec sock chk fun s c o =>
    let x := f (inhibitMask s c) o.a.toNat o.b.toNat o.c.toNat
    modCtx s c fun y => addResult y .vec (latency y la lb) (some (x.val, x.en)) (some (vecStatus x.lanes))
      (lanesFlags x.lanes) x.lanes

/-- An element-wise operation on lanes of width `w` (R178, R179, R181, R182). -/
def vecMap (s : State) (m : Mv) (sock : BitVec 12) (lat w : Nat) (f : Nat → Nat → Nat → Nat × FlagSet) : Res :=
  vecTrigger s m sock lat lat noCheck fun inh a b c =>
    vecOut w (perLane (4096 / w) inh fun i => f (lane w a i) (lane w b i) (lane w c i))

/-- A compare: a bit for each lane, all lanes of the value enabled (R180). -/
def vecCompare (s : State) (m : Mv) (sock : BitVec 12) (w : Nat) (f : Nat → Nat → Bool) : Res :=
  vecTrigger s m sock 3 3 noCheck fun inh a b _ =>
    { val := BitVec.ofNat 4096 (pack 1 ((List.range (4096 / w)).map fun i =>
        if !inh.getLsbD i && f (lane w a i) (lane w b i) then 1 else 0))
      en := BitVec.allOnes 4096, lanes := [] }

/-- A lane value without flags. -/
def quiet (v : Nat) : Nat × FlagSet := (v, 0)

def intLess (w a b : Nat) : Bool := decide (intOf w a < intOf w b)
def fpLess (f : Fmt) (a b : Nat) : Bool := match Fp.cmp (f.decode a) (f.decode b) with | some .lt => true | _ => false
def fpEq (f : Fmt) (a b : Nat) : Bool := match Fp.cmp (f.decode a) (f.decode b) with | some .eq => true | _ => false

/-- Saturating addition (R179). -/
def addsLane (k : Kind) (a b : Nat) : Nat × FlagSet :=
  match k with
  | .nat _ => clampTo k ((a : Int) + b)
  | k => clampTo k (intOf k.width a + intOf k.width b)

/-- Shifts of a lane (R182). -/
def shlLane (w a n : Nat) : Nat := if n ≥ w then 0 else a * 2 ^ n % 2 ^ w
def shrLane (w a n : Nat) : Nat := if n ≥ w then 0 else a / 2 ^ n
def sarLane (w a n : Nat) : Nat := intCode w (intOf w a / 2 ^ min n w)

/-- The source formats of CVT by code (R183). -/
def cvtSource : Nat → Option Kind
  | 0 => some (.fp f32) | 1 => some (.fp f16) | 2 => some (.fp bf16) | 3 => some (.fp e4m3) | 4 => some (.fp e5m2)
  | 5 => some (.int 32) | 6 => some (.int 16) | 7 => some (.int 8) | 8 => some (.nat 32) | 9 => some (.nat 16)
  | 10 => some (.nat 8) | _ => none

/-- CVT's ratio of lane counts (R183). -/
def cvtRatio (ns nd : Nat) : Nat := if nd ≥ ns then nd / ns else ns / nd

/-- CVT's check of `b` (R183). -/
def cvtCheck (dst : Kind) : Check := fun _ _ o =>
  let b := o.b64
  match cvtSource (b.extractLsb' 0 4).toNat with
  | none => some .bounds
  | some k =>
    if b.extractLsb' 6 58 ≠ 0 ∨ (b.extractLsb' 4 2).toNat ≥ cvtRatio (4096 / k.width) (4096 / dst.width) then some .bounds
    else none

/-- CVT (R183). -/
def vecCvt (s : State) (m : Mv) (sock : BitVec 12) (dst : Kind) (sat : Option Bool) : Res :=
  vecTrigger s m sock 3 4 (cvtCheck dst) fun inh a b _ =>
    let src := (cvtSource (b % 16)).getD (.fp f32)
    let p := b / 16 % 4
    let ns := 4096 / src.width
    let nd := 4096 / dst.width
    vecOut dst.width ((List.range nd).map fun j =>
      if inh.getLsbD j then { val := 0, en := false }
      else if nd ≥ ns then
        if p * ns ≤ j ∧ j < p * ns + ns then
          let x := convert src dst sat (lane src.width a (j - p * ns)); { val := x.1, flags := x.2 }
        else { val := 0, en := false }
      else let x := convert src dst sat (lane src.width a (p * nd + j)); { val := x.1, flags := x.2 })

/-- VDOT16 and VDOT8: 32 output lanes, the others disabled (R184). -/
def vecDot (s : State) (m : Mv) (sock : BitVec 12) (g : Nat) (f : Fmt) (dot : List (Fp × Fp) → Fp × FlagSet) : Res :=
  vecTrigger s m sock 6 6 noCheck fun inh a b c =>
    vecOut 32 ((List.range 128).map fun j =>
      if 32 ≤ j ∨ inh.getLsbD j then { val := 0, en := false }
      else
        let w := f.width
        let d := dot ((List.range g).map fun i => (f.decode (lane w a (g * j + i)), f.decode (lane w b (g * j + i))))
        let x := accAdd (lane 32 c j) d.1
        { val := x.1, flags := d.2 ||| x.2 })

/-- One level of RSUM's tree: adjacent pairs (R185). -/
def sumPairs : List Nat → List Nat × FlagSet
  | a :: b :: rest => let x := f32.add a b; let y := sumPairs rest; (x.1 :: y.1, x.2 ||| y.2)
  | l => (l, 0)

/-- `n` levels of the tree. -/
def sumTree : Nat → List Nat → Nat × FlagSet
  | 0, l => (l.headD 0, 0)
  | n + 1, l => let x := sumPairs l; let y := sumTree n x.1; (y.1, x.2 ||| y.2)

/-- A reduction into lane 0, all lanes enabled (R185). -/
def vecReduce (s : State) (m : Mv) (sock : BitVec 12) (ident : Nat) (f : List Nat → Nat × FlagSet) : Res :=
  vecTrigger s m sock 8 8 noCheck fun inh a _ _ =>
    let x := f ((List.range 128).map fun i => if inh.getLsbD i then ident else lane 32 a i)
    { val := BitVec.ofNat 4096 x.1, en := BitVec.allOnes 4096, lanes := if x.2 = 0 then [] else [(0, x.2)] }

/-- A trigger gated by a FEAT bit (R57, R177). -/
def featCheck (n : Nat) : Check := fun s _ _ => if s.feat.testBit n then none else some .illegalSocket

/-- EXP2, RCP, RSQ on 32-bit lanes (R186). -/
def vecSpecial (s : State) (m : Mv) (sock : BitVec 12) (f : Nat → Nat × FlagSet) : Res :=
  vecTrigger s m sock 10 12 (featCheck 1) fun inh a _ _ => vecOut 32 (perLane 128 inh fun i => f (lane 32 a i))

/-- SHUF's index (R187). -/
def shufIndex (w i b : Nat) : Nat := if w = 8 then 256 * (i / 256) + b % 256 else b % (4096 / w)

/-- SHUF (R187). -/
def vecShuf (s : State) (m : Mv) (sock : BitVec 12) (w : Nat) : Res :=
  vecTrigger s m sock 4 4 noCheck fun inh a b _ =>
    vecOut w (perLane (4096 / w) inh fun i => quiet (lane w a (shufIndex w i (lane w b i))))

/-- BCAST (R187). -/
def vecBcast (s : State) (m : Mv) (sock : BitVec 12) (w : Nat) : Res :=
  vecTrigger s m sock 3 3 noCheck fun inh a b _ =>
    vecOut w (perLane (4096 / w) inh fun _ => quiet (lane w a (b % 2 ^ 64 % (4096 / w))))

/-- The least e with M <= 2^(e+1), for M = m * 2^x (R188). -/
def blockExp (m : Nat) (x : Int) : Int :=
  let top : Int := Nat.log2 m + x
  if m = 2 ^ Nat.log2 m then top - 1 else top

/-- One block of VQNT: its bytes with their flags, and its scale byte (R188). -/
def quantBlock (inh : BitVec 512) (a q : Nat) : List LaneOut × Nat :=
  let lanes := (List.range 32).map fun i => (inh.getLsbD (32 * q + i), f32.decode (lane 32 a (32 * q + i)))
  let bad := fun (v : Fp) => match v with | .fin _ _ _ => false | _ => true
  if lanes.any fun p => !p.1 && bad p.2 then
    (lanes.map fun p => { val := 0x77, flags := flagIf (!p.1 && bad p.2) fIV }, 255)
  else
    let mags := lanes.filterMap fun p => match p.2 with
      | .fin _ m e => if p.1 || m == 0 then none else some (m, e)
      | _ => none
    let x8 : Nat := match mags with
      | [] => 127
      | _ =>
        let top := mags.foldl (fun (t : Option Int) p =>
          let e := blockExp p.1 p.2; match t with | none => some e | some u => some (max u e)) none
        (min (max (127 + top.getD 0) 0) 254).toNat
    (lanes.map fun p =>
      if p.1 then { val := 0x77 } else
      match p.2 with
      | .fin neg m e =>
        if m = 0 then { val := 0x77 } else let r := roundD8 neg m (e + 127 - x8); { val := r.1, flags := r.2 }
      | _ => { val := 0x77 }, x8)

/-- VQNT.d8's value (R188). -/
def quantise (inh : BitVec 512) (a : Nat) : VecOut :=
  let bs := (List.range 4).map (quantBlock inh a)
  let bytes := bs.flatMap (·.1)
  { val := BitVec.ofNat 4096 (pack 8 (bytes.map (·.val) ++ bs.map (·.2)))
    en := BitVec.allOnes 4096
    lanes := bytes.zipIdx.filterMap fun (p : LaneOut × Nat) => if p.1.flags = 0 then none else some (p.2, p.1.flags) }

/-- R178: ADD, lanes f32. -/
def execVecAddF32 (m : Mv) (s : State) : Res := vecMap s m 0x308 3 32 fun a b _ => f32.add a b
/-- R178: ADD, lanes f16. -/
def execVecAddF16 (m : Mv) (s : State) : Res := vecMap s m 0x309 3 16 fun a b _ => f16.add a b
/-- R178: ADD, lanes bf16. -/
def execVecAddBf16 (m : Mv) (s : State) : Res := vecMap s m 0x30A 3 16 fun a b _ => bf16.add a b
/-- R178: ADD, lanes i32. -/
def execVecAddI32 (m : Mv) (s : State) : Res := vecMap s m 0x30B 3 32 fun a b _ => quiet ((a + b) % 2 ^ 32)
/-- R178: ADD, lanes i16. -/
def execVecAddI16 (m : Mv) (s : State) : Res := vecMap s m 0x30C 3 16 fun a b _ => quiet ((a + b) % 2 ^ 16)
/-- R178: ADD, lanes i8. -/
def execVecAddI8 (m : Mv) (s : State) : Res := vecMap s m 0x30D 3 8 fun a b _ => quiet ((a + b) % 2 ^ 8)
/-- R178: SUB, lanes f32. -/
def execVecSubF32 (m : Mv) (s : State) : Res := vecMap s m 0x30E 3 32 fun a b _ => f32.sub a b
/-- R178: SUB, lanes f16. -/
def execVecSubF16 (m : Mv) (s : State) : Res := vecMap s m 0x30F 3 16 fun a b _ => f16.sub a b
/-- R178: SUB, lanes bf16. -/
def execVecSubBf16 (m : Mv) (s : State) : Res := vecMap s m 0x310 3 16 fun a b _ => bf16.sub a b
/-- R178: SUB, lanes i32. -/
def execVecSubI32 (m : Mv) (s : State) : Res := vecMap s m 0x311 3 32 fun a b _ => quiet (((a + 2 ^ 32 - b)) % 2 ^ 32)
/-- R178: SUB, lanes i16. -/
def execVecSubI16 (m : Mv) (s : State) : Res := vecMap s m 0x312 3 16 fun a b _ => quiet (((a + 2 ^ 16 - b)) % 2 ^ 16)
/-- R178: SUB, lanes i8. -/
def execVecSubI8 (m : Mv) (s : State) : Res := vecMap s m 0x313 3 8 fun a b _ => quiet (((a + 2 ^ 8 - b)) % 2 ^ 8)
/-- R178: MUL, lanes f32. -/
def execVecMulF32 (m : Mv) (s : State) : Res := vecMap s m 0x314 3 32 fun a b _ => f32.mul a b
/-- R178: MUL, lanes f16. -/
def execVecMulF16 (m : Mv) (s : State) : Res := vecMap s m 0x315 3 16 fun a b _ => f16.mul a b
/-- R178: MUL, lanes bf16. -/
def execVecMulBf16 (m : Mv) (s : State) : Res := vecMap s m 0x316 3 16 fun a b _ => bf16.mul a b
/-- R178: MUL, lanes i32. -/
def execVecMulI32 (m : Mv) (s : State) : Res := vecMap s m 0x317 3 32 fun a b _ => quiet ((a * b) % 2 ^ 32)
/-- R178: MUL, lanes i16. -/
def execVecMulI16 (m : Mv) (s : State) : Res := vecMap s m 0x318 3 16 fun a b _ => quiet ((a * b) % 2 ^ 16)
/-- R178: MUL, lanes i8. -/
def execVecMulI8 (m : Mv) (s : State) : Res := vecMap s m 0x319 3 8 fun a b _ => quiet ((a * b) % 2 ^ 8)
/-- R178: FMA, one rounding, lanes f32. -/
def execVecFmaF32 (m : Mv) (s : State) : Res := vecMap s m 0x31A 4 32 fun a b c => f32.fma a b c
/-- R178: FMA, one rounding, lanes f16. -/
def execVecFmaF16 (m : Mv) (s : State) : Res := vecMap s m 0x31B 4 16 fun a b c => f16.fma a b c
/-- R178: FMA, one rounding, lanes bf16. -/
def execVecFmaBf16 (m : Mv) (s : State) : Res := vecMap s m 0x31C 4 16 fun a b c => bf16.fma a b c
/-- R178: MIN, lanes f32. -/
def execVecMinF32 (m : Mv) (s : State) : Res := vecMap s m 0x31D 3 32 fun a b _ => quiet (f32.minmax false a b)
/-- R178: MIN, lanes f16. -/
def execVecMinF16 (m : Mv) (s : State) : Res := vecMap s m 0x31E 3 16 fun a b _ => quiet (f16.minmax false a b)
/-- R178: MIN, lanes bf16. -/
def execVecMinBf16 (m : Mv) (s : State) : Res := vecMap s m 0x31F 3 16 fun a b _ => quiet (bf16.minmax false a b)
/-- R178: MIN, lanes i32. -/
def execVecMinI32 (m : Mv) (s : State) : Res := vecMap s m 0x320 3 32 fun a b _ => quiet (if intLess 32 b a then b else a)
/-- R178: MIN, lanes i16. -/
def execVecMinI16 (m : Mv) (s : State) : Res := vecMap s m 0x321 3 16 fun a b _ => quiet (if intLess 16 b a then b else a)
/-- R178: MIN, lanes i8. -/
def execVecMinI8 (m : Mv) (s : State) : Res := vecMap s m 0x322 3 8 fun a b _ => quiet (if intLess 8 b a then b else a)
/-- R178: MIN, lanes n32. -/
def execVecMinN32 (m : Mv) (s : State) : Res := vecMap s m 0x323 3 32 fun a b _ => quiet (min a b)
/-- R178: MIN, lanes n16. -/
def execVecMinN16 (m : Mv) (s : State) : Res := vecMap s m 0x324 3 16 fun a b _ => quiet (min a b)
/-- R178: MIN, lanes n8. -/
def execVecMinN8 (m : Mv) (s : State) : Res := vecMap s m 0x325 3 8 fun a b _ => quiet (min a b)
/-- R178: MAX, lanes f32. -/
def execVecMaxF32 (m : Mv) (s : State) : Res := vecMap s m 0x326 3 32 fun a b _ => quiet (f32.minmax true a b)
/-- R178: MAX, lanes f16. -/
def execVecMaxF16 (m : Mv) (s : State) : Res := vecMap s m 0x327 3 16 fun a b _ => quiet (f16.minmax true a b)
/-- R178: MAX, lanes bf16. -/
def execVecMaxBf16 (m : Mv) (s : State) : Res := vecMap s m 0x328 3 16 fun a b _ => quiet (bf16.minmax true a b)
/-- R178: MAX, lanes i32. -/
def execVecMaxI32 (m : Mv) (s : State) : Res := vecMap s m 0x329 3 32 fun a b _ => quiet (if intLess 32 b a then a else b)
/-- R178: MAX, lanes i16. -/
def execVecMaxI16 (m : Mv) (s : State) : Res := vecMap s m 0x32A 3 16 fun a b _ => quiet (if intLess 16 b a then a else b)
/-- R178: MAX, lanes i8. -/
def execVecMaxI8 (m : Mv) (s : State) : Res := vecMap s m 0x32B 3 8 fun a b _ => quiet (if intLess 8 b a then a else b)
/-- R178: MAX, lanes n32. -/
def execVecMaxN32 (m : Mv) (s : State) : Res := vecMap s m 0x32C 3 32 fun a b _ => quiet (max a b)
/-- R178: MAX, lanes n16. -/
def execVecMaxN16 (m : Mv) (s : State) : Res := vecMap s m 0x32D 3 16 fun a b _ => quiet (max a b)
/-- R178: MAX, lanes n8. -/
def execVecMaxN8 (m : Mv) (s : State) : Res := vecMap s m 0x32E 3 8 fun a b _ => quiet (max a b)
/-- R179: ADDS, lanes i32. -/
def execVecAddsI32 (m : Mv) (s : State) : Res := vecMap s m 0x32F 3 32 fun a b _ => addsLane (.int 32) a b
/-- R179: ADDS, lanes i16. -/
def execVecAddsI16 (m : Mv) (s : State) : Res := vecMap s m 0x330 3 16 fun a b _ => addsLane (.int 16) a b
/-- R179: ADDS, lanes i8. -/
def execVecAddsI8 (m : Mv) (s : State) : Res := vecMap s m 0x331 3 8 fun a b _ => addsLane (.int 8) a b
/-- R179: ADDS, lanes n32. -/
def execVecAddsN32 (m : Mv) (s : State) : Res := vecMap s m 0x332 3 32 fun a b _ => addsLane (.nat 32) a b
/-- R179: ADDS, lanes n16. -/
def execVecAddsN16 (m : Mv) (s : State) : Res := vecMap s m 0x333 3 16 fun a b _ => addsLane (.nat 16) a b
/-- R179: ADDS, lanes n8. -/
def execVecAddsN8 (m : Mv) (s : State) : Res := vecMap s m 0x334 3 8 fun a b _ => addsLane (.nat 8) a b
/-- R180: CMPEQ, lanes f32. -/
def execVecCmpeqF32 (m : Mv) (s : State) : Res := vecCompare s m 0x335 32 (fpEq f32)
/-- R180: CMPEQ, lanes f16. -/
def execVecCmpeqF16 (m : Mv) (s : State) : Res := vecCompare s m 0x336 16 (fpEq f16)
/-- R180: CMPEQ, lanes bf16. -/
def execVecCmpeqBf16 (m : Mv) (s : State) : Res := vecCompare s m 0x337 16 (fpEq bf16)
/-- R180: CMPEQ, lanes i32. -/
def execVecCmpeqI32 (m : Mv) (s : State) : Res := vecCompare s m 0x338 32 fun a b => a == b
/-- R180: CMPEQ, lanes i16. -/
def execVecCmpeqI16 (m : Mv) (s : State) : Res := vecCompare s m 0x339 16 fun a b => a == b
/-- R180: CMPEQ, lanes i8. -/
def execVecCmpeqI8 (m : Mv) (s : State) : Res := vecCompare s m 0x33A 8 fun a b => a == b
/-- R180: CMPLT, lanes f32. -/
def execVecCmpltF32 (m : Mv) (s : State) : Res := vecCompare s m 0x33B 32 (fpLess f32)
/-- R180: CMPLT, lanes f16. -/
def execVecCmpltF16 (m : Mv) (s : State) : Res := vecCompare s m 0x33C 16 (fpLess f16)
/-- R180: CMPLT, lanes bf16. -/
def execVecCmpltBf16 (m : Mv) (s : State) : Res := vecCompare s m 0x33D 16 (fpLess bf16)
/-- R180: CMPLT, lanes i32. -/
def execVecCmpltI32 (m : Mv) (s : State) : Res := vecCompare s m 0x33E 32 (intLess 32)
/-- R180: CMPLT, lanes i16. -/
def execVecCmpltI16 (m : Mv) (s : State) : Res := vecCompare s m 0x33F 16 (intLess 16)
/-- R180: CMPLT, lanes i8. -/
def execVecCmpltI8 (m : Mv) (s : State) : Res := vecCompare s m 0x340 8 (intLess 8)
/-- R180: CMPLT, lanes n32. -/
def execVecCmpltN32 (m : Mv) (s : State) : Res := vecCompare s m 0x341 32 fun a b => decide (a < b)
/-- R180: CMPLT, lanes n16. -/
def execVecCmpltN16 (m : Mv) (s : State) : Res := vecCompare s m 0x342 16 fun a b => decide (a < b)
/-- R180: CMPLT, lanes n8. -/
def execVecCmpltN8 (m : Mv) (s : State) : Res := vecCompare s m 0x343 8 fun a b => decide (a < b)
/-- R181: SEL, lanes i32. -/
def execVecSelI32 (m : Mv) (s : State) : Res := 
  vecTrigger s m 0x344 3 3 noCheck fun inh a b c =>
    vecOut 32 (perLane 128 inh fun i => quiet (if c.testBit i then lane 32 a i else lane 32 b i))
/-- R181: SEL, lanes i16. -/
def execVecSelI16 (m : Mv) (s : State) : Res := 
  vecTrigger s m 0x345 3 3 noCheck fun inh a b c =>
    vecOut 16 (perLane 256 inh fun i => quiet (if c.testBit i then lane 16 a i else lane 16 b i))
/-- R181: SEL, lanes i8. -/
def execVecSelI8 (m : Mv) (s : State) : Res := 
  vecTrigger s m 0x346 3 3 noCheck fun inh a b c =>
    vecOut 8 (perLane 512 inh fun i => quiet (if c.testBit i then lane 8 a i else lane 8 b i))
/-- R182: AND, as 32-bit lanes (R173). -/
def execVecAnd (m : Mv) (s : State) : Res := vecMap s m 0x347 3 32 fun a b _ => quiet (a &&& b)
/-- R182: OR, as 32-bit lanes (R173). -/
def execVecOr (m : Mv) (s : State) : Res := vecMap s m 0x348 3 32 fun a b _ => quiet (a ||| b)
/-- R182: XOR, as 32-bit lanes (R173). -/
def execVecXor (m : Mv) (s : State) : Res := vecMap s m 0x349 3 32 fun a b _ => quiet (a ^^^ b)
/-- R182: SHL, lanes i32. -/
def execVecShlI32 (m : Mv) (s : State) : Res := vecMap s m 0x34A 3 32 fun a b _ => quiet (shlLane 32 a b)
/-- R182: SHL, lanes i16. -/
def execVecShlI16 (m : Mv) (s : State) : Res := vecMap s m 0x34B 3 16 fun a b _ => quiet (shlLane 16 a b)
/-- R182: SHL, lanes i8. -/
def execVecShlI8 (m : Mv) (s : State) : Res := vecMap s m 0x34C 3 8 fun a b _ => quiet (shlLane 8 a b)
/-- R182: SHR, lanes i32. -/
def execVecShrI32 (m : Mv) (s : State) : Res := vecMap s m 0x34D 3 32 fun a b _ => quiet (shrLane 32 a b)
/-- R182: SHR, lanes i16. -/
def execVecShrI16 (m : Mv) (s : State) : Res := vecMap s m 0x34E 3 16 fun a b _ => quiet (shrLane 16 a b)
/-- R182: SHR, lanes i8. -/
def execVecShrI8 (m : Mv) (s : State) : Res := vecMap s m 0x34F 3 8 fun a b _ => quiet (shrLane 8 a b)
/-- R182: SAR, lanes i32. -/
def execVecSarI32 (m : Mv) (s : State) : Res := vecMap s m 0x350 3 32 fun a b _ => quiet (sarLane 32 a b)
/-- R182: SAR, lanes i16. -/
def execVecSarI16 (m : Mv) (s : State) : Res := vecMap s m 0x351 3 16 fun a b _ => quiet (sarLane 16 a b)
/-- R182: SAR, lanes i8. -/
def execVecSarI8 (m : Mv) (s : State) : Res := vecMap s m 0x352 3 8 fun a b _ => quiet (sarLane 8 a b)
/-- R183: CVT to f32. -/
def execVecCvtF32 (m : Mv) (s : State) : Res := vecCvt s m 0x353 (.fp f32) none
/-- R183: CVT to f16. -/
def execVecCvtF16 (m : Mv) (s : State) : Res := vecCvt s m 0x354 (.fp f16) none
/-- R183: CVT to bf16. -/
def execVecCvtBf16 (m : Mv) (s : State) : Res := vecCvt s m 0x355 (.fp bf16) none
/-- R183: CVT to i32. -/
def execVecCvtI32 (m : Mv) (s : State) : Res := vecCvt s m 0x356 (.int 32) none
/-- R183: CVT to i16. -/
def execVecCvtI16 (m : Mv) (s : State) : Res := vecCvt s m 0x357 (.int 16) none
/-- R183: CVT to i8. -/
def execVecCvtI8 (m : Mv) (s : State) : Res := vecCvt s m 0x358 (.int 8) none
/-- R183: CVT to e4m3sat. -/
def execVecCvtE4m3Sat (m : Mv) (s : State) : Res := vecCvt s m 0x359 (.fp e4m3) (some true)
/-- R183: CVT to e4m3nsat. -/
def execVecCvtE4m3Nsat (m : Mv) (s : State) : Res := vecCvt s m 0x35A (.fp e4m3) (some false)
/-- R183: CVT to e5m2sat. -/
def execVecCvtE5m2Sat (m : Mv) (s : State) : Res := vecCvt s m 0x35B (.fp e5m2) (some true)
/-- R183: CVT to e5m2nsat. -/
def execVecCvtE5m2Nsat (m : Mv) (s : State) : Res := vecCvt s m 0x35C (.fp e5m2) (some false)
/-- R184: VDOT16.e4m3. -/
def execVecVdot16E4m3 (m : Mv) (s : State) : Res := vecDot s m 0x35D 16 e4m3 dotFp8
/-- R184: VDOT16.e5m2. -/
def execVecVdot16E5m2 (m : Mv) (s : State) : Res := vecDot s m 0x35E 16 e5m2 dotFp8
/-- R184: VDOT8.bf16. -/
def execVecVdot8Bf16 (m : Mv) (s : State) : Res := vecDot s m 0x35F 8 bf16 dotBf16
/-- R185: RSUM.f32, the fixed tree. -/
def execVecRsumF32 (m : Mv) (s : State) : Res := vecReduce s m 0x360 0x80000000 (sumTree 7)
/-- R185: RSUM.i32. -/
def execVecRsumI32 (m : Mv) (s : State) : Res := vecReduce s m 0x361 0 fun l => quiet (l.foldl (· + ·) 0 % 2 ^ 32)
/-- R185: RMAX.f32. -/
def execVecRmaxF32 (m : Mv) (s : State) : Res := vecReduce s m 0x362 0xFF800000 fun l => quiet (l.foldl (f32.minmax true) 0xFF800000)
/-- R185: RMAX.i32. -/
def execVecRmaxI32 (m : Mv) (s : State) : Res := vecReduce s m 0x363 0x80000000 fun l => quiet (l.foldl (fun x y => if intLess 32 x y then y else x) 0x80000000)
/-- R186: EXP2.f32. -/
def execVecExp2F32 (m : Mv) (s : State) : Res := vecSpecial s m 0x364 exp2F32
/-- R186: RCP.f32. -/
def execVecRcpF32 (m : Mv) (s : State) : Res := vecSpecial s m 0x365 rcpF32
/-- R186: RSQ.f32. -/
def execVecRsqF32 (m : Mv) (s : State) : Res := vecSpecial s m 0x366 rsqF32
/-- R187: SHUF, lanes i32. -/
def execVecShufI32 (m : Mv) (s : State) : Res := vecShuf s m 0x367 32
/-- R187: SHUF, lanes i16. -/
def execVecShufI16 (m : Mv) (s : State) : Res := vecShuf s m 0x368 16
/-- R187: SHUF, lanes i8. -/
def execVecShufI8 (m : Mv) (s : State) : Res := vecShuf s m 0x369 8
/-- R187: BCAST, lanes i32. -/
def execVecBcastI32 (m : Mv) (s : State) : Res := vecBcast s m 0x36A 32
/-- R187: BCAST, lanes i16. -/
def execVecBcastI16 (m : Mv) (s : State) : Res := vecBcast s m 0x36B 16
/-- R187: BCAST, lanes i8. -/
def execVecBcastI8 (m : Mv) (s : State) : Res := vecBcast s m 0x36C 8
/-- R188: VQNT.d8. -/
def execVecVqntD8 (m : Mv) (s : State) : Res := vecTrigger s m 0x36D 3 4 (featCheck 0) fun inh a _ _ => quantise inh a
/-- R178: ABS, lanes f32. -/
def execVecAbsF32 (m : Mv) (s : State) : Res := vecMap s m 0x36E 3 32 fun a _ _ => quiet (f32.abs a)
/-- R178: ABS, lanes f16. -/
def execVecAbsF16 (m : Mv) (s : State) : Res := vecMap s m 0x36F 3 16 fun a _ _ => quiet (f16.abs a)
/-- R178: ABS, lanes bf16. -/
def execVecAbsBf16 (m : Mv) (s : State) : Res := vecMap s m 0x370 3 16 fun a _ _ => quiet (bf16.abs a)
/-- R178: ABS, lanes i32. -/
def execVecAbsI32 (m : Mv) (s : State) : Res := vecMap s m 0x371 3 32 fun a _ _ => quiet (intCode 32 (intOf 32 a).natAbs)
/-- R178: ABS, lanes i16. -/
def execVecAbsI16 (m : Mv) (s : State) : Res := vecMap s m 0x372 3 16 fun a _ _ => quiet (intCode 16 (intOf 16 a).natAbs)
/-- R178: ABS, lanes i8. -/
def execVecAbsI8 (m : Mv) (s : State) : Res := vecMap s m 0x373 3 8 fun a _ _ => quiet (intCode 8 (intOf 8 a).natAbs)

end Sys2Proof.Machine
end

