-- ==== Sys2Proof/Machine/Ls.lean ====
section
/-! DEFINITION. The scratchpad units `ls0` and `ls1` (R197 to R214): loads, stores, full/empty operations, the bit-field
extractor, RROT, and the events of the banks. -/

namespace Sys2Proof.Machine

def lsUnit (u : BitVec 1) : FU := if u = 0 then .ls0 else .ls1

/-- Steps 2 and 3 of R197: the `n` bytes at `a` lie in the area, as an access of no byte does; `a` is aligned. -/
def lsAccess (n al : Nat) : Check := fun s c o =>
  let a := o.a64.toNat
  if a ≥ 2 ^ 20 ∨ (n ≠ 0 ∧ a + n > areaOf s c) then some .spadRange
  else if a % al ≠ 0 then some .misaligned else none

/-- An operation that reads data, which in one bundle comes before every data write (R198). -/
def LsKind.reads : LsKind → Bool
  | .load _ _ | .ldfw | .ldfk | .feq | .ldpat _ _ => true
  | _ => false

/-- A full/empty operation that may wait (R204). -/
def LsKind.mayWait : LsKind → Bool
  | .ldfw | .ldfk | .stew _ => true
  | _ => false

/-- A read of one bundle comes before this operation of the same bundle (R198): every read before a data write, FEQ, which sees
tags as loads see stores (R206), before a tag change too. [DEDUCED, log entry 59] -/
def LsKind.readFirst (r w : LsKind) : Bool :=
  match w with
  | .store _ | .stew _ | .stff _ | .rrot _ _ => r.reads
  | .feclr _ => r == .feq
  | _ => false

/-- Put an operation behind the context's earlier ones; a read before the writes of its own bundle (R198). -/
def enqueue (l : List LsOp) (o : LsOp) : List LsOp :=
  let before := l.takeWhile fun p => !(p.bundle == o.bundle && o.kind.readFirst p.kind)
  before ++ o :: l.drop before.length

/-- Start a scratchpad operation: its result is due after the latency; with checkpoint mode on, a store is withheld (R95). -/
def startLs (s : State) (c : Nat) (u : BitVec 1) (kind : LsKind) (addr la lb : Nat) (r : Bool) (withhold : Bool)
    (engine : Bool := false) : State :=
  let (n, s) := fresh s
  modCtx s c fun x =>
    let o : LsOp := ⟨x.seq, x.bundle, u == 1, kind, addr, n⟩
    let y := addResult x (lsUnit u) (latency x la lb) (if r then some (0, BitVec.allOnes 4096) else none) (some 0)
      0 [] engine
    if withhold ∧ ckOn x then { y with held := y.held ++ [.store o] } else { y with ls := enqueue y.ls o }

/-- The mould of the `ls` triggers. -/
def lsTrigger (s : State) (m : Mv) (u : BitVec 1) (off : BitVec 6) (chk : Check) (act : State → Nat → Opnds → State) : Res :=
  trigger s m (lsUnit u) (5#5 ++ u ++ off) chk act

/-! ## Loads and stores (R202) -/

/-- LDn: `n` bytes, aligned. -/
def lsLoad (s : State) (m : Mv) (u : BitVec 1) (off : BitVec 6) (n al la lb : Nat) (sx : Bool) : Res :=
  lsTrigger s m u off (lsAccess n al) fun s c o => startLs s c u (.load n sx) o.a64.toNat la lb true false

/-- STn: the low bytes of `b`. -/
def lsStore (s : State) (m : Mv) (u : BitVec 1) (off : BitVec 6) (n al : Nat) : Res :=
  lsTrigger s m u off (lsAccess n al) fun s c o =>
    startLs s c u (.store (leBytes n o.b.toNat)) o.a64.toNat 4 6 false true

/-- R202: LD8. -/
def execLsLd8 (m : Mv) (u : BitVec 1) (s : State) : Res := lsLoad s m u 0x08 1 1 4 6 false

/-- R202: LD8SX. -/
def execLsLd8Sx (m : Mv) (u : BitVec 1) (s : State) : Res := lsLoad s m u 0x09 1 1 4 6 true

/-- R202: LD16. -/
def execLsLd16 (m : Mv) (u : BitVec 1) (s : State) : Res := lsLoad s m u 0x0A 2 2 4 6 false

/-- R202: LD16SX. -/
def execLsLd16Sx (m : Mv) (u : BitVec 1) (s : State) : Res := lsLoad s m u 0x0B 2 2 4 6 true

/-- R202: LD32. -/
def execLsLd32 (m : Mv) (u : BitVec 1) (s : State) : Res := lsLoad s m u 0x0C 4 4 4 6 false

/-- R202: LD32SX. -/
def execLsLd32Sx (m : Mv) (u : BitVec 1) (s : State) : Res := lsLoad s m u 0x0D 4 4 4 6 true

/-- R202: LD64. -/
def execLsLd64 (m : Mv) (u : BitVec 1) (s : State) : Res := lsLoad s m u 0x0E 8 8 4 6 false

/-- R202: ST8. -/
def execLsSt8 (m : Mv) (u : BitVec 1) (s : State) : Res := lsStore s m u 0x0F 1 1

/-- R202: ST16. -/
def execLsSt16 (m : Mv) (u : BitVec 1) (s : State) : Res := lsStore s m u 0x10 2 2

/-- R202: ST32. -/
def execLsSt32 (m : Mv) (u : BitVec 1) (s : State) : Res := lsStore s m u 0x11 4 4

/-- R202: ST64. -/
def execLsSt64 (m : Mv) (u : BitVec 1) (s : State) : Res := lsStore s m u 0x12 8 8

/-- R202: VLD. -/
def execLsVld (m : Mv) (u : BitVec 1) (s : State) : Res := lsLoad s m u 0x13 512 64 5 7 false

/-- R202: VST. -/
def execLsVst (m : Mv) (u : BitVec 1) (s : State) : Res := lsStore s m u 0x14 512 64

/-! ## Full/empty operations (R203 to R206) -/

/-- R203: LDFW, eager (R99). -/
def execLsLdfw (m : Mv) (u : BitVec 1) (s : State) : Res :=
  lsTrigger s m u 0x15 (firstOf [eagerCheck, roundDenied, lsAccess 8 8]) fun s c o =>
    startLs s c u .ldfw o.a64.toNat 4 6 true false

/-- R203: LDFK. -/
def execLsLdfk (m : Mv) (u : BitVec 1) (s : State) : Res :=
  lsTrigger s m u 0x16 (lsAccess 8 8) fun s c o => startLs s c u .ldfk o.a64.toNat 4 6 true false

/-- R203: STEW, eager (R99). -/
def execLsStew (m : Mv) (u : BitVec 1) (s : State) : Res :=
  lsTrigger s m u 0x17 (firstOf [eagerCheck, roundDenied, lsAccess 8 8]) fun s c o =>
    startLs s c u (.stew (leBytes 8 o.b.toNat)) o.a64.toNat 4 6 false false

/-- R203: STFF, withheld as a store. -/
def execLsStff (m : Mv) (u : BitVec 1) (s : State) : Res :=
  lsTrigger s m u 0x18 (lsAccess 8 8) fun s c o =>
    startLs s c u (.stff (leBytes 8 o.b.toNat)) o.a64.toNat 4 6 false true

/-- FECLR's checks of `b` (R205), then its range and alignment (R197). -/
def feclrCheck : Check := fun s c o =>
  if o.b64.toNat % 4 ≠ 0 ∨ o.b64.toNat > 2 ^ 20 then some .bounds else lsAccess o.b64.toNat 4 s c o

/-- R205: FECLR. -/
def execLsFeclr (m : Mv) (u : BitVec 1) (s : State) : Res :=
  lsTrigger s m u 0x19 feclrCheck fun s c o => startLs s c u (.feclr o.b64.toNat) o.a64.toNat 4 6 false true

/-- R206: FEQ. -/
def execLsFeq (m : Mv) (u : BitVec 1) (s : State) : Res :=
  lsTrigger s m u 0x1A (lsAccess 256 256) fun s c o => startLs s c u .feq o.a64.toNat 4 6 true false

/-! ## The bit-field extractor (R208 to R211) -/

/-- A pattern descriptor of 80 bytes, with whether every must-be-zero bit is zero (R209). -/
def parsePattern (bs : List Byte) : Pattern × Bool :=
  let b := fun i => (bs.getD i 0).toNat
  let nf := b 1 % 32 + 1
  let e := fun f => b (16 + 2 * f) + 256 * b (17 + 2 * f)
  ({ per := b 0 % 128
     fields := (List.range nf).map fun f => { off := e f % 128, width := e f / 128 % 16, sx := e f / 2048 % 2 == 1 } },
   b 0 / 128 == 0 && b 1 / 32 == 0 && (natsFrom 2 14).all (fun i => b i == 0) &&
     (List.range 32).all fun f => if f < nf then e f / 4096 == 0 else e f == 0)

/-- Two fields share a bit (R210). -/
def fieldsOverlap : List PatField → Bool
  | [] => false
  | f :: fs => fs.any (fun g => decide (f.off ≤ g.off + g.width) && decide (g.off ≤ f.off + f.width)) || fieldsOverlap fs

/-- PATSET's checks, in the order of R210's table. -/
def patsetCheck : Check := fun s c o =>
  if o.b64.extractLsb' 3 61 ≠ 0 then some .bounds
  else match lsAccess 80 16 s c o with
    | some t => some t
    | none =>
      let (p, zeros) := parsePattern (viewBytes s c (ctxOf s c).bundle o.a64.toNat 80)
      if p.fields.any (fun f => decide (f.off + f.width + 1 > p.per + 1)) || fieldsOverlap p.fields || !zeros then some .bounds
      else none

/-- The pattern at an address, as the context sees it in a bundle, fills a slot (R198, R210). -/
def fillSlot (s : State) (c bundle a slot : Nat) : State :=
  modCtx s c fun x => { x with pats := x.pats.setIfInBounds slot (some (parsePattern (viewBytes s c bundle a 80)).1) }

/-- The pattern slot an LDPAT uses: as it was before its bundle (R210). -/
def frameSlot (s : State) (c n : Nat) : Option Pattern :=
  match (ctxOf s c).frame with
  | some f => (f.pats[n]?).getD none
  | none => none

/-- Stream bits that an LDPAT consumes (R211). -/
def patBits (p : Pattern) (lw : Nat) : Nat :=
  let lanes := 4096 / lw
  (lanes + p.fields.length - 1) / p.fields.length * (p.per + 1)

def laneWidth (b : D64) : Nat := 8 * 2 ^ (b.extractLsb' 4 2).toNat

/-- LDPAT's checks (R211). -/
def ldpatCheck : Check := fun s c o =>
  let b := o.b64
  if b.extractLsb' 6 58 ≠ 0 ∨ b.getLsbD 3 ∨ b.extractLsb' 4 2 = 3 then some .bounds
  else match frameSlot s c (b.extractLsb' 0 3).toNat with
    | none => some .bounds
    | some p =>
      let lw := laneWidth b
      if p.fields.any (fun f => decide (f.width + 1 > lw)) then some .bounds
      else if patBits p lw > 8192 then some .bounds
      else lsAccess ((patBits p lw + 7) / 8) 1 s c o

/-- R211: LDPAT. -/
def execLsLdpat (m : Mv) (u : BitVec 1) (s : State) : Res :=
  lsTrigger s m u 0x1C ldpatCheck fun s c o =>
    match frameSlot s c (o.b64.extractLsb' 0 3).toNat with
    | some p => startLs s c u (.ldpat p (laneWidth o.b64)) o.a64.toNat 5 7 true false
    | none => s

/-- The lanes an LDPAT unpacks from its stream (R211). -/
def unpackLanes (p : Pattern) (lw stream : Nat) : Val :=
  let nf := p.fields.length
  BitVec.ofNat 4096 (pack lw ((List.range (4096 / lw)).map fun n =>
    match p.fields[n % nf]? with
    | some f =>
      let x := stream / 2 ^ (n / nf * (p.per + 1) + f.off) % 2 ^ (f.width + 1)
      if f.sx then intCode lw (intOf (f.width + 1) x) else x
    | none => 0))

/-! ## RROT (R212 to R214) -/

/-- RROT's checks (R212); it is placed as an eager trigger (R214). -/
def rrotCheck : Check := fun s c o =>
  let a := o.a64.toNat; let b := o.b64.toNat; let n := o.c64.toNat
  if n % 64 ≠ 0 ∨ n < 64 ∨ n > 65536 then some .bounds
  else if a < b + n ∧ b < a + n then some .bounds
  else if a ≥ 2 ^ 20 ∨ b ≥ 2 ^ 20 ∨ a + n > areaOf s c ∨ b + n > areaOf s c then some .spadRange
  else if a % 64 ≠ 0 ∨ b % 64 ≠ 0 then some .misaligned
  else none

/-- R213: RROT arms its core. -/
def execLsRrot (m : Mv) (u : BitVec 1) (s : State) : Res :=
  lsTrigger s m u 0x1D (firstOf [eagerCheck, roundDenied, rrotCheck]) fun s c o =>
    let q := (ctxOf s c).seq
    let s := startLs s c u (.rrot o.b64.toNat o.c64.toNat) o.a64.toNat 4 6 false false true
    modCore s (ctxCore c) fun k => { k with rrot := k.rrot ++ [⟨c, q, o.a64.toNat, o.b64.toNat, o.c64.toNat⟩] }

/-! ## Turns: which operation may take the banks (R198, R204, R319) -/

/-- The condition of a full/empty operation holds (R203): a load judges the tags as the context sees them, STEW those of the
banks. [DEDUCED, log entry 59] -/
def feReady (s : State) (c : Nat) (o : LsOp) : Bool :=
  let w := o.addr / 4
  match o.kind with
  | .ldfw => viewTag s c o.bundle w && viewTag s c o.bundle (w + 1)
  | .ldfk => viewTag s c o.bundle w && viewTag s c o.bundle (w + 1)
  | .stew _ => !tagFull s c w && !tagFull s c (w + 1)
  | _ => true

/-- Whether the operation `q` of the context has its turn: it is the first, or only waiting full/empty operations stand before it
that do not hold it: those that it precedes in trigger order, and, where it may wait itself, those of its own bundle (R198, R204).
[DEDUCED, log entry 59] -/
def hasTurn (s : State) (c : Nat) : List LsOp → Nat → Bool
  | [], _ => false
  | o :: os, q =>
    if o.seq = q then true
    else match os.find? fun p => p.seq == q with
      | some p => o.kind.mayWait && !feReady s c o && (decide (p.seq < o.seq) || (p.bundle == o.bundle && p.kind.mayWait)) &&
          hasTurn s c os q
      | none => false

/-- A full/empty operation proceeds: its turn, its condition, and no waiting operation that arrived first on the same
doubleword is eligible (R204). -/
def feProceeds (s : State) (c : Nat) (o : LsOp) : Bool :=
  hasTurn s c (ctxOf s c).ls o.seq && feReady s c o &&
    !((natsFrom (ctxCore c * 4) 4).any fun d => (ctxOf s d).ls.any fun p =>
        p.kind.mayWait && o.kind.mayWait && decide (p.arrive < o.arrive) && p.addr == o.addr &&
        hasTurn s d (ctxOf s d).ls p.seq && feReady s d p)

def dropLs (x : Ctx) (q : Nat) : Ctx := { x with ls := x.ls.filter fun o => o.seq != q }

/-- The parts of a run of `n` bytes at `a` that lie outside the doubleword at `d`: address and length of each. -/
def aroundWord (d a n : Nat) : List (Nat × Nat) :=
  [(a, min (a + n) d - a), (max a (d + 8), a + n - max a (d + 8))].filter fun p => p.2 != 0

/-- What an earlier store of the context is left to do once its LDFW or STEW `o`, which performs at once (R99), has changed the tags of a
doubleword: those tags come after the store's in trigger order (R198). [DEDUCED, log entry 59] -/
def leaveTags (o p : LsOp) : List LsOp :=
  if o.seq ≤ p.seq then [p] else
  match p.kind with
  | .stff v => [if p.addr = o.addr then { p with kind := .store v } else p]
  | .feclr n => (aroundWord o.addr p.addr n).map fun r => { p with addr := r.1, kind := .feclr r.2 }
  | _ => [p]

/-- The same where a STEW has written the bytes of the doubleword too (R198). [DEDUCED, log entry 59] -/
def leaveBytes (o p : LsOp) : List LsOp :=
  if o.seq ≤ p.seq then [p] else
  match p.kind with
  | .store v => (aroundWord o.addr p.addr v.length).map fun r => { p with addr := r.1, kind := .store ((v.drop (r.1 - p.addr)).take r.2) }
  | _ => [p]

/-- The stores of a context that have not performed, each changed. -/
def mapStores (f : LsOp → List LsOp) (x : Ctx) : Ctx :=
  let g : Withheld → List Withheld := fun w => match w with | .store p => (f p).map Withheld.store | w => [w]
  { x with ls := x.ls.flatMap f, going := x.going.flatMap g, held := x.held.flatMap g }

/-- The value of a load that has its turn (R202, R203, R206, R211): value, `.st`, bytes read. -/
def loadValue (s : State) (c : Nat) (o : LsOp) : Val × D64 × Nat :=
  let bytes := fun n => leNat (viewBytes s c o.bundle o.addr n)
  match o.kind with
  | .load n sx =>
    let v := bytes n
    (BitVec.ofNat 4096 (if sx then intCode 64 (intOf (8 * n) v) else v), 0, n)
  | .ldfw => (BitVec.ofNat 4096 (bytes 8), 0, 8)
  | .ldfk => (BitVec.ofNat 4096 (bytes 8), 0, 8)
  | .feq => (BitVec.ofNat 4096 (pack 1 ((List.range 64).map fun i => if viewTag s c o.bundle (o.addr / 4 + i) then 1 else 0)), 0, 0)
  | .ldpat p lw =>
    let n := patBits p lw
    (unpackLanes p lw (bytes ((n + 7) / 8)), BitVec.ofNat 64 n, (n + 7) / 8)
  | _ => (0, 0, 0)

/-- What a store meets at the banks: SOFT_ERROR where it writes a part of a bank word that holds an uncorrectable error as the context
finds it, or where STEW judges a tag with a parity error (R201). -/
def storeFault (s : State) (c : Nat) (o : LsOp) : Option TrapInfo :=
  let k := ctxCore c
  let n := o.writes.length
  let partialBad := (bankWords o.addr n).any fun w =>
    wordBad s (roundCtx s c) k w && !(decide (o.addr ≤ 16 * w) && decide (16 * w + 16 ≤ o.addr + n))
  let tags : Bool := match o.kind with | .stew _ => tagsBad s k o.addr 8 | _ => false
  if partialBad || tags then some { code := .softError } else none

/-- A store performs (R199, R201, R203, R205); where its `.st` has been delivered already, it was withheld, and a fault is
raised at the next boundary. [DESIGN CHOICE, log entry 27] -/
def performStore (s : State) (c : Nat) (o : LsOp) : State :=
  let late := storeFault s c o
  let told := (ctxOf s c).infl.any (fun e => e.seq == o.seq) ||
    (match (ctxOf s c).aside with | some a => a.infl.any fun e => e.seq == o.seq | none => false)
  let s := ctxWrite s c o.addr o.writes
  let s := match o.tagWrite with
    | some (n, f) => ctxTags s c o.addr n f
    | none => s
  modCtx s c fun x =>
    let y := fillResult { x with ls := x.ls.filter (· != o) } o.seq fun e => { e with arrived := true, late := late }
    let y := match o.kind with
      | .stew _ => mapStores (fun p => (leaveTags o p).flatMap (leaveBytes o)) y
      | _ => y
    if told then y else { y with late := y.late ++ late.toList }

/-- An LDFW leaves its doubleword EMPTY (R203), behind the tag change of an STFF of the context that it follows in trigger order: one of
its own bundle that stands next to it performs in the same step (R198), an earlier one that is yet to perform is left its data.
[DEDUCED, log entry 59] -/
def takeWord (s : State) (c : Nat) (o : LsOp) : State :=
  let next := ((ctxOf s c).ls.filter fun p => p.seq != o.seq && !(p.kind.mayWait && decide (p.seq < o.seq))).head?
  let s := match next with
    | some p => (match p.kind with
        | .stff _ => if p.bundle = o.bundle ∧ p.seq < o.seq ∧ p.addr = o.addr then performStore s c p else s
        | _ => s)
    | none => s
  modCtx (ctxTags s c o.addr 8 false) c (mapStores (leaveTags o))

/-- A load takes its banks (R199, R201, R203). -/
def performLoad (s : State) (c : Nat) (o : LsOp) : State :=
  let (v, st, n) := loadValue s c o
  let tags : Bool := match o.kind with | .ldfw | .ldfk => tagsBad s (ctxCore c) o.addr 8 | .feq => tagsBad s (ctxCore c) o.addr 256 | _ => false
  let late : Option TrapInfo := if spadBad s c o.addr n || tags then some { code := .softError } else none
  let s := match o.kind with
    | .ldfw => takeWord s c o
    | _ => s
  modCtx s c fun x => fillResult (dropLs x o.seq) o.seq fun e =>
    { e with r := e.r.map fun _ => (v, BitVec.allOnes 4096), st := some st, arrived := true, late := late }

/-- The loads of the context's own bundle that stand at the head of its queue take their banks, where they can: those of `ls0` come before
an access of `ls1` (R319). -/
def ownLoads (s : State) (c : Nat) : State :=
  let x := ctxOf s c
  (x.ls.filter fun o => o.bundle == x.bundle && o.kind.reads).foldl (fun s o => if feProceeds s c o then performLoad s c o else s) s

/-- R210: PATSET. Its one read of the descriptor, which is judged and fills the slot for every later bundle, takes the banks at the trigger:
the context's earlier accesses have taken theirs, those of earlier bundles and a full/empty operation of `ls0` before the bundle acts
(triggerStalls), a load of `ls0` here (R319). A descriptor that holds an uncorrectable error fills the slot all the same, and
SOFT_ERROR comes at the due tick (R201). [DEDUCED, log entry 59] [DESIGN CHOICE, log entry 60] -/
def execLsPatset (m : Mv) (u : BitVec 1) (s : State) : Res :=
  lsTrigger s m u 0x1B patsetCheck fun s c o =>
    let s := ownLoads s c
    let a := o.a64.toNat
    let late : Option TrapInfo := if spadBad s c a 80 then some { code := .softError } else none
    modCtx (fillSlot s c (ctxOf s c).bundle a (o.b64.extractLsb' 0 3).toNat) c fun x =>
      fillResult (addResult x (lsUnit u) (latency x 4 6) none (some 0)) x.seq fun e => { e with arrived := true, late := late }

/-- R199: the context's first store that has its turn performs. Arguments: a context. -/
def execStorePerform (s : State) : Res :=
  let c := s.args.a
  match (ctxOf s c).ls.find? fun o =>
      (match o.kind with | .store _ | .stew _ | .stff _ | .feclr _ => true | _ => false) && feProceeds s c o with
  | some o => .next (performStore s c o)
  | none => .next s

/-- The engine has reached the state an MSTAT reported (R235). -/
def mstatReached (s : State) (c : Nat) (need : Nat × Nat) : Bool :=
  match (coreOf s (ctxCore c)).aq.find? fun o => o.id == need.1 with
  | some o => decide (need.2 ≤ o.ksteps)
  | none => true

/-- R191: a bank enters its refresh window: the core's calendar moves to the next window, 64 cycles apart; data and tags
do not change. Arguments: a core. [DESIGN CHOICE, log entry 15] -/
def execBankRefresh (s : State) : Res :=
  .next (modCore s s.args.a fun k => { k with cycle := (k.cycle / 64 + 1) * 64 })

/-! ## The ring of a bangle (R212, R213) -/

/-- The launch that holds the area on a core. -/
def areaLaunch (s : State) (k : Nat) : Option Nat := (coreOf s k).area.map (·.1)

/-- The ring that a core is of: positions 0 to C-1 of its bangle, for the launch that holds the area on the core (R212). -/
def ringFor (s : State) (k : Nat) : List Nat :=
  match (areaLaunch s k).bind (launchOf s) with
  | some y => natsFrom (k / 8 * 8) y.perB
  | none => []

/-- The ring of a bangle, whole: no position of it stands in an image (R214). -/
def ringOf (s : State) (bangle : Nat) : List Nat :=
  let ring := ringFor s (bangle * 8)
  if ring.all fun k => areaLaunch s k == areaLaunch s (bangle * 8) then ring else []

/-- The armed RROT of a core whose context's earlier stores have performed (R213, R317). -/
def armedAt (s : State) (k : Nat) : Option RrotArm :=
  match (coreOf s k).rrot.head? with
  | some a => if hasTurn s a.ctx (ctxOf s a.ctx).ls a.seq then some a else none
  | none => none

/-- The `.st` of an armed RROT arrives; its core has done one rotation more. -/
def finishRrot (st : D64) (s : State) (a : RrotArm) : State :=
  let s := modCore s (ctxCore a.ctx) fun k => { k with rrot := k.rrot.drop 1, rrots := k.rrots + 1 }
  modCtx s a.ctx fun x => fillResult (dropLs x a.seq) a.seq fun e => { e with st := some st, arrived := true }

/-- R213: the rotation of a bangle's ring: the n-th RROT of each of its cores. Arguments: a module bangle. -/
def execRrotRotation (s : State) : Res :=
  let ring := ringOf s s.args.a
  let arms := ring.filterMap (armedAt s)
  let turn := fun k => (coreOf s k).rrots
  if ring = [] ∨ arms.length ≠ ring.length ∨ ring.any (fun k => turn k != turn (ring.headD 0)) then .next s
  else if arms.any fun a => a.size != (arms.headD ⟨0, 0, 0, 0, 0⟩).size then .next (arms.foldl (finishRrot 1) s)
  else
    let moves := arms.zipIdx.map fun (p : RrotArm × Nat) =>
      let k := ring.getD p.2 0
      let dst := ring.getD ((p.2 + 1) % ring.length) 0
      let tgt := (arms.getD ((p.2 + 1) % ring.length) p.1).dst
      (dst, tgt, Memory.readBytes (coreOf s k).spad p.1.src p.1.size,
       (List.range (p.1.size / 16)).filter fun w => NatSet.mem (coreOf s k).poison (p.1.src / 16 + w))
    let s := moves.foldl (fun s m =>
      let s := setTags (spadWrite s m.1 m.2.1 m.2.2.1) m.1 m.2.1 m.2.2.1.length true
      modCore s m.1 fun k => { k with poison := m.2.2.2.foldl (fun p w => NatSet.insert p (m.2.1 / 16 + w)) k.poison }) s
    .next (arms.foldl (finishRrot 0) s)

/-- R213: some armed core has waited 1,048,576 cycles: every armed RROT of its rotation completes and nothing moves. One that a core
arms later, of a rotation that is over, has that limit alone to wait for; so has one whose partners stand in an image (R214).
Arguments: a module bangle, b the core. [DEDUCED, log entry 63] -/
def execRrotTimeout (s : State) : Res :=
  let b := s.args.b
  let arms := (ringFor s b).filterMap fun k =>
    if areaLaunch s k = areaLaunch s b ∧ (coreOf s k).rrots = (coreOf s b).rrots then (coreOf s k).rrot.head? else none
  .next (if b / 8 = s.args.a ∧ (ringFor s b).contains b ∧ (coreOf s b).rrot ≠ [] then arms.foldl (finishRrot 2) s else s)

end Sys2Proof.Machine
end

