-- ==== Sys2Proof/Machine/Mat.lean ====
section
/-! DEFINITION. The matrix engine (R217 to R246): descriptors, the array queue, products, accumulators, the reads of the
weight store, and the events of the array. -/

namespace Sys2Proof.Machine

/-! ## Checks -/

/-- PRIVILEGE where the launch holds no accumulators on the core (R218). -/
def matHeld : Check := fun s c _ => if areaOf s c = 0 then some .privilege else none

/-- UNDERSIZED_COUNT of an ASWAP with the checking scoreboard on (R228). -/
def aswapCheck : Check := fun s c o =>
  let x := ctxOf s c
  if x.sys.scb && x.aticks.any fun t => !t.swap && t.names (o.a64.extractLsb' 0 2).toNat && decide (x.lsc < t.tick) then
    some .undersizedCount else none

/-- The operand of MZERO and ASWAP (R234). -/
def accOnly : Check := fun _ _ o => if o.a64.extractLsb' 2 62 ≠ 0 then some .bounds else none

/-- The operand of APUSH and APOP (R234). -/
def accRow : Check := fun _ _ o =>
  if o.a64.extractLsb' 15 49 ≠ 0 ∨ o.a64.extractLsb' 2 6 ≠ 0 then some .bounds else none

/-- MDESC's checks, in the order of R229's table. -/
def mdescCheck : Check := fun _ _ o =>
  let b := o.b64
  let kind := (b.extractLsb' 4 4).toNat
  let fmt := (b.extractLsb' 8 4).toNat
  let stride := (b.extractLsb' 16 16).toNat
  let base := o.a64.toNat
  if b.extractLsb' 32 32 ≠ 0 ∨ b.extractLsb' 12 4 ≠ 0 ∨ b.getLsbD 3 ∨ kind > 2 ∨ fmt > 4 ∨ (kind = 2 ∧ (fmt ≠ 0 ∨ stride ≠ 0)) then
    some .bounds
  else if base > (if kind = 0 then 0xFFFFF else if kind = 1 then 2 ^ 24 - 1 else 3) then some .bounds
  else if kind = 0 ∧ base % 64 ≠ 0 then some .misaligned
  else none

/-- MDCV's check (R230). -/
def mdcvCheck : Check := fun _ _ o =>
  let a := o.a64
  let fmt := (a.extractLsb' 8 4).toNat
  if a.extractLsb' 13 51 ≠ 0 ∨ fmt > 2 ∨ (fmt = 2 ∧ a.getLsbD 12) then some .bounds else none

/-- The fields of the control word of R232. -/
def ctlK (a : D64) : Nat := (a.extractLsb' 16 16).toNat
def ctlAcc (a : D64) : Nat := (a.extractLsb' 0 2).toNat

def slotDesc (x : Ctx) (n : Nat) : Option Desc := (x.desc[n]?).getD none

/-- The format of the A operand (R222, R224). -/
def fmtA (da : Desc) (dcv : Nat) : Nat := if da.kind = 2 then dcv / 256 % 16 else da.fmt

/-- The format pairs of R232. -/
def pairOk (fa fb : Nat) : Bool := (fa < 2 && fb < 2) || (fa == 3 && fb == 3) || (fa == 2 && fb == 2) || (fa < 2 && fb == 4)

/-- Bytes of a row of K values (R223). -/
def rowBytes (fmt k : Nat) : Nat := if fmt = 2 then 2 * k else if fmt = 4 then k + k / 32 else k

/-- Where row `r` of a tile starts (R223). -/
def rowStart (d : Desc) (r : Nat) : Nat := if d.kind = 1 then (d.base + r * d.stride) * 64 else d.base + r * d.stride * 64

/-- A weight-store row that the region may not read (R233, R241). -/
def wsDenied (s : State) (c : Nat) (d : Desc) (n : Nat) : Bool :=
  let banks := banksOf s (ctxRegion s c) (ctxDie c)
  (List.range 128).any fun r =>
    let a := rowStart d r
    decide (a + n > 2 ^ 30) || (natsFrom (a / 2 ^ 24) ((a + n - 1) / 2 ^ 24 - a / 2 ^ 24 + 1)).any fun b => !banks.getLsbD b

/-- MMA and MGEMM's checks after the first row of R233, in its order. -/
def mmaCheck (gemm : Bool) : Check := fun s c o =>
  let x := ctxOf s c
  let a := o.a64
  let k := ctlK a
  let (lo, hi, m) := if gemm then (256, 65280, 256) else (32, 1024, 32)
  if a.extractLsb' 32 32 ≠ 0 ∨ a.extractLsb' 11 5 ≠ 0 ∨ a.getLsbD 7 ∨ a.extractLsb' 2 2 ≠ 0 ∨ k < lo ∨ k > hi ∨ k % m ≠ 0 then
    some .bounds
  else match slotDesc x (a.extractLsb' 4 3).toNat, slotDesc x (a.extractLsb' 8 3).toNat with
  | some da, some db =>
    if da.kind = 1 ∨ db.kind = 2 ∨ (gemm ∧ da.kind = 2) ∨ (da.kind = 2 ∧ k ≠ 128) then some .bounds
    else
      let fa := fmtA da x.dcv
      if !pairOk fa db.fmt then some .bounds
      else if db.kind = 1 ∧ wsDenied s c db (rowBytes db.fmt k) then some .bounds
      else if (da.kind = 0 ∧ rowStart da 127 + rowBytes fa k > areaOf s c) ∨
              (db.kind = 0 ∧ rowStart db 127 + rowBytes db.fmt k > areaOf s c) then some .spadRange
      else none
  | _, _ => some .bounds

/-! ## Bank states (R101) -/

/-- What an operation does to a bank. -/
inductive BankUse where
  | read | over | accum
deriving DecidableEq, Repr

def BankState.after : BankState → BankUse → BankState
  | .clean, .read => .read
  | .clean, .over => .fresh
  | .clean, .accum => .lost
  | .read, .read => .read
  | .read, _ => .lost
  | .fresh, _ => .fresh
  | .lost, _ => .lost

/-- The physical working bank of accumulator `n` when an operation that joins the queue now acts: swaps queued before it
come first (R226). -/
def workBank (k : Core) (n : Nat) : Nat :=
  let now := (k.accs[n]?.getD {}).work1
  let odd := (k.aq.filter fun o => o.kind == .aswap && o.acc == n).length % 2 == 1
  if xor now odd then 1 else 0

/-- An operation uses a bank: the bank's state changes at the operation's trigger (R101). [DESIGN CHOICE, log entry 76] -/
def useBank (s : State) (c n bank : Nat) (u : BankUse) : State :=
  modCtx s c fun x => { x with banks := x.banks.setIfInBounds (2 * n + bank) ((x.banks[2 * n + bank]?.getD .clean).after u)
                               wrote := match u with | .read => x.wrote | _ => NatSet.insert x.wrote (2 * n + bank) }

/-! ## Triggers (R229 to R235) -/

/-- What a task of a round has written to the scratchpad in the bundles before the one it carries out, performed or not (R231, R327). -/
def roundWrites (s : State) (c : Nat) : Option Overlay :=
  let x := ctxOf s c
  if inRound s c then
    some ((ownStores x x.bundle).foldl (fun v o => v.write 2 (ctxCore c * 2 ^ 20 + o.addr) o.writes) x.ov)
  else none

/-- Join the array queue (R225, R226). -/
def joinArray (s : State) (c acc count : Nat) (kind : ArrayKind) : State :=
  let (id, s) := fresh s
  let s := modCore s (ctxCore c) fun k =>
    { k with aq := k.aq ++ [{ id := id, ctx := c, acc := acc, kind := kind, tick := (ctxOf s c).lsc + count
                              postCk := (ctxOf s c).shadow.isSome, bundle := (ctxOf s c).bundle
                              view := roundWrites s c }] }
  modCtx s c fun x =>
    { addResult x .mat 2 none (some 0) with
      aticks := x.aticks ++ [{ id := id, acc := acc, tick := x.lsc + count, swap := kind == .aswap
                               src := match kind with | .mma _ _ _ da _ _ => if da.kind = 2 then some da.base else none | _ => none }] }

/-- Occupancy for a K (R225). -/
def occupancy (fb k : Nat) : Nat := if fb = 2 then 2 * k else if fb = 4 then k / 2 else k

/-- The mould of MMA and MGEMM (R232, R233). -/
def matMul (s : State) (m : Mv) (sock : BitVec 12) (gemm ov : Bool) : Res :=
  trigger s m .mat sock (firstOf [matHeld, mmaCheck gemm]) fun s c o =>
    let x := ctxOf s c
    let a := o.a64
    match slotDesc x (a.extractLsb' 4 3).toNat, slotDesc x (a.extractLsb' 8 3).toNat with
    | some da, some db =>
      let n := ctlAcc a
      let k := ctlK a
      let core := coreOf s (ctxCore c)
      let s := if da.kind = 2 then useBank s c da.base (1 - workBank core da.base) .read else s
      let s := useBank s c n (workBank core n) (if ov then .over else .accum)
      let s := if gemm then modCtx s c fun x =>
          { x with gemm := { id := s.count, start := x.lsc, total := k / 256, per := occupancy db.fmt 256 } } else s
      joinArray s c n (occupancy db.fmt k + 24) (.mma ov gemm k da db x.dcv)
    | _, _ => s

/-- R232: MMA.ov. -/
def execMatMmaOv (m : Mv) (s : State) : Res := matMul s m 0x388 false true

/-- R232: MMA.ac. -/
def execMatMmaAc (m : Mv) (s : State) : Res := matMul s m 0x389 false false

/-- R232, R235: MGEMM.ov. -/
def execMatMgemmOv (m : Mv) (s : State) : Res := matMul s m 0x38A true true

/-- R232, R235: MGEMM.ac. -/
def execMatMgemmAc (m : Mv) (s : State) : Res := matMul s m 0x38B true false

/-- R234: MZERO. -/
def execMatMzero (m : Mv) (s : State) : Res :=
  trigger s m .mat 0x38C (firstOf [matHeld, accOnly]) fun s c o =>
    let n := ctlAcc o.a64
    joinArray (useBank s c n (workBank (coreOf s (ctxCore c)) n) .over) c n 16 .mzero

/-- R234, R228: ASWAP; the context stops before its next bundle until the swap has performed. -/
def execMatAswap (m : Mv) (s : State) : Res :=
  trigger s m .mat 0x38D (firstOf [aswapCheck, matHeld, accOnly]) fun s c o =>
    let id := s.count
    modCtx (joinArray s c (ctlAcc o.a64) 2 .aswap) c fun x => { x with waits := x.waits ++ [.aswap id] }

/-- The elements of a bank, and whether the bank holds an uncorrectable error (R217, R240). -/
def accBank (k : Core) (n bank : Nat) : List (Nat × BitVec 32) :=
  let a := k.accs[n]?.getD {}
  if bank = 1 then a.b1 else a.b0
def accElem (k : Core) (n bank i : Nat) : BitVec 32 := Sparse.get 0 (accBank k n bank) i
def bankBad (k : Core) (n bank : Nat) : Bool := NatSet.mem k.accBad (2 * n + bank)

def workNow (k : Core) (n : Nat) : Nat := if (k.accs[n]?.getD {}).work1 then 1 else 0

/-- R234: APOP reads the visible bank at its trigger. -/
def execMatApop (m : Mv) (s : State) : Res :=
  trigger s m .mat 0x38E (firstOf [matHeld, accRow]) fun s c o =>
    let n := ctlAcc o.a64
    let row := (o.a64.extractLsb' 8 7).toNat
    let k := coreOf s (ctxCore c)
    let vis := 1 - workNow k n
    let v := BitVec.ofNat 4096 (pack 32 ((List.range 128).map fun j => (accElem k n vis (row * 128 + j)).toNat))
    let s := useBank s c n vis .read
    modCtx s c fun x =>
      let y := addResult x .mat 8 (some (v, BitVec.allOnes 4096)) (some 0)
      if bankBad k n vis then
        { y with infl := fillList y.infl x.seq fun e => { e with late := some { code := .matrixFault, arg := n } } }
      else y

/-- R234: APUSH. -/
def execMatApush (m : Mv) (s : State) : Res :=
  trigger s m .mat 0x38F (firstOf [matHeld, accRow]) fun s c o =>
    let n := ctlAcc o.a64
    joinArray (useBank s c n (workBank (coreOf s (ctxCore c)) n) .accum) c n 8 (.apush (o.a64.extractLsb' 8 7).toNat o.b)

/-- R229: MDESC. -/
def execMatMdesc (m : Mv) (s : State) : Res :=
  trigger s m .mat 0x390 mdescCheck fun s c o =>
    let b := o.b64
    let d : Desc := ⟨(b.extractLsb' 4 4).toNat, (b.extractLsb' 8 4).toNat, (b.extractLsb' 16 16).toNat, o.a64.toNat⟩
    modCtx s c fun x => { addResult x .mat 2 none (some 0) with desc := x.desc.setIfInBounds (b.extractLsb' 0 3).toNat (some d) }

/-- R230: MDCV. -/
def execMatMdcv (m : Mv) (s : State) : Res :=
  trigger s m .mat 0x391 mdcvCheck fun s c o =>
    modCtx s c fun x => { addResult x .mat 2 none (some 0) with dcv := o.a64.toNat }

/-- K-steps whose completion tick is not later than `u` (R235). -/
def kdone (g : Gemm) (u : Nat) : Nat := if u < g.start + 24 ∨ g.per = 0 then 0 else min g.total ((u - g.start - 24) / g.per)

/-- The word of R235. -/
def mstatWord (x : Ctx) : D64 :=
  let out := x.aticks.filter fun t => decide (x.lsc < t.tick)
  BitVec.ofNat 64 (kdone x.gemm x.lsc * 2 ^ 32 + x.gemm.total * 2 ^ 16 + out.length * 2 ^ 8 +
    ((List.range 4).map fun n => bit (out.any (·.names n)) n).sum)

/-- R234, R235: MSTAT. -/
def execMatMstat (m : Mv) (s : State) : Res :=
  trigger s m .mat 0x392 noCheck fun s c _ =>
    modCtx s c fun x =>
      let y := addResult x .mat 2 (some ((mstatWord x).setWidth 4096, BitVec.allOnes 4096)) (some 0)
      { y with infl := fillList y.infl x.seq fun e => { e with need := some (x.gemm.id, kdone x.gemm x.lsc) } }

/-- R234: MFENCE. -/
def execMatMfence (m : Mv) (s : State) : Res :=
  trigger s m .mat 0x393 noCheck fun s c _ =>
    modCtx s c fun x => { addResult x .mat 2 none (some 0) with waits := x.waits ++ [.arrayTo s.count] }

/-! ## Products (R224, R232) -/

/-- Pairs of bytes as 16-bit codes. -/
def halves : List Nat → List Nat
  | a :: b :: t => (a + 256 * b) :: halves t
  | _ => []

/-- The machine as an operand stream reads it: in a round, with what the task had written at the trigger (R231, R327). -/
def streamView (s : State) (o : ArrayOp) : State :=
  match o.view with
  | some v => modCtx s o.ctx fun x => { x with ov := v, ls := [], going := [], held := [], aside := x.aside.map fun a => { a with ls := [] } }
  | none => s

/-- `n` bytes at offset `k` of a row of an operand tile, the B tile where `b`: as its stream has read the row, or as the row
stands (R223, R231, R241). -/
def tileBytes (s : State) (o : ArrayOp) (d : Desc) (b : Bool) (row k n : Nat) : List Nat :=
  if d.kind = 1 then (Memory.readBytes (dieOf s (ctxDie o.ctx)).ws (rowStart d row + k) n).map (·.toNat)
  else match Tab.find o.rows (2 * row + if b then 1 else 0) with
    | some r => ((r.1.drop k).take n).map (·.toNat)
    | none => (viewBytes (streamView s o) o.ctx o.bundle (rowStart d row + k) n).map (·.toNat)

/-- The `g`-th group of `sz` element codes of a row. -/
def tileGroup (s : State) (o : ArrayOp) (d : Desc) (b : Bool) (row g sz : Nat) : List Nat :=
  if d.fmt = 2 then halves (tileBytes s o d b row (2 * g * sz) (2 * sz)) else tileBytes s o d b row (g * sz) sz

/-- The format of a code of R222. -/
def matFmt (f : Nat) : Fmt := if f = 1 then e5m2 else if f = 2 then bf16 else e4m3

/-- A signed power-of-two exponent of 8 bits. -/
def sx8 (n : Nat) : Int := if n % 256 < 128 then (n % 256 : Nat) else (n % 256 : Nat) - 256

/-- The down-converter (R224). -/
def downConvert (dcv : Nat) (x : BitVec 32) : Nat × FlagSet :=
  let y := match f32.decode x.toNat with
    | .fin n m e => .fin n m (e + sx8 dcv)
    | v => v
  let f := dcv / 256 % 16
  if f = 2 then toFmt bf16 none y else toFmt (matFmt f) (some (dcv / 4096 % 2 == 0)) y

/-- The group that a pair of formats selects (R232). -/
def groupOf (fa fb : Nat) (as bs : List Nat) (x8 : Nat) : Fp × FlagSet :=
  if fb = 4 then dotD8 bs x8 (as.map (matFmt fa).decode)
  else if fb = 3 then dotI8 (as.zip bs)
  else if fb = 2 then dotBf16 ((as.map bf16.decode).zip (bs.map bf16.decode))
  else dotFp8 ((as.map (matFmt fa).decode).zip (bs.map (matFmt fb).decode))

def groupSize (fb : Nat) : Nat := if fb = 4 then 32 else if fb = 2 then 8 else 16

/-- The groups `g0` to `g0 + n - 1` of element (i, j), added to `x` in increasing K (R157, R232). -/
def elemSum (s : State) (o : ArrayOp) (da db : Desc) (dcv k i j g0 n : Nat) (x : Nat) : Nat × FlagSet :=
  let fa := fmtA da dcv
  let sz := groupSize db.fmt
  let src := coreOf s (ctxCore o.ctx)
  (natsFrom g0 n).foldl (fun acc g =>
    let as := if da.kind = 2 then
        (natsFrom (g * sz) sz).map fun e => (downConvert dcv (accElem src da.base (1 - workNow src da.base) (i * 128 + e))).1
      else tileGroup s o da false i g sz
    let bs := tileGroup s o db true j g sz
    let x8 := if db.fmt = 4 then (tileBytes s o db true j (k + g) 1).headD 0 else 0
    let (gs, f1) := groupOf fa db.fmt as bs x8
    let (v, f2) := accAdd acc.1 gs
    (v, acc.2 ||| f1 ||| f2)) (x, 0)

/-- A bank from its elements, in canonical form. -/
def bankFrom (f : Nat → BitVec 32) : List (Nat × BitVec 32) :=
  (List.range 16384).filterMap fun i => if f i = 0 then none else some (i, f i)

def setBank (k : Core) (n bank : Nat) (l : List (Nat × BitVec 32)) : Core :=
  let a := k.accs[n]?.getD {}
  { k with accs := k.accs.setIfInBounds n (if bank = 1 then { a with b1 := l } else { a with b0 := l }) }

/-- The bytes of a row that the groups `g0` to `g0 + n - 1` of a product over `k` elements are read from: offset and length of each run
(R222, R232). -/
def rowSpans (d : Desc) (fmt k sz g0 n : Nat) : List (Nat × Nat) :=
  if d.fmt = 2 then [(2 * g0 * sz, 2 * n * sz)] else (g0 * sz, n * sz) :: if fmt = 4 then [(k + g0, n)] else []

/-- An operand tile, the B tile where `b`, holds an uncorrectable error in these bytes of its rows, in the scratchpad as its stream found
each row (R240, R246): the trap argument of R397. -/
def tileBad (s : State) (o : ArrayOp) (d : Desc) (b : Bool) (spans : List (Nat × Nat)) : Option Nat :=
  if d.kind = 2 then none
  else (List.range 128).findSome? fun r =>
    let a := rowStart d r
    if d.kind = 1 then
      if spans.any fun p => p.2 != 0 && (natsFrom ((a + p.1) / 64) ((a + p.1 + p.2 - 1) / 64 - (a + p.1) / 64 + 1)).any
          (NatSet.mem (dieOf s (ctxDie o.ctx)).wsBad) then some 1 else none
    else
      let s := streamView s o
      if (spans.flatMap fun p => bankWords (a + p.1) p.2).any fun w =>
          match Tab.find o.rows (2 * r + if b then 1 else 0) with
          | some x => x.2.contains w
          | none => wordBad s (roundCtx s o.ctx) (ctxCore o.ctx) w then some 0 else none

/-- The late fault of the groups from `g0` of a product (R240): SOFT_ERROR of an operand byte that they read, else MATRIX_FAULT of a bank
that they read or of the array. -/
def productFault (s : State) (o : ArrayOp) (ov : Bool) (k : Nat) (da db : Desc) (g0 n : Nat) : Option TrapInfo :=
  let core := coreOf s (ctxCore o.ctx)
  let sz := groupSize db.fmt
  match tileBad s o da false (rowSpans da 0 k sz g0 n), tileBad s o db true (rowSpans db db.fmt k sz g0 n) with
  | some a, _ => some { code := .softError, arg := a }
  | none, some a => some { code := .softError, arg := a }
  | none, none =>
    if da.kind = 2 ∧ bankBad core da.base (1 - workNow core da.base) then some { code := .matrixFault, arg := da.base }
    else if !ov ∧ bankBad core o.acc (workNow core o.acc) then some { code := .matrixFault, arg := o.acc }
    else if core.arrayBad then some { code := .matrixFault, arg := 4 }
    else none

/-- The products of the groups from `g0`, written to the working bank (R232, R235); a faulting one leaves undefined
elements (R240, log entry 4). Answers the flags and the fault. [DESIGN CHOICE, log entry 4] [DEDUCED, log entry 25] -/
def product (s : State) (o : ArrayOp) (ov : Bool) (k : Nat) (da db : Desc) (dcv g0 n : Nat) : State × FlagSet × Option TrapInfo :=
  let ck := ctxCore o.ctx
  let core := coreOf s ck
  let w := workNow core o.acc
  match productFault s o ov k da db g0 n with
  | some t =>
    let (fr, s) := nextFree s
    (modCore s ck fun c => { setBank c o.acc w (bankFrom (Config.freeWord fr)) with
                             accBad := NatSet.erase c.accBad (2 * o.acc + w), arrayBad := false }, 0, some t)
  | none =>
    let cell := fun i => elemSum s o da db dcv k (i / 128) (i % 128) g0 n (if ov then 0 else (accElem core o.acc w i).toNat)
    let conv : FlagSet := if da.kind = 2 then
        (List.range 16384).foldl (fun f i => f ||| (downConvert dcv (accElem core da.base (1 - workNow core da.base) i)).2) 0
      else 0
    let flags := (List.range 16384).foldl (fun f i => f ||| (cell i).2) conv
    (modCore s ck fun c => { setBank c o.acc w (bankFrom fun i => BitVec.ofNat 32 (cell i).1) with
                             accBad := NatSet.erase c.accBad (2 * o.acc + w) }, flags, none)

/-! ## The array queue (R226, R234, R235, R239) -/

def ArrayKind.isSwap : ArrayKind → Bool
  | .aswap => true
  | _ => false

/-- The oldest operation that occupies the array. -/
def arrayHead (k : Core) : Option ArrayOp := k.aq.find? fun o => !o.kind.isSwap

/-- No ASWAP that joined earlier waits on an accumulator the operation touches (R234). -/
def swapsPassed (k : Core) (o : ArrayOp) : Bool :=
  !((k.aq.takeWhile fun p => p.id != o.id).any fun p => p.kind.isSwap && touches p.acc o)

def modArray (k : Core) (id : Nat) (f : ArrayOp → ArrayOp) : Core :=
  { k with aq := k.aq.map fun o => if o.id = id then f o else o }

/-- K-steps of an operation: one where it is no MGEMM (R235). -/
def stepsOf (o : ArrayOp) : Nat := match o.kind with | .mma _ true k _ _ _ => k / 256 | _ => 1

/-- The occupancy of every operation that has started is over but for its last step (R226, R235). -/
def arrayFree (k : Core) : Bool := k.aq.all fun o => !o.started || decide (stepsOf o ≤ o.ksteps + 1)

/-- The operation occupies the array at a step boundary (R237): an MGEMM between two K-steps. -/
def ArrayOp.between (o : ArrayOp) : Bool :=
  (match o.kind with | .mma _ true _ _ _ _ => true | _ => false) && o.rows == [] && decide (o.ksteps < stepsOf o)

/-- No step is in progress (R237): what has started is one MGEMM between two K-steps. -/
def arrayHalted (k : Core) : Bool :=
  let l := k.aq.filter fun o => !o.kind.isSwap && o.started
  decide (l.length ≤ 1) && l.all ArrayOp.between

/-- The stream of the operation at the head reads a row of a scratchpad tile, where it has not read it: row `i / 2` of A, or of
B where `i` is odd (R231). [DEDUCED, log entry 24] -/
def streamRow (s : State) (core i : Nat) : State :=
  match arrayHead (coreOf s core) with
  | some o =>
    match o.kind with
    | .mma _ _ kk da db dcv =>
      let b := i % 2 == 1
      let d := if b then db else da
      if !o.started || ((coreOf s core).saving && arrayHalted (coreOf s core)) || d.kind != 0 || decide (128 ≤ i / 2) || (Tab.find o.rows i).isSome then s
      else
        let n := rowBytes (if b then db.fmt else fmtA da dcv) kk
        let a := rowStart d (i / 2)
        let v := streamView s o
        let row := (viewBytes v o.ctx o.bundle a n, (bankWords a n).filter (wordBad v (roundCtx v o.ctx) (ctxCore o.ctx)))
        modCore s core fun k => modArray k o.id fun o => { o with rows := o.rows ++ [(i, row)] }
    | _ => s
  | none => s

/-- R226, R231: the next operation that has not started begins to stream, once no earlier one occupies the array; or a stream
reads a row. Arguments: a core, b 0, or 1 and the row's number. [DEDUCED, log entry 24] -/
def execArrayOpStart (s : State) : Res :=
  let k := coreOf s s.args.a
  if s.args.b ≠ 0 then .next (streamRow s s.args.a (s.args.b - 1))
  else match k.aq.find? fun o => !o.kind.isSwap && !o.started with
  | some o => if k.saving || !swapsPassed k o || !arrayFree k then .next s
              else .next (modCore s s.args.a fun k => modArray k o.id fun o => { o with started := true })
  | none => .next s

/-- R235: a K-step of the MGEMM at the head completes. Arguments: a core. [DEDUCED, log entry 24] -/
def execMgemmKStep (s : State) : Res :=
  let k := coreOf s s.args.a
  match arrayHead k with
  | some o =>
    match o.kind with
    | .mma ov true kk da db dcv =>
      if !o.started || (k.saving && arrayHalted k) || decide (stepsOf o ≤ o.ksteps) then .next s
      else
        let per := 256 / groupSize db.fmt
        let (s, fl, t) := product s o (ov && o.ksteps == 0) kk da db dcv (o.ksteps * per) per
        let n := if o.stop then stepsOf o else o.ksteps + 1
        .next (modCore s s.args.a fun k => modArray k o.id fun o =>
          { o with ksteps := n, rows := [], flags := o.flags ||| fl, fault := if o.fault.isSome then o.fault else t })
    | _ => .next s
  | none => .next s

/-- What an operation leaves behind: its flags wait for its tick, a late fault goes to its context (R236, R240). -/
def settleArray (s : State) (o : ArrayOp) : State :=
  let s := modCore s (ctxCore o.ctx) fun k => { k with aq := k.aq.filter fun p => p.id != o.id }
  if o.discard then s else
  modCtx s o.ctx fun x =>
    let x := fillTick x o.id o.flags
    match o.fault with
    | some t => if x.launch.isSome then { x with late := x.late ++ [t] } else x
    | none => x

/-- R227, R234: the operation at the head of the array completes. Arguments: a core. -/
def execArrayOpComplete (s : State) : Res :=
  let c := s.args.a
  let k := coreOf s c
  match arrayHead k with
  | some o =>
    if !o.started then .next s
    else match o.kind with
    | .mma ov false kk da db dcv =>
      let (s, fl, t) := product s o ov kk da db dcv 0 (kk / groupSize db.fmt)
      .next (settleArray s { o with flags := fl, fault := t })
    | .mma _ true _ _ _ _ => if o.ksteps < stepsOf o then .next s else .next (settleArray s o)
    | .mzero =>
      let w := workNow k o.acc
      .next (settleArray (modCore s c fun k => { setBank k o.acc w [] with accBad := NatSet.erase k.accBad (2 * o.acc + w) }) o)
    | .apush row data =>
      let w := workNow k o.acc
      let l := (List.range 128).foldl (fun l j => Sparse.put 0 l (row * 128 + j) (data.extractLsb' (32 * j) 32)) (accBank k o.acc w)
      .next (settleArray (modCore s c fun k => setBank k o.acc w l) o)
    | .aswap => .next s
  | none => .next s

/-- The first ASWAP of the queue whose earlier operations on its accumulator have completed, with those before it. -/
def readySwap : List ArrayOp → List ArrayOp → Option (List ArrayOp × ArrayOp × List ArrayOp)
  | _, [] => none
  | before, o :: os =>
    if o.kind.isSwap && !before.any (touches o.acc) then some (before, o, os) else readySwap (before ++ [o]) os

/-- R234: an ASWAP performs. Arguments: a core. -/
def execAswapPerform (s : State) : Res :=
  let k := coreOf s s.args.a
  match readySwap [] k.aq with
  | some (before, o, os) =>
    let s := modCore s s.args.a fun k => swapAcc { k with aq := before ++ os } o.acc
    if o.discard then .next s
    else .next (modCtx s o.ctx fun x =>
      let y := fillTick x o.id 0
      { y with swaps := y.swaps.setIfInBounds o.acc (y.swaps[o.acc]?.getD 0 + 1) })
  | none => .next s

end Sys2Proof.Machine
end

