-- ==== Sys2Proof/Machine/Entry.lean ====
section
/-! DEFINITION. The entries of the semaphore files (R281 to R287) and what each operation does at its entry (R289 to R316):
counters, barriers, accounts, watches, transfers. -/

namespace Sys2Proof.Machine

/-! ## Fields of an entry (R282) -/

def entryOf (s : State) (a : Nat) : SemEntry := Tab.get {} s.sems a
def setEntry (s : State) (a : Nat) (e : SemEntry) : State := { s with sems := Tab.put s.sems a e }

def SemEntry.type (e : SemEntry) : Nat := (e.word.extractLsb' 124 4).toNat
def SemEntry.frozen (e : SemEntry) : Bool := e.word.getLsbD 123
def SemEntry.overdrawn (e : SemEntry) : Bool := e.word.getLsbD 122
def SemEntry.openBit (e : SemEntry) : Bool := e.word.getLsbD 121
def SemEntry.floor (e : SemEntry) : Int := (e.word.extractLsb' 104 16).toInt
def SemEntry.cls (e : SemEntry) : Nat := (e.word.extractLsb' 96 8).toNat
def SemEntry.bal (e : SemEntry) : Int := (e.word.extractLsb' 0 96).toInt
def SemEntry.value (e : SemEntry) : D64 := e.word.extractLsb' 0 64
def SemEntry.phase (e : SemEntry) : Bool := e.word.getLsbD 96
def SemEntry.expect (e : SemEntry) : Nat := (e.word.extractLsb' 80 16).toNat
def SemEntry.arrived (e : SemEntry) : Nat := (e.word.extractLsb' 64 16).toNat
def SemEntry.pendBytes (e : SemEntry) : D64 := e.word.extractLsb' 0 64

def SemEntry.setValue (e : SemEntry) (v : D64) : SemEntry := { e with word := e.word.extractLsb' 64 64 ++ v }

/-- A barrier with its changing fields. -/
def SemEntry.setBarrier (e : SemEntry) (phase : Bool) (arrived : Nat) (pend : D64) : SemEntry :=
  { e with word := e.word.extractLsb' 97 31 ++ BitVec.ofBool phase ++ e.word.extractLsb' 80 16 ++ BitVec.ofNat 16 arrived ++ pend }

/-- An account with its changing fields; OVERDRAWN is computed (R304). -/
def SemEntry.setAccount (e : SemEntry) (f : Nat) (bal floor : Int) (frozen : Bool) : SemEntry :=
  { e with word := 3#4 ++ BitVec.ofBool frozen ++ BitVec.ofBool (decide (bal < floor * 2 ^ f)) ++ BitVec.ofBool e.openBit ++
                   0#1 ++ BitVec.ofInt 16 floor ++ e.word.extractLsb' 96 8 ++ BitVec.ofInt 96 bal }

/-- The quantum exponent of a class, if it is defined (R287). -/
def classOf (s : State) (c : Nat) : Option Nat := Tab.find s.classes c

/-- The file an address lies in: node and die (R281). -/
def semPlace (a : Nat) : Nat := a / 2 ^ 14
def semNode (a : Nat) : Nat := a / 2 ^ 17

/-- A semaphore address: node of the domain, die 0 to 4, and bits above 29 zero (R281). -/
def semAddrOk (s : State) (a : Nat) : Bool := decide (a < 2 ^ 30) && decide (a / 2 ^ 14 % 8 ≤ 4) && s.nodes.contains (semNode a)

/-- The place of the issuing die. -/
def ownPlace (s : State) (die : Nat) : Nat := s.node * 8 + die

/-- A region may use an entry (R283); `rd` marks the uses that OPEN allows. -/
def semUse (s : State) (region : Nat) (e : SemEntry) (rd : Bool) : Bool :=
  (e.owner != 0xFFFF && (ancestors s region).contains e.owner) || (rd && e.openBit)

/-! ## Status words (R289) -/

def sOK : Nat := 0
def sSHORT : Nat := 1
def sFAILED : Nat := 2
def sMISMATCH : Nat := 3
def sFROZEN : Nat := 4
def sBADTYPE : Nat := 5
def sDENIED : Nat := 6
def sBADCLASS : Nat := 7
def sRANGE : Nat := 8
def sUNREACH : Nat := 9
def sPOISON : Nat := 0xA

def semStatus (code : Nat) (ext : Nat := 0) (frz odrn : Bool := false) : D64 :=
  BitVec.ofNat 64 (ext % 2 ^ 32 * 2 ^ 32 + bit frz 9 + bit odrn 8 + code)

/-- A result reaches its context (R296). -/
def semDeliver (s : State) (o : SemOp) (r : D64) (st : D64) : State :=
  match o.result with
  | none => s
  | some q => modCtx s o.ctx fun x => fillResult x q fun e =>
      { e with r := some (r.setWidth 4096, BitVec.allOnes 4096), st := some st, arrived := true }

/-- A drop (R291). -/
def semDrop (s : State) (o : SemOp) : State :=
  modDie s o.die fun d => { d with drops := Tab.put d.drops o.region ((Tab.get 0 d.drops o.region + 1) % 2 ^ 64) }

/-- An operation ends with a status and no change: delivered, or dropped where it delivers no result (R289, R291). -/
def semFail (s : State) (o : SemOp) (code : Nat) (r : D64 := 0) : State :=
  if o.result.isSome then semDeliver s o r (semStatus code) else if o.kind = .bdec then s else semDrop s o

/-! ## What a deterministic round reads (R327, R360) -/

/-- The machine with the entries, the transfers and the tags as they were at a round's start. -/
def roundView (s : State) (b : RoundBase) : State :=
  { s with sems := b.sems, transit := b.transit, xfers := b.xfers
           cores := s.cores.map fun k => (k.1, { k.2 with empty := (b.core k.1).2 }) }

/-- The machine as an operation of the context reads it: inside a round, as of the round's start (R303, R328, R360). -/
def opView (s : State) (c : Nat) : State := match roundBase s c with | some b => roundView s b | none => s

/-- An operation that only reads, on what its context reads (R360). -/
def readPerform (s : State) (c : Nat) (f : State → State) : State :=
  match roundBase s c with
  | some b => { f (roundView s b) with sems := s.sems, transit := s.transit, xfers := s.xfers, cores := s.cores }
  | none => f s

/-- The launch of a continuation runs in rounds (R359). -/
def detLaunch (s : State) (l : Nat) : Bool := match launchOf s l with | some y => y.det | none => false

/-! ## Barriers and watches (R300 to R303) -/

/-- The barrier word of R303. -/
def barrierWord (e : SemEntry) (b : D64) : D64 :=
  BitVec.ofNat 64 (e.expect * 2 ^ 32 + e.arrived * 2 ^ 16 + bit e.phase 1 + bit (e.phase != b.getLsbD 0) 0)

/-- A watch at its entry: the status and value at which it completes, or none while it is not satisfied. -/
def watchTest (s : State) (region a : Nat) (counter : Bool) (arg : D64) : Option (Nat × D64) :=
  let e := entryOf s a
  if NatSet.mem s.unreach (semNode a) then some (sUNREACH, 0)
  else if e.poison then some (sPOISON, 0)
  else if e.type ≠ (if counter then 1 else 2) then some (sBADTYPE, 0)
  else if !semUse s region e true then some (sDENIED, 0)
  else if counter then (if (e.value - arg).toNat < 2 ^ 63 then some (sOK, e.value) else none)
  else if e.phase != arg.getLsbD 0 then some (sOK, barrierWord e arg) else none

/-- The watch of a WAITC condition (R354). -/
def condTest (s : State) (region : Nat) : ContCond → Option D64
  | .counter a t => (watchTest s region a true t).map fun p => semStatus p.1
  | .barrier a ph => (watchTest s region a false (if ph then 1 else 0)).map fun p => semStatus p.1
  | .tag core a =>
    let e := (coreOf s core).empty
    if !NatSet.mem e (a / 4) && !NatSet.mem e (a / 4 + 1) then some 0 else none

def ContCond.address : ContCond → Option Nat
  | .counter a _ => some a
  | .barrier a _ => some a
  | .tag _ _ => none

/-- Watches at an entry that a change satisfies complete (R297, R300, R303, R354); those of a deterministic round, which judge the
round's start, do not (R328). -/
def semWake (s : State) (a : Nat) : State :=
  let hits := s.semOps.filter fun o => o.armed && o.addr == a && !inRound s o.ctx && (o.kind == .swaitge || o.kind == .bwait) &&
    (watchTest s o.region a (o.kind == .swaitge) o.b).isSome
  let s := hits.foldl (fun s o => match watchTest s o.region a (o.kind == .swaitge) o.b with
    | some (code, v) => acquire (semDeliver s o v (semStatus code)) o.ctx
    | none => s) s
  { s with
    semOps := s.semOps.filter fun o => !(hits.any fun h => h.id == o.id)
    conts := s.conts.map fun k =>
      if k.armed && k.status.isNone && k.cond.address == some a && !detLaunch s k.launch then { k with status := condTest s k.region k.cond } else k }

/-- Write an entry and wake its watches. -/
def semWrite (s : State) (a : Nat) (e : SemEntry) : State := semWake (setEntry s a e) a

/-- The check of R301, after a change to a barrier. -/
def phaseStep (e : SemEntry) : SemEntry :=
  if e.arrived = e.expect ∧ e.pendBytes = 0 then e.setBarrier (!e.phase) 0 0 else e

/-- A card's decrement of a barrier's pending bytes (R265, R301), for the card's region (R283). One that finds no barrier, a barrier
that the region may not use, a poisoned entry or a node that cannot be reached changes nothing, and is no drop of R291: the spec
says that for no card. [DESIGN CHOICE, log entry 69] -/
def barrierDec (s : State) (region a n : Nat) : State :=
  let e := entryOf s a
  if e.type = 2 ∧ !e.poison ∧ semUse s region e false ∧ !NatSet.mem s.unreach (semNode a) then
    semWrite s a (phaseStep (e.setBarrier e.phase e.arrived (e.pendBytes - BitVec.ofNat 64 n)))
  else s

/-! ## Counters (R297 to R299) -/

/-- The new VALUE of a counter operation of R298's codes: 1 SST, 2 SADD, 3 SMIN, 4 SMAX, 5 SCAS. -/
def counterStep (op : Nat) (old opnd : D64) : D64 :=
  if op = 1 then opnd
  else if op = 2 then old + opnd
  else if op = 3 then (if old.toInt ≤ opnd.toInt then old else opnd)
  else if op = 4 then (if old.toInt ≥ opnd.toInt then old else opnd)
  else opnd

/-- Type, use and poison of a counter that an operation needs; the status that forbids it. [DEDUCED, log entry 52] -/
def counterBad (s : State) (region a : Nat) (rd : Bool) : Option Nat :=
  let e := entryOf s a
  if e.poison then some sPOISON
  else if e.type ≠ 1 then some sBADTYPE
  else if !semUse s region e rd then some sDENIED
  else none

/-- One counter operation (R297); `cmp` is the expected value of an SCAS. -/
def counterOp (s : State) (o : SemOp) (op : Nat) (opnd : D64) (cmp : Option D64) : State :=
  match counterBad s o.region o.addr false with
  | some code => semFail s o code
  | none =>
    let e := entryOf s o.addr
    match cmp with
    | some x => if e.value = x then semDeliver (semWrite s o.addr (e.setValue opnd)) o e.value (semStatus sOK)
                else semDeliver s o e.value (semStatus sFAILED)
    | none => semDeliver (semWrite s o.addr (e.setValue (counterStep op e.value opnd))) o e.value (semStatus sOK)

/-- STX at its die (R299). -/
def stxOp (s : State) (o : SemOp) (slots : List (Nat × Nat × Nat × Nat)) : State :=
  let live := slots.zipIdx.filter fun p => p.1.1 != 0
  match live.findSome? fun p => counterBad s o.region p.1.2.1 false with
  | some code => semDeliver s o 0 (semStatus code)
  | none =>
    let old := (entryOf s o.addr).value
    let bad := live.filter fun p => p.1.1 == 5 && (entryOf s p.1.2.1).value != BitVec.ofNat 64 p.1.2.2.2
    if bad ≠ [] then semDeliver s o old (semStatus sFAILED ((bad.map fun p => 2 ^ p.2).sum))
    else
      let s := live.foldl (fun s p =>
        let e := entryOf s p.1.2.1
        setEntry s p.1.2.1 (e.setValue (counterStep p.1.1 e.value (BitVec.ofNat 64 p.1.2.2.1)))) s
      semDeliver (live.foldl (fun s p => semWake s p.1.2.1) s) o old (semStatus sOK)

/-! ## Barriers (R302, R303) -/

/-- Type, use and poison of a barrier. -/
def barrierBad (s : State) (region a : Nat) (rd : Bool) : Option Nat :=
  let e := entryOf s a
  if e.poison then some sPOISON
  else if e.type ≠ 2 then some sBADTYPE
  else if !semUse s region e rd then some sDENIED
  else none

def barrOp (s : State) (o : SemOp) : State :=
  match barrierBad s o.region o.addr false with
  | some _ => semDrop s o
  | none =>
    let e := entryOf s o.addr
    if e.arrived = e.expect then semDrop s o
    else semWrite s o.addr (phaseStep (e.setBarrier e.phase (e.arrived + 1) e.pendBytes))

def bexpOp (s : State) (o : SemOp) : State :=
  match barrierBad s o.region o.addr false with
  | some _ => semDrop s o
  | none =>
    let e := entryOf s o.addr
    semWrite s o.addr (phaseStep (e.setBarrier e.phase e.arrived (e.pendBytes + o.b)))

def btestOp (s : State) (o : SemOp) : State :=
  match barrierBad s o.region o.addr true with
  | some code => semFail s o code
  | none => semDeliver s o (barrierWord (entryOf s o.addr) o.b) (semStatus sOK)

/-! ## Accounts (R304 to R312) -/

def balMax : Int := 2 ^ 95 - 1
def balMin : Int := -(2 ^ 95)

/-- Type, use and poison of an account. [DEDUCED, log entry 52] -/
def accountBad (s : State) (region a : Nat) (rd : Bool) : Option Nat :=
  let e := entryOf s a
  if e.poison then some sPOISON
  else if e.type ≠ 3 then some sBADTYPE
  else if !semUse s region e rd then some sDENIED
  else none

def accountF (s : State) (e : SemEntry) : Nat := (classOf s e.cls).getD 0

/-- Change an account's balance. -/
def addBal (s : State) (a : Nat) (d : Int) : State :=
  let e := entryOf s a
  semWrite s a (e.setAccount (accountF s e) (e.bal + d) e.floor e.frozen)

def cbalOp (s : State) (o : SemOp) : State :=
  match accountBad s o.region o.addr true with
  | some code => semFail s o code
  | none =>
    let e := entryOf s o.addr
    semDeliver s o (e.word.extractLsb' 0 64) (semStatus sOK (e.word.extractLsb' 64 32).toNat e.frozen e.overdrawn)

def cfloorOp (s : State) (o : SemOp) : State :=
  match accountBad s o.region o.addr false with
  | some _ => semDrop s o
  | none =>
    let e := entryOf s o.addr
    let frz := match (o.b.extractLsb' 16 2).toNat with | 1 => true | 2 => false | _ => e.frozen
    semWrite s o.addr (e.setAccount (accountF s e) e.bal (o.b.extractLsb' 0 16).toInt frz)

/-- CMINT and CBURN: the signed change (R312). -/
def cmintOp (s : State) (o : SemOp) (d : Int) : State :=
  match accountBad s o.region o.addr false with
  | some _ => semDrop s o
  | none =>
    let n := (entryOf s o.addr).bal + d
    if n > balMax ∨ n < balMin then semDrop s o else addBal s o.addr d

def transitOf (s : State) (place cls : Nat) : Nat := Tab.get 0 s.transit (place * 256 + cls)
def addTransit (s : State) (place cls : Nat) (d : Int) : State :=
  { s with transit := Tab.put s.transit (place * 256 + cls) ((transitOf s place cls : Int) + d).toNat }

/-! ### CTOTAL (R311) -/

/-- The class and the scope of a CTOTAL. -/
def totalClass (o : SemOp) : Nat := o.addr % 256
def totalScope (o : SemOp) : Nat := o.addr / 256 % 4

/-- The files that a CTOTAL reads: its die's, its module's, the domain's. -/
def totalPlaces (s : State) (o : SemOp) : List Nat :=
  let node := fun n => (List.range 5).map (n * 8 + ·)
  match totalScope o with
  | 0 => [ownPlace s o.die]
  | 1 => node s.node
  | _ => s.nodes.flatMap node

/-- CTOTAL reads one file, in one step: its accounts of the class and its in-transit count, less the transfers, credited and not yet
acknowledged, that it counts at both ends: those from this file whose credit it has counted already, and those to this file
whose quanta it has counted at their source. -/
def totalRead (s : State) (o : SemOp) (p : Nat) : SemOp :=
  let cls := totalClass o
  let accts := s.sems.filter fun e => semPlace e.1 == p && e.2.type == 3 && e.2.cls == cls
  let twice := s.xfers.filter fun x => x.stage == .ack && x.cls == cls &&
    ((semPlace x.src == p && NatSet.mem o.read (semPlace x.dst) && !o.late.contains x.id) ||
     (semPlace x.dst == p && NatSet.mem o.read (semPlace x.src)))
  { o with
    read := NatSet.insert o.read p
    sum := o.sum + (accts.map fun e => e.2.bal).sum + transitOf s p cls - ((twice.map (·.amount)).sum : Nat)
    spoilt := o.spoilt || accts.any fun e => e.2.poison }

/-- A credit is applied in a file that a CTOTAL has read before. -/
def totalCredit (s : State) (x : Xfer) : State :=
  { s with semOps := s.semOps.map fun o =>
      if o.kind == .ctotal && totalClass o == x.cls && !inRound s o.ctx && NatSet.mem o.read (semPlace x.dst) then { o with late := x.id :: o.late } else o }

/-- A transfer's quanta leave the in-transit count: a CTOTAL that has counted them at the source, and will find them at the destination,
takes them off; one that read the destination before the credit, and will not find them at the source, adds them. -/
def totalAck (s : State) (x : Xfer) : State :=
  { s with semOps := s.semOps.map fun o =>
      let there := fun a => (totalPlaces s o).contains (semPlace a)
      if o.kind != .ctotal || totalClass o != x.cls || inRound s o.ctx || o.read == [] || !there x.src || !there x.dst then o
      else if NatSet.mem o.read (semPlace x.src) && !NatSet.mem o.read (semPlace x.dst) then { o with sum := o.sum - x.amount }
      else if !NatSet.mem o.read (semPlace x.src) && o.late.contains x.id then { o with sum := o.sum + x.amount }
      else o }

/-- CTOTAL ends, once it has read every file, or at once: at domain scope it ends UNREACHABLE while a node cannot be reached (R313). An account
whose poison SINIT has ended is POISONED no more (R311), also before the quanta lost with it are restored (R314).
[DEDUCED, log entry 79] -/
def totalEnd (s : State) (o : SemOp) : State :=
  if (classOf s (totalClass o)).isNone then semDeliver s o 0 (semStatus sBADCLASS)
  else if totalScope o ≥ 2 ∧ s.nodes.any (NatSet.mem s.unreach) then semDeliver s o 0 (semStatus sUNREACH)
  else if o.spoilt then semDeliver s o 0 (semStatus sPOISON)
  else
    let v := BitVec.ofInt 96 o.sum
    semDeliver s o (v.extractLsb' 0 64) (semStatus sOK (v.extractLsb' 64 32).toNat)

/-- The quanta and the remainder of a CXFER amount (R306): forms 0 q, 1 rn, 2 rz, 3 rd. The sign of a zero remainder is that of the form's
mode (R148). [DEDUCED, log entry 52] -/
def xferAmount (form : Nat) (c : D64) (f : Nat) : Nat × Nat :=
  if form = 0 then (c.toNat, 0)
  else match f32.decode (c.toNat % 2 ^ 32) with
  | .fin neg m e =>
    let md := if form = 1 then Mode.rne else if form = 2 then Mode.rz else Mode.rd
    let n := (roundInt md neg m (e + f)).1.toNat
    (n, (f32.round .rne (Fp.addIn md (.fin neg m e) (.fin true n (-(f : Int)))).1).1)
  | _ => (0, 0)

/-- The checks of a destination account (R307). -/
def destBad (s : State) (region cls d m : Nat) : Option Nat :=
  let e := entryOf s d
  if e.poison then some sPOISON
  else if e.type ≠ 3 then some sBADTYPE
  else if !semUse s region e true then some sDENIED
  else if e.cls ≠ cls then some sMISMATCH
  else if e.frozen then some sFROZEN
  else if e.bal + m > balMax then some sRANGE
  else none

def xferDst (o : SemOp) : Nat := (o.b.extractLsb' 0 30).toNat

/-- CXFER at its source die (R306 to R308). -/
def cxferOp (s : State) (o : SemOp) (form : Nat) : State :=
  match accountBad s o.region o.addr false with
  | some code => semDeliver s o 0 (semStatus code)
  | none =>
    let e := entryOf s o.addr
    match classOf s e.cls with
    | none => semDeliver s o 0 (semStatus sBADCLASS 0 false e.overdrawn)
    | some f =>
      if e.frozen then semDeliver s o 0 (semStatus sFROZEN 0 false e.overdrawn)
      else
        let (n, rem) := xferAmount form o.c f
        if n ≥ 2 ^ 64 then semDeliver s o 0 (semStatus sRANGE rem false e.overdrawn)
        else
          let room : Int := e.bal - e.floor * 2 ^ f
          let mode := (o.b.extractLsb' 32 2).toNat
          let m : Nat := if mode = 0 then (if (n : Int) ≤ room then n else 0)
            else if mode = 1 then min n room.toNat else n
          let st := if mode = 0 then (if (n : Int) ≤ room then sOK else sFAILED)
            else if mode = 1 then (if m = n then sOK else sSHORT) else sOK
          if e.bal - m < balMin then semDeliver s o 0 (semStatus sRANGE rem false e.overdrawn)
          else if m = 0 then semDeliver s o 0 (semStatus st rem false e.overdrawn)
          else
            let d := xferDst o
            if semPlace d = semPlace o.addr then
              match destBad s o.region e.cls d m with
              | some code => semDeliver s o 0 (semStatus code rem false e.overdrawn)
              | none =>
                let s := addBal (addBal s o.addr (-(m : Int))) d m
                semDeliver s o (BitVec.ofNat 64 m) (semStatus st rem false (entryOf s o.addr).overdrawn)
            else
              let s := addTransit (addBal s o.addr (-(m : Int))) (semPlace o.addr) e.cls m
              { s with xfers := s.xfers ++ [{ id := o.id, ctx := o.ctx, region := o.region, result := o.result, src := o.addr, dst := d
                                              amount := m, cls := e.cls, rem := BitVec.ofNat 32 rem, status := st }] }

/-- A same-die transfer waits for an earlier transfer of its context to the same account (R308): until that has been credited, or D has
rejected its credit. [DEDUCED, log entry 52] -/
def xferBlocked (s : State) (ctx dst id : Nat) : Bool :=
  (s.semOps.any fun p => p.ctx == ctx && decide (p.id < id) && (match p.kind with | .cxfer _ => xferDst p == dst | _ => false)) ||
  (s.xfers.any fun x => x.ctx == ctx && decide (x.id < id) && x.dst == dst && x.stage == .credit)

/-! ## Setting up and querying (R315, R316) -/

/-- The quota region of an entry's owner has room for one more account (R284, R286, R334). -/
def accountRoom (s : State) (owner : Nat) : Bool :=
  let q := budgetRegion s owner 11
  let n := (s.sems.filter fun p => p.2.type == 3 && p.2.owner != 0xFFFF && budgetRegion s p.2.owner 11 == q).length
  decide (n < (rcbWord s q 11).toNat)

def sinitOp (s : State) (o : SemOp) : State :=
  let e := entryOf s o.addr
  let b := o.b
  let ty := (b.extractLsb' 0 4).toNat
  let cls := (b.extractLsb' 8 8).toNat
  if !semUse s o.region e false ∨ (e.type = 3 ∧ !e.poison ∧ e.bal ≠ 0) ∨ (e.poison ∧ !mintPolicy s o.region) ∨
     (ty = 3 ∧ (classOf s cls).isNone) ∨ (ty = 3 ∧ e.type ≠ 3 ∧ !accountRoom s e.owner) then semDrop s o
  else
    let op := b.extractLsb' 4 1
    let blank : SemEntry := { e with poison := false }
    let n : SemEntry :=
      if ty = 1 then { blank with word := 1#4 ++ 0#2 ++ op ++ 0#57 ++ o.c }
      else if ty = 2 then { blank with word := 2#4 ++ 0#2 ++ op ++ 0#25 ++ b.extractLsb' 16 16 ++ 0#80 }
      else if ty = 3 then
        ({ blank with word := 3#4 ++ 0#2 ++ op ++ 0#17 ++ b.extractLsb' 8 8 ++ 0#96 } : SemEntry).setAccount
          ((classOf s cls).getD 0) 0 (b.extractLsb' 32 16).toInt false
      else { blank with word := 0 }
    semWrite s o.addr n

def cinfoOp (s : State) (o : SemOp) : State :=
  let cls := o.b.toNat % 256
  match o.addr with
  | 0 => semDeliver s o (match classOf s cls with | some f => BitVec.ofNat 64 (256 + f) | none => 0) (semStatus sOK)
  | 1 =>
    let e := entryOf s o.b.toNat
    if NatSet.mem s.unreach (semNode o.b.toNat) then semDeliver s o 0 (semStatus sUNREACH)
    else if e.poison then semDeliver s o 0 (semStatus sPOISON)
    else if !semUse s o.region e true then semDeliver s o 0 (semStatus sDENIED)
    else semDeliver s o (BitVec.ofNat 64 ((if e.type = 3 then e.cls * 2 ^ 32 else 0) + e.owner * 2 ^ 16 +
      (e.word.extractLsb' 120 4).toNat * 16 + e.type)) (semStatus sOK)
  | 2 => semDeliver s o (BitVec.ofNat 64 (Tab.get 0 (dieOf s o.die).drops o.region)) (semStatus sOK)
  | _ =>
    let t := transitOf s (ownPlace s o.die) cls
    if (classOf s cls).isNone then semDeliver s o 0 (semStatus sBADCLASS) else semDeliver s o (BitVec.ofNat 64 t) (semStatus sOK (t / 2 ^ 64))

/-! ## Performing (R292) -/

def SemKind.isWatch : SemKind → Bool
  | .swaitge | .bwait => true
  | _ => false

/-- The file an operation goes to. -/
def opPlace (s : State) (o : SemOp) : Nat :=
  match o.kind with
  | .ctotal => ownPlace s o.die
  | .cinfo => if o.addr = 1 then semPlace o.b.toNat else ownPlace s o.die
  | _ => semPlace o.addr

/-- An operation is an acquire (R294, R320): SWAITGE, BWAIT, or one whose result its context waits for. -/
def acquires (s : State) (o : SemOp) : Bool :=
  let x := ctxOf s o.ctx
  o.kind.isWatch || match o.result with
    | some q => (x.waits ++ (match x.aside with | some a => a.waits | none => [])).contains (.semDone q)
    | none => false

/-- What an operation does at its entry. -/
def semAct (s : State) (o : SemOp) : State :=
  if NatSet.mem s.unreach (opPlace s o / 8) then semFail s o sUNREACH
  else match o.kind with
  | .sld => readPerform s o.ctx fun s => match counterBad s o.region o.addr true with
    | some code => semFail s o code
    | none => semDeliver s o (entryOf s o.addr).value (semStatus sOK)
  | .sst => counterOp s o 1 o.b none
  | .sadd => counterOp s o 2 o.b none
  | .smin => counterOp s o 3 o.b none
  | .smax => counterOp s o 4 o.b none
  | .scas => counterOp s o 5 o.c (some o.b)
  | .stx slots => stxOp s o slots
  | .swaitge => readPerform s o.ctx fun s => match watchTest s o.region o.addr true o.b with
    | some (code, v) => semDeliver s o v (semStatus code)
    | none => s
  | .bwait => readPerform s o.ctx fun s => match watchTest s o.region o.addr false o.b with
    | some (code, v) => semDeliver s o v (semStatus code)
    | none => s
  | .barr => barrOp s o
  | .bexp => bexpOp s o
  | .btest => readPerform s o.ctx fun s => btestOp s o
  | .cxfer form => cxferOp s o form
  | .cbal => readPerform s o.ctx fun s => cbalOp s o
  | .ctotal => totalEnd s o
  | .cfloor => cfloorOp s o
  | .cmint => cmintOp s o o.b.toNat
  | .cburn => cmintOp s o (-(o.b.toNat : Int))
  | .sinit => sinitOp s o
  | .cinfo => cinfoOp s o
  | .bdec => barrierDec s o.region o.addr o.b.toNat

/-- An operation performs at its entry; by an acquire its context sees what has performed for it (R321). -/
def semPerform (s : State) (o : SemOp) : State := if acquires s o then acquire (semAct s o) o.ctx else semAct s o

/-- A copy job has performed at a scope (R270): its reads and writes have happened, its residency bitmap among them, it owes no
decrement, and the agents of the scope see its bytes. Within this module the scopes 3 and 4 are one. -/
def Job.performed (s : State) (scope : Nat) (j : Job) : Bool :=
  j.ended && j.owed == 0 && !s.lags.any (fun l => l.job == j.id && decide (l.level < min scope 3)) &&
    (match j.kind with | .card ws => !((ws.headD 0).getLsbD 14 && j.moving) | _ => true)

/-- The copy work of a context that has not completed (R270, R294). -/
def copyWork (s : State) (c : Nat) : List Job := s.dies.flatMap fun d => d.2.jobs.filter fun j => j.ctx == c

/-- Scratchpad stores of triggers before `q` that have not performed (R135, R294). [DEDUCED, log entry 35] -/
def storesBefore (x : Ctx) (q : Nat) : Bool := (x.ls ++ storesOf x.going).any fun o => decide (o.seq < q) && (o.writes != [] || o.tagWrite.isSome) && o.kind != .ldfw

/-- The conditions of a release (R294). An earlier transfer between dies has performed once its source has been debited; its credit
may still be on the way. [DEDUCED, log entry 74] -/
def releaseReady (s : State) (o : SemOp) : Bool :=
  let scope := if opPlace s o = ownPlace s o.die then 2 else 3
  !storesBefore (ctxOf s o.ctx) o.relSt && !(copyWork s o.ctx).any (fun j => decide (j.id < o.id) && !j.performed s scope) &&
    !s.semOps.any fun p => p.ctx == o.ctx && decide (p.id < o.id)

/-- An earlier operation of the context has not yet been at the file (R292): one that is there, a same-die transfer that waits under
R308 too, lets the later ones perform. [DEDUCED, log entry 70] -/
def aheadAt (s : State) (o : SemOp) (place : Nat) : Bool :=
  s.semOps.any fun p => p.ctx == o.ctx && decide (p.id < o.id) && !p.armed &&
    (if p.kind == .ctotal then (totalPlaces s p).contains place && !NatSet.mem p.read place else opPlace s p == place)

/-- A CTOTAL reads the next file, any that no earlier operation of its context has still to reach; after the last, or where it ends
at once, its result comes. -/
def totalArrive (s : State) (o : SemOp) : State :=
  let drop := { s with semOps := s.semOps.filter fun p => p.id != o.id }
  if (classOf s (totalClass o)).isNone ∨ (totalScope o ≥ 2 ∧ s.nodes.any (NatSet.mem s.unreach)) then
    if aheadAt s o (ownPlace s o.die) then s else semPerform drop o
  else
    let places := (totalPlaces s o).filter fun p => !NatSet.mem o.read p && !aheadAt s o p
    let (n, s) := nextFree s
    match places[Config.freeChoice n % max 1 places.length]? with
    | none => s
    | some p =>
      let o := totalRead (opView s o.ctx) o p
      if (totalPlaces s o).all (NatSet.mem o.read) then semPerform { s with semOps := s.semOps.filter fun p => p.id != o.id } o
      else { s with semOps := s.semOps.map fun q => if q.id = o.id then o else q }

/-- A watch that is not satisfied, and a same-die transfer that must wait, stay at the entry (R300, R303, R308). -/
def staysArmed (s : State) (o : SemOp) : Bool :=
  match o.kind with
  | .swaitge => (watchTest (opView s o.ctx) o.region o.addr true o.b).isNone
  | .bwait => (watchTest (opView s o.ctx) o.region o.addr false o.b).isNone
  | .cxfer _ => semPlace (xferDst o) == semPlace o.addr && xferBlocked s o.ctx (xferDst o) o.id
  | _ => false

/-- R292, R294, R300, R303, R306, R311: an operation reaches its entry and performs there, in issue order of its context at that die.
Arguments: an operation. -/
def execSemArrive (s : State) : Res :=
  match s.semOps.find? fun o => o.id == s.args.a with
  | none => .next s
  | some o =>
    if o.kind = .ctotal then .next (totalArrive s o)
    else if !o.armed && (aheadAt s o (opPlace s o) || (o.rel && !releaseReady s o)) then .next s
    else if staysArmed s o then .next { s with semOps := s.semOps.map fun p => if p.id = o.id then { p with armed := true } else p }
    else .next (semPerform { s with semOps := s.semOps.filter fun p => p.id != o.id } o)

/-! ## Transfers between dies (R308 to R313) -/

def modXfer (s : State) (id : Nat) (f : Xfer → Xfer) : State := { s with xfers := s.xfers.map fun x => if x.id = id then f x else x }

def xferDeliver (s : State) (x : Xfer) (r : Nat) (code : Nat) (odrn : Bool) : State :=
  if x.told then s else
  match x.result with
  | none => s
  | some q => modCtx s x.ctx fun y => fillResult y q fun e =>
      { e with r := some (BitVec.ofNat 4096 r, BitVec.allOnes 4096), st := some (semStatus code x.rem.toNat false odrn), arrived := true }

/-- The credit, the refund or the acknowledgement cannot pass (R313). -/
def xferCut (s : State) (x : Xfer) : Bool :=
  NatSet.mem s.unreach (semNode x.dst) || NatSet.mem s.unreach (semNode x.src)

def xferTell (s : State) (x : Xfer) : State :=
  modXfer (xferDeliver s x x.amount sUNREACH (entryOf s x.src).overdrawn) x.id fun x => { x with told := true }

/-- R308: a credit reaches the destination die. Arguments: a transfer. -/
def execCreditArrive (s : State) : Res :=
  match s.xfers.find? fun x => x.id == s.args.a && x.stage == .credit with
  | none => .next s
  | some x =>
    if xferCut s x then .next (xferTell s x)
    else if xferBlocked s x.ctx x.dst x.id then .next s
    else match destBad s x.region x.cls x.dst x.amount with
    | some code => .next (modXfer s x.id fun x => { x with stage := .refund, status := code })
    | none => .next (modXfer (totalCredit (addBal s x.dst x.amount) x) x.id fun x => { x with stage := .ack })

/-- The source of a transfer is still the account of its class that the transfer left, and has room for its quanta (R309).
[DESIGN CHOICE, log entry 72] -/
def takesRefund (s : State) (x : Xfer) : Bool :=
  let e := entryOf s x.src
  e.type == 3 && e.cls == x.cls && !e.poison && decide (e.bal + x.amount ≤ balMax)

/-- A refund at its source die (R309): the quanta leave the in-transit count for the balance, in one step. Where the source cannot take
them, of which the spec says nothing, the result comes all the same and they stay in transit (R311) until it can.
[DESIGN CHOICE, log entry 72] -/
def refundXfer (s : State) (x : Xfer) (code : Nat) : State :=
  if takesRefund s x then
    let s := addTransit (addBal s x.src x.amount) (semPlace x.src) x.cls (-(x.amount : Int))
    { xferDeliver s x 0 code (entryOf s x.src).overdrawn with xfers := s.xfers.filter fun y => y.id != x.id }
  else
    modXfer (xferDeliver s x 0 code (entryOf s x.src).overdrawn) x.id fun x => { x with told := true, stage := .refund, status := code, dst := x.src }

/-- R309: a refund reaches the source die. Arguments: a transfer. -/
def execRefundArrive (s : State) : Res :=
  match s.xfers.find? fun x => x.id == s.args.a && x.stage == .refund with
  | none => .next s
  | some x => if xferCut s x then .next (xferTell s x) else .next (refundXfer s x x.status)

/-- R308: an acknowledgement returns to the source die. Arguments: a transfer. -/
def execAckArrive (s : State) : Res :=
  match s.xfers.find? fun x => x.id == s.args.a && x.stage == .ack with
  | none => .next s
  | some x =>
    if xferCut s x then .next (xferTell s x)
    else
      let s := totalAck (addTransit s (semPlace x.src) x.cls (-(x.amount : Int))) x
      .next { xferDeliver s x x.amount x.status (entryOf s x.src).overdrawn with xfers := s.xfers.filter fun y => y.id != x.id }

/-- R313: the torc fabric reports a node unreachable; returning operations that wait at its entries end. Arguments: a node. -/
def execNodeUnreachable (s : State) : Res :=
  let n := s.args.a
  if n = s.node ∨ !s.nodes.contains n then .next s
  else
    let s := { s with unreach := NatSet.insert s.unreach n }
    let gone := s.semOps.filter fun o => o.armed && opPlace s o / 8 == n
    let s := gone.foldl (fun s o => semFail s o sUNREACH) s
    .next { s with
      semOps := s.semOps.filter fun o => !(gone.any fun g => g.id == o.id)
      conts := s.conts.map fun k =>
        if k.armed && k.status.isNone && (k.cond.address.map semNode) == some n then { k with status := some (semStatus sUNREACH) } else k }

/-- R313: the node is reachable again. Arguments: a node. -/
def execNodeReachable (s : State) : Res := .next { s with unreach := NatSet.erase s.unreach s.args.a }

end Sys2Proof.Machine
end

