-- ==== Sys2Proof/Machine/Release.lean ====
section
/-! DEFINITION. Commands between their trigger and their issue: what checkpoint mode withholds (R95, R96), release in order
(R98), the limits a command waits for (R90, R91, R253, R365), and the issue of copy work, semaphore operations and
messages (R252, R292, R365). -/

namespace Sys2Proof.Machine

/-! ## Copy work (R252, R253) -/

/-- The registers that a command's token belongs to: those set aside, for the interrupted code's (R395). -/
def tokenRegs (x : Ctx) (handler : Bool) : RegFile :=
  match x.aside with
  | some a => if handler then x.regs else a.regs
  | none => x.regs

/-- The operations that R253 counts. -/
def outstanding (s : State) (c : Nat) : Nat :=
  ((copyWork s c).filter fun j => match j.kind with | .cpld _ _ _ _ _ => false | _ => true).length

def Job.isCard (j : Job) : Bool := match j.kind with | .card _ => true | _ => false

/-- A partition's share of a die's card queue (R253). -/
def cardShare (s : State) (part die : Nat) : Nat :=
  Config.cardsPerBangle * (((Tab.get {} s.parts part : Partition).bangles.filter fun b => b / 16 == die).length)

def cardsOf (s : State) (die : Nat) : List Job := (dieOf s die).jobs.filter Job.isCard

/-- A free asynchronous write to a `g` register may be issued (R90, R91). -/
def freeWriteOk (x : Ctx) (handler : Bool) (d : BitVec 12) : Bool :=
  d == 0 || (decide (freeOut x < Config.asyncWrites) &&
    !(((tokenRegs x handler).bits d).pend && !((tokenRegs x handler).bits d).land))

/-- A copy command may be issued (R253, R90, R91). -/
def jobFits (s : State) (c : Nat) (j : Job) : Bool :=
  let d := ctxDie c
  let x := ctxOf s c
  let part := partOf s j.region
  decide (outstanding s c < Config.copyOps) && freeWriteOk x j.handler (BitVec.ofNat 12 j.token) &&
  (!j.isCard || (decide ((cardsOf s d).length < Config.cardQueue) &&
    decide (((cardsOf s d).filter fun k => partOf s k.region == part).length < cardShare s part d)))

/-- A copy command issues (R252): its token becomes pending, it takes ASID and generation, and joins its die's queue. -/
def issueJob (s : State) (c : Nat) (j : Job) : State :=
  let (id, s) := fresh s
  let (aid, s) := fresh s
  let asid := asidOf s j.region
  let j := { j with id := id, core := ctxCore c, asid := asid, gen := (spaceOf s asid).gen, async := if j.token = 0 then none else some aid
                    ov := if inRound s c then some c else none }
  let s := modCtx s c fun x => issueAsync x aid (BitVec.ofNat 12 j.token) false j.handler false
  modDie s (ctxDie c) fun d => { d with jobs := d.jobs ++ [j] }

/-! ## Semaphore operations (R292, R360) -/

/-- The operations that a deterministic round holds to its merge: the withheld ones, and SINIT, which changes an entry too.
[DEDUCED, log entry 31] -/
def SemKind.withheld : SemKind → Bool
  | .sst | .barr | .bexp | .cfloor | .cmint | .cburn | .sinit => true
  | _ => false

/-- A semaphore operation issues, from the die where its context is then; inside a deterministic round one that changes an entry is
held to the merge (R360, R362). -/
def issueSemOp (s : State) (c : Nat) (o : SemOp) : State :=
  let (id, s) := fresh s
  let o := { o with id := id, die := ctxDie c }
  if inRound s c && o.kind.withheld then modCtx s c fun x => { x with ov := { x.ov with sems := x.ov.sems ++ [o] } }
  else
    let s := { s with semOps := s.semOps ++ [o] }
    modCtx s c fun x => { x with waits := x.waits ++ (if o.rel then [.semSent id] else []) }

/-! ## Messages (R363 to R365) -/

/-- The place of a context in its launch's grid: its virtual core. -/
def gridCore (s : State) (c : Nat) : Nat :=
  match (ctxOf s c).launch with
  | none => 0
  | some l => match launchOf s l with
    | none => 0
    | some y => (y.ctxs.findIdx? fun p => p.2.contains c).getD 0

def pipeOf (s : State) (c n : Nat) : Option Pipe :=
  match (ctxOf s c).launch with
  | none => none
  | some l => match launchOf s l with
    | none => none
    | some y => y.image.pipes.find? fun p => p.number == n

def pipePlace (s : State) (c n : Nat) : Nat × Nat × Nat := ((ctxOf s c).launch.getD 0, gridCore s c, n)

def flitsOf (n : Nat) : Nat := (n + 255) / 256
def flitsAt (s : State) (place : Nat × Nat × Nat) : Nat := ((s.msgs.filter fun m => m.place == place).map fun m => flitsOf m.data.length).sum
def sendRoom (s : State) (c pipe n : Nat) : Bool := decide (flitsAt s (pipePlace s c pipe) + flitsOf n ≤ Config.recvFlits)

def issueSend (s : State) (c pipe : Nat) (data : List Byte) : State :=
  let (id, s) := fresh s
  { s with msgs := s.msgs ++ [{ id := id, place := pipePlace s c pipe, data := data }] }

/-! ## Release (R95 to R98) -/

def itemFits (s : State) (c : Nat) : Withheld → Bool
  | .store _ => true
  | .job j => jobFits s c j
  | .sem _ => true
  | .send pipe data => sendRoom s c pipe data.length

/-- A released store goes to its unit, behind what the context has triggered there (R317, R319): behind operations that a trap has
withdrawn, to be armed again with them (R394). [DEDUCED, log entry 59] -/
def releaseStore (x : Ctx) (o : LsOp) : Ctx :=
  match x.aside with
  | some a => if a.ls = [] then { x with ls := x.ls ++ [o] } else { x with aside := some { a with ls := a.ls ++ [o] } }
  | none => { x with ls := x.ls ++ [o] }

def issueItem (s : State) (c : Nat) : Withheld → State
  | .store o => modCtx s c fun x => releaseStore x o
  | .job j => issueJob s c j
  | .sem o => issueSemOp s c o
  | .send pipe data => issueSend s c pipe data

/-- Issue released commands in order, up to the first that must wait (R98, R253, R365). -/
def pumpGo (c : Nat) : Nat → State → State
  | 0, s => s
  | n + 1, s =>
    match (ctxOf s c).going with
    | [] => s
    | w :: ws => if itemFits s c w then pumpGo c n (issueItem (modCtx s c fun x => { x with going := ws }) c w) else s

def pump (s : State) (c : Nat) : State := pumpGo c (ctxOf s c).going.length s

/-- Release everything withheld, in the order the context issued it (R98). -/
def releaseAll (s : State) (c : Nat) : State :=
  pump (modCtx s c fun x => { x with going := x.going ++ x.held, held := [] }) c

/-- A command at its trigger: withheld with checkpoint mode on, else issued, or waiting before the next bundle. -/
def issueCmd (s : State) (c : Nat) (w : Withheld) (withhold : Bool) : State :=
  if withhold && ckOn (ctxOf s c) then modCtx s c fun x => { x with held := x.held ++ [w] }
  else pump (modCtx s c fun x => { x with going := x.going ++ [w] }) c

end Sys2Proof.Machine
end

