-- ==== Sys2Proof/Machine/Copy.lean ====
section
/-! DEFINITION. The copy engines (R247 to R280): job cards, their checks, edges and channels, the movement of their bytes,
small transfers, paging and migration; one meaning for each `cpy` trigger and for each event of the engines. -/

namespace Sys2Proof.Machine

/-! ## Cards (R248 to R251) -/

/-- The fields of a job card (R249). -/
structure Card where
  token : Nat
  rmap  : Bool
  bar   : Bool
  tagf  : Bool
  ds    : Nat
  ss    : Nat
  kind  : Nat
  sb    : Nat
  db    : Nat
  xn    : Nat
  yn    : Nat
  zn    : Nat
  srs   : D64          -- low 32 bits
  sps   : D64
  drs   : D64
  dps   : D64
  rmb   : Nat
  idx   : Nat
  bsem  : Nat
  zeros : Bool         -- every must-be-zero bit of R249 is zero
deriving DecidableEq, Repr

def cardOf (ws : List D64) : Card :=
  let d := fun n => ws.getD n 0
  let f := fun n lo w => ((d n).extractLsb' lo w).toNat
  { token := f 0 16 6, rmap := (d 0).getLsbD 14, bar := (d 0).getLsbD 13, tagf := (d 0).getLsbD 12
    ds := f 0 10 2, ss := f 0 8 2, kind := f 0 0 4, sb := (d 1).toNat, db := (d 2).toNat
    xn := f 3 0 32, yn := f 3 32 16, zn := f 3 48 16
    srs := (d 4).extractLsb' 0 32 |>.setWidth 64, sps := (d 4).extractLsb' 32 32 |>.setWidth 64
    drs := (d 5).extractLsb' 0 32 |>.setWidth 64, dps := (d 5).extractLsb' 32 32 |>.setWidth 64
    rmb := f 6 20 20, idx := f 6 0 20, bsem := f 7 0 30
    zeros := f 0 22 42 == 0 && f 0 15 1 == 0 && f 0 4 4 == 0 && f 6 40 24 == 0 && f 7 30 34 == 0 }

/-- A signed 32-bit stride. -/
def s32 (v : D64) : Int := (v.extractLsb' 0 32).toInt

/-- Bytes of the stream (R249). -/
def Card.len (k : Card) : Nat := k.xn * k.yn * k.zn

/-- What the card debits (R254). -/
def Card.cost (k : Card) : Nat := if k.kind = 6 then 524288 else k.len

/-- The strides that place rows; the bound of GATHER and SCATTER places none. -/
def Card.srcRow (k : Card) : Int := if k.kind = 2 then 0 else s32 k.srs
def Card.dstRow (k : Card) : Int := if k.kind = 3 then 0 else s32 k.drs

/-- The lowest and the highest byte (exclusive) of a side's rows, from a base. -/
def rowExtent (base : Int) (k : Card) (rs ps : Int) : Int × Int :=
  (base + min 0 ((k.zn - 1 : Int) * ps) + min 0 ((k.yn - 1 : Int) * rs),
   base + max 0 ((k.zn - 1 : Int) * ps) + max 0 ((k.yn - 1 : Int) * rs) + k.xn)

/-- Bytes of the residency bitmap (R264). -/
def Card.chunks (k : Card) : Nat := (k.len + 1023) / 1024
def Card.mapBytes (k : Card) : Nat := 4 * ((k.chunks + 31) / 32)

/-- The spaces a kind allows on a side (R250). -/
def srcSpaces (kind : Nat) : List Nat :=
  if kind = 0 ∨ kind = 1 ∨ kind = 5 then [0, 1] else if kind = 2 then [0] else if kind = 3 then [1]
  else if kind = 4 then [1, 2] else if kind = 6 then [0] else []
def dstSpaces (kind : Nat) : List Nat :=
  if kind = 0 ∨ kind = 1 then [0, 1] else if kind = 2 then [1] else if kind = 3 then [0]
  else if kind = 4 then [1, 2] else if kind = 5 then [3] else if kind = 6 then [0] else []

/-- The form of a base address in its space (R248). -/
def baseForm (space b : Nat) : Bool :=
  decide (b < if space = 0 then 2 ^ 56 else if space = 1 then 2 ^ 20 else if space = 2 then 2 ^ 29 else 2 ^ 30)

/-- The third row of R251. RMB of a card without RMAP and BSEM of one without BAR are unused fields (R250). [DEDUCED, log entry 77] -/
def Card.bad (k : Card) : Bool :=
  let stridesZero := k.srs == 0 && k.sps == 0 && k.drs == 0 && k.dps == 0
  let by64 := s32 k.srs % 64 == 0 && s32 k.sps % 64 == 0 && s32 k.drs % 64 == 0 && s32 k.dps % 64 == 0
  !k.zeros || decide (k.kind > 6) || !(srcSpaces k.kind).contains k.ss || !(dstSpaces k.kind).contains k.ds ||
  (k.rmb != 0 && !k.rmap) || (k.bsem != 0 && !k.bar) || (k.idx != 0 && k.kind != 2 && k.kind != 3) ||
  (if k.kind = 6 then
    decide (k.xn > 1) || k.yn != 1 || k.zn != 1 || !stridesZero || k.rmap || k.bar || k.tagf || decide (k.sb ≥ 2 ^ 57) ||
      decide (k.db ≥ 2 ^ 57)
   else
    k.xn == 0 || k.yn == 0 || k.zn == 0 || decide (k.len > 2 ^ 32 - 1) || !baseForm k.ss k.sb || !baseForm k.ds k.db ||
    (k.kind == 0 && (k.yn != 1 || k.zn != 1 || !stridesZero)) ||
    ((k.kind == 2 || k.kind == 3) && (k.zn != 1 || k.sps != 0 || k.dps != 0)) ||
    ((k.kind == 4 || k.kind == 5) && !by64) ||
    (k.tagf && k.ds != 1 && k.ds != 2) || (k.rmap && (k.ss != 0 || decide (k.len > 4194304))))

/-- The fourth row of R251: scratchpad ranges of the issuing core. -/
def Card.outside (k : Card) (area : Nat) : Bool :=
  let off := fun (e : Int × Int) => decide (e.1 < 0) || decide (e.2 > area)
  (k.kind != 6 && k.ss == 1 && off (rowExtent k.sb k k.srcRow (s32 k.sps))) ||
  (k.kind != 6 && k.ds == 1 && off (rowExtent k.db k k.dstRow (s32 k.dps))) ||
  ((k.kind == 2 || k.kind == 3) && decide (k.idx + 4 * k.yn > area)) ||
  (k.rmap && decide (k.rmb + k.mapBytes > area))

/-- The fifth row of R251. -/
def Card.misaligned (k : Card) : Bool :=
  ((k.kind == 2 || k.kind == 3) && k.idx % 4 != 0) || (k.rmap && k.rmb % 4 != 0) ||
  (k.kind == 4 && (k.sb % 64 != 0 || k.db % 64 != 0 || k.xn % 64 != 0)) ||
  (k.kind == 5 && (k.db % 64 != 0 || k.xn % 64 != 0)) ||
  (k.kind == 6 && (k.sb % 2 ^ 44 % 524288 != 0 || k.db % 2 ^ 44 % 524288 != 0))

/-- The card's doublewords as the context sees its scratchpad (R251). -/
def cardWords (s : State) (c a : Nat) : List D64 :=
  let bs := viewBytes s c (ctxOf s c).bundle a 64
  (List.range 8).map fun i => BitVec.ofNat 64 (leNat ((bs.drop (8 * i)).take 8))

/-- CPY's checks, in the order of R251. -/
def cpyCheck : Check := fun s c o =>
  let a := o.a64.toNat
  if a ≥ 2 ^ 20 ∨ a + 64 > areaOf s c then some .spadRange
  else if a % 64 ≠ 0 then some .misaligned
  else
    let k := cardOf (cardWords s c a)
    if k.bad then some .bounds
    else if k.outside (areaOf s c) then some .spadRange
    else if k.misaligned then some .misaligned
    else if k.kind = 6 ∧ !migratePolicy s (ctxRegion s c) then some .privilege
    else none

/-! ## The copy port (R247) -/

/-- A job of the context, not yet issued. -/
def newJob (s : State) (c token : Nat) (kind : JobKind) : Job :=
  { id := 0, ctx := c, core := ctxCore c, region := ctxRegion s c, launch := (ctxOf s c).launch.getD 0, kind := kind
    asid := 0, gen := 0, token := token, handler := (ctxOf s c).aside.isSome }

/-- The ports of a `cpy` trigger (R247). -/
def cpyPorts (s : State) (c : Nat) (r : D64) : State :=
  modCtx s c fun x => addResult x .cpy 2 (some (r.setWidth 4096, BitVec.allOnes 4096)) (some 0)

/-- R251, R252: CPY. -/
def execCpyCpy (m : Mv) (s : State) : Res :=
  trigger s m .cpy 0x3C8 cpyCheck fun s c o =>
    let ws := cardWords s c o.a64.toNat
    issueCmd (cpyPorts s c 0) c (.job (newJob s c (cardOf ws).token (.card ws))) true

def cpldLen (b : D64) : Nat := (b.extractLsb' 16 7).toNat
def cpldDst (b : D64) : BitVec 12 := b.extractLsb' 0 12

/-- CPLD's checks (R268). -/
def cpldCheck : Check := fun _ _ o =>
  let b := o.b64
  let n := cpldLen b
  let d := (cpldDst b).toNat
  let isG := decide (1 ≤ d ∧ d ≤ 0x3F)
  if b.extractLsb' 28 36 ≠ 0 ∨ b.getLsbD 23 ∨ b.extractLsb' 12 4 ≠ 0 ∨ !(isG || decide (0x80 ≤ d ∧ d ≤ 0x9F)) ∨
     n < 1 ∨ n > (if isG then 8 else 64) ∨ o.a64.toNat ≥ 2 ^ 56 then some .bounds
  else if o.a64.toNat % 64 + n > 64 then some .misaligned
  else none

/-- The mould of CPLD and CPLD.sb (R268). -/
def cpld (s : State) (m : Mv) (sock : BitVec 12) (sb : Bool) : Res :=
  trigger s m .cpy sock (firstOf [eagerCheck, cpldCheck]) fun s c o =>
    let b := o.b64
    let mask := if b.getLsbD 27 then some (BitVec.ofNat 12 (0xA0 + (b.extractLsb' 24 3).toNat)) else none
    let s := cpyPorts s c 0
    let (id, s) := fresh s
    let (aid, s) := fresh s
    let (mid, s) := fresh s
    let asid := asidOf s (ctxRegion s c)
    let h := (ctxOf s c).aside.isSome
    let j := { newJob s c 0 (.cpld o.a64.toNat (cpldLen b) (cpldDst b) sb mask) with
               id := id, asid := asid, gen := (spaceOf s asid).gen, async := some aid, async2 := mask.map fun _ => mid
               ov := if inRound s c then some c else none }
    let s := modCtx s c fun x =>
      let x := issueAsync x aid (cpldDst b) sb h true
      match mask with
      | some d => issueAsync x mid d sb h true (some aid)
      | none => x
    modDie s (ctxDie c) fun d => { d with jobs := d.jobs ++ [j] }

/-- R268: CPLD. -/
def execCpyCpld (m : Mv) (s : State) : Res := cpld s m 0x3C9 false

/-- R268: CPLD.sb. -/
def execCpyCpldSb (m : Mv) (s : State) : Res := cpld s m 0x3CA true

/-- CPST's checks (R269). -/
def cpstCheck : Check := fun _ _ o =>
  let c := o.c64
  let n := (c.extractLsb' 0 7).toNat
  if c.extractLsb' 14 50 ≠ 0 ∨ c.getLsbD 7 ∨ n < 1 ∨ n > 64 ∨ o.a64.toNat ≥ 2 ^ 56 then some .bounds
  else if o.a64.toNat % 64 + n > 64 then some .misaligned
  else none

/-- R269: CPST. -/
def execCpyCpst (m : Mv) (s : State) : Res :=
  trigger s m .cpy 0x3CB cpstCheck fun s c o =>
    let n := (o.c64.extractLsb' 0 7).toNat
    issueCmd (cpyPorts s c 0) c
      (.job (newJob s c (o.c64.extractLsb' 8 6).toNat (.cpst o.a64.toNat (leBytes n o.b.toNat)))) true

/-- DRAIN's check (R270). -/
def drainCheck : Check := fun _ _ o => if o.a64.toNat > 4 then some .bounds else none

/-- R270: DRAIN. -/
def execCpyDrain (m : Mv) (s : State) : Res :=
  trigger s m .cpy 0x3CC drainCheck fun s c o =>
    modCtx (cpyPorts s c 0) c fun x => { x with waits := x.waits ++ [.copyTo o.a64.toNat] }

/-- PAGEREQ's check (R271). -/
def pagereqCheck : Check := fun _ _ o =>
  if o.b64 &&& ~~~(0x13F#64) ≠ 0 ∨ o.a64.toNat ≥ 2 ^ 56 then some .bounds else none

/-- R271: PAGEREQ. -/
def execCpyPagereq (m : Mv) (s : State) : Res :=
  trigger s m .cpy 0x3CD pagereqCheck fun s c o =>
    issueCmd (cpyPorts s c 0) c
      (.job (newJob s c (o.b64.extractLsb' 0 6).toNat (.pagereq o.a64.toNat (o.b64.getLsbD 8)))) true

/-- JOBQ's check (R273). -/
def jobqCheck : Check := fun _ _ o => if o.a64.toNat > 2 then some .bounds else none

/-- R273: JOBQ. -/
def execCpyJobq (m : Mv) (s : State) : Res :=
  trigger s m .cpy 0x3CE jobqCheck fun s c o =>
    let d := ctxDie c
    let part := ctxPart s c
    cpyPorts s c (match o.a64.toNat with
      | 0 => BitVec.ofNat 64 (outstanding s c + 2 ^ 8 * (((cardsOf s d).filter fun k => partOf s k.region == part).length) +
               2 ^ 24 * cardShare s part d)
      | 1 => BitVec.ofNat 64 (dieOf s d).spec
      | _ => BitVec.ofNat 64 (regionOf s (budgetRegion s (ctxRegion s c) 9)).copyb)

/-- CPQRY's check (R273). -/
def cpqryCheck : Check := fun _ _ o => if o.a64.toNat < 1 ∨ o.a64.toNat > 0x3F then some .bounds else none

/-- R273: CPQRY. In a deterministic round nothing was pending at its start (R356, R327). -/
def execCpyCpqry (m : Mv) (s : State) : Res :=
  trigger s m .cpy 0x3CF cpqryCheck fun s c o =>
    let b := (ctxOf s c).regs.bits (o.a64.setWidth 12)
    cpyPorts s c (if inRound s c || !b.pend || b.land then 1 else 0)

/-- SLOTQ's check (R261). -/
def slotqCheck : Check := fun _ _ o => if o.a64.toNat ≥ 512 ∧ o.a64.toNat ≠ 512 then some .bounds else none

/-- A cell of the slot table (R259); unlisted cells are FREE. -/
def slotFree : Byte := 0x7F
def slotCell (d : Die) (slot chan : Nat) : Nat := (Sparse.get slotFree d.slots (slot * 64 + chan)).toNat
/-- The slot in force (R259). -/
def slotNow (d : Die) : Nat := d.cycle / 64 % 256

/-- R261: SLOTQ. -/
def execCpySlotq (m : Mv) (s : State) : Res :=
  trigger s m .cpy 0x3D0 slotqCheck fun s c o =>
    let d := dieOf s (ctxDie c)
    let a := o.a64.toNat
    cpyPorts s c (if a = 512 then BitVec.ofNat 64 (slotNow d)
      else
        let want := if a / 256 = 1 then slotFree.toNat else ctxPart s c
        BitVec.ofNat 64 (((List.range 64).map fun n => bit (slotCell d (a % 256) n == want) n).sum))

/-! ## Footprints and edges (R255, R256) -/

/-- A run of 64-byte units of one space. -/
structure Foot where
  space : Nat
  owner : Nat
  lo    : Int
  hi    : Int
  write : Bool
deriving DecidableEq, Repr

/-- The core of a side that is a scratchpad, SPAD or CORE (R248). -/
def Job.sideCore (j : Job) (space base : Nat) : Nat := j.spadCore (if space = 1 then j.core else base / 2 ^ 20 % 512)

/-- The owner that units of a space are compared by (R255), and the byte its local addresses start at. -/
def footOwner (j : Job) (space base : Nat) : Nat × Nat × Nat :=
  if space = 0 then (0, j.asid, base) else if space = 3 then (3, 0, base)
  else (1, j.sideCore space base, if space = 1 then base else base % 2 ^ 20)

/-- The rows of a side: start byte of each. -/
def rowStarts (k : Card) (base : Int) (rs ps : Int) : List Int :=
  (List.range k.zn).flatMap fun z => (List.range k.yn).map fun y => base + Int.ofNat z * ps + Int.ofNat y * rs

def footsOf (j : Job) : List Foot :=
  match j.kind with
  | .card ws =>
    let k := cardOf ws
    if k.kind = 6 then
      [⟨9, 0, (physKey (k.sb / 2 ^ 44) (k.sb % 2 ^ 44) / 64 : Nat), (physKey (k.sb / 2 ^ 44) (k.sb % 2 ^ 44) / 64 + 8191 : Nat), false⟩,
       ⟨9, 0, (physKey (k.db / 2 ^ 44) (k.db % 2 ^ 44) / 64 : Nat), (physKey (k.db / 2 ^ 44) (k.db % 2 ^ 44) / 64 + 8191 : Nat), true⟩]
    else
      let side := fun (space base : Nat) (rs ps : Int) (w : Bool) =>
        let (sp, ow, b) := footOwner j space base
        (rowStarts k b rs ps).map fun r => (⟨sp, ow, r / 64, (r + k.xn - 1) / 64, w⟩ : Foot)
      let span := fun (base l : Nat) (w : Bool) =>
        if l = 0 then [] else [(⟨0, j.asid, (base / 64 : Nat), ((base + l - 1) / 64 : Nat), w⟩ : Foot)]
      let src := if k.kind = 2 then span k.sb k.srs.toNat false else side k.ss k.sb k.srcRow (s32 k.sps) false
      let dst := if k.kind = 3 then span k.db k.drs.toNat true else side k.ds k.db k.dstRow (s32 k.dps) true
      let ix := if k.kind = 2 ∨ k.kind = 3 then [(⟨1, j.spadCore j.core, (k.idx : Int) / 64, ((k.idx + 4 * k.yn - 1 : Nat) : Int) / 64, false⟩ : Foot)] else []
      let mp := if k.rmap then [(⟨1, j.spadCore j.core, (k.rmb : Int) / 64, ((k.rmb + k.mapBytes - 1 : Nat) : Int) / 64, true⟩ : Foot)] else []
      src ++ dst ++ ix ++ mp
  | _ => []

def Foot.overlaps (f g : Foot) : Bool :=
  (f.write || g.write) && f.space == g.space && f.owner == g.owner && decide (f.lo ≤ g.hi) && decide (g.lo ≤ f.hi)

/-- Card `b` waits for card `a` (R256). -/
def cardEdge (a b : Job) : Bool :=
  a.region == b.region && (footsOf a).any fun f => (footsOf b).any fun g => f.overlaps g

/-- The cores whose scratchpad a card touches (R280). -/
def cardCores (j : Job) : List Nat :=
  match j.kind with
  | .card ws =>
    let k := cardOf ws
    if k.kind = 6 then [] else
    (if k.ss = 1 ∨ k.ss = 2 then [j.sideCore k.ss k.sb] else []) ++
    (if k.ds = 1 ∨ k.ds = 2 then [j.sideCore k.ds k.db] else []) ++
    (if k.rmap || k.kind == 2 || k.kind == 3 then [j.spadCore j.core] else [])
  | _ => []

/-! ## Dispatch (R258, R262) -/

/-- Channels with a cell of the partition, and channels with a FREE cell. -/
def chanOwn (d : Die) (part n : Nat) : Bool := d.slots.any fun p => p.1 % 64 == n && p.2.toNat == part
def chanFree (d : Die) (n : Nat) : Bool := decide ((d.slots.filter fun p => p.1 % 64 == n).length < 256)
def chanIdle (d : Die) (n : Nat) : Bool := !d.jobs.any fun j => j.chan == some n

/-- The channel a card goes to (R258). -/
def pickChan (d : Die) (part : Nat) : Option Nat :=
  let own := (List.range 64).filter (chanOwn d part)
  if own ≠ [] then own.find? (chanIdle d) else (List.range 64).find? fun n => chanFree d n && chanIdle d n

/-- The task of a deterministic round that issued the card has scratchpad operations before it that may take the banks: what it reads and
writes comes behind them (R327). -/
def roundBehind (s : State) (j : Job) : Bool := j.ov.any fun c => (ctxOf s c).ls.any (feProceeds s c)

/-- A queued card whose edges are satisfied and whose dispatch nothing holds up (R256, R276): one that touches a scratchpad which stands
in an image waits for its restore (R280). -/
def cardReady (s : State) (die : Nat) (j : Job) : Bool :=
  j.isCard && j.chan.isNone && (spaceOf s j.asid).advance.isNone && (cardCores j).all (fun k => decide (k < Config.cores)) &&
  !roundBehind s j && !((dieOf s die).jobs.takeWhile fun i => i.id != j.id).any fun i => i.isCard && cardEdge i j

/-- A ready card that comes before every other ready card of its partition (R258), with its channel. -/
def dispatchChan (s : State) (die : Nat) (j : Job) : Option Nat :=
  let part := partOf s j.region
  if cardReady s die j &&
     !((dieOf s die).jobs.takeWhile fun i => i.id != j.id).any fun i => partOf s i.region == part && cardReady s die i then
    pickChan (dieOf s die) part
  else none

/-- The channel of a card may move bytes in the slot in force (R259). -/
def slotOpen (s : State) (die : Nat) (j : Job) : Bool :=
  match j.chan with
  | some n =>
    let v := slotCell (dieOf s die) (slotNow (dieOf s die)) n
    v == slotFree.toNat || v == partOf s j.region
  | none => false

def modJob (s : State) (die id : Nat) (f : Job → Job) : State :=
  modDie s die fun d => { d with jobs := d.jobs.map fun j => if j.id = id then f j else j }
def dropJob (s : State) (die id : Nat) : State := modDie s die fun d => { d with jobs := d.jobs.filter fun j => j.id != id }
def jobOf (s : State) (die id : Nat) : Option Job := (dieOf s die).jobs.find? fun j => j.id == id

/-- The third check of R262: the side that is BAD_SPACE. -/
def badSpace (s : State) (j : Job) (k : Card) : Option Nat :=
  let bad := fun (base : Nat) (rs ps : Int) => show Bool from
    let e := rowExtent (base % 2 ^ 20 : Nat) k rs ps
    match (coreOf s (j.sideCore 2 base)).area with
    | some (l, n) => (match launchOf s l with | some y => y.region != j.region | none => true) || decide (e.1 < 0) || decide (e.2 > n)
    | none => true
  if k.ss = 2 ∧ bad k.sb k.srcRow (s32 k.sps) then some 0
  else if k.ds = 2 ∧ bad k.db k.dstRow (s32 k.dps) then some 1
  else none

/-- The banks a WSWRITE card writes, in order (R241). -/
def wsBanks (k : Card) : List Int :=
  (rowStarts k k.db k.dstRow (s32 k.dps)).flatMap fun r =>
    (List.range (((r + k.xn - 1) / 2 ^ 24 - r / 2 ^ 24).toNat + 1)).map fun (i : Nat) => r / 2 ^ 24 + i

/-- The core on which the code of a saved image's contexts stays installed (R72, R75): for a context that was saved alone, the core of its
launch's area, or the one at which that was saved. -/
def Saved.on (s : State) (i : Saved) : Nat :=
  if i.kind = 0 then i.core
  else if i.home < Config.cores then i.home
  else ((Tab.find s.saves (i.home - Config.cores)).map (·.core)).getD i.core

/-- The core that a context belongs to, or at which it was saved. -/
def homeCore (s : State) (c : Nat) : Nat :=
  if ctxCore c < Config.cores then ctxCore c else ((Tab.find s.saves (ctxCore c - Config.cores)).map (·.on s)).getD (ctxCore c)

/-- A launch of the owning region has a started context on the die (R242). -/
def wsBusy (s : State) (die owner : Nat) : Bool :=
  s.ctxs.any fun p => (p.2.status == .running || p.2.status == .saved) && coreDie (homeCore s p.1) == die &&
    (match p.2.launch with
     | some l => match launchOf s l with | some y => bankRegion s y.region == owner | none => false
     | none => false)

/-- The fourth check of R262: status and bank; a row that leaves the weight store lies in no bank of the region. [DEDUCED, log entry 29] -/
def wsCheck (s : State) (die : Nat) (j : Job) (k : Card) : Option (Nat × Nat) :=
  if k.kind ≠ 5 then none else
  let banks := wsBanks k
  match banks.find? fun b => decide (b < 0) || decide (b > 63) || !(banksOf s j.region die).getLsbD b.toNat with
  | some b => some (0x05, b.toNat)
  | none => if wsBusy s die (bankRegion s j.region) then some (0x04, (banks.headD 0).toNat) else none

/-- A byte of the issuing core's scratchpad as the context's released stores left it (R262). -/
def releasedByte (s : State) (j : Job) (a : Nat) : Byte :=
  (ctxOf s j.ctx).ls.foldl (fun v o => if o.addr ≤ a ∧ a < o.addr + o.writes.length then o.writes.getD (a - o.addr) 0 else v)
    (coreByte s j.ov (j.spadCore j.core) a)

def indexList (s : State) (j : Job) (k : Card) : List Nat :=
  if k.kind = 2 ∨ k.kind = 3 then
    (List.range k.yn).map fun y => leNat ((List.range 4).map fun i => releasedByte s j (k.idx + 4 * y + i))
  else []

/-- The index of row `y` lies in a bank word with an uncorrectable error (R201, R267): the card reads what stands there, and is
POISONED from the first byte of that row on, as if every byte of the row were in error. [DEDUCED, log entry 78] -/
def indexBad (s : State) (j : Job) (k : Card) (y : Nat) : Bool :=
  (k.kind == 2 || k.kind == 3) && wordBad s j.ov (j.spadCore j.core) ((k.idx + 4 * y) / 16)

/-- The fifth check of R262: the first bad index. -/
def badIndex (k : Card) (ix : List Nat) : Option Nat :=
  ix.findIdx? fun v => decide (v + k.xn > (if k.kind = 2 then k.srs.toNat else k.drs.toNat))

/-- The position of byte `n` of the stream on a side (R249, R250). -/
def streamAddr (k : Card) (ix : List Nat) (dst : Bool) (n : Nat) : Int :=
  let x := n % k.xn
  let y := n / k.xn % k.yn
  let z := n / (k.xn * k.yn)
  if dst then
    if k.kind = 3 then k.db + (ix.getD y 0 : Nat) + x else k.db + (z : Int) * s32 k.dps + (y : Int) * s32 k.drs + x
  else
    if k.kind = 2 then k.sb + (ix.getD y 0 : Nat) + x else k.sb + (z : Int) * s32 k.sps + (y : Int) * s32 k.srs + x

/-- Stream offsets at which a destination row enters a page: the row's start and every 512 KiB boundary in it. -/
def pageEntries (k : Card) (ix : List Nat) : List Nat :=
  (List.range (k.yn * k.zn)).flatMap fun r =>
    let a := streamAddr k ix true (r * k.xn)
    let first := (524288 - a % 524288).toNat
    (r * k.xn) :: ((List.range (k.xn / 524288 + 1)).map fun i => first + i * 524288).filterMap fun o =>
      if o < k.xn then some (r * k.xn + o) else none

/-- A page of the destination as a card keeps it. -/
def Writable.page : Writable → List (D64 × Nat)
  | .yes leaf sz => [(leaf, sz)]
  | .unreach _ leaf sz => [(leaf, sz)]
  | .wfault => []

/-- The sixth check of R262: the stream offset of the first byte whose page cannot be written; the pages that can are kept. -/
def wfaultScan (j : Job) (die chan : Nat) (k : Card) (ix : List Nat) : List Nat → State → Option Nat × State
  | [], s => (none, s)
  | n :: ns, s =>
    let a := streamAddr k ix true n
    if a < 0 ∨ a ≥ 2 ^ 56 then (some n, s)
    else match writable s die chan j.asid a.toNat with
    | (.wfault, s) => (some n, s)
    | (w, s) => wfaultScan j die chan k ix ns (modJob s die j.id fun j => { j with leaves := j.leaves ++ w.page.map fun p => (a.toNat, p) })

/-- Set a card's status; it writes nothing and returns what it set aside (R254, R262). -/
def failCard (s : State) (die id code info : Nat) : State :=
  match jobOf s die id with
  | none => s
  | some j =>
    let s := modRegion s (budgetRegion s j.region 9) fun r => { r with copyb := r.copyb + j.held }
    modJob s die id fun j => { j with status := code, info := info, held := 0, ended := true }

/-- Dispatch to a channel, and the checks of R262 in order. -/
def dispatchCard (s : State) (die : Nat) (j : Job) (k : Card) (chan : Nat) : State :=
  let s := modJob s die j.id fun j => { j with chan := some chan }
  let br := budgetRegion s j.region 9
  if (spaceOf s j.asid).gen ≠ j.gen then failCard s die j.id 0x02 j.gen
  else if (regionOf s br).copyb < k.cost then failCard s die j.id 0x07 0
  else
    let s := modRegion s br fun r => { r with copyb := r.copyb - k.cost }
    let s := modJob s die j.id fun j => { j with held := k.cost }
    if k.kind = 6 then modJob s die j.id fun j => { j with moving := true, held := 0 }
    else match badSpace s j k with
    | some side => failCard s die j.id 0x0C side
    | none =>
      match wsCheck s die j k with
      | some (code, bank) => failCard s die j.id code bank
      | none =>
        let ix := indexList s j k
        match badIndex k ix with
        | some y => failCard s die j.id 0x06 y
        | none =>
          let (f, s) := if k.ds = 0 then wfaultScan j die chan k ix (pageEntries k ix) s else (none, s)
          match f with
          | some n => failCard s die j.id 0x03 n
          | none => modJob s die j.id fun j => { j with moving := true, held := 0, words := ix }

/-! ## Moving the stream (R259, R265 to R267) -/

/-- A byte of a side that is a scratchpad: the core and the address. -/
def spadSide (j : Job) (space : Nat) (base a : Int) : Nat × Nat :=
  (j.sideCore space base.toNat, if space = 1 then a.toNat else (a - (base.toNat / 2 ^ 20 * 2 ^ 20 : Nat)).toNat)

/-- Read one byte of the stream as the reader `r`; one whose index is in error is itself in error. [DEDUCED, log entry 78] -/
def readStream (s : State) (r : Reader) (j : Job) (k : Card) (n : Nat) : ByteIn × State :=
  let a := streamAddr k j.words false n
  let off := indexBad s j k (n / k.xn % k.yn)
  if k.ss = 0 then
    if a < 0 ∨ a ≥ 2 ^ 56 then ({ absent := true, bad := off }, s)
    else
      let (b, s) := readMem s j.ov r (j.chan.getD 0) j.asid a.toNat
      ({ b with bad := b.bad || off }, s)
  else
    let (core, b) := spadSide j k.ss k.sb a
    ({ val := coreByte s j.ov core b, bad := wordBad s j.ov core (b / 16) || off }, s)

/-- How many stream bytes from `n` on lie one behind the other in one 64-byte unit of the destination (R266). [DEDUCED, log entry 28] -/
def runLength (k : Card) (ix : List Nat) (n : Nat) : Nat :=
  let a := streamAddr k ix true n
  ((List.range 64).takeWhile fun i => decide (n + i < k.len) && streamAddr k ix true (n + i) == a + i &&
    (a + i) / 64 == a / 64).length

def readRun (r : Reader) (j : Job) (k : Card) : List Nat → State → List (Nat × ByteIn) × State
  | [], s => ([], s)
  | n :: ns, s =>
    let (b, s) := readStream s r j k n
    let (bs, s) := readRun r j k ns s
    ((n, b) :: bs, s)

/-- The bytes of the stream that are not read yet, as runs from an offset on: start and end. -/
def gaps : Nat → List (Nat × Nat) → Nat → List (Nat × Nat)
  | a, [], e => if a < e then [(a, e)] else []
  | a, r :: rs, e => (if a < r.1 then [(a, r.1)] else []) ++ gaps (max a (r.1 + r.2)) rs e

def unread (j : Job) (k : Card) : List (Nat × Nat) := gaps j.read j.early k.len

/-- The runs read early that now follow without a gap are counted with the others. -/
def absorb : Nat → List (Nat × Nat) → Nat × List (Nat × Nat)
  | a, [] => (a, [])
  | a, r :: rs => if r.1 ≤ a then absorb (max a (r.1 + r.2)) rs else (a, r :: rs)

/-- The `m` stream bytes from `n` on have been read. -/
def Job.markRead (j : Job) (n m : Nat) : Job :=
  let p := absorb j.read (j.early.takeWhile (fun r => decide (r.1 < n)) ++ (n, m) :: j.early.dropWhile fun r => decide (r.1 < n))
  { j with read := p.1, early := p.2 }

/-- The bytes that a card reads next, `skip` bytes behind the first that it has not read: a run, or `cut` bytes of it where that is not 0:
a card may read its stream in any order and in any pieces (R317). -/
def nextRun (j : Job) (k : Card) (skip cut : Nat) : Option (Nat × Nat) :=
  let n := j.read + skip
  (unread j k).findSome? fun g =>
    let m := min (max 1 (runLength k j.words n)) (g.2 - n)
    if g.1 ≤ n ∧ n < g.2 then some (n, if cut = 0 then m else min cut m) else none

/-- The value of a stream byte: of one whose source node cannot be reached, which is written where its destination can (R263), the spec
states none. Free value, log entry 64. [DESIGN CHOICE, log entry 64] -/
def byteValue (n : Nat) (b : ByteIn) : Byte := if b.unreach.isSome then (Config.freeVal n).extractLsb' 0 8 else b.val

/-- A run of the stream is read. [DESIGN CHOICE, log entry 27] -/
def readPiece (s : State) (die : Nat) (j : Job) (k : Card) (n m : Nat) : State :=
  let (f, s) := nextFree s
  let (bs, s) := readRun { j.reader die with pick := some (Config.freeChoice f) } j k (natsFrom n m) s
  modJob s die j.id fun j =>
    { j.markRead n m with
      buf := j.buf ++ [{ pos := n, bytes := bs.map fun p => byteValue f p.2, bad := bs.any fun p => p.2.bad }]
      absent := bs.foldl (fun l p => if p.2.absent then NatSet.insert l (p.1 / 1024) else l) j.absent
      poison := match j.poison, bs.find? (fun p => p.2.bad) with | some a, some p => some (min a p.1) | none, some p => some p.1 | a, none => a
      unreach := match j.unreach, bs.findSome? (fun p => p.2.unreach) with | some a, _ => some a | none, u => u }

/-- The status of a card that moved its stream (R262). -/
def finalStatus (j : Job) : Nat × Nat :=
  match j.unreach, j.poison with
  | some n, _ => (0x0B, n)
  | none, some p => (0x08, p)
  | none, none => if j.absent = [] then (0, 0) else (0x01, j.absent.length)

/-- Every byte has performed. -/
def settleJob (s : State) (die id : Nat) (len : Nat) : State :=
  modJob s die id fun j =>
    if j.moving && !j.ended && decide (len ≤ j.read) && j.buf == [] then
      { j with ended := true, status := (finalStatus j).1, info := (finalStatus j).2 }
    else j

/-- Poison a destination unit that a poisoned source feeds (R267), in a space other than MEM. -/
def poisonUnit (s : State) (j : Job) (die : Nat) (k : Card) (a : Int) : State :=
  if k.ds = 3 then modDie s die fun d => { d with wsBad := NatSet.insert d.wsBad (a.toNat / 64) }
  else
    let (core, b) := spadSide j k.ds k.db a
    let words := natsFrom (b / 64 * 4) 4
    match j.ov with
    | some c => modCtx s c fun x => { x with ov := { x.ov with bad := words.map (fun w => (2, core * 2 ^ 16 + w)) ++ x.ov.bad } }
    | none => modCore s core fun x => { x with poison := words.foldl NatSet.insert x.poison }

/-- What a card writes of the 64-byte unit `u` of its destination: by rows, the stream offset, the byte of the unit, the bytes. -/
def unitParts (k : Card) (ix : List Nat) (u : Int) : List (Nat × Nat × Nat) :=
  (List.range (k.yn * k.zn)).filterMap fun r =>
    let a := streamAddr k ix true (r * k.xn)
    let lo := max a (64 * u)
    let hi := min (a + k.xn) (64 * u + 64)
    if lo < hi then some (r * k.xn + (lo - a).toNat, (lo - 64 * u).toNat, (hi - lo).toNat) else none

/-- The card writes every byte of the unit that the parts make (R266). -/
def wholeUnit (parts : List (Nat × Nat × Nat)) : Bool :=
  (List.range 64).all fun i => parts.any fun p => decide (p.2.1 ≤ i) && decide (i < p.2.1 + p.2.2)

/-- The unit of its destination in which a piece lies. -/
def pieceUnit (j : Job) (k : Card) (p : Piece) : Int := streamAddr k j.words true p.pos / 64

/-- The pieces that are written in one step with piece `p`: in a unit that the card writes whole every piece of the unit, once all
are read; else the piece alone (R266). None while the card must read on. -/
def stepPieces (j : Job) (k : Card) (p : Piece) : Option (List Piece) :=
  let u := pieceUnit j k p
  let parts := unitParts k j.words u
  if !wholeUnit parts then some [p]
  else if parts.any fun q => (unread j k).any fun g => decide (g.1 < q.1 + q.2.2) && decide (q.1 < g.2) then none
  else some (j.buf.filter fun q => pieceUnit j k q == u)

/-- Pieces of one unit as runs: address, bytes, whether one is in error; all 64 bytes of the unit as one run, in which a piece that was
read later stands over an earlier one, where rows of the card overlap at their destination. [DESIGN CHOICE, log entry 68] -/
def runsOf (j : Job) (k : Card) (ps : List Piece) : List (Int × List Byte × Bool) :=
  let runs := ps.map fun p => (streamAddr k j.words true p.pos, p.bytes, p.bad)
  let at_ : Int → Option Byte := fun a => runs.reverse.findSome? fun r => if r.1 ≤ a ∧ a < r.1 + r.2.1.length then r.2.1[(a - r.1).toNat]? else none
  let u : Int := match ps with | p :: _ => pieceUnit j k p | [] => 0
  let all := (List.range 64).filterMap fun (i : Nat) => at_ (64 * u + i)
  if 1 < runs.length ∧ all.length = 64 then [(64 * u, all, runs.any (·.2.2))] else runs

/-- The destination bytes, as start and length, that a card has still to write beside the pieces `ps`: the other pieces it has read,
and the rest of its rows. [DEDUCED, log entry 55] -/
def stillOwed (j : Job) (k : Card) (ps : List Piece) : List (Int × Nat) :=
  let first := j.read / k.xn
  (j.buf.filter fun q => !ps.any fun p => p.pos == q.pos).map (fun q => (streamAddr k j.words true q.pos, q.bytes.length)) ++
    (natsFrom first (k.yn * k.zn - first)).flatMap fun r => (unread j k).filterMap fun g =>
      let lo := max (r * k.xn) g.1
      let hi := min ((r + 1) * k.xn) g.2
      if lo < hi then some (streamAddr k j.words true lo, hi - lo) else none

/-- The words of a core's scratchpad that a run of `n` bytes at stream-side address `a`, byte `b` of the core, completes: the card
writes no byte of them later (R207). [DEDUCED, log entry 55] -/
def doneWords (j : Job) (k : Card) (ps : List Piece) (a : Int) (b n : Nat) : List Nat :=
  let off : Int := a - b
  let rest := stillOwed j k ps
  (tagWords b n).filter fun w => !rest.any fun o => decide (o.1 < off + 4 * w + 4) && decide (off + 4 * w < o.1 + o.2)

/-- A card's bytes at a core's scratchpad, with their tags (R207), or in its round's overlay (R360). -/
def writeSpad (s : State) (j : Job) (k : Card) (ps : List Piece) (a : Int) (bs : List Byte) : State :=
  let (core, b) := spadSide j k.ds k.db a
  let words := if k.tagf then doneWords j k ps a b bs.length else []
  match j.ov with
  | some c =>
    modCtx (ovWrite s c 2 (core * 2 ^ 20 + b) bs) c fun x => { x with ov := { x.ov with tags := words.map (fun w => (core * 2 ^ 18 + w, true)) ++ x.ov.tags } }
  | none => words.foldl (fun s w => setTags s core (4 * w) 4 true) (spadWrite s core b bs)

/-- The page of an address as the card found it at its dispatch: the channel goes on using that translation where the tables no longer
let the page be written (R276). [DESIGN CHOICE, log entry 30] -/
def keptPage (s : State) (j : Job) (va : Nat) : Writable :=
  match j.leaves.find? fun p => p.1 / 2 ^ p.2.2 == va / 2 ^ p.2.2 with
  | some p => leafWritable s p.2.1 p.2.2
  | none => .wfault

/-- The page that a card writes by. -/
def cardPage (s : State) (die : Nat) (j : Job) (va : Nat) : Writable × State :=
  match writable s die (j.chan.getD 0) j.asid va with
  | (.wfault, s) => (keptPage s j va, s)
  | r => r

/-- A run of a card's bytes within one 64-byte unit is written at the destination (R207, R265, R266); `bad`: the unit is written
poisoned (R267). [DEDUCED, log entry 28] -/
def writeRun (s : State) (die : Nat) (j : Job) (k : Card) (ps : List Piece) (a : Int) (bs : List Byte) (bad : Bool) : State :=
  let done := fun (s : State) => modJob s die j.id fun j =>
    { j with owed := if k.bar then j.owed + bs.length else j.owed
             marked := if bad then NatSet.insert j.marked (a.toNat / 64) else j.marked }
  if k.ds = 0 then
    match cardPage s die j a.toNat with
    | (.unreach node _ _, s) => modJob s die j.id fun j => { j with unreach := if j.unreach.isSome then j.unreach else some node }
    | (.wfault, s) => s
    | (.yes leaf sz, s) =>
      let s := copyStore s die j leaf sz a.toNat bs
      done (if bad then poisonMem s j.ov leaf sz a.toNat else s)
  else
    let s := if k.ds = 3 then modDie s die fun d => { d with
          ws := Memory.writeBytes d.ws a.toNat bs
          wsBad := if a.toNat % 64 = 0 ∧ bs.length = 64 then NatSet.erase d.wsBad (a.toNat / 64) else d.wsBad }
      else writeSpad s j k ps a bs
    done (if bad then poisonUnit s j die k a else s)

/-- Pieces of one unit are written; a unit that the card has written poisoned before stays so (R267). -/
def writePieces (s : State) (die : Nat) (j : Job) (k : Card) (ps : List Piece) : State :=
  (runsOf j k ps).foldl (fun s r => writeRun s die j k ps r.1 r.2.1 (r.2.2 || NatSet.mem j.marked (r.1.toNat / 64))) s

/-- R275: speculative walks for a card that a channel holds: how many of them meet an invalid or non-resident entry, and which page
one of them caches, is free; no A bit is set. -/
def speculate (s : State) (die chan asid : Nat) : State :=
  let (n, s) := nextFree s
  let (m, s) := nextFree s
  let va := Config.freeChoice m % 2 ^ 56
  let (t, s) := walkVa s asid va
  modDie s die fun d => { d with
    spec := d.spec + Config.freeChoice n
    tlb := match t with
      | .page l at_ sz => cacheEntry d.tlb ⟨chan, asid, (spaceOf s asid).gen, sz, va / 2 ^ sz, l, at_⟩
      | _ => d.tlb }

/-- A card event of one kind: dispatch, or a run of the stream, the first that is not read or one c bytes behind it, of which d bytes where
that is not 0 (R258, R262, R317). -/
def cardEvent (s : State) (kind : Nat) : Res :=
  let die := s.args.a
  match jobOf s die s.args.b with
  | none => .next s
  | some j =>
    match j.kind with
    | .card ws =>
      let k := cardOf ws
      if k.kind ≠ kind then .next s
      else match j.chan with
      | none => match dispatchChan s die j with
        | some n => .next (speculate (settleJob (dispatchCard s die j k n) die j.id k.len) die n j.asid)
        | none => .next s
      | some n => match nextRun j k s.args.c s.args.d with
        | some r => if j.moving && !j.ended && slotOpen s die j then
            .next (speculate (settleJob (readPiece s die j k r.1 r.2) die j.id k.len) die n j.asid) else .next s
        | none => .next s
    | _ => .next s

/-- R250, R262: a LINEAR card. Arguments: a die, b job. -/
def execCardLinear (s : State) : Res := cardEvent s 0

/-- R250, R262: a STRIDED card. Arguments: a die, b job. -/
def execCardStrided (s : State) : Res := cardEvent s 1

/-- R250, R262: a GATHER card. Arguments: a die, b job. -/
def execCardGather (s : State) : Res := cardEvent s 2

/-- R250, R262: a SCATTER card. Arguments: a die, b job. -/
def execCardScatter (s : State) : Res := cardEvent s 3

/-- R250, R262: a TILE card. Arguments: a die, b job. -/
def execCardTile (s : State) : Res := cardEvent s 4

/-- R242, R250, R262: a WSWRITE card. Arguments: a die, b job. -/
def execCardWswrite (s : State) : Res := cardEvent s 5

/-- R207, R266: a run of a card's bytes arrives, with the rest of its unit where the card writes the unit whole. Arguments: a die,
b job, c which of the runs that were read. [DESIGN CHOICE, log entry 27] -/
def execCardBytesArrive (s : State) : Res :=
  let die := s.args.a
  match jobOf s die s.args.b with
  | none => .next s
  | some j =>
    match j.kind, j.buf[s.args.c]? with
    | .card ws, some p =>
      if !slotOpen s die j then .next s
      else
        let k := cardOf ws
        match stepPieces j k p with
        | none => .next s
        | some ps =>
          let s := writePieces s die j k ps
          .next (settleJob (modJob s die j.id fun j => { j with buf := j.buf.filter fun q => !ps.any fun p => p.pos == q.pos }) die j.id k.len)
    | _, _ => .next s

/-- R265: the bytes that have performed, at domain scope, are counted down at the barrier. Arguments: a die, b job. -/
def execBarDecrement (s : State) : Res :=
  let die := s.args.a
  match jobOf s die s.args.b with
  | none => .next s
  | some j =>
    match j.kind with
    | .card ws =>
      if j.owed = 0 then .next s
      else
        let a := (cardOf ws).bsem
        let s := modJob (performDomain s j.id) die j.id fun j => { j with owed := 0 }
        match j.ov with
        | some c =>
          let op : SemOp := { id := 0, ctx := c, die := die, region := j.region, kind := .bdec, addr := a, b := BitVec.ofNat 64 j.owed, c := 0 }
          .next (modCtx s c fun x => { x with ov := { x.ov with sems := x.ov.sems ++ [op] } })
        | none => .next (barrierDec s j.region a j.owed)
    | _ => .next s

/-- The status word of R263. -/
def tokenWord (code info : Nat) : Val := BitVec.ofNat 4096 (info % 2 ^ 32 * 2 ^ 32 + 256 + code)

/-- An engine brings the value of an asynchronous write. -/
def asyncValue (s : State) (c : Nat) (id : Option Nat) (v : Val) : State :=
  match id with
  | none => s
  | some i => modCtx s c fun x => { x with async := x.async.map fun w => if w.id = i then { w with value := some v } else w }

/-- The bitmap of R264 as bytes. -/
def bitmapBytes (k : Card) (absent : List Nat) : List Byte :=
  leBytes k.mapBytes ((absent.map fun i => 2 ^ i).sum)

/-- R263, R264, R270: a card completes: its bytes have performed at domain scope, then bitmap, token, channel. With c above 0, only
its write of that number performs at the next wider scope. Arguments: a die, b job, c. -/
def execCardComplete (s : State) : Res :=
  let die := s.args.a
  match jobOf s die s.args.b with
  | none => .next s
  | some j =>
    match j.kind with
    | .card ws =>
      if s.args.c ≠ 0 then .next (widenLag s j.id s.args.c)
      else if !j.ended || j.owed != 0 then .next s
      else
        let k := cardOf ws
        let s := performWide s j.id
        let s := if k.rmap && j.moving then
            let bs := bitmapBytes k j.absent
            let own := j.spadCore j.core
            match j.ov with
            | some c =>
              let s := ovWrite s c 2 (own * 2 ^ 20 + k.rmb) bs
              if k.tagf then modCtx s c fun x => { x with ov := { x.ov with
                tags := (tagWords k.rmb bs.length).map (fun w => (own * 2 ^ 18 + w, true)) ++ x.ov.tags } } else s
            | none =>
              let s := spadWrite s own k.rmb bs
              if k.tagf then setTags s own k.rmb bs.length true else s
          else s
        .next (dropJob (asyncValue s j.ctx j.async (tokenWord j.status j.info)) die j.id)
    | _ => .next s

/-! ## Migration (R272) -/

def frameKey (v : Nat) : Nat := physKey (v / 2 ^ 44) (v % 2 ^ 44)

/-- R272: MIGRATE with XN 0 arms a record at the new frame. Arguments: a die, b job. -/
def execMigrateArm (s : State) : Res :=
  let die := s.args.a
  match jobOf s die s.args.b with
  | none => .next s
  | some j =>
    match j.kind with
    | .card ws =>
      let k := cardOf ws
      if k.kind ≠ 6 ∨ k.xn ≠ 0 then .next s
      else match dispatchChan s die j with
      | none => .next s
      | some n =>
        let s := dispatchCard s die j k n
        match jobOf s die j.id with
        | some j' =>
          if !j'.moving then .next s
          else
            let rec' : Migration := { new := frameKey k.db, old := frameKey k.sb, absent := List.range 512, asid := j.asid }
            .next (modJob { s with migs := (s.migs.filter fun m => m.new != rec'.new) ++ [rec'] } die j.id fun j => { j with ended := true })
        | none => .next s
    | _ => .next s

/-- R272: MIGRATE with XN 1 waits until the record is gone. Arguments: a die, b job. -/
def execMigrateWait (s : State) : Res :=
  let die := s.args.a
  match jobOf s die s.args.b with
  | none => .next s
  | some j =>
    match j.kind with
    | .card ws =>
      let k := cardOf ws
      if k.kind ≠ 6 ∨ k.xn ≠ 1 then .next s
      else match j.chan with
      | none => match dispatchChan s die j with
        | some n => .next (dispatchCard s die j k n)
        | none => .next s
      | some _ => if j.moving && !j.ended && !s.migs.any (fun m => m.new == frameKey k.db) then
          .next (modJob s die j.id fun j => { j with ended := true }) else .next s
    | _ => .next s

/-- R272: a line is pulled in the background, behind the line that it is pulled from where that one is absent itself. Arguments: a key of
the new frame, b line. -/
def execMigrateLinePull (s : State) : Res :=
  match s.migs.find? fun m => m.new == s.args.a && m.active && m.absent.contains s.args.b with
  | some m => .next (pullLine (touchKey s (m.old + 1024 * s.args.b)) m s.args.b)
  | none => .next s

/-! ## Small transfers and paging (R268, R269, R271) -/

/-- An earlier small transfer of the context to the same 64-byte unit has not performed (R268). -/
def smallBehind (s : State) (j : Job) (va : Nat) : Bool :=
  (copyWork s j.ctx).any fun i => decide (i.id < j.id) && !i.ended &&
    (match i.kind with
     | .cpld v _ _ _ _ => v / 64 == va / 64
     | .cpst v _ => v / 64 == va / 64
     | _ => false)

/-- The channel of a core's copy port: its translations use the die TLB. -/
def portChan : Nat := 64

/-- R269, R270: a CPST performs at its home; where not every agent sees it yet, its token comes once they do (R263), and with c above 0
it performs at the next wider scope. Arguments: a die, b job, c. -/
def execCpstComplete (s : State) : Res :=
  let die := s.args.a
  match jobOf s die s.args.b with
  | none => .next s
  | some j =>
    match j.kind with
    | .cpst va data =>
      let finish : State → Nat → Nat → State := fun s code info => dropJob (asyncValue s j.ctx j.async (tokenWord code info)) die j.id
      if j.ended then .next (if s.args.c ≠ 0 then widenLag s j.id s.args.c else finish (performWide s j.id) 0 0)
      else if smallBehind s j va then .next s
      else if (spaceOf s j.asid).gen ≠ j.gen then .next (finish s 0x02 j.gen)
      else match writable s die portChan j.asid va with
      | (.wfault, s) => .next (finish s 0x03 0)
      | (.unreach n _ _, s) => .next (finish s 0x0B n)
      | (.yes leaf sz, s) =>
        let s := copyStore s die j leaf sz va data
        if s.lags.any fun l => l.job == j.id then .next (modJob s die j.id fun j => { j with ended := true })
        else .next (finish s 0 0)
    | _ => .next s

/-- A CPLD takes its value at the home in one instant (R268). [DESIGN CHOICE, log entry 27] -/
def performCpld (s : State) (die : Nat) (j : Job) (va n : Nat) : State :=
  let stale := (spaceOf s j.asid).gen ≠ j.gen
  let (f, s) := nextFree s
  let r : Reader := { j.reader die with pick := some (Config.freeChoice f), once := true }
  let (bs, s) := if stale then (List.replicate n { absent := true }, s) else readUnit s j.ov r portChan j.asid va n
  let miss := bs.map fun b => b.absent || b.unreach.isSome
  let v := BitVec.ofNat 4096 (leNat (bs.map fun b => if b.absent || b.unreach.isSome then 0 else b.val))
  let mask := BitVec.ofNat 4096 ((miss.zipIdx.map fun p => bit p.1 p.2).sum)
  let s := asyncValue (asyncValue s j.ctx j.async v) j.ctx j.async2 mask
  let s := if bs.any (fun b => b.bad && !b.absent) then
      let mark : AsyncW → AsyncW := fun w => if j.async == some w.id then { w with fault := some { code := .softError, arg := 2 } } else w
      modCtx s j.ctx fun x => { x with async := x.async.map mark }
    else s
  dropJob s die j.id

/-- A write lands in its register (R84, R91, R395). -/
def landOne (x : Ctx) (w : AsyncW) (v : Val) : Ctx :=
  let dwp := x.sys.dwp
  let x := if w.handler || x.aside.isNone then { x with regs := x.regs.asyncWrite dwp (!w.sb) w.dst v }
    else { x with aside := x.aside.map fun a => { a with regs := a.regs.asyncWrite dwp (!w.sb) w.dst v } }
  let l : Landing := ⟨w.dst, v, !w.sb⟩
  { x with async := x.async.filter fun y => y.id != w.id
           landed := if x.shadow.isSome && !w.postCk && !w.handler then x.landed ++ [l] else x.landed
           late := match w.fault with | some t => x.late ++ [t] | none => x.late }

/-- R84, R90, R91: an asynchronous write lands, with the mask of its CPLD; a CPLD first takes its value at its home (R268).
Arguments: a context, b the write. -/
def execAsyncLanding (s : State) : Res :=
  let c := s.args.a
  let job := (s.dies.flatMap fun d => d.2.jobs.map fun j => (d.1, j)).find? fun p => p.2.ctx == c && p.2.async == some s.args.b &&
    (match p.2.kind with | .cpld _ _ _ _ _ => true | _ => false)
  match job with
  | some (die, j) =>
    match j.kind with
    | .cpld va n _ _ _ => if smallBehind s j va then .next s else .next (performCpld s die j va n)
    | _ => .next s
  | none =>
    match (ctxOf s c).async.find? fun w => w.id == s.args.b && w.twin.isNone with
    | none => .next s
    | some w =>
      match w.value with
      | none => .next s
      | some v => .next (modCtx s c fun x =>
          let x := landOne x w v
          match x.async.find? fun y => y.twin == some w.id with
          | some y => landOne x y (y.value.getD 0)
          | none => x)

/-- Rewrite the leaf of a page: resident, writable if asked, at the frame the pager gives it (R271). [DESIGN CHOICE, log entry 45] -/
def pageIn (s : State) (leaf : D64) (at_ size : Nat) (write : Bool) (frame : Nat) : State :=
  let l := leaf ||| BitVec.ofNat 64 (2 ^ 61) ||| (if write then BitVec.ofNat 64 (2 ^ 60) else 0)
  let l := if frame ≠ 0 ∧ frame % 2 ^ size = 0 ∧ backedAt s (pteNode leaf) frame (2 ^ size) then
      l.extractLsb' 44 20 ++ BitVec.ofNat 32 (frame / 4096) ++ l.extractLsb' 0 12 else l
  memWrite s (physKey s.node at_) (leBytes 8 l.toNat)

/-- The pager may give this answer for a leaf: 0 to page in, else a reason of R271 that holds. [DESIGN CHOICE, log entry 45] -/
def pagerMay (s : State) (leaf : D64) (resident write : Bool) (reason : Nat) : Bool :=
  let cut := NatSet.mem s.unreach (pteNode leaf)
  match reason with
  | 0 => !cut
  | 1 => !resident
  | 2 => write
  | 3 => cut
  | 4 => true
  | _ => false

/-- R271: a request is answered: without the pager where the page is as asked, else by the pager, whose services may pause (R421).
Arguments: a die, b job, c reason code of a refusal or 0, d frame or 0. [DESIGN CHOICE, log entry 45] -/
def execPagerDecision (s : State) : Res :=
  let die := s.args.a
  match jobOf s die s.args.b with
  | none => .next s
  | some j =>
    match j.kind with
    | .pagereq va write =>
      let done : State → Nat → Nat → Res := fun s code info => Host.Outcome.next (dropJob (asyncValue s j.ctx j.async (tokenWord code info)) die j.id)
      match walkVa s j.asid va with
      | (.invalid, s) => if s.fw.paused then .next s else done s 0x09 0
      | (.page leaf at_ sz, s) =>
        if leaf.getLsbD 60 || !write then done s 0 0
        else if s.fw.paused || !pagerMay s leaf true write s.args.c then .next s
        else if s.args.c = 0 then done (pageIn s leaf at_ sz write 0) 0 0
        else done s 0x0A s.args.c
      | (.absent leaf at_ sz, s) =>
        if s.fw.paused || !pagerMay s leaf false write s.args.c then .next s
        else if s.args.c = 0 then done (pageIn s leaf at_ sz write s.args.d) 0 0 else done s 0x0A s.args.c
    | _ => .next s

/-! ## The die's calendar (R244, R259) -/

/-- The die's cycle count moves on; a new slot table comes into force at the next slot 0 (R259). -/
def dieTo (d : Die) (t : Nat) : Die :=
  if t / 16384 > d.cycle / 16384 then
    { d with cycle := t, slots := d.newSlots.getD d.slots, newSlots := none }
  else { d with cycle := t }

/-- R259: the next slot of the slot table. Arguments: a die. [DESIGN CHOICE, log entry 15] -/
def execSlotAdvance (s : State) : Res := .next (modDie s s.args.a fun d => dieTo d ((d.cycle / 64 + 1) * 64))

/-- R244: the weight-store calendar's next slot. Arguments: a die. -/
def execWsRefresh (s : State) : Res := .next (modDie s s.args.a fun d => dieTo d ((d.cycle / 512 + 1) * 512))

end Sys2Proof.Machine
end

