-- ==== Sys2Proof/Machine/Code.lean ====
section
/-! DEFINITION. The code store of a core: what the index word at a position names (R62 to R64), the frames of overlay
segments and their loads (R66 to R71), and the end of the fetch of a literal bundle (R65). -/

namespace Sys2Proof.Machine

/-! ## Kernels of a core -/

def modKernel (s : State) (core : Nat) (launch kslot : Nat) (f : Kernel → Kernel) : State :=
  modCore s core fun k => { k with kernels := k.kernels.map fun y => if y.launch = launch ∧ y.kslot = kslot then f y else y }

/-- The contexts that run a kernel on its core and have not halted, those saved there among them (R68). -/
def kernelCtxs (s : State) (core : Nat) (k : Kernel) : List Nat :=
  (natsFrom (core * 4) 4 ++ (s.saves.filter fun p => p.2.on s == core).flatMap fun p => natsFrom ((Config.cores + p.1) * 4) 4).filter fun c =>
    let x := ctxOf s c
    x.launch == some k.launch && x.kslot == k.kslot && (x.status == .running || x.status == .saved)

def segOf (k : Kernel) (pos : Nat) : Option Nat := k.segs.findIdx? fun g => decide (g.start ≤ pos) && decide (pos < g.start + g.len)

/-- The frame that holds a segment. -/
def frameOf (k : Kernel) (seg : Nat) : Option Nat := k.frames.findIdx? fun f => f.seg == some seg

def loadingSeg (k : Kernel) : Option Nat := k.frames.findSome? fun f => f.loading

/-- A frame is pinned while its segment holds the position of a context that has not halted (R68). -/
def pinned (s : State) (core : Nat) (k : Kernel) (f : IdxFrame) : Bool :=
  match f.seg with
  | none => false
  | some g => (kernelCtxs s core k).any fun c => segOf k (ctxOf s c).pc == some g

/-- The frame that a load takes (R69). [DEDUCED, log entry 46] -/
def chooseFrame (s : State) (core : Nat) (k : Kernel) : Option Nat :=
  let free := (k.frames.zipIdx.filter fun p => !pinned s core k p.1 && p.1.loading.isNone)
  match free with
  | [] => none
  | [p] => some p.2
  | p :: q :: _ => if q.1.used < p.1.used then some q.2 else some p.2

/-- The address space of a kernel's launch. -/
def kernelAsid (s : State) (k : Kernel) : Nat := asidOf s (match launchOf s k.launch with | some y => y.region | none => 0xFFFF)

/-- Start a load of a segment where no other load of the kernel is in progress and a frame is unpinned (R69); it carries the
generation current now (R71, R276). -/
def startLoad (s : State) (core : Nat) (k : Kernel) (seg : Nat) : State :=
  if (loadingSeg k).isSome then s
  else match chooseFrame s core k with
  | none => s
  | some i => modKernel s core k.launch k.kslot fun y =>
      { y with frames := y.frames.modify i fun f => {
        f with seg := none, words := [], loading := some seg, used := 0, gen := (spaceOf s (kernelAsid s k)).gen } }

/-- Serve the oldest demand that is not resident (R69, R70). -/
def serveDemand (s : State) (core : Nat) (k : Kernel) : State :=
  match k.demand.find? fun d => (frameOf k d.2).isNone with
  | some d => startLoad s core k d.2
  | none => s

def serveDemands (s : State) (core : Nat) : State := (coreOf s core).kernels.foldl (fun s k => serveDemand s core k) s

/-- A context demands a segment (R70). -/
def demandSeg (s : State) (c seg : Nat) : State :=
  match kernelOf s c with
  | none => s
  | some k =>
    let core := ctxCore c
    let s := modKernel s core k.launch k.kslot fun y =>
      { y with demand := if y.demand.contains (c, seg) then y.demand else (y.demand.filter fun d => d.1 != c) ++ [(c, seg)] }
    serveDemands s core

/-! ## What an index word names (R62 to R64) -/

/-- The words of a literal bundle after an escape word among the words from the segment's start (R64): `skip` body words
are still to pass. -/
def bodyAt : Nat → Nat → List Idx → Bool
  | _, _, [] => false
  | 0, skip, _ :: _ => skip != 0
  | n + 1, skip, w :: ws => bodyAt n (if skip ≠ 0 then skip - 1 else if w = 0xFFFF then 24 else 0) ws

/-- A bundle with its IDLE field increased (R387). -/
def moreIdle (n : Nat) : List Word → List Word
  | [] => []
  | h :: ws => (BitVec.ofNat 4 ((hdrIdle h).toNat + n) ++ h.extractLsb' 0 28) :: ws

/-- What a context finds at its position. -/
inductive Fetch where
  | dict (ws : List Word)
  | literal (ws : List Word)
  | trap (t : TrapInfo)
  | demand (seg : Nat)
deriving DecidableEq, Repr

def illegalIndex : Fetch := .trap { code := .illegalIndex }

/-- The dictionary entry of that number (R61). -/
def dictEntry (k : Kernel) (n : Nat) : Fetch :=
  match (k.dict[n]?).getD none with
  | some ws => .dict ws
  | none => illegalIndex

/-- An allowance rounded up to whole chunks (R59). -/
def chunkUp (n : Nat) : Nat := (n + 63) / 64 * 64

def residualAt (k : Kernel) (pos : Nat) : Option Residual :=
  k.resids.find? fun r => decide (r.base ≤ pos) && decide (pos < r.base + r.words.length)

/-- The residual entries of a kernel, numbered from A64 (R73). -/
def residEntries (k : Kernel) : List (List Word) := k.resids.flatMap fun r => r.entries

/-- R62 to R64, R70, R71 at a position. -/
def fetchAt (k : Kernel) (c pos : Nat) : Fetch :=
  match residualAt k pos with
  | some r =>
    let w := ((r.words[pos - r.base]?).getD 0xFFFE).toNat
    if w < k.allow then dictEntry k w
    else if w < chunkUp k.allow then illegalIndex
    else match (residEntries k)[w - chunkUp k.allow]? with
      | some ws => .dict ws
      | none => illegalIndex
  | none =>
    match segOf k pos with
    | none => .trap { code := .segmentFault }
    | some g =>
      if k.faulted.contains c then .trap { code := .segmentFault, arg := 1 }
      else match frameOf k g with
      | none => .demand g
      | some i =>
        let words := (k.frames[i]?.getD {}).words
        let off := pos - ((k.segs[g]?).getD ⟨0, 0, 0⟩).start
        if bodyAt off 0 words then illegalIndex
        else
          let w := ((words[off]?).getD 0xFFFE).toNat
          if w < k.allow then dictEntry k w
          else if w = 0xFFFF then
            if words.length < off + 25 then illegalIndex
            else .literal (moreIdle (Tab.get 0 k.lit pos) (wordsOfIdx ((words.drop (off + 1)).take 24)))
          else illegalIndex

/-- The length of a bundle in index words (R63). -/
def Fetch.length : Fetch → Nat
  | .literal _ => 25
  | _ => 1

/-- Mark the frame of a position as issued from (R69). -/
def touchFrame (s : State) (c pos : Nat) : State :=
  match kernelOf s c with
  | none => s
  | some k =>
    match (residualAt k pos), (segOf k pos).bind (frameOf k) with
    | none, some i =>
      let now := (k.frames.map fun f => f.used).foldl max 0 + 1
      modKernel s (ctxCore c) k.launch k.kslot fun y => { y with frames := y.frames.modify i fun f => { f with used := now } }
    | _, _ => s

/-! ## Meanings -/

/-- R70: the SEG mark of the bundle being carried out. -/
def execSeg (_h : Hd) (_p : BitVec 4) (s : State) : Res :=
  match current s with
  | none => .next s
  | some (c, _, f) =>
    match kernelOf s c with
    | none => .next s
    | some k =>
      match (residualAt k f.pos), segOf k f.pos with
      | none, some g =>
        if decide (k.segs.length ≤ g + 1) || (frameOf k (g + 1)).isSome then .next s
        else .next (startLoad s (ctxCore c) k (g + 1))
      | _, _ => .next s

/-- R65: the fetch of the body words of the context's literal bundle ends. Arguments: a context. [DEDUCED, log entry 46] -/
def execLiteralBundleFetch (s : State) : Res :=
  let c := s.args.a
  match kernelOf s c with
  | none => .next s
  | some k =>
    match fetchAt k c (ctxOf s c).pc with
    | .literal _ => .next (modCtx s c fun x => { x with fetched := true })
    | _ => .next s

/-- The index words of a run of bytes, little-endian (R6). -/
def idxOfBytes : List Byte → List Idx
  | a :: b :: rest => (b ++ a) :: idxOfBytes rest
  | _ => []

/-- Read bytes of MEM on a core's code path: the translations use the die TLB; none where a page is absent, its node cannot
be reached, or a unit is uncorrectable (R67, R71). -/
def codeRead (s : State) (die asid va n : Nat) : Option (List Byte) × State :=
  let (bs, s) := readMems s none { die := die } portChan asid va n
  (if bs.any fun b => b.absent || b.bad || b.unreach.isSome then none else some (bs.map (·.val)), s)

/-- The frame of kernel `k` that loads segment `g`, after its load: the words it read, or none where the load failed; the
contexts that demanded it go on, or are to trap (R69, R71). -/
def endLoad (g : Nat) (words : Option (List Idx)) (k : Kernel) : Kernel :=
  { k with
    frames := k.frames.map fun f => if f.loading == some g then
      (match words with
       | some ws => { f with seg := some g, words := ws, loading := none }
       | none => { f with loading := none }) else f
    demand := k.demand.filter fun d => d.2 != g
    faulted := if words.isSome then k.faulted else k.faulted ++ (k.demand.filter fun d => d.2 == g).map (·.1) }

/-- R69, R71: the load of a kernel's frame ends. The segment is read at this one instant. It fails on a translation fault, a
stale generation, a node that cannot be reached or an uncorrectable unit; each context that demanded it then traps
SEGMENT_FAULT, or, for an uncorrectable unit, SOFT_ERROR with ARG 3, which R391 takes first (R397, R400). Arguments: a core,
b the kernel's place on it. [DESIGN CHOICE, log entry 56] -/
def execFrameLoadComplete (s : State) : Res :=
  let core := s.args.a
  match (coreOf s core).kernels[s.args.b]? with
  | none => .next s
  | some k =>
    match loadingSeg k with
    | none => .next s
    | some g =>
      let seg := (k.segs[g]?).getD ⟨0, 0, 0⟩
      let asid := kernelAsid s k
      let stale := k.frames.any fun f => f.loading == some g && f.gen != (spaceOf s asid).gen
      let (bs, s) := if stale then ([], s) else readMems s none { die := coreDie core, core := some core } portChan asid seg.addr (2 * seg.len)
      let bad := bs.any (·.bad)
      let ok := !stale && !bad && !bs.any fun b => b.absent || b.unreach.isSome
      let s := if bad then (k.demand.filter fun d => d.2 == g).foldl (fun s d =>
          modCtx s d.1 fun x => { x with late := x.late ++ [{ code := .softError, arg := 3 }] }) s else s
      let s := modKernel s core k.launch k.kslot (endLoad g (if ok then some (idxOfBytes (bs.map (·.val))) else none))
      .next (serveDemands s core)

end Sys2Proof.Machine
end

