-- ==== Sys2Proof/Machine/Span.lean ====
section
/-! DEFINITION. Plain moves (R50), the span actions (R82 to R88), checkpoints (R93 to R98), what a context waits for before
its next bundle (R114), and the return from a handler (R396). -/

namespace Sys2Proof.Machine

/-- R50, R80: a plain move. -/
def execMove (m : Mv) (dst : BitVec 12) (s : State) : Res :=
  match current s with
  | none => .next s
  | some (c, x, f) =>
    if f.dry || !guardHolds f.regs m.guard then .next s
    else .next (setCtx s c (writeMove x dst (sourceVal f m.src f.cur)))

/-! ## The rest of a bundle -/

/-- An item that stands before the end of the task and before a TRAP or TRET of the bundle. -/
def insertTodo (t : Todo) : List Todo → List Todo
  | [] => [t]
  | i :: is => match i with
    | .endTask _ => t :: i :: is
    | .last _ => t :: i :: is
    | _ => i :: insertTodo t is

def addTodo (x : Ctx) (t : Todo) : Ctx := modFrame x fun f => { f with todo := insertTodo t f.todo }

/-- The exit value of a HALT of the bundle (R133). -/
def haltHeld (f : Frame) : Option D64 := if f.todo.contains (.endTask .halt) then some f.exit else none

/-- Where a bundle that a trap or a checkpoint ends goes on: the loop check is made where no HALT is held (R94, R127, R133). -/
def goesOn (x : Ctx) (f : Frame) : List LoopEnt × Nat := if (haltHeld f).isSome then (x.loops, f.next) else settled x f

/-! ## Checkpoints -/

/-- An eager release form that has not performed: its checkpoint comes after it (R295). -/
def relPending (s : State) (c : Nat) : Bool :=
  let p := fun (o : SemOp) => o.ctx == c && o.rel && o.result.isSome
  s.semOps.any p || (ctxOf s c).going.any fun w => match w with | .sem o => p o | _ => false

/-- The array operations of a context before a checkpoint (R239). -/
def sealQueue (s : State) (c : Nat) : State :=
  modCore s (ctxCore c) fun k => { k with aq := k.aq.map fun o => if o.ctx = c then { o with postCk := false } else o }

/-- The ASWAPs of an accumulator that a context has triggered and that have not performed: triggered before a checkpoint,
they complete as usual, and no rollback to it undoes them (R239). [DEDUCED, log entry 58] -/
def swapsOwed (k : Core) (c n : Nat) : Nat := (k.aq.filter fun o => o.ctx == c && o.kind == .aswap && o.acc == n && !o.discard).length

/-- CHECKPOINT with a given restart position and tick (R94, R98). -/
def checkpointAt (s : State) (c pos tick : Nat) (loops : List LoopEnt) : State :=
  let s := sealQueue (releaseAll s c) c
  let owed := swapsOwed (coreOf s (ctxCore c)) c
  modCtx s c fun x =>
    let y := capture x pos tick x.link loops
    { y with shadow := y.shadow.map fun h => { h with swaps := Vector.ofFn fun (n : Fin 4) => (h.swaps[n.val]?.getD 0) + owed n.val } }

/-- CHECKPOINT of the bundle being carried out (R94). -/
def checkpoint (s : State) (c : Nat) : State :=
  let x := ctxOf s c
  match x.frame with
  | none => s
  | some f =>
    let (loops, pos) := goesOn x f
    modCtx (checkpointAt s c pos (x.lsc + 1 + (hdrIdle f.header).toNat) loops) c fun x => modFrame x fun f => { f with ck := true }

/-- The implicit checkpoint before a bundle (R96). -/
def implicitCheckpoint (s : State) (c : Nat) : State :=
  let x := ctxOf s c
  modCtx (checkpointAt s c x.pc x.lsc x.loops) c fun x =>
    { x with sys := { x.sys with impl := if x.sys.impl < 255 then x.sys.impl + 1 else 255 } }

/-! ## Flips -/

def SpanCode.waitsFree : SpanCode → Bool
  | .flipW | .flipCw => true
  | _ => false

def SpanCode.checks : SpanCode → Bool
  | .flipC | .flipCw | .ckpt => true
  | _ => false

/-- Some register is pending and its write has not landed (R83). -/
def pendingLeft (r : RegFile) : Bool := regSockets.any fun d => (r.bits d).pend && !(r.bits d).land

/-- The waits of a span action are over (R82, R83, R295). -/
def spanReady (s : State) (c : Nat) (code : SpanCode) : Bool :=
  let x := ctxOf s c
  (code == .none || code == .ckpt || spanOwed x == 0) && !(code.waitsFree && pendingLeft x.regs) &&
    !(code.checks && ckOn x && relPending s c)

/-- The `br` operation of a bundle that a trap ends stands, its loop check is made where no HALT is held; what WRSR left for
the end of the bundle stands (R88, R132, R133). -/
def settleBundle (s : State) (c : Nat) (wide : Bool) : State :=
  let x := ctxOf s c
  match x.frame with
  | none => s
  | some f =>
    let at_ := goesOn x f
    let idle := (hdrIdle f.header).toNat
    let y := if wide then closeBundle x f at_ (x.lsc + 1 + idle) 0 else closeBundle x f at_ (x.lsc + 1) idle
    setCtx s c y

/-- WRSR of CKMODE in this bundle that has not acted: enabling, or disabling. -/
def ckmodeLeft (f : Frame) : Option Bool :=
  f.todo.findSome? fun t => match t with
    | .event e => match e.what with | .ckmodeEnable => some true | .ckmodeDisable => some false | _ => none
    | _ => none

/-- DOUBLE_WRITE at a flip (R88): rollback with checkpoint mode on, which gives up the bundle's CKMODE write too (R93), though DWP keeps what
the bundle wrote (R94); else the bundle is settled, the span action `code` stays to be done. [DEDUCED, log entry 20] -/
def doubleWrite (s : State) (c : Nat) (d : BitVec 12) (code : SpanCode) : State :=
  let x := ctxOf s c
  match x.frame with
  | none => s
  | some f =>
    let t : TrapInfo := { code := .doubleWrite, sock := d.toNat }
    if ckOn x then enterTrap s c t f.pos
    else
      let s := settleBundle s c true
      let s := enterTrap s c t (ctxOf s c).pc code (haltHeld f) (some f.pos)
      match ckmodeLeft f with
      | some on => modCtx s c fun x => { x with sys := { x.sys with ckmode := if on then 1 else 0 } }
      | none => s

/-- A span action (R82, R83): it waits, traps DOUBLE_WRITE, or flips and checkpoints. [DEDUCED, log entry 20] [DEDUCED, log entry 21] -/
def spanAction (s : State) (code : SpanCode) (again : Todo) : Res :=
  match current s with
  | none => .next s
  | some (c, x, _) =>
    if !spanReady s c code then .next (suspend s c again)
    else if code = .ckpt then .next (if ckOn x then checkpoint s c else s)
    else match x.regs.conflict with
      | some d => .next (doubleWrite s c d code)
      | none =>
        let s := setCtx s c { x with regs := x.regs.flip }
        .next (if code.checks && ckOn x then checkpoint s c else s)

/-- R83: FLIP. -/
def execFlip (_h : Hd) (_e : BitVec 1) (s : State) : Res := spanAction s .flip .span

/-- R83: FLIP.W. -/
def execFlipW (_h : Hd) (_e : BitVec 1) (s : State) : Res := spanAction s .flipW .span

/-- R83: FLIP.C. -/
def execFlipC (_h : Hd) (_e : BitVec 1) (s : State) : Res := spanAction s .flipC .span

/-- R83: FLIP.CW. -/
def execFlipCw (_h : Hd) (_e : BitVec 1) (s : State) : Res := spanAction s .flipCw .span

/-- R94: CKPT. -/
def execCkpt (_h : Hd) (_e : BitVec 1) (s : State) : Res := spanAction s .ckpt .span

/-- R93: CKMODE.EN turns on at the end of the bundle, with a checkpoint; in handler state, where checkpoint mode is
suspended, TRET takes it (R395, R396). Arguments: a context. -/
def execCkmodeEnable (s : State) : Res :=
  let c := s.args.a
  match (ctxOf s c).frame with
  | none => .next s
  | some _ =>
    if (ctxOf s c).sys.ckmode = 1 then .next s
    else
      let s := modCtx s c fun x => { x with sys := { x.sys with ckmode := 1 } }
      .next (if ckOn (ctxOf s c) then checkpoint s c else s)

/-- R93: CKMODE.EN turns off at the end of the bundle: everything withheld is released, then the shadow set goes.
Arguments: a context. -/
def execCkmodeDisable (s : State) : Res :=
  let c := s.args.a
  match (ctxOf s c).frame with
  | none => .next s
  | some _ =>
    .next (modCtx (releaseAll s c) c fun x => { x with shadow := none, landed := [], sys := { x.sys with ckmode := 0, rpc := 0 } })

/-! ## Waits before the next bundle (R114) -/

/-- Copy work of the context that a DRAIN at a scope waits for (R270). -/
def copyLeft (s : State) (c scope : Nat) : Bool :=
  (copyWork s c).any (fun j => !j.performed s scope) || (ctxOf s c).going.any fun w => match w with | .job _ => true | _ => false

def waitDone (s : State) (c : Nat) (w : Wait) : Bool :=
  let x := ctxOf s c
  match w with
  | .storesTo q => !storesBefore x q
  | .asyncTo id => !x.async.any fun a => decide (a.id ≤ id) && !a.drop
  | .copyTo n => !copyLeft s c n
  | .semDone q => !(s.semOps.any (fun o => o.ctx == c && o.result == some q) ||
      x.going.any fun w => match w with | .sem o => o.result == some q | _ => false)
  | .semSent id => match s.semOps.find? fun o => o.id == id with
    | some o => releaseReady s o
    | none => true
  | .arrayTo id => !(coreOf s (ctxCore c)).aq.any fun o => o.ctx == c && decide (o.id < id)
  | .aswap id => !(coreOf s (ctxCore c)).aq.any fun o => o.id == id
  | .round l n => match launchOf s l with
    | some y => decide (n < y.round) || y.stage == .retired
    | none => true

/-- An MFENCE that ends merges the flags of the operations it covers (R236): those that have completed. [DEDUCED, log entry 26] -/
def mergeArrayFlags (x : Ctx) : Ctx :=
  { x with sys := { x.sys with flg := x.aticks.foldl (fun g t => if t.done then mergeFlags g t.flags else g) x.sys.flg } }

/-- The waits that are over go; an MFENCE among them brings its flags. [DEDUCED, log entry 26] -/
def settleWaits (s : State) (c : Nat) : State :=
  let x := ctxOf s c
  let left := x.waits.filter fun w => !waitDone s c w
  let fenced := x.waits.any fun w => (match w with | .arrayTo _ => true | _ => false) && waitDone s c w
  modCtx s c fun x => { (if fenced then mergeArrayFlags x else x) with waits := left }

/-! ## The return from a handler (R133, R396) -/

/-- The arrival number of an armed RROT's operation. -/
def armOrder (s : State) (a : RrotArm) : Nat := (((ctxOf s a.ctx).ls.find? fun o => o.seq == a.seq).map (·.arrive)).getD 0

/-- RROTs that were withdrawn are armed again, each in its place in the order in which the core's were armed first (R213, R214, R394). -/
def rearm (s : State) (c : Nat) (l : List LsOp) : State :=
  let back := l.filterMap fun o => match o.kind with | .rrot dst n => some (⟨c, o.seq, o.addr, dst, n⟩ : RrotArm) | _ => none
  modCore s (ctxCore c) fun k =>
    { k with rrot := sortBy (fun a b => decide (armOrder s a ≤ armOrder s b)) (k.rrot ++ back) }

/-- Steps 1 to 4 of R396: the handler's writes have landed; its flip; the set-aside state comes back, for TRET to go on. What
a trap withdrew is issued again with its arrival number (R204). [DEDUCED, log entry 65] -/
def tretStart (s : State) (c : Nat) : State :=
  let x := ctxOf s c
  match x.frame, x.aside with
  | some f, some a =>
    match x.regs.conflict with
    | some d => doubleWrite s c d .flip
    | none =>
      let y : Ctx := { x with
        regs := a.regs.restoreSpan x.regs.flip
        lat := a.lat, infl := a.infl, link := a.link, loops := a.loops, idle := a.idle, lsc := a.tick
        aticks := a.aticks ++ x.aticks.filter fun t => !a.aticks.any fun u => u.id == t.id
        ls := x.ls ++ a.ls, waits := x.waits ++ a.waits
        recvs := (x.recvs.filter fun r => a.infl.any fun e => e.seq == r.1) ++ a.recvs
        aside := none
        frame := some { f with code := if x.sys.trapstat.getLsbD 30 then a.span else .none, exit := a.exit
                               todo := [.tret .spanAction] } }
      rearm (setCtx s c y) c a.ls
  | _, _ => s

/-- Steps 6 to 8 of R396. [DEDUCED, log entry 21] -/
def tretFinish (s : State) (c : Nat) : State :=
  let x := ctxOf s c
  match x.frame with
  | none => s
  | some f =>
    if x.sys.trapstat.getLsbD 26 then
      let pos := (x.sys.trappc.extractLsb' 0 20).toNat
      modCtx s c fun x => { x with handler := false, pc := pos, frame := some { f with slots := [], todo := [.endTask .halt] } }
    else
      let pos := (x.sys.trappc.extractLsb' 0 20).toNat
      let s := if x.sys.ckmode = 1 then checkpointAt s c pos (x.lsc + x.idle) x.loops else s
      { modCtx s c fun x => { x with handler := false, pc := pos, fetched := false, frame := none
                                     sys := { x.sys with dwp := f.dwp.getD x.sys.dwp } } with active := none }

/-- A step of TRET that waits or acts (R396). -/
def tretStep (s : State) (c : Nat) : TretStep → State
  | .start => if (ctxOf s c).async.any fun a => a.handler && !a.drop then suspend s c (.tret .start) else tretStart s c
  | .spanAction =>
    match (ctxOf s c).frame with
    | none => s
    | some f =>
      let s := modCtx s c fun x => modFrame x fun f => { f with todo := [.tret .finish] }
      let x := ctxOf s c
      if f.code = .none then s
      else if !spanReady s c f.code then suspend s c (.tret .spanAction)
      else match x.regs.conflict with
        | some d => enterTrap s c { code := .doubleWrite, sock := d.toNat } (x.sys.trappc.extractLsb' 0 20).toNat f.code
        | none => setCtx s c { x with regs := x.regs.flip }
  | .finish => tretFinish s c

/-- The step of TRET may go on. -/
def tretReady (s : State) (c : Nat) : TretStep → Bool
  | .start => !(ctxOf s c).async.any fun a => a.handler && !a.drop
  | .spanAction => match (ctxOf s c).frame with | some f => spanReady s c f.code | none => true
  | .finish => true

end Sys2Proof.Machine
end

