-- ==== Sys2Proof/Machine/Branch.lean ====
section
/-! DEFINITION. The branch unit (R126 to R130). Its operations stand before the span action in the order of the model: what
they set, the position and the stacks, nothing of the span action reads or writes. -/

namespace Sys2Proof.Machine

/-- A position operand (R126). -/
def posCheck : Check := fun _ _ o => if o.a64.extractLsb' 20 44 ≠ 0 then some .bounds else none

/-- Set the position that the next bundle issues at. -/
def goto (x : Ctx) (pos : Nat) : Ctx := modFrame x fun f => { f with next := pos, brSet := true }

/-- NEXT of the bundle being carried out (R126). -/
def frameNext (x : Ctx) : Nat := match x.frame with | some f => f.next | none => x.pc

/-- R127: JMP. -/
def execBrJmp (m : Mv) (s : State) : Res :=
  trigger s m .br 0x208 posCheck fun s c o => modCtx s c fun x => goto x o.a64.toNat

def callCheck : Check := firstOf [posCheck, fun s c _ => if (ctxOf s c).link.length ≥ Config.linkDepth then some .bounds else none]

/-- R127: CALL. -/
def execBrCall (m : Mv) (s : State) : Res :=
  trigger s m .br 0x209 callCheck fun s c o =>
    modCtx s c fun x => goto { x with link := frameNext x :: x.link } o.a64.toNat

def retCheck : Check := fun s c _ => if (ctxOf s c).link = [] then some .bounds else none

/-- R127: RET; it discards the loops opened at a deeper link depth. -/
def execBrRet (m : Mv) (s : State) : Res :=
  trigger s m .br 0x20A retCheck fun s c _ =>
    modCtx s c fun x =>
      let y := { x with link := x.link.drop 1 }
      goto { y with loops := y.loops.filter fun e => decide (e.depth ≤ y.link.length) } (x.link.headD 0)

def loopOpCheck : Check := fun s c o =>
  let x := ctxOf s c
  if o.a64.extractLsb' 32 32 ≠ 0 ∨ o.b64.extractLsb' 20 44 ≠ 0 ∨ o.b64.toNat ≤ frameNext x then some .bounds
  else if o.a64 ≠ 0 ∧ x.loops.length ≥ Config.loopDepth then some .bounds else none

/-- R127: LOOP. -/
def execBrLoop (m : Mv) (s : State) : Res :=
  trigger s m .br 0x20B loopOpCheck fun s c o =>
    modCtx s c fun x =>
      if o.a64 = 0 then goto x o.b64.toNat
      else { x with loops := ⟨frameNext x, o.b64.toNat, o.a64.toNat, 0, x.link.length⟩ :: x.loops }

def breakCheck : Check := fun s c _ => if (ctxOf s c).loops = [] then some .bounds else none

/-- R127: BREAKL. -/
def execBrBreakl (m : Mv) (s : State) : Res :=
  trigger s m .br 0x20C breakCheck fun s c _ =>
    modCtx s c fun x => match x.loops with
      | e :: es => goto { x with loops := es } e.exit
      | [] => x

/-- R129: HALT; the end of the context comes after the moves and the span action. -/
def execBrHalt (m : Mv) (s : State) : Res :=
  trigger s m .br 0x20D noCheck fun s c o =>
    modCtx s c fun x => modFrame x fun f => { f with exit := o.a64, todo := f.todo ++ [.endTask .halt] }

/-- R115, R130: YIELD. -/
def execBrYield (m : Mv) (s : State) : Res :=
  trigger s m .br 0x20E noCheck fun s c _ => modCore s (ctxCore c) fun k => { k with yielded := true }

end Sys2Proof.Machine
end

