-- ==== Sys2Proof/Machine/Queue.lean ====
section
/-! DEFINITION. The device's side of a command queue (R413 to R419): host memory, completion records, and the packets that wait
for an earlier one. -/

namespace Sys2Proof.Machine

/-- A 64-bit word of host memory. -/
def host64 (s : State) (a : Nat) : D64 := read64 s.host a

def hostWrite (s : State) (a : Nat) (bs : List Byte) : State := { s with host := Memory.writeBytes s.host a bs }

def queueOf (s : State) (q : Nat) : Queue := Tab.get {} s.queues q
def modQueue (s : State) (q : Nat) (f : Queue → Queue) : State :=
  match Tab.find s.queues q with
  | some x => { s with queues := Tab.put s.queues q (f x) }
  | none => s

/-- A completion record (R415): 16 bytes. -/
def record (tag op status info : Nat) : List Byte := leBytes 8 (tag % 2 ^ 32 * 2 ^ 32 + op * 2 ^ 8 + status) ++ leBytes 8 info

/-- Write a packet's completion record where it asks for one (R414, R415), and count it towards the interrupt (R419). -/
def postRecord (s : State) (q tag op status info : Nat) : State :=
  let x := queueOf s q
  if tag = 0 then s
  else
    let s := hostWrite s (x.ring + 16 * x.ringAt) (record tag op status info)
    let s := modQueue s q fun x => { x with ringAt := (x.ringAt + 1) % max 1 x.ringLen, held := x.held + 1 }
    if x.count ≤ x.held + 1 ∨ x.timeout = 0 then { s with sched := s.sched ++ [{ what := .msiXInterrupt, args := { a := q } }] } else s

/-- SIGNAL packets at the head of the open packets complete: every earlier packet has (R414). -/
def settleSignals (q : Nat) : Nat → State → State
  | 0, s => s
  | n + 1, s =>
    match (queueOf s q).open_ with
    | p :: ps => if p.op = 9 then settleSignals q n (postRecord (modQueue s q fun x => { x with open_ := ps }) q p.tag 9 0 0) else s
    | [] => s

/-- An open packet completes. -/
def finishOpen (s : State) (q : Nat) (p : OpenPacket) (status info : Nat) : State :=
  if (queueOf s q).open_.contains p then
    let s := postRecord (modQueue s q fun x => { x with open_ := x.open_.erase p }) q p.tag p.op status info
    settleSignals q (queueOf s q).open_.length s
  else s

/-- The LAUNCH packet of a launch completes with its final status (R415). -/
def finishLaunch (s : State) (l : Nat) (y : Launch) : State :=
  match (queueOf s y.queue).open_.find? fun p => p.launch == some l with
  | some p => finishOpen s y.queue p y.code (y.kfail * 2 ^ 16 + y.detail)
  | none => s

/-- R419: the interrupt of a queue is sent: when COUNT completions are held, at its timeout, or for a lone completion.
Arguments: a queue. -/
def execMsiXInterrupt (s : State) : Res :=
  let q := s.args.a
  if (queueOf s q).held = 0 then .next s
  else .next (modQueue s q fun x => { x with held := 0, vectors := x.vectors + 1 })

end Sys2Proof.Machine
end

