-- ==== Sys2Proof/Machine/Sem.lean ====
section
/-! DEFINITION. The `sem` unit (R288 to R316): one meaning for each trigger and its ordering forms. What an operation does
at its entry stands in Entry.lean. -/

namespace Sys2Proof.Machine

/-! ## Checks at the trigger (R290) -/

/-- Operand `a` is the address of an entry (R281). -/
def semAddrCheck : Check := fun s _ o => if semAddrOk s o.a64.toNat then none else some .bounds

/-- CMINT and CBURN need the mint policy (R290). -/
def mintCheck : Check := fun s c _ => if mintPolicy s (ctxRegion s c) then none else some .privilege

def bexpCheck : Check := fun _ _ o => if o.b64.extractLsb' 48 16 ≠ 0 then some .bounds else none
def phaseCheck : Check := fun _ _ o => if o.b64.extractLsb' 1 63 ≠ 0 then some .bounds else none

/-- CFLOOR's operand `b` and policy (R290, R312). -/
def cfloorCheck : Check := fun s c o =>
  let b := o.b64
  if b.extractLsb' 18 46 ≠ 0 ∨ b.extractLsb' 16 2 = 3 then some .bounds
  else if b.extractLsb' 16 2 ≠ 0 then mintCheck s c o else none

/-- CTOTAL's operand (R311). -/
def ctotalCheck : Check := fun _ _ o =>
  if o.a64.extractLsb' 10 54 ≠ 0 ∨ o.a64.extractLsb' 8 2 = 3 then some .bounds else none

/-- CINFO's operands (R316). -/
def cinfoCheck : Check := fun s _ o =>
  if o.a64.toNat > 3 ∨ (o.a64.toNat = 1 ∧ !semAddrOk s o.b64.toNat) then some .bounds else none

/-- SINIT's setup word (R315). -/
def sinitCheck : Check := fun _ _ o =>
  let b := o.b64
  let ty := (b.extractLsb' 0 4).toNat
  let ex := b.extractLsb' 16 16
  if b.extractLsb' 48 16 ≠ 0 ∨ b.extractLsb' 5 3 ≠ 0 ∨ ty > 3 ∨ (ty ≠ 3 ∧ (b.extractLsb' 32 16 ≠ 0 ∨ b.extractLsb' 8 8 ≠ 0)) ∨
     (ty = 2 ∧ ex = 0) ∨ (ty ≠ 2 ∧ ex ≠ 0) then some .bounds else none

/-- CXFER's operands (R305). -/
def cxferCheck (form : Nat) : Check := fun s _ o =>
  let b := o.b64
  let d := (b.extractLsb' 0 30).toNat
  if b.extractLsb' 34 30 ≠ 0 ∨ b.extractLsb' 32 2 = 3 ∨ b.extractLsb' 30 2 ≠ 0 ∨ !semAddrOk s d ∨ d = o.a64.toNat then some .bounds
  else if form = 0 then none
  else if o.c64.extractLsb' 32 32 ≠ 0 then some .bounds
  else match f32.decode (o.c64.toNat % 2 ^ 32) with
  | .fin neg m _ => if neg ∧ m ≠ 0 then some .bounds else none
  | _ => some .bounds

/-- The four slots of an STX descriptor (R298): op, address, operand, compare; and whether the descriptor is well formed. -/
def stxSlots (s : State) (c a : Nat) : List (Nat × Nat × Nat × Nat) × Bool :=
  let bs := viewBytes s c (ctxOf s c).bundle a 128
  let q := fun i => leNat ((bs.drop (8 * i)).take 8)
  let slots := (List.range 4).map fun i => (q (4 * i) / 2 ^ 32 % 8, q (4 * i) % 2 ^ 30, q (4 * i + 1), q (4 * i + 2))
  let clean := (List.range 4).all fun i =>
    let (op, _, _, cmp) := slots.getD i (0, 0, 0, 0)
    decide (q (4 * i) / 2 ^ 35 = 0) && decide (q (4 * i) / 2 ^ 30 % 4 = 0) && decide (op ≤ 5) && (op == 5 || cmp == 0) &&
      q (4 * i + 3) == 0 && (op != 0 || (q (4 * i) == 0 && q (4 * i + 1) == 0 && cmp == 0))
  let live : List (Nat × Nat × Nat × Nat) := slots.filter fun p => p.1 != 0
  let head := slots.headD (0, 0, 0, 0)
  (slots, clean && head.1 != 0 && live.all (fun p => semAddrOk s p.2.1 && semPlace p.2.1 == semPlace head.2.1) &&
    decide (live.map (·.2.1)).Nodup)

/-- STX's checks (R290, R298): the descriptor's fields where it can be read, its range, its alignment. -/
def stxCheck : Check := fun s c o =>
  let a := o.a64.toNat
  let inArea := decide (a < 2 ^ 20) && decide (a + 128 ≤ areaOf s c)
  if inArea && !(stxSlots s c a).2 then some .bounds
  else if !inArea then some .spadRange
  else if a % 128 ≠ 0 then some .misaligned
  else none

/-! ## The moulds -/

/-- What acquires and releases (R294): the forms in the order of R56. -/
def formAcq (f : BitVec 2) : Bool := f == 1 || f == 3
def formRel (f : BitVec 2) : Bool := f == 2 || f == 3

/-- An operation that delivers a result at 12 ticks (R123, R288). With checkpoint mode on, a release form first releases
everything withheld (R295). -/
def semReturn (s : State) (m : Mv) (sock : BitVec 12) (chk : Check) (kind : State → Nat → Opnds → SemKind)
    (acq rel : Bool) : Res :=
  trigger s m .sem sock chk fun s c o =>
    let s := if rel && ckOn (ctxOf s c) then releaseAll s c else s
    let q := (ctxOf s c).seq
    let k := kind s c o
    let addr := match k with | .stx sl => (sl.headD (0, 0, 0, 0)).2.1 | _ => o.a64.toNat
    let op : SemOp := { id := 0, ctx := c, die := ctxDie c, region := ctxRegion s c, kind := k, addr := addr, b := o.b64, c := o.c64
                        result := some q, rel := rel, relSt := q }
    let s := modCtx s c fun x => addResult x .sem 12 (some (0, BitVec.allOnes 4096)) (some 0) 0 [] true
    let s := issueCmd s c (.sem op) false
    if acq then modCtx s c fun x => { x with waits := x.waits ++ [.semDone q] } else s

/-- An operation that delivers only `.st` 0 at 2 ticks (R288): withheld by checkpoint mode where `hold`. -/
def semQuiet (s : State) (m : Mv) (sock : BitVec 12) (chk : Check) (kind : SemKind) (rel hold : Bool) : Res :=
  trigger s m .sem sock chk fun s c o =>
    let op : SemOp := { id := 0, ctx := c, die := ctxDie c, region := ctxRegion s c, kind := kind, addr := o.a64.toNat, b := o.b64
                        c := o.c64, rel := rel, relSt := (ctxOf s c).seq }
    issueCmd (modCtx s c fun x => addResult x .sem 2 none (some 0)) c (.sem op) hold

/-- The checks of an eager trigger: its placement, the deterministic round, then its own. -/
def eagerSem (chk : Check) : Check := firstOf [eagerCheck, roundDenied, chk]

/-! ## Triggers (R288) -/

/-- R297: SLD, SLD.acq. -/
def execSemSld (m : Mv) (f : BitVec 1) (s : State) : Res :=
  semReturn s m (0x408#12 + f.setWidth 12) semAddrCheck (fun _ _ _ => .sld) (f == 1) false

/-- R297: SST, SST.rel. -/
def execSemSst (m : Mv) (f : BitVec 1) (s : State) : Res :=
  semQuiet s m (0x40A#12 + f.setWidth 12) semAddrCheck .sst (f == 1) true

/-- R297: SADD and its forms. -/
def execSemSadd (m : Mv) (f : BitVec 2) (s : State) : Res :=
  semReturn s m (0x40C#12 + f.setWidth 12) (eagerSem semAddrCheck) (fun _ _ _ => .sadd) (formAcq f) (formRel f)

/-- R297: SMIN and its forms. -/
def execSemSmin (m : Mv) (f : BitVec 2) (s : State) : Res :=
  semReturn s m (0x410#12 + f.setWidth 12) (eagerSem semAddrCheck) (fun _ _ _ => .smin) (formAcq f) (formRel f)

/-- R297: SMAX and its forms. -/
def execSemSmax (m : Mv) (f : BitVec 2) (s : State) : Res :=
  semReturn s m (0x414#12 + f.setWidth 12) (eagerSem semAddrCheck) (fun _ _ _ => .smax) (formAcq f) (formRel f)

/-- R297: SCAS and its forms. -/
def execSemScas (m : Mv) (f : BitVec 2) (s : State) : Res :=
  semReturn s m (0x418#12 + f.setWidth 12) (eagerSem semAddrCheck) (fun _ _ _ => .scas) (formAcq f) (formRel f)

/-- R298, R299: STX and its forms. -/
def execSemStx (m : Mv) (f : BitVec 2) (s : State) : Res :=
  semReturn s m (0x41C#12 + f.setWidth 12) (eagerSem stxCheck) (fun s c o => .stx (stxSlots s c o.a64.toNat).1)
    (formAcq f) (formRel f)

/-- R300: SWAITGE, an acquire (R320). -/
def execSemSwaitge (m : Mv) (s : State) : Res := semReturn s m 0x420 semAddrCheck (fun _ _ _ => .swaitge) true false

/-- R302: BARR. -/
def execSemBarr (m : Mv) (s : State) : Res := semQuiet s m 0x421 semAddrCheck .barr false true

/-- R302: BEXP. -/
def execSemBexp (m : Mv) (s : State) : Res := semQuiet s m 0x422 (firstOf [semAddrCheck, bexpCheck]) .bexp false true

/-- R303: BWAIT, an acquire (R320). -/
def execSemBwait (m : Mv) (s : State) : Res :=
  semReturn s m 0x423 (firstOf [semAddrCheck, phaseCheck]) (fun _ _ _ => .bwait) true false

/-- R303: BTEST. -/
def execSemBtest (m : Mv) (s : State) : Res :=
  semReturn s m 0x424 (firstOf [semAddrCheck, phaseCheck]) (fun _ _ _ => .btest) false false

/-- The four forms of CXFER (R305, R306). -/
def semCxfer (s : State) (m : Mv) (sock : BitVec 12) (form : Nat) : Res :=
  semReturn s m sock (eagerSem (firstOf [semAddrCheck, cxferCheck form])) (fun _ _ _ => .cxfer form) false false

/-- R306: CXFER.q. -/
def execSemCxferQ (m : Mv) (s : State) : Res := semCxfer s m 0x425 0

/-- R306: CXFER.f.rn. -/
def execSemCxferFRn (m : Mv) (s : State) : Res := semCxfer s m 0x426 1

/-- R306: CXFER.f.rz. -/
def execSemCxferFRz (m : Mv) (s : State) : Res := semCxfer s m 0x427 2

/-- R306: CXFER.f.rd. -/
def execSemCxferFRd (m : Mv) (s : State) : Res := semCxfer s m 0x428 3

/-- R312: CBAL. -/
def execSemCbal (m : Mv) (s : State) : Res := semReturn s m 0x429 semAddrCheck (fun _ _ _ => .cbal) false false

/-- R311: CTOTAL. -/
def execSemCtotal (m : Mv) (s : State) : Res := semReturn s m 0x42A ctotalCheck (fun _ _ _ => .ctotal) false false

/-- R312: CFLOOR. -/
def execSemCfloor (m : Mv) (s : State) : Res :=
  semQuiet s m 0x42B (firstOf [semAddrCheck, cfloorCheck]) .cfloor false true

/-- R312: CMINT. -/
def execSemCmint (m : Mv) (s : State) : Res := semQuiet s m 0x42C (firstOf [semAddrCheck, mintCheck]) .cmint false true

/-- R312: CBURN. -/
def execSemCburn (m : Mv) (s : State) : Res := semQuiet s m 0x42D (firstOf [semAddrCheck, mintCheck]) .cburn false true

/-- R315: SINIT, placed as eager (R288). -/
def execSemSinit (m : Mv) (s : State) : Res :=
  semQuiet s m 0x42E (firstOf [eagerCheck, semAddrCheck, sinitCheck]) .sinit false false

/-- R316: CINFO. -/
def execSemCinfo (m : Mv) (s : State) : Res := semReturn s m 0x42F cinfoCheck (fun _ _ _ => .cinfo) false false

end Sys2Proof.Machine
end

