-- ==== Sys2Proof/Machine/Firmware.lean ====
section
/-! DEFINITION. Firmware, identity and failures of the part: heartbeats and resets (R421), live updates (R424, R425), the SPDM
responder (R423), uncorrectable errors (R400), die resets (R282, R259) and retired units (R5). -/

namespace Sys2Proof.Machine

/-! ## Firmware (R421, R424, R425) -/

def fwImage (s : State) : FwImage := s.fw.slots.getD s.fw.cur ⟨0, 0, 0, 0, 0, 0, false⟩

/-- The running image knows the handover structure it must read (R425). -/
def knowsHandover (s : State) : Bool :=
  match s.fw.handover with
  | some v => (fwImage s).handover == v
  | none => true

/-- The entry of a partition's energy allowance on the hub die (R316, R428). [DESIGN CHOICE, log entry 44] -/
def allowanceAt (s : State) (part : Nat) : Nat := s.node * 2 ^ 17 + 4 * 2 ^ 14 + (Config.semEntries - 1 - part)

/-- The firmware creates a partition's account: of class 255, OPEN, owned by the hub's power region, without quanta (R428).
[DESIGN CHOICE, log entry 44] -/
def createAccount (s : State) (part : Nat) : State :=
  let a := allowanceAt s part
  let e : SemEntry := { word := 3#4 ++ 0#2 ++ 1#1 ++ 0#17 ++ 255#8 ++ 0#96, owner := Config.powerRegion }
  { setEntry s a e with parts := s.parts.map fun p => if p.1 = part then (p.1, { p.2 with account := a }) else p }

/-- Every partition has its account. -/
def createAccounts (s : State) : State :=
  (s.parts.filter fun p => p.2.account == 0).foldl (fun s p => createAccount s p.1) s

/-- R421, R424, R428: a firmware core writes its heartbeat, or misses it: at the fourth miss in a row the hub resets the firmware,
and its services pause. The first heartbeat of a new image ends its update. The firmware gives every partition its account.
Arguments: a core, b not 0 for a heartbeat that is missed. [DEDUCED, log entry 43] -/
def execHeartbeat (s : State) : Res :=
  let k := s.args.a
  let fw := s.fw
  if s.args.b ≠ 0 then
    let missed := fw.missed.modify k (· + 1)
    .next { s with fw := { fw with missed := missed, paused := fw.paused || missed.any fun n => decide (4 ≤ n) } }
  else if fw.paused then .next s
  else if fw.first then .next (createAccounts { s with fw := { fw with missed := fw.missed.set k 0, beats := fw.beats + 1 } })
  else if (fwImage s).boots && knowsHandover s then
    .next { s with fw := { fw with missed := fw.missed.set k 0, beats := fw.beats + 1, first := true, quiesced := false, handover := none } }
  else .next s

/-- R421: the reset of the firmware from its current slot completes, and its services go on. [DEDUCED, log entry 43] -/
def execFirmwareReset (s : State) : Res :=
  let fw := s.fw
  if fw.paused then .next { s with fw := { fw with paused := false, missed := [0, 0, 0, 0], resets := fw.resets + 1 } }
  else .next s

/-- An image verifies (R422): both signatures over its digest, and its security version. -/
def imageVerifies (s : State) (i : FwImage) : Bool :=
  Config.verifies 1 (i.sigRsa * 2 ^ 384 + i.digest) && Config.verifies 2 (i.sigSlh * 2 ^ 384 + i.digest) && decide (s.fw.minVer ≤ i.version)

/-- R422, R424: an image that has been staged is verified and takes over by a handover structure; no packet starts before its
first heartbeat. A refused image changes nothing. Arguments: a place among the staged images. -/
def execLiveUpdate (s : State) : Res :=
  let fw := s.fw
  match fw.staged[s.args.a]? with
  | none => .next s
  | some i =>
    if !fw.first || fw.paused || !imageVerifies s i then .next s
    else .next { s with fw := { fw with
      slots := fw.slots.set (1 - fw.cur) i, cur := 1 - fw.cur, quiesced := true, handover := some (fwImage s).handover
      measured := i.digest, first := false, missed := [0, 0, 0, 0], staged := fw.staged.eraseIdx s.args.a } }

/-- R425: the new image has missed its first heartbeat: the old slot runs again, from the handover state, and the queues go on. -/
def execLiveUpdateRollback (s : State) : Res :=
  let fw := s.fw
  if fw.first then .next s
  else
    let old := fw.slots.getD (1 - fw.cur) ⟨0, 0, 0, 0, 0, 0, false⟩
    .next { s with fw := { fw with cur := 1 - fw.cur, quiesced := false, first := true, handover := none, measured := old.digest, missed := [0, 0, 0, 0] } }

/-! ## SPDM (R423) -/

/-- A response of the responder: its code and what it carries. [PRESUMED, log entry 11] -/
def spdmReply (s : State) (l : List Nat) : State := { s with spdm := { s.spdm with reply := l } }

/-- ERROR: 1 invalid request, 4 unexpected request. [PRESUMED, log entry 11] -/
def spdmError (s : State) (code : Nat) : State := spdmReply s [0x7F, code]

/-- The digest of the certificate chain. -/
def chainDigest (s : State) : Nat := Config.freeDigest 5 (leNat s.spdm.chain)

/-- A request that needs the algorithms to be negotiated. -/
def spdmReady (s : State) (act : State → State) : Res :=
  if s.fw.paused then .next s else if s.spdm.algs = 0 then .next (spdmError s 4) else .next (act s)

/-- R423: GET_VERSION: 1.3; it begins a new negotiation. -/
def execGetVersion (s : State) : Res :=
  if s.fw.paused then .next s
  else .next (spdmReply { s with spdm := { s.spdm with version := true, caps := false, algs := 0 } } [0x04, 0x13])

/-- R423: GET_CAPABILITIES: certificates, challenge, measurements with signature. -/
def execGetCapabilities (s : State) : Res :=
  if s.fw.paused then .next s
  else if !s.spdm.version then .next (spdmError s 4)
  else .next (spdmReply { s with spdm := { s.spdm with caps := true } } [0x61, 0x16])

/-- R423: NEGOTIATE_ALGORITHMS: TPM_ALG_RSASSA_3072 and SHA-384, where both are offered. Arguments: a the algorithms offered: bit 2
RSASSA_3072, bit 33 SHA-384. -/
def execNegotiateAlgorithms (s : State) : Res :=
  if s.fw.paused then .next s
  else if !s.spdm.caps then .next (spdmError s 4)
  else if s.args.a / 4 % 2 = 1 ∧ s.args.a / 2 ^ 33 % 2 = 1 then
    .next (spdmReply { s with spdm := { s.spdm with algs := 2 ^ 33 + 4 } } [0x63, 4, 2])
  else .next (spdmError s 1)

/-- R423: GET_DIGESTS: the chain of slot 0. -/
def execGetDigests (s : State) : Res := spdmReady s fun s => spdmReply s [0x01, 1, chainDigest s]

/-- R423: GET_CERTIFICATE: a portion of the chain. Arguments: a slot, b offset, c length. -/
def execGetCertificate (s : State) : Res :=
  spdmReady s fun s =>
    let n := s.spdm.chain.length
    if s.args.a ≠ 0 ∨ s.args.b > n then spdmError s 1
    else
      let part := (s.spdm.chain.drop s.args.b).take s.args.c
      spdmReply s ([0x02, 0, part.length, n - s.args.b - part.length] ++ part.map (·.toNat))

/-- R423: CHALLENGE: the response is signed over the request and the chain's digest. Arguments: a slot, b nonce. -/
def execChallenge (s : State) : Res :=
  spdmReady s fun s =>
    if s.args.a ≠ 0 then spdmError s 1
    else
      let (n, s) := nextFree s
      let own := Config.freeDigest 6 n
      spdmReply s [0x03, 0, chainDigest s, own, Config.freeDigest 7 (leNat s.spdm.chain + s.args.b * 2 ^ 384 + own)]

/-- The measurement blocks (R423): the running image's digest, its security version, and the SLH-DSA signature over both. -/
def measurement (s : State) (b : Nat) : Nat :=
  let v := (fwImage s).version
  match b with
  | 1 => s.fw.measured
  | 2 => v
  | _ => Config.freeDigest 8 (s.fw.measured + v * 2 ^ 384)

/-- R423: GET_MEASUREMENTS: a block, their number, or all of them, signed. Arguments: a block (0 number, 255 all), b nonce. -/
def execGetMeasurements (s : State) : Res :=
  spdmReady s fun s =>
    let b := s.args.a
    if b > 3 ∧ b ≠ 255 then spdmError s 1
    else
      let blocks := if b = 0 then [] else if b = 255 then [1, 2, 3] else [b]
      let vals := blocks.map (measurement s)
      let (n, s) := nextFree s
      let own := Config.freeDigest 6 n
      spdmReply s ([0x60, if b = 0 then 3 else blocks.length] ++ vals ++ [own, Config.freeDigest 9 (vals.sum + s.args.b * 2 ^ 512 + own)])

/-! ## Failures and resets -/

/-- R400, R201, R240, R246, R267, R314: an uncorrectable error poisons its unit. Arguments: a site, b place, c unit: 0 a core's
bank word, 1 a die's weight-store unit, 2 a 64-byte unit of memory, 3 an accumulator bank of a core, 4 a core's array, 5 a
semaphore entry, 6 a core's tag. [DESIGN CHOICE, log entry 14] [DEDUCED, log entry 25] -/
def execUncorrectableError (s : State) : Res :=
  let b := s.args.b; let c := s.args.c
  match s.args.a with
  | 0 => if b < Config.cores ∧ c < 65536 then .next (modCore s b fun k => { k with poison := NatSet.insert k.poison c }) else .next s
  | 1 => if b < Config.dies ∧ c < 2 ^ 24 then .next (modDie s b fun d => { d with wsBad := NatSet.insert d.wsBad c }) else .next s
  | 2 => .next { s with memBad := NatSet.insert s.memBad c }
  | 3 => if b < Config.cores ∧ c < 8 then .next (modCore s b fun k => { k with accBad := NatSet.insert k.accBad c }) else .next s
  | 4 => if b < Config.cores then .next (modCore s b fun k => { k with arrayBad := true }) else .next s
  | 6 => if b < Config.cores ∧ c < 2 ^ 18 then .next (modCore s b fun k => { k with tagBad := NatSet.insert k.tagBad c }) else .next s
  | 5 => if semAddrOk s b then .next (semWrite s b { entryOf s b with poison := true }) else .next s
  | _ => .next s

/-- R282, R259: a die is reset: its semaphore entries are UNSET, its slot-table cells FREE, its cycles count from 0.
Arguments: a die. -/
def execDieReset (s : State) : Res :=
  let die := s.args.a
  if die > Config.dies then .next s
  else
    let own := (s.sems.filter fun p => semPlace p.1 == ownPlace s die).map (·.1)
    let s := own.foldl (fun s a => semWrite s a {}) s
    let s : State := { s with sems := s.sems.filter fun p => semPlace p.1 != ownPlace s die
                              cores := s.cores.map fun p => (p.1, if coreDie p.1 = die then { p.2 with cycle := 0 } else p.2) }
    .next (if die < Config.dies then modDie s die fun d => { d with slots := [], newSlots := none, cycle := 0 } else s)

/-- R5: firmware retires a bangle, an HBM stack or a torc port. Arguments: a kind, b number. [DEDUCED, log entry 47] -/
def execBangleRetire (s : State) : Res :=
  let n := s.args.b
  match s.args.a with
  | 0 => .next { s with retired := NatSet.insert s.retired n }
  | 1 => .next { s with hbm := NatSet.insert s.hbm n }
  | 2 => .next { s with ports := NatSet.insert s.ports n }
  | _ => .next s

end Sys2Proof.Machine
end

