-- ==== Sys2Proof/Machine/Power.lean ====
section
/-! DEFINITION. The hub's power controller (R426 to R429): hall cap frames, energy allowances, the limits on clocks, and
CAPCAUSE. -/

namespace Sys2Proof.Machine

/-- The root region of a partition (R332). -/
def rootOf (s : State) (part : Nat) : Option Nat :=
  (s.regions.find? fun p => parentOf s p.1 == 0xFFFF && partOf s p.1 == part).map (·.1)

/-- A partition's cap rank: that of its root region (R427). -/
def partRank (s : State) (part : Nat) : Nat := match rootOf s part with | some r => capRankOf s r | none => 0

/-- The hall level sheds a partition (R427). -/
def isShed (s : State) (part : Nat) : Bool := decide (16 ≤ partRank s part + s.power.level)

/-- The energy allowance of a partition is at or below its floor (R427, R428). [DESIGN CHOICE, log entry 44] -/
def allowanceOut (s : State) (part : Nat) : Bool :=
  let p : Partition := Tab.get {} s.parts part
  let e := entryOf s p.account
  p.account != 0 && e.type == 3 && decide (e.bal ≤ e.floor * 2 ^ 20)

/-- What each limit demands of a partition's bangles on a die, in the order of CAPCAUSE bits 4:0: HALL, MODULE, PARTITION, SAG,
THERMAL (R427). -/
def demands (s : State) (part die : Nat) : List (Option Nat) :=
  let p : Partition := Tab.get {} s.parts part
  [if isShed s part then some Config.shedClock else none, s.power.module,
   match p.partClk, allowanceOut s part with
   | some k, true => some (min k Config.shedClock)
   | some k, false => some k
   | none, true => some Config.shedClock
   | none, false => none,
   (dieOf s die).sag, (dieOf s die).thermal]

/-- The clock of a partition's bangles on a die: the lowest demand (R427). -/
def clockOf (s : State) (part die : Nat) : Nat := ((demands s part die).filterMap id).foldl min Config.nominalClock

/-- A context of the bangle is started (R427): a launch holds it, also one that is HALTED, having ended its work or holding none (R112). -/
def bangleStarted (s : State) (b : Nat) : Bool := (natsFrom (b * 32) 32).any fun c => (ctxOf s c).launch.isSome

/-- The clock of a bangle, in kHz; one of no partition meets the limits of its die and its module alone (R331); in a shed partition
a bangle with no started context is clock-gated, 0 (R427). -/
def bangleClock (s : State) (b : Nat) : Nat :=
  match s.parts.find? fun p => p.2.bangles.contains b with
  | none => ([s.power.module, (dieOf s (b / 16)).sag, (dieOf s (b / 16)).thermal].filterMap id).foldl min Config.nominalClock
  | some p => if isShed s p.1 && !bangleStarted s b then 0 else clockOf s p.1 (b / 16)

/-- The dies on which a partition has bangles. -/
def partDies (s : State) (part : Nat) : List Nat :=
  (List.range Config.dies).filter fun d => (Tab.get {} s.parts part : Partition).bangles.any fun b => b / 16 == d

/-- Bits 4:0 of CAPCAUSE: the limits that demand the clock in force, below the nominal clock (R429). -/
def capCurrent (s : State) (part : Nat) : Nat :=
  ((List.range 5).map fun i => bit ((partDies s part).any fun d =>
    match (demands s part d).getD i none with
    | some k => k == clockOf s part d && decide (k < Config.nominalClock)
    | none => false) i).sum

/-- CAPCAUSE of a partition (R429). -/
def capcause (s : State) (part : Nat) : D64 :=
  BitVec.ofNat 64 (s.power.level * 2 ^ 16 + (Tab.get {} s.parts part : Partition).sticky.toNat * 2 ^ 8 + capCurrent s part)

/-- A current bit sets its sticky bit (R429). -/
def latchSticky (s : State) : State :=
  { s with parts := s.parts.map fun p => (p.1, { p.2 with sticky := p.2.sticky ||| BitVec.ofNat 5 (capCurrent s p.1) }) }

/-! ## Meanings -/

/-- R429: WRSR of CAPCAUSE clears the written sticky bits for the whole partition; a limit that still demands the clock sets
its bit again. Arguments: a partition, b the bits written. -/
def execCapcauseW1c (s : State) : Res :=
  let bits := BitVec.ofNat 5 (s.args.b / 2 ^ 8)
  .next (latchSticky { s with parts := s.parts.map fun p =>
    if p.1 = s.args.a then (p.1, { p.2 with sticky := p.2.sticky &&& ~~~bits }) else p })

/-- R426: a hall cap frame is dropped and counted, or its level is in force. Arguments: a level, b sequence number, c tag. -/
def execHallCapFrame (s : State) : Res :=
  let l := s.args.a; let n := s.args.b
  if l < 16 ∧ Config.verifies 3 (s.args.c * 2 ^ 72 + n * 2 ^ 4 + l) ∧ (!s.power.accepted ∨ n > s.power.sequence) then
    .next (latchSticky { s with power := { s.power with level := l, sequence := n, accepted := true } })
  else .next { s with power := { s.power with dropped := s.power.dropped + 1 } }

/-- R427, R428: the hub burns the energy that a partition's bangles used in a millisecond; the caps demand their clocks: a cap
that is exceeded demands some clock below the nominal one, which the spec leaves open. Arguments: a partition, b quanta of
class 255. [DESIGN CHOICE, log entry 42] -/
def execEnergyBurn (s : State) : Res :=
  let part := s.args.a; let q := s.args.b
  match Tab.find s.parts part with
  | none => .next s
  | some p =>
    let e := entryOf s p.account
    let s := if p.account ≠ 0 ∧ e.type = 3 ∧ !e.poison ∧ e.bal - (q : Int) ≥ balMin then addBal s p.account (-(q : Int)) else s
    let watts := q * 1000 / 2 ^ 20
    let (n, s) := nextFree s
    let (m, s) := nextFree s
    let clk := Config.freeChoice m % Config.nominalClock
    let cut := Config.freeChoice n % Config.nominalClock
    let p : Partition := { p with watts := watts, partClk := if p.cap ≠ 0 ∧ p.cap < watts then some cut else none }
    let s : State := { s with parts := Tab.put s.parts part p }
    let total := (s.parts.map fun p => p.2.watts).sum
    .next (latchSticky { s with power := { s.power with module := if Config.packagePower < total then some clk else none } })

/-- R427: a sensed supply sag stretches the clock of a die. Arguments: a die, b the clock in kHz. -/
def execSupplySag (s : State) : Res := .next (latchSticky (modDie s s.args.a fun d => { d with sag := some s.args.b }))

/-- R427: a hot die lowers its clock. Arguments: a die, b the clock in kHz. -/
def execThermalLimit (s : State) : Res := .next (latchSticky (modDie s s.args.a fun d => { d with thermal := some s.args.b }))

/-- R429: the sag ends; the sticky bit stays. Arguments: a die. -/
def execSupplySagEnds (s : State) : Res := .next (latchSticky (modDie s s.args.a fun d => { d with sag := none }))

/-- R427: the die cools. Arguments: a die. -/
def execThermalLimitEnds (s : State) : Res := .next (latchSticky (modDie s s.args.a fun d => { d with thermal := none }))

end Sys2Proof.Machine
end

