-- ==== Sys2Proof/Machine/Sys.lean ====
section
/-! DEFINITION. The system unit (R131 to R135), the system registers (R105 to R110, R117, R122, R245, R397, R398, R429), idle
ticks, due results and the holder limit (R115 to R120, R160). -/

namespace Sys2Proof.Machine

/-! ## Reading system registers -/

/-- LATTAB (R122). -/
def lattab (s : State) (x : Ctx) : D64 :=
  BitVec.ofNat 64 (bit x.sys.retimed 4 + bit x.sys.scb 3 + bit s.stepB 1 + bit x.sys.ltb 0)

def BankState.code : BankState → Nat
  | .clean => 0 | .read => 1 | .fresh => 2 | .lost => 3

/-- TCKPT (R109). -/
def tckpt (s : State) (c : Nat) : D64 :=
  let x := ctxOf s c
  let wsel := ((List.range 4).map fun n => bit ((coreOf s (ctxCore c)).accs[n]?.getD {}).work1 (16 + n)).sum
  let acc := ((List.range 8).map fun i => (x.banks[i]?.getD .clean).code * 4 ^ i).sum
  let always := x.sys.rolls * 2 ^ 32 + x.sys.impl * 2 ^ 24 + wsel
  BitVec.ofNat 64 (if x.sys.ckmode = 1 then x.sys.rpc * 2 ^ 44 + bit (x.banks.toList.any (· == .lost)) 43 + always + acc else always)

/-- WSCAL (R245): one bank after another from OFFSET, 512 die cycles each (R244). -/
def wscal (s : State) (die : Nat) : D64 :=
  let t := (dieOf s die).cycle
  BitVec.ofNat 64 (16 * die * 2 ^ 32 + (16 * die + t / 512) % 64 * 2 ^ 15 + t % 32768)

/-- CODEUSE (R74). -/
def codeuse (s : State) (c : Nat) : D64 :=
  let k := coreOf s (ctxCore c)
  match kernelOf s c with
  | none => BitVec.ofNat 64 (k.frames * 2 ^ 24 + k.chunks.length)
  | some y =>
    let pc := (ctxOf s c).pc
    let seg := match residualAt y pc with | some r => r.base / 16384 | none => (segOf y pc).getD 0
    BitVec.ofNat 64 (seg % 64 * 2 ^ 32 + k.frames * 2 ^ 24 + y.chunks.length * 2 ^ 16 + k.chunks.length)

def isStore : Withheld → Bool
  | .store _ => true
  | _ => false

/-- Withheld stores and commands (R96). -/
def heldStores (x : Ctx) : Nat := (x.held.filter isStore).length
def heldCmds (x : Ctx) : Nat := (x.held.filter fun w => !isStore w).length

/-- SPST (R110). -/
def spst (x : Ctx) : D64 := BitVec.ofNat 64 (heldStores x * 2 ^ 24 + heldCmds x * 2 ^ 16 + spanBound x * 2 ^ 8 + freeOut x)

/-- The system register of a number (R105). -/
def readSys (s : State) (c n : Nat) : D64 :=
  let x := ctxOf s c
  match n with
  | 0x0 => BitVec.ofNat 64 x.lsc
  | 0x1 => x.sys.flg
  | 0x2 => x.sys.dwp
  | 0x3 => x.sys.ckmode
  | 0x4 => lattab s x
  | 0x5 => BitVec.ofNat 64 s.feat
  | 0x6 => capcause s (ctxPart s c)
  | 0x7 => x.sys.trapstat
  | 0x8 => x.sys.trappc
  | 0x9 => x.sys.trapopc
  | 0xA => x.sys.trapiter
  | 0xB => tckpt s c
  | 0xC => wscal s (ctxDie c)
  | 0xD => codeuse s c
  | _ => spst x

/-- An RDSR or WRSR names a register of R105. -/
def sysRegCheck : Check := fun _ _ o => if o.a64.toNat > 0xE then some .illegalSocket else none

/-- The die's calendar as an RDSR of WSCAL finds it: some cycle from the last one known to the end of its slot-table slot (R245).
[DESIGN CHOICE, log entry 15] -/
def dieNow (s : State) (die : Nat) : State :=
  let (n, s) := nextFree s
  modDie s die fun d => { d with cycle := d.cycle + Config.freeChoice n % (64 - d.cycle % 64) }

/-- R134: RDSR. -/
def execSysRdsr (m : Mv) (s : State) : Res :=
  trigger s m .sys 0x24A sysRegCheck fun s c o =>
    let s := if o.a64 = 0xC then dieNow s (ctxDie c) else s
    let v := readSys s c o.a64.toNat
    modCtx s c fun x => addResult x .sys 2 (some (v.setWidth 4096, BitVec.allOnes 4096)) none

/-! ## Writing system registers -/

def sysReadOnly (n : Nat) : Bool := n == 0 || n == 4 || n == 5 || (decide (9 ≤ n) && decide (n ≤ 0xE))

/-- The bits of TRAPSTAT that are not reserved (R397). -/
def trapstatMask : D64 := 0x00FFFFFFFCFFFF1F#64

/-- A value sets a reserved bit or is a reserved encoding of register `n` (R106). -/
def sysReserved (n : Nat) (b : D64) : Bool :=
  match n with
  | 0x1 => b &&& ~~~flgMask != 0
  | 0x2 => decide (b.toNat > 2)
  | 0x3 => decide (b.toNat > 1)
  | 0x6 => b &&& ~~~0x00000000000F1F1F#64 != 0
  | 0x7 => b &&& ~~~trapstatMask != 0 || decide ((b.extractLsb' 0 5).toNat ≥ 0x16)
  | _ => b.extractLsb' 20 44 != 0

/-- WRSR's checks, in the order of R134. -/
def wrsrCheck : Check := firstOf [sysRegCheck,
  fun _ _ o => if sysReadOnly o.a64.toNat then some .privilege else none,
  fun _ _ o => if sysReserved o.a64.toNat o.b64 then some .bounds else none]

/-- An event at the end of the bundle. -/
def atEnd (x : Ctx) (i : Instr) (c : Nat) : Ctx := addTodo x (.event { what := i, args := { a := c } })

/-- R134, R87, R93: WRSR. -/
def execSysWrsr (m : Mv) (s : State) : Res :=
  trigger s m .sys 0x24B wrsrCheck fun s c o =>
    let b := o.b64
    let part := ctxPart s c
    modCtx s c fun x =>
      match o.a64.toNat with
      | 0x1 => { x with sys := { x.sys with flg := b } }
      | 0x2 => modFrame x fun f => { f with dwp := some b }
      | 0x3 => if x.sys.ckmode = b then x else atEnd x (if b = 1 then .ckmodeEnable else .ckmodeDisable) c
      | 0x6 => modFrame x fun f => { f with todo := .event { what := .capcauseW1c, args := { a := part, b := b.toNat } } :: f.todo }
      | 0x7 => { x with sys := { x.sys with trapstat := b } }
      | _ => { x with sys := { x.sys with trappc := b } }

/-- R135: FENCE. [DEDUCED, log entry 35] -/
def execSysFence (m : Mv) (s : State) : Res :=
  trigger s m .sys 0x24C (fun _ _ o => if o.a64.extractLsb' 2 62 ≠ 0 then some .bounds else none) fun s c o =>
    modCtx s c fun x => { x with waits := x.waits ++ (if o.a64.getLsbD 0 then [.storesTo x.seq] else []) ++
                                          (if o.a64.getLsbD 1 then [.asyncTo s.count] else []) }

/-! ## TRAP and TRET -/

/-- R132: TRAP, after its bundle; with checkpoint mode on it stands in a checkpoint bundle. [DEDUCED, log entry 19] -/
def execSysTrap (m : Mv) (s : State) : Res :=
  trigger s m .sys 0x248 eagerCheck fun s c o =>
    match (ctxOf s c).frame with
    | none => s
    | some f =>
      let t : TrapInfo := { code := .software, sock := 0x248, slot := f.cur, arg := (o.a64.extractLsb' 0 16).toNat }
      let s := settleBundle s c false
      enterTrap s c t (ctxOf s c).pc .none (haltHeld f) (some f.pos)

/-- R133, R396: TRET; BAD_STATUS is recorded at the faulting bundle. A HALT in its bundle ends the context and the return does not
take place. -/
def execSysTret (m : Mv) (s : State) : Res :=
  trigger s m .sys 0x249 noCheck fun s c _ =>
    let x := ctxOf s c
    match x.frame with
    | none => s
    | some f =>
      let t : TrapInfo := { code := .tretOutside, sock := 0x249, slot := f.cur }
      if !x.handler then
        let halt := if ckOn x && !f.ck then none else haltHeld f
        let s := settleBundle s c false
        enterTrap s c t (ctxOf s c).pc .none halt (some f.pos)
      else if x.sys.trapstat &&& ~~~trapstatMask ≠ 0 then enterTrap s c { t with code := .badStatus } f.pos
      else if (haltHeld f).isSome then s
      else modCtx s c fun x => modFrame x fun f => { f with todo := [.tret .start] }

/-! ## Ticks (R115 to R120, R160) -/

/-- R116: an idle tick of the last bundle elapses; not while a result is due (R119). A cycle in which the holder idles is none
in which it issues, and ends its YIELD (R115). Arguments: a context. -/
def execIdleTick (s : State) : Res :=
  let c := s.args.a
  let x := ctxOf s c
  if x.idle = 0 || x.frame.isSome || x.status != .running || (coreOf s (ctxCore c)).saving || x.stop || !ticksClear x then .next s
  else
    let s := setCtx s c { x with idle := x.idle - 1, lsc := x.lsc + 1 }
    .next (modCore s (ctxCore c) fun k => if ctxCore c * 4 + k.holder = c then { k with issued := 0, yielded := false } else k)

/-- The element of an operation that raised an enabled flag: the lowest such lane of a vector operation, element 0 of a
scalar one (R161, R166). [DEDUCED, log entry 22] -/
def trapElem (flg : D64) (e : InFlight) : Nat := if e.unit = .vec then (lowestLane (enabledFlags flg) e.lanes).getD 0 else 0

/-- The FP_TRAP of the operations delivered together: the enabled flags they raised, the lowest element (R160, R161). -/
def fpTrap (flg : D64) (l : List InFlight) : Option TrapInfo :=
  let hit := l.filter fun e => (match e.unit with | .al0 | .al1 | .mul | .vec => true | _ => false) && e.flags &&& enabledFlags flg != 0
  match hit.map (trapElem flg) with
  | [] => none
  | n :: ns => some { code := .fpTrap, elem := some (ns.foldl min n) }

/-- R118, R120, R159, R160: the results due at the context's tick that have arrived appear at their ports in trigger order,
of two of a unit at one tick the later; their flags and those of array operations whose tick has come enter FLG; an enabled
flag and late faults are trapped at the next boundary. Arguments: a context. -/
def execResultDue (s : State) : Res :=
  let c := s.args.a
  let x := ctxOf s c
  let due := x.infl.filter (ripe x)
  let ticks := x.aticks.filter (tickRipe x)
  if x.frame.isSome then .next s
  else
    let ordered := sortBy (fun a b => decide (a.due < b.due) || (a.due == b.due && decide (a.seq ≤ b.seq))) due
    let flg := ordered.foldl (fun g e => mergeFlags g e.flags) (ticks.foldl (fun g t => mergeFlags g t.flags) x.sys.flg)
    .next (setCtx s c { x with
      lat := (ordered.filter (shown due)).foldl deliver x.lat
      infl := x.infl.filter fun e => !ripe x e
      aticks := x.aticks.filter fun t => !tickRipe x t
      sys := { x.sys with flg := flg }
      late := x.late ++ ordered.filterMap (·.late) ++ (fpTrap flg ordered).toList })

/-- R115: the holder has issued in 1,024 consecutive cycles while another context was READY: the selector goes on as though it
were not READY. Arguments: a core. -/
def execHolderLimit (s : State) : Res :=
  let k := coreOf s s.args.a
  if k.issued ≥ Config.holderLimit then .next (modCore s s.args.a fun k => { k with yielded := true }) else .next s

end Sys2Proof.Machine
end

