-- ==== Sys2Proof/Machine/Link.lean ====
section
/-! DEFINITION. The `lnk` unit and the pipes (R363 to R368), and the physical arrival of results (R119, R366). -/

namespace Sys2Proof.Machine

/-! ## Pipe ends -/

/-- The kernel slot at the other end of a pipe. -/
def pipePeer (p : Pipe) (send : Bool) : Option Nat := if send then p.receiver else p.sender

/-- The contexts at a context's place of its launch's grid, in images too (R340). -/
def placeCtxs (s : State) (c : Nat) : List Nat :=
  match (ctxOf s c).launch.bind (launchOf s) with
  | none => []
  | some y => ((y.ctxs.find? fun p => p.2.contains c).map (·.2)).getD []

/-- The peer context of a pipe end in a gang: on the same core, of the peer's kernel (R363). -/
def peerCtx (s : State) (c : Nat) (p : Pipe) (send : Bool) : Option Nat :=
  match pipePeer p send with
  | none => none
  | some k => (placeCtxs s c).find? fun d => (ctxOf s d).launch == (ctxOf s c).launch && (ctxOf s d).kslot == k && d != c

/-- The context at the other end has halted (R366, R367); that of a peer module as the module has reported it. -/
def peerHalted (s : State) (c : Nat) (p : Pipe) (send : Bool) : Bool :=
  match p.peer, peerCtx s c p send with
  | some _, _ => match (ctxOf s c).launch.bind (launchOf s) with
    | some y => y.closed.contains (gridCore s c, p.number)
    | none => false
  | none, some d => (ctxOf s d).status == .halted
  | none, none => true

def peerGone (s : State) (p : Pipe) : Bool := match p.peer with | some (n, _) => NatSet.mem s.unreach n | none => false

/-- A pipe that the image binds, used by this kernel in this direction (R364). -/
def pipeCheck (send recv : Bool) : Check := fun s c o =>
  if o.a64.extractLsb' 8 56 ≠ 0 then some .bounds
  else match pipeOf s c o.a64.toNat with
    | none => some .bounds
    | some p =>
      let k := (ctxOf s c).kslot
      if (send && p.sender == some k) || (recv && p.receiver == some k) then none else some .bounds

/-- SEND's length (R364). -/
def sendCheck : Check := firstOf [pipeCheck true false,
  fun _ _ o => if o.c64.extractLsb' 10 54 ≠ 0 ∨ o.c64 = 0 ∨ o.c64.toNat > 512 then some .bounds else none]

/-- R365: SEND. Its `.r` is delivered too (R123), with a value that the spec does not state. [DESIGN CHOICE, log entry 61] -/
def execLnkSend (m : Mv) (s : State) : Res :=
  trigger s m .lnk 0x488 sendCheck fun s c o =>
    let (n, s) := nextFree s
    issueCmd (modCtx s c fun x => addResult x .lnk 2 (some (Config.freeVal n, BitVec.allOnes 4096)) (some 0)) c (.send o.a64.toNat (leBytes o.c64.toNat o.b.toNat)) true

/-! ## RECV (R366) -/

/-- The outcome of a RECV as the queue stands: the message it takes or its status; none while it waits. That the peer's node cannot be
reached is said before that its context has halted. [DESIGN CHOICE, log entry 16] -/
def recvOutcome (s : State) (c pipe : Nat) : Option (Option Message × D64) :=
  let place := pipePlace s c pipe
  match s.msgs.find? fun m => m.place == place with
  | some m => if m.here then some (some m, BitVec.ofNat 64 (m.data.length * 2 ^ 16)) else none
  | none =>
    match pipeOf s c pipe with
    | none => none
    | some p => if peerGone s p then some (none, 0x0B) else if peerHalted s c p false then some (none, 1) else none

/-- The oldest waiting RECV of the context on each pipe takes what there is (R366). -/
def recvOne (s : State) (c : Nat) (r : Nat × Nat) : State :=
  match recvOutcome s c r.2 with
  | none => s
  | some (msg, st) =>
    let v : Val := match msg with | some m => BitVec.ofNat 4096 (leNat m.data) | none => 0
    let s := modCtx s c fun x => fillResult { x with recvs := x.recvs.filter (· != r) } r.1 fun e =>
      { e with r := some (v, BitVec.allOnes 4096), st := some st, arrived := true }
    match msg with
    | some m => { s with msgs := s.msgs.filter fun k => k.id != m.id }
    | none => s

def recvAll (s : State) (c : Nat) : State := (ctxOf s c).recvs.foldl (fun s r => recvOne s c r) s

/-- R366: RECV, eager; not in a deterministic round (R360). -/
def execLnkRecv (m : Mv) (s : State) : Res :=
  trigger s m .lnk 0x489 (firstOf [eagerCheck, roundDenied, pipeCheck false true]) fun s c o =>
    let s := modCtx s c fun x =>
      { addResult x .lnk 4 (some (0, BitVec.allOnes 4096)) (some 0) 0 [] true with recvs := x.recvs ++ [(x.seq, o.a64.toNat)] }
    recvAll s c

/-- R367: LSTAT. Its `.st` is delivered too (R123), with a value that the spec does not state. [DESIGN CHOICE, log entry 61] -/
def execLnkLstat (m : Mv) (s : State) : Res :=
  trigger s m .lnk 0x48A (pipeCheck true true) fun s c o =>
    let (n, s) := nextFree s
    match pipeOf s c o.a64.toNat with
    | none => s
    | some p =>
      let send := p.sender == some (ctxOf s c).kslot
      let place := pipePlace s c p.number
      let v := bit (peerGone s p) 33 + bit (peerHalted s c p send) 32 +
        (if send then (Config.recvFlits - flitsAt s place) * 2 ^ 16
         else ((s.msgs.filter fun m => m.place == place && m.here).map fun m => flitsOf m.data.length).sum)
      modCtx s c fun x => addResult x .lnk 2 (some (BitVec.ofNat 4096 v, BitVec.allOnes 4096)) (some ((Config.freeVal n).setWidth 64))

/-! ## Events -/

/-- A message of a peer module arrives at the receiving end of a link, while that module's node can be reached and the queue has room for
its flits (R363, R365): `place` is the virtual core by 256 and the pipe. [DESIGN CHOICE, log entry 16] -/
def peerMessage (s : State) (l place data n : Nat) : State :=
  let here := (l, place / 256, place % 256)
  let link := (launchOf s l).bind fun y => y.image.pipes.find? fun p => p.number == place % 256 && p.receiver.isSome && p.peer.isSome
  match link with
  | some p =>
    if peerGone s p || decide (512 < n) || decide (Config.recvFlits < flitsAt s here + flitsOf n) then s
    else
      let (id, s) := fresh s
      { s with msgs := s.msgs ++ [{ id := id, place := here, data := leBytes n data, here := true }] }
  | none => s

/-- The peer context of a link in a peer module has halted, behind every message that it sent: RECVs that wait there complete (R366).
[DESIGN CHOICE, log entry 16] -/
def peerClosed (s : State) (l place : Nat) : State :=
  let s := modLaunch s l fun y => { y with closed := (place / 256, place % 256) :: y.closed }
  match (launchOf s l).bind fun y => y.ctxs[place / 256]? with
  | some p => p.2.foldl recvAll s
  | none => s

/-- R365: a message arrives, in issue order of its place; one for another module leaves this one. With d above 0 it comes from a peer
module: a the launch, b the place, c its data as a number, d its bytes, or 513 where the context that sends there has halted (R366).
Arguments: a message. [DESIGN CHOICE, log entry 16] -/
def execMessageArrive (s : State) : Res :=
  if s.args.d = 513 then .next (peerClosed s s.args.a s.args.b)
  else if s.args.d ≠ 0 then .next (peerMessage s s.args.a s.args.b s.args.c s.args.d) else
  match s.msgs.find? fun m => m.id == s.args.a && !m.here with
  | none => .next s
  | some m =>
    if (s.msgs.takeWhile fun k => k.id != m.id).any fun k => k.place == m.place && !k.here then .next s
    else
      let away := match launchOf s m.place.1 with
        | some y => y.image.pipes.any fun p => p.number == m.place.2.2 && (match p.peer with | some (n, _) => n != s.node | none => false) && p.receiver.isNone
        | none => false
      if away then .next { s with msgs := s.msgs.filter fun k => k.id != m.id }
      else .next { s with msgs := s.msgs.map fun k => if k.id = m.id then { k with here := true } else k }

/-- R119: a result physically arrives. A load takes its banks; a RECV takes its message; the result of a pipeline unit is there,
that of a withheld store with the fault that the store would meet (R201), that of APOP with a MATRIX_FAULT for the next boundary (R240);
results of engines come by their own events. Arguments: a context, b trigger number. -/
def execResultArrival (s : State) : Res :=
  let c := s.args.a; let q := s.args.b
  let x := ctxOf s c
  match x.ls.find? fun o => o.seq == q with
  | some o => if o.kind.reads && feProceeds s c o then .next (performLoad s c o) else .next s
  | none =>
    match x.recvs.find? fun r => r.1 == q with
    | some r => .next (if x.recvs.any fun p => p.2 == r.2 && decide (p.1 < r.1) then s else recvOne s c r)
    | none =>
      match x.infl.find? fun e => e.seq == q with
      | some e =>
        if e.engine || e.arrived || !(e.need.all (mstatReached s c)) then .next s
        else
          let late := ((storesOf x.going ++ storesOf x.held).filter (·.seq == q)).findSome? (storeFault s c)
          .next (modCtx s c fun x =>
            let y := fillResult x q fun e => { e with arrived := true, late := if late.isSome then late else e.late }
            if e.unit == .mat then { y with infl := fillList y.infl q fun e => { e with late := none }, late := y.late ++ e.late.toList } else y)
      | none => .next s

end Sys2Proof.Machine
end

