-- ==== Sys2Proof/Machine/Task.lean ====
section
/-! DEFINITION. Seeds and tasks: starting a context (R76, R77, R346), shards (R347 to R350), the `tsk` unit (R351 to R356), the
end of a task or a context (R129, R353), the tile walker (R358), deterministic rounds (R359 to R362) and seeds that
move (R369). -/

namespace Sys2Proof.Machine

/-! ## Starting a context (R76, R77, R346) -/

/-- Both faces of a register at a value. -/
def face {w : Nat} (v : BitVec w) : Face w := { vis := v, hid := v }

/-- The registers of a context at its start: `k` from the argument block, `g1` to `g6` as given (R76, R77, R346, R354). -/
def startRegs (args : List Byte) (live : List D64) : RegFile :=
  { g := (Vector.range 64).map fun n => if 1 ≤ n ∧ n ≤ 6 then face (live.getD (n - 1) 0) else {}
    k := (Vector.range 32).map fun n => face (BitVec.ofNat 64 (leNat ((args.drop (8 * n)).take 8))) }

/-- Where a context that starts at a position begins: in residual code at an entry point (R371). -/
def startPos (k : Option Kernel) (pos : Nat) (initial : Bool) : Nat :=
  match k with
  | none => pos
  | some k => if initial then ((k.resids.find? fun r => r.entry == pos).map (·.base)).getD pos else pos

/-- Start a context of launch `l` in kernel slot `kslot` at `pos` (R76, R346). -/
def startCtx (s : State) (c l kslot pos : Nat) (gang ckEn initial : Bool) (live : List D64) (task : Task) : State :=
  match launchOf s l with
  | none => s
  | some y =>
    let old := ctxOf s c
    let core := ctxCore c
    let k := (coreOf s core).kernels.find? fun k => k.launch == l && k.kslot == kslot
    let retimed : Bool := match k with | some k => k.retimed | none => false
    let en := ckEn || ckptPolicy s y.region
    let sys : SysRegs := { ckmode := if en then 1 else 0, scb := scbPolicy s y.region, retimed := retimed
                           ltb := if retimed then s.stepB else y.image.ltb }
    let x : Ctx := { status := .running, launch := some l, kslot := kslot, gang := gang, task := task
                     pc := startPos k pos initial, regs := startRegs y.args live, sys := sys
                     seq := old.seq, bundle := old.bundle, ls := old.ls }
    let x := if en then capture x x.pc 0 [] [] else x
    let s := modKernel s core l kslot fun k => { k with demand := k.demand.filter (fun d => d.1 != c), faulted := k.faulted.filter (· != c) }
    setCtx s c x

/-! ## Shards (R348, R349) -/

/-- The hash of R348. -/
def keyHash (key : Nat) : Nat := (key / 2 ^ 6 % 2 ^ 16) ^^^ (key / 2 ^ 22 % 2 ^ 16) ^^^ (key / 2 ^ 38 % 2 ^ 16) ^^^ (key / 2 ^ 54 % 4)

/-- The shard of a key; `own` is where a key of 0 goes (R348). -/
def shardOf (y : Launch) (key own : Nat) : Nat := if key = 0 then own else keyHash key % max 1 y.shards.length

/-- The virtual bangle of a context in its launch (R339), also of one that stands in an image: by its place in the grid. -/
def virtualBangle (y : Launch) (c : Nat) : Nat := ((y.ctxs.findIdx? fun p => p.2.contains c).getD 0) / max 1 y.perB

def kernelFeat (y : Launch) (slot : Nat) : Nat := ((y.image.kernels[slot]?).map (·.feat)).getD 0

/-- Mask `m` covers mask `q` (R409). -/
def covers (m q : Nat) : Bool := q &&& m == q

/-- A seed that a context may take from a shard (R344, R349, R354, R359). -/
def mayTake (s : State) (y : Launch) (c : Nat) (own : Bool) (d : Seed) : Bool :=
  covers s.feat (kernelFeat y d.slot) && (own || (!d.pin && d.only.isNone)) &&
    (match d.only with | some k => k == ctxCore c | none => true) && (!y.det || d.round == y.round)

/-- The contexts that a launch holds. -/
def heldCtxs (y : Launch) : List Nat := y.ctxs.flatMap (·.2)

/-- Whether some shard holds a seed that the context may take. -/
def seedFor (s : State) (y : Launch) (c : Nat) : Bool :=
  y.shards.zipIdx.any fun p => p.1.any (mayTake s y c (p.2 == virtualBangle y c))

/-- Contexts of the launch wake for a seed they may take (R349): a halted one begins a turn, a seeking one that has passed the
shard begins another after this one. -/
def wakeSeekers (s : State) (l shard : Nat) (d : Seed) : State :=
  match launchOf s l with
  | none => s
  | some y =>
    let n := max 1 y.shards.length
    (heldCtxs y).foldl (fun s c =>
      let v := virtualBangle y c
      if !mayTake s y c (shard == v) d then s
      else modCtx s c fun x => match x.status with
        | .halted => { x with status := .seeking 0 false }
        | .seeking t a => { x with status := .seeking t (a || decide ((shard + n - v) % n < t)) }
        | _ => x) s

/-- A seed enters a shard, behind those that are there (R349). -/
def addSeed (s : State) (l shard : Nat) (d : Seed) : State :=
  wakeSeekers (modLaunch s l fun y => { y with shards := y.shards.modify shard (· ++ [d]) }) l shard d

/-- The SEEDB budget has a unit free (R337, R347). -/
def seedRoom (s : State) (r : Nat) : Bool :=
  let b := budgetRegion s r 10
  decide ((regionOf s b).seeds < (rcbWord s b 10).toNat)

def takeSeedUnit (s : State) (r : Nat) : State := modRegion s (budgetRegion s r 10) fun x => { x with seeds := x.seeds + 1 }

/-- A dispatch fault for a seed: its unit of SEEDB is free, and a launch that the fault ends names the seed's kernel (R336, R343). -/
def dispatchFault (s : State) (r l : Nat) (d : Seed) : State :=
  modLaunch (faultDomain (freeSeed s r) r l none) l fun y => { y with kfail := if y.faulted then d.slot else y.kfail }

/-- Place a seed in a launch: a dispatch fault where no core covers its kernel (R344). [DEDUCED, log entry 32] -/
def placeSeed (s : State) (l shard : Nat) (d : Seed) : State :=
  match launchOf s l with
  | none => s
  | some y => if covers s.feat (kernelFeat y d.slot) then addSeed s l shard d else dispatchFault s y.region l d

/-- A context that looks for work can ask: it stands on a core, and neither the core nor the context is stopped. -/
def canAsk (s : State) (c : Nat) : Bool := decide (c < Config.contexts) && !(coreOf s (ctxCore c)).saving && !(ctxOf s c).stop

/-- The context asks the shard before every other that asks it now (R350). -/
def firstAsker (s : State) (y : Launch) (c shard : Nat) : Bool :=
  let n := max 1 y.shards.length
  let rank := fun (d : Nat) => if virtualBangle y d = shard then d else 2048 + d
  !(heldCtxs y).any fun d =>
    match (ctxOf s d).status with
    | .seeking t _ => canAsk s d && decide (rank d < rank c) && (virtualBangle y d + t) % n == shard &&
        (y.shards.getD shard []).any (mayTake s y d (virtualBangle y d == shard))
    | _ => false

/-- R349, R350, R346: a context without work asks the next shard of its turn. Arguments: a context. -/
def execSeedPickup (s : State) : Res :=
  let c := s.args.a
  let x := ctxOf s c
  match x.status, x.launch with
  | .seeking t again, some l =>
    match launchOf s l with
    | none => .next s
    | some y =>
      let n := max 1 y.shards.length
      let j := (virtualBangle y c + t) % n
      if y.stage != .placed || y.faulted || (regionOf s (budgetRegion s y.region 8)).heldC || !canAsk s c || !firstAsker s y c j then .next s
      else match (y.shards.getD j []).findIdx? (mayTake s y c (t == 0)) with
        | some i =>
          match (y.shards.getD j [])[i]? with
          | none => .next s
          | some d =>
            let s := modLaunch s l fun y => { y with shards := y.shards.modify j (·.eraseIdx i) }
            let live := (d.live ++ [0, 0, 0, 0, 0]).take 5 ++ d.g6.toList
            .next (startCtx s c l d.slot d.pos false d.ckEn d.initial live { seed := some d, id := d.task, round := d.round })
        | none =>
          .next (setCtx s c { x with status := if t + 1 < n then .seeking (t + 1) again else if again then .seeking 0 false else .halted })
  | _, _ => .next s

/-! ## The record of a seed (R345, R352, R369) -/

def word64 (bs : List Byte) (i : Nat) : D64 := BitVec.ofNat 64 (leNat ((bs.drop (8 * i)).take 8))

/-- A seed from its 64 bytes (R345). -/
def seedOf (bs : List Byte) : Seed :=
  let s0 := word64 bs 0
  { slot := (s0.extractLsb' 56 8).toNat, ckEn := s0.getLsbD 52, pin := s0.getLsbD 53, move := s0.getLsbD 54
    round := (s0.extractLsb' 20 32).toNat, pos := (s0.extractLsb' 0 20).toNat
    key := ((word64 bs 1).extractLsb' 0 56).toNat, task := word64 bs 2, live := (natsFrom 3 5).map (word64 bs) }

/-- The must-be-zero bits of a seed record. -/
def seedClean (bs : List Byte) : Bool := !(word64 bs 0).getLsbD 55 && (word64 bs 1).extractLsb' 56 8 == 0

/-- The tiles of a MOVE list, with whether it is well formed (R369). -/
def tilesOf (bs : List Byte) : List (Nat × Nat × Nat) × Bool :=
  let m0 := word64 bs 0
  let n := (m0.extractLsb' 16 2).toNat
  let m7 := word64 bs 7
  let len := fun t => (m7.extractLsb' (21 * t) 21).toNat
  let src := fun t => word64 bs (1 + 2 * t)
  let dst := fun t => word64 bs (2 + 2 * t)
  ((List.range n).map fun t => ((src t).toNat, (dst t).toNat, len t),
   m0.extractLsb' 18 46 == 0 && m0.extractLsb' 13 3 == 0 && !m7.getLsbD 63 &&
     (List.range 3).all fun t =>
       if t < n then (src t).extractLsb' 56 8 == 0 && (dst t).extractLsb' 56 8 == 0 && len t != 0
       else src t == 0 && dst t == 0 && len t == 0)

/-- The kernel slots installed for a launch (R338). -/
def installed (s : State) (c slot : Nat) : Bool :=
  match (ctxOf s c).launch with
  | none => false
  | some l => match launchOf s l with | some y => y.klist.contains slot | none => false

def gangCheck : Check := fun s c _ => if (ctxOf s c).gang then some .privilege else none

/-- The record at `a` as the context sees it. -/
def recordAt (s : State) (c a n : Nat) : List Byte := viewBytes s c (ctxOf s c).bundle a n

/-- POST's checks, in the order of R352. [DEDUCED, log entry 32] -/
def postCheck : Check := firstOf [gangCheck, fun s c o =>
  let a := o.a64.toNat
  let area := areaOf s c
  if a ≥ 2 ^ 20 ∨ a + 64 > area then some .spadRange
  else
    let bs := recordAt s c a 64
    let d := seedOf bs
    if d.move ∧ a + 128 > area then some .spadRange
    else if a % 64 ≠ 0 then some .misaligned
    else if !seedClean bs ∨ !installed s c d.slot ∨ (d.move ∧ !(tilesOf (recordAt s c (a + 64) 64)).2) then some .bounds
    else none]

/-- The module node that a MOVE record names. -/
def moveNode (bs : List Byte) : Nat := ((word64 bs 0).extractLsb' 0 13).toNat

/-- R352, R369: POST, placed as an eager trigger. -/
def execTskPost (m : Mv) (s : State) : Res :=
  trigger s m .tsk 0x448 (firstOf [eagerCheck, postCheck]) fun s c o =>
    let a := o.a64.toNat
    let r := ctxRegion s c
    match (ctxOf s c).launch with
    | none => s
    | some l =>
      match launchOf s l with
      | none => s
      | some y =>
        let d := seedOf (recordAt s c a 64)
        let d : Seed := { d with round := if y.det then (y.round + 1) % 2 ^ 32 else d.round }
        let list := recordAt s c (a + 64) 64
        let tiles := (tilesOf list).1
        let cost := (tiles.map fun t => t.2.2).sum
        let br := budgetRegion s r 9
        let st : Nat := if !seedRoom s r then 1
          else if d.move ∧ (!s.nodes.contains (moveNode list) ∨ NatSet.mem s.unreach (moveNode list)) then 2
          else if d.move ∧ (regionOf s br).copyb < cost then 3
          else 0
        let s := modCtx s c fun x => addResult x .tsk 2 (some (0, BitVec.allOnes 4096)) (some (BitVec.ofNat 64 st))
        if st ≠ 0 then s
        else
          let s := takeSeedUnit s r
          if d.move then
            let s := modRegion s br fun x => { x with copyb := x.copyb - cost }
            let (id, s) := fresh s
            { s with moves := s.moves ++ [{ id := id, launch := l, region := r, node := moveNode list, seed := d, tiles := tiles
                                            gen := (spaceOf s (asidOf s r)).gen, shard := shardOf y d.key (virtualBangle y c)
                                            ctx := c, ov := roundCtx s c }] }
          else placeSeed s l (shardOf y d.key (virtualBangle y c)) d

/-- R355: TID. -/
def execTskTid (m : Mv) (s : State) : Res :=
  trigger s m .tsk 0x44B noCheck fun s c _ =>
    modCtx s c fun x => addResult x .tsk 2 (some (x.task.id.setWidth 4096, BitVec.allOnes 4096))
      (some (if x.gang then 0 else BitVec.ofNat 64 x.task.round))

/-! ## The ends of a task -/

/-- Put the end of the task behind the span action; a HALT of the bundle ends the task by itself. -/
def endAfter (x : Ctx) (k : EndKind) : Ctx :=
  match x.frame with
  | some f => if (haltHeld f).isSome then x else addTodo x (.endTask k)
  | none => x

/-- R353: TDONE. -/
def execTskTdone (m : Mv) (s : State) : Res :=
  trigger s m .tsk 0x44A gangCheck fun s c _ => modCtx s c fun x => endAfter x .tdone

/-- RNDCMT is legal in a deterministic region (R356). -/
def rndcmtCheck : Check := fun s c _ => if detOf s (ctxRegion s c) then none else some .bounds

/-- R356: RNDCMT. -/
def execTskRndcmt (m : Mv) (s : State) : Res :=
  trigger s m .tsk 0x44C rndcmtCheck fun s c _ => modCtx s c fun x => endAfter x .rndcmt

/-- The condition that WAITC's operands name (R354). -/
def waitcCond (c : Nat) (o : Opnds) : ContCond :=
  let a := (o.a64.extractLsb' 0 30).toNat
  match (o.a64.extractLsb' 62 2).toNat with
  | 0 => .counter a o.c64
  | 1 => .barrier a (o.a64.getLsbD 32)
  | _ => .tag (ctxCore c) (o.a64.extractLsb' 0 20).toNat

/-- WAITC's checks (R354); an address that names no entry is a malformed operand (R281). -/
def waitcCheck : Check := firstOf [gangCheck, fun s c o =>
  let a := o.a64
  let k := (a.extractLsb' 62 2).toNat
  let bad : Bool := match k with
    | 0 => a.extractLsb' 30 32 != 0 || !semAddrOk s (a.extractLsb' 0 30).toNat
    | 1 => a.extractLsb' 33 29 != 0 || a.extractLsb' 30 2 != 0 || o.c64 != 0 || !semAddrOk s (a.extractLsb' 0 30).toNat
    | 2 => a.extractLsb' 20 42 != 0 || o.c64 != 0
    | _ => true
  if bad ∨ o.b64.extractLsb' 20 44 ≠ 0 then some .bounds
  else if k = 2 then
    let p := (a.extractLsb' 0 20).toNat
    if p + 8 > areaOf s c then some .spadRange else if p % 8 ≠ 0 then some .misaligned else none
  else none]

/-- R354: WAITC captures the visible faces of `g1` to `g5`. -/
def execTskWaitc (m : Mv) (s : State) : Res :=
  trigger s m .tsk 0x449 waitcCheck fun s c o =>
    modCtx s c fun x =>
      match x.frame, x.launch with
      | some f, some l =>
        let live := (natsFrom 1 5).map fun n => (f.regs.read (BitVec.ofNat 12 n)).setWidth 64
        let old := x.task.seed.getD { slot := x.kslot, live := [] }
        let d : Seed := { old with move := false, pos := o.b64.toNat, live := live, initial := false, g6 := none
                                   task := x.task.id, round := x.task.round
                                   only := match waitcCond c o with | .tag k _ => some k | _ => none }
        let k : Cont := { id := 0, launch := l, ctx := c, region := ctxRegion s c, cond := waitcCond c o, seed := d }
        endAfter { x with frame := some { f with cont := some k } } .waitc
      | _, _ => x

/-! ## The end of a task or a context (R129, R353, R356) -/

/-- Copy jobs, and tiles of moving seeds, that write into the context's overlay. -/
def roundJobs (s : State) (c : Nat) : Bool :=
  (s.dies.any fun d => d.2.jobs.any fun j => j.ov == some c) || s.moves.any fun m => m.ov == some c && !m.copied

/-- Asynchronous writes of the context that have not landed. -/
def asyncOwed (x : Ctx) : Bool := x.async.any fun a => !a.drop

/-- Step 1 of R129: every outstanding asynchronous write has landed, those of commands that were to issue before the end among them. -/
def endWrites (x : Ctx) : Bool := !asyncOwed x && x.going == []

/-- The waits behind the release of step 2: released commands have issued (their tokens are not waited for, but at RNDCMT, after which
the task goes on), array operations have completed (R238), in a deterministic round the task's own writes have performed, and
WAITC has a unit of SEEDB (R353). [DEDUCED, log entry 18] -/
def endReady (s : State) (c : Nat) (k : EndKind) : Bool :=
  let x := ctxOf s c
  x.going == [] && (k != .rndcmt || !asyncOwed x) && !((coreOf s (ctxCore c)).aq.any fun o => o.ctx == c) &&
    (!inRound s c || (x.ls == [] && !roundJobs s c)) &&
    (k != .waitc || x.task.seed.isSome || seedRoom s (ctxRegion s c))

/-- Steps 3 and 4 of R129: results in flight, latches and, where the context ends, the stacks; loads that nobody waits for. A context that
a fault ends in handler state keeps the state set aside (R399). [DEDUCED, log entry 50] -/
def dropWork (x : Ctx) (all : Bool) : Ctx :=
  let dead : Bool := match x.frame with | some f => f.dead | none => false
  let y : Ctx := { x with infl := [], lat := Vector.replicate 14 {}, waits := [], recvs := [], late := [], landed := []
                          ls := x.ls.filter fun o => o.writes != [] || o.tagWrite.isSome || o.withdraws
                          async := [] }
  if all then { y with link := [], loops := [], idle := 0, frame := none, shadow := none
                       aside := if dead then y.aside else none, handler := dead && y.handler
                       aticks := [], held := [] } else y

/-- A deterministic task submits its round's writes (R353, R356). -/
def submitRound (s : State) (c : Nat) : State :=
  let x := ctxOf s c
  match inRound s c, x.launch with
  | true, some l => modCtx (modLaunch s l fun y => { y with tasks := y.tasks ++ [⟨x.task.id, x.ov⟩] }) c fun x => { x with ov := {} }
  | _, _ => s

/-- The accumulators that a deterministic task has written hold free values after it: no value survives into another task (R360).
[DESIGN CHOICE, log entry 4] -/
def loseAccs (s : State) (c : Nat) : State :=
  if inRound s c then
    (ctxOf s c).wrote.foldl (fun s b =>
      let (n, s) := nextFree s
      modCore s (ctxCore c) fun k => setBank k (b / 2) (b % 2) (bankFrom (Config.freeWord n))) s
  else s

/-! ### Code and area that no context needs any more (R72, R196) -/

/-- The seeds of a launch that exist outside a task (R347). -/
def launchSeeds (s : State) (l : Nat) (y : Launch) : List Seed :=
  y.seeds ++ y.shards.flatten ++ (s.conts.filter fun k => k.launch == l).map (·.seed) ++ (s.moves.filter fun m => m.launch == l).map (·.seed)

/-- A context of the launch runs, or is saved without having halted. -/
def launchRuns (s : State) (y : Launch) : Bool := (heldCtxs y).any fun c => (ctxOf s c).status == .running || (ctxOf s c).status == .saved

/-- A kernel of a core is still needed: a context runs it there, a round has still to be merged (R361), or, outside a gang, a seed
that names it exists or a task runs that may yet post one (R72, R352). [DEDUCED, log entry 62] -/
def kernelNeeded (s : State) (core : Nat) (y : Launch) (k : Kernel) : Bool :=
  kernelCtxs s core k != [] || y.tasks != [] || (y.kind != .gang && (launchRuns s y || (launchSeeds s k.launch y).any (·.slot == k.kslot) ||
    (y.kind == .operator && decide (y.walker.next < y.walker.total) && y.walker.slot == k.kslot)))

/-- What a context has left for the banks has performed, but for what waits for a tag (R199, R204). [DEDUCED, log entry 50] -/
def storesDone (x : Ctx) : Bool := match x.ls with | [] => true | o :: _ => o.withdraws

/-- Nothing of the launch is to touch a core's scratchpad any more (R196, R280). -/
def areaQuiet (s : State) (l core : Nat) : Bool :=
  (natsFrom (core * 4) 4).all (fun c => (ctxOf s c).launch != some l || storesDone (ctxOf s c)) &&
    !s.dies.any fun d => d.2.jobs.any fun j => j.launch == l && (cardCores j).contains core

/-- Free the code space of kernels of a launch on a core. -/
def freeKernels (s : State) (l core : Nat) (slots : List Nat) : State :=
  modCore s core fun k =>
    let gone := k.kernels.filter fun y => y.launch == l && slots.contains y.kslot
    { k with
      kernels := k.kernels.filter fun y => !(y.launch == l && slots.contains y.kslot)
      chunks := k.chunks.filter fun c => !gone.any fun y => y.chunks.contains c
      frames := k.frames - (gone.map fun y => y.frames.length + y.resids.length).sum }

/-- Free the area of a launch on a core. -/
def freeArea (s : State) (l core : Nat) : State :=
  modCore s core fun k =>
    if k.area.any fun a => a.1 == l then { k with area := none, aq := [] } else k

/-- Free a context that a launch holds (R340). -/
def freeCtx (s : State) (l c : Nat) : State :=
  let x := ctxOf s c
  if x.launch = some l then
    modCore (setCtx s c { seq := x.seq, bundle := x.bundle }) (ctxCore c) fun k => { k with rrot := k.rrot.filter fun a => a.ctx != c }
  else s

/-- The launch has retired on a core: its area and its contexts there are free (R196, R340). -/
def leaveCore (s : State) (l : Nat) (y : Launch) (core : Nat) : State :=
  let here := (y.ctxs.filter fun q => q.1 == core).flatMap (·.2)
  let s := here.foldl (fun s c => freeCtx s l c) (freeArea s l core)
  modLaunch s l fun y => { y with ctxs := y.ctxs.map fun q => if q.1 = core then (core, []) else q }

/-- A launch that no core of a die holds any more has retired on the die: what served it alone in the specialisation cache is freed
(R383). -/
def leaveDie (s : State) (l die : Nat) : State :=
  if s.cores.any fun p => coreDie p.1 == die && p.2.kernels.any fun k => k.launch == l then s
  else modDie s die fun d => { d with cache := d.cache.filter fun e => !(e.own && e.users.contains l) }

/-- A launch retires kernel by kernel on a core (R72), and with its last kernel there go its area and its contexts (R196, R340). -/
def reclaimCore (s : State) (l : Nat) (y : Launch) (core : Nat) : State :=
  let own := (coreOf s core).kernels.filter fun k => k.launch == l
  let gone := (own.filter fun k => !kernelNeeded s core y k).map (·.kslot)
  if gone = [] then s
  else if gone.length < own.length then freeKernels s l core gone
  else if areaQuiet s l core then leaveDie (leaveCore (freeKernels s l core gone) l y core) l (coreDie core)
  else s

/-- R72, R196 on every core of a launch. -/
def reclaim (s : State) (l : Nat) : State :=
  match launchOf s l with
  | none => s
  | some y => if y.stage = .placed then (y.ctxs.map (·.1)).foldl (fun s k => reclaimCore s l y k) s else s

/-- What a context does after its task: a gang context is HALTED, any other looks for a seed (R353, R349). -/
def nextWork (s : State) (c : Nat) : State :=
  let s := modCtx s c fun x => { x with status := if x.gang then .halted else .seeking 0 false, task := {} }
  let s := serveDemands { s with active := if s.active = some c then none else s.active } (ctxCore c)
  match (ctxOf s c).launch with | some l => reclaim s l | none => s

/-- A context in RNDCMT (R356): it waits for the merge, at the position after the bundle. -/
def endRound (s : State) (c : Nat) : State :=
  let s := submitRound s c
  let s := modCtx s c fun x => dropWork x false
  let s := endBundle s c
  match (ctxOf s c).launch with
  | none => s
  | some l =>
    let s := modCtx s c fun x => { x with waits := x.waits ++ [.round l x.task.round] }
    modLaunch s l fun y => { y with waiting := y.waiting ++ [c] }

/-- A continuation is registered; it keeps the seed's unit of SEEDB (R353, R354). -/
def register (s : State) (c : Nat) (k : Cont) : State :=
  let s := if (ctxOf s c).task.seed.isSome then s else takeSeedUnit s k.region
  let (id, s) := fresh s
  { s with conts := s.conts ++ [{ k with id := id }] }

/-- The task's submission and the end of its accumulators' values, its seed's unit where `free`, and the context's next work. -/
def taskOver (s : State) (c : Nat) (free : Bool) (ticks : Nat) : State :=
  let s := loseAccs (submitRound s c) c
  let s := if free && (ctxOf s c).task.seed.isSome then freeSeed s (ctxRegion s c) else s
  nextWork (modCtx s c fun x => { dropWork x true with lsc := x.lsc + ticks }) c

/-- Steps 3 on of the end of a task or a context; the bundle takes its own tick, and the end that R336 makes, which has no bundle,
takes none. [DEDUCED, log entry 18] -/
def finishTask (s : State) (c : Nat) (k : EndKind) : State :=
  let x := ctxOf s c
  match x.frame, k with
  | none, _ => s
  | some _, .rndcmt => endRound s c
  | some f, .halt =>
    let s := match x.launch with | some l => modLaunch s l fun y => setExit y c f.exit | none => s
    taskOver s c true (if f.slots = [] then 0 else 1)
  | some _, .tdone => taskOver s c true 1
  | some f, .waitc => taskOver (match f.cont with | some k => register s c k | none => s) c false 1

/-- The end of a task or a context (R129, R353): it waits for its asynchronous writes, releases what is withheld, waits for what that
leaves, and ends. -/
def endTask (s : State) (c : Nat) (k : EndKind) : State :=
  match (ctxOf s c).frame with
  | none => s
  | some f =>
    if !f.freed && !endWrites (ctxOf s c) then suspend s c (.endTask k)
    else
      let s := if f.freed then s else
        let s := modCtx s c fun x => modFrame x fun f => { f with freed := true }
        if (ctxOf s c).sys.ckmode = 1 then releaseAll s c else s
      if !endReady s c k then suspend s c (.endTask k) else finishTask s c k

/-- The round in force has ended: nothing of it is queued, on its way, held by the walker or running (R359). -/
def roundOver (s : State) (l : Nat) (y : Launch) : Bool :=
  !(y.shards.any fun q => q.any fun d => d.round == y.round) &&
    !(s.moves.any fun m => m.launch == l && decide (m.seed.round ≤ y.round)) &&
    !(y.kind == .operator && decide (y.walker.next < y.walker.total)) && y.seeds == [] &&
    (heldCtxs y).all fun c => (ctxOf s c).task.seed.isNone || (ctxOf s c).status == .halted || y.waiting.contains c

/-- The machine as a continuation's condition is judged: in a deterministic launch as of the round's start, for its seed runs in the round
after; as it stands where the round holds no task at all (R328, R354, R359). [DEDUCED, log entry 31] -/
def contView (s : State) (l : Nat) (y : Launch) : State :=
  if y.det && !(roundOver s l y && y.tasks == [] && y.waiting == []) then match y.base with | some b => roundView s b | none => s else s

/-- A continuation enters its shard as a seed; in a deterministic launch for the next round (R352, R354). -/
def enterCont (s : State) (k : Cont) (v : D64) : State :=
  let s := { s with conts := s.conts.filter fun q => q.id != k.id }
  match launchOf s k.launch with
  | none => s
  | some y =>
    let own := virtualBangle y k.ctx
    let shard := match k.cond with | .tag _ _ => own | _ => shardOf y k.seed.key own
    addSeed s k.launch shard { k.seed with g6 := some v, round := if y.det then (y.round + 1) % 2 ^ 32 else k.seed.round }

/-- The launch is over for its seeds: it has been killed, and they go with its retirement (R336). -/
def seedsDead (s : State) (l : Nat) : Bool := (launchOf s l).any (·.faulted)

/-- R354: the condition of a continuation holds, or its watch could not be armed: it enters a shard as a seed.
Arguments: a continuation. -/
def execContinuationEnter (s : State) : Res :=
  match s.conts.find? fun k => k.id == s.args.a with
  | none => .next s
  | some k =>
    if seedsDead s k.launch then .next s else
    let view := match launchOf s k.launch with | some y => contView s k.launch y | none => s
    match (match k.status with | some v => some v | none => condTest view k.region k.cond) with
    | none => .next { s with conts := s.conts.map fun q => if q.id = k.id then { q with armed := true } else q }
    | some v => .next (enterCont s k v)

/-! ## The tile walker (R357, R358) -/

/-- The level indices of step `i`, the last level varying fastest (R358). -/
def levelIndices : List (Nat × List Nat) → Nat → List Nat
  | [], _ => []
  | (_, _) :: ls, i =>
    let inner := (ls.map (·.1)).foldl (· * ·) 1
    i / inner :: levelIndices ls (i % inner)

/-- The value of cursor `k` at step `i` (R358). -/
def cursor (w : Walker) (k i : Nat) : D64 :=
  let ix := levelIndices w.levels i
  BitVec.ofNat 64 (w.bases.getD k 0).toNat +
    ((w.levels.zip ix).map fun p => BitVec.ofNat 64 p.2 * (BitVec.ofNat 32 (p.1.2.getD k 0)).signExtend 64).foldl (· + ·) 0

/-- The seed of step `i` (R358). -/
def walkSeed (w : Walker) (i : Nat) : Seed :=
  let cur := (List.range 4).map fun k => cursor w k i
  { slot := w.slot, ckEn := w.ckEn, pin := w.pin, pos := w.pos, key := ((cur.getD w.keyc 0).extractLsb' 0 56).toNat
    task := BitVec.ofNat 64 i, live := BitVec.ofNat 64 i :: cur }

/-- R358: the walker creates the next step's seed when SEEDB has a unit free; a task launch's initial seeds come to exist
in the same way. Arguments: a launch. -/
def execWalkerStep (s : State) : Res :=
  let l := s.args.a
  match launchOf s l with
  | none => .next s
  | some y =>
    if y.stage != .placed || y.faulted || !seedRoom s y.region then .next s
    else match y.kind, y.seeds with
    | .operator, _ =>
      if y.walker.total ≤ y.walker.next then .next s
      else
        let d := walkSeed y.walker y.walker.next
        let s := takeSeedUnit (modLaunch s l fun y => { y with walker := { y.walker with next := y.walker.next + 1 } }) y.region
        .next (placeSeed s l (shardOf y d.key 0) d)
    | .task, d :: ds =>
      let s := takeSeedUnit (modLaunch s l fun y => { y with seeds := ds }) y.region
      .next (placeSeed s l (shardOf y d.key 0) d)
    | _, _ => .next s

/-! ## Deterministic rounds (R359 to R362) -/

/-- The bytes that a task's overlay touches, by space and address; tag changes stand apart from data, as space 3. -/
def touchedWords (o : Overlay) : List (Nat × Nat) :=
  o.bytes.map (·.1) ++ o.tags.map fun t => (3, 4 * t.1)

def sortTasks (l : List RoundTask) : List RoundTask := sortBy (fun a b => decide (a.id.toNat ≤ b.id.toNat)) l

/-- A task changes the 4-byte word of a touched byte. -/
def touchesWord (p : Nat × Nat) (t : RoundTask) : Bool := (touchedWords t.ov).any fun q => q.1 == p.1 && q.2 / 4 == p.2 / 4

/-- The lowest byte that lies in a word which two tasks change, MEM before CORE (R361, R362). [DEDUCED, log entry 31] -/
def lowestClash (l : List RoundTask) : Option (Nat × Nat) :=
  let hits := (l.flatMap fun t => touchedWords t.ov).filter fun p => decide (2 ≤ (l.filter (touchesWord p)).length)
  hits.foldl (fun m p => match m with
    | none => some p
    | some q => if min p.1 2 < min q.1 2 ∨ (min p.1 2 = min q.1 2 ∧ p.2 < q.2) then some p else some q) none

/-- Two neighbours of the ascending list that share an identifier. -/
def sharedId : List RoundTask → Option D64
  | a :: b :: l => if a.id = b.id then some a.id else sharedId (b :: l)
  | _ => none

/-- Why a round fails: INFO1 to INFO3 of R343 (R361, R362): an identifier twice, or the lowest conflicting byte with the two lowest
identifiers of the tasks that changed its word. -/
def roundFailure (l : List RoundTask) : Option (List D64) :=
  let ts := sortTasks l
  match sharedId ts with
  | some i => some [0, i, i]
  | none => (lowestClash ts).map fun p =>
      let who := (ts.filter (touchesWord p)).map (·.id)
      [BitVec.ofNat 64 (min p.1 2 * 2 ^ 56 + p.2), who.getD 0 0, who.getD 1 0]

/-- The units of a space that a task has written. -/
def writtenUnits (o : Overlay) (space size : Nat) : List Nat :=
  ((o.bytes.filter fun p => p.1.1 == space).map fun p => p.1.2 / size).eraseDups

/-- Write one unit of a task's overlay: whole where the task has covered it by one write, else byte by byte. -/
def applyUnit (o : Overlay) (space size u : Nat) (write : State → Nat → List Byte → State) (s : State) : State :=
  let got := (natsFrom (size * u) size).map fun a => (a, ovByte o space a)
  if o.good.contains (space, u) then write s (size * u) (got.filterMap (·.2))
  else got.foldl (fun s p => match p.2 with | some b => write s p.1 [b] | none => s) s

/-- Apply one task's writes, its poison and its tag changes, oldest first (R361). -/
def applyOverlay (s : State) (asid : Nat) (o : Overlay) : State :=
  let s := (writtenUnits o 0 64).foldl (fun s u => applyUnit o 0 64 u (fun s a bs => writeMem s 0 portChan asid a bs) s) s
  let s := (writtenUnits o 2 16).foldl (fun s u => applyUnit o 2 16 u (fun s a bs => spadWrite s (a / 2 ^ 20) (a % 2 ^ 20) bs) s) s
  let s := o.bad.foldl (fun s u =>
    if u.1 = 0 then match writable s 0 portChan asid (64 * u.2) with
      | (.yes leaf sz, s) => poisonMem s none leaf sz (64 * u.2)
      | (_, s) => s
    else modCore s (u.2 / 2 ^ 16) fun k => { k with poison := NatSet.insert k.poison (u.2 % 2 ^ 16) }) s
  o.tags.reverse.foldl (fun s t => setTags s (t.1 / 2 ^ 18) (4 * (t.1 % 2 ^ 18)) 4 t.2) s

/-- The contents that the tasks of a round which begins now read (R327). -/
def baseNow (s : State) : RoundBase :=
  { mem := s.mem, memBad := s.memBad, migs := s.migs, spads := s.cores.map fun k => (k.1, (k.2.spad, k.2.empty))
    sems := s.sems, transit := s.transit, xfers := s.xfers }

/-- A context leaves RNDCMT: round r + 1, `.r` the new round (R356); with checkpoint mode on, a checkpoint, so that no rollback
undoes the merge. -/
def releaseRound (s : State) (r : Nat) (c : Nat) : State :=
  let s := modCtx s c fun x =>
    { x with task := { x.task with round := r }
             lat := setLatch x.lat .tsk { latchOf x.lat .tsk with r := BitVec.ofNat 4096 r, st := 0 } }
  let x := ctxOf s c
  if ckOn x then checkpointAt s c x.pc (x.lsc + x.idle) x.loops else s

/-- The continuations of a launch whose condition holds once the round has merged enter their shards (R328, R354). -/
def enterConts (s : State) (l : Nat) : State :=
  (s.conts.filter fun k => k.launch == l).foldl (fun s k =>
    match (match k.status with | some v => some v | none => condTest s k.region k.cond) with
    | some v => enterCont s k v
    | none => s) s

/-- A round that ends holds work to merge, or a later round has work (R359). -/
def mergeDue (y : Launch) : Bool := y.tasks != [] || y.waiting != [] || y.shards.any fun q => q.any fun d => decide (y.round < d.round)

/-- The round's writes and held operations, in the order of the identifiers; then the next round begins (R359, R361). -/
def mergeRound (s : State) (l : Nat) (y : Launch) : State :=
  let tasks := sortTasks y.tasks
  let s := tasks.foldl (fun s t => applyOverlay s (asidOf s y.region) t.ov) s
  let s := tasks.foldl (fun s t => t.ov.sems.foldl semPerform s) s
  let s := enterConts s l
  let s := modLaunch s l fun y => { y with tasks := [], waiting := [], round := y.round + 1, base := some (baseNow s) }
  let s := y.waiting.foldl (fun s c => releaseRound s (y.round + 1) c) s
  match launchOf s l with
  | none => s
  | some z => z.shards.zipIdx.foldl (fun s q => q.1.foldl (fun s d => wakeSeekers s l q.2 d) s) s

/-- R359, R361, R362: a round is checked and merged, or the launch ends with DET_CONFLICT. Arguments: a launch. -/
def execRoundMerge (s : State) : Res :=
  let l := s.args.a
  match launchOf s l with
  | none => .next s
  | some y =>
    if !y.det || y.stage != .placed || y.faulted || !roundOver s l y || !mergeDue y then .next s
    else match roundFailure y.tasks with
    | some info =>
      let s := modLaunch s l fun y => { y with code := 0x0D, info := info ++ [0, 0], tlist := true, tasks := [] }
      .next (killLaunch (faultDomain s y.region l none) l)
    | none => .next (mergeRound s l y)

/-! ## Seeds that move with their data (R369) -/

/-- Write one tile's bytes at its destination, with the poison of its units (R267): none where a byte cannot be written. -/
def landTile (s : State) (ov : Option Nat) (die asid dst : Nat) (bs : List ByteIn) : Option State :=
  (unitChunks bs.length dst bs).foldl (fun (r : Option State) p => r.bind fun s =>
    match writable s die portChan asid p.1 with
    | (.yes leaf sz, s) =>
      let s := match ov with | some c => ovWrite s c 0 p.1 (p.2.map (·.val)) | none => memWrite s (pageKey leaf sz p.1) (p.2.map (·.val))
      some (if p.2.any (·.bad) then poisonMem s ov leaf sz p.1 else s)
    | (.unreach _ _ _, s) => some s
    | (.wfault, _) => none) (some s)

/-- Copy one tile as a card of the posting region would. -/
def moveTile (s : State) (ov : Option Nat) (die asid : Nat) (t : Nat × Nat × Nat) : Option State :=
  let (bs, s) := readMems s ov { die := die } portChan asid t.1 t.2.2
  landTile s ov die asid t.2.1 bs

/-- A tile of a moving seed lies on a node that cannot be reached: the seed arrives only with all its tiles (R369, R313).
[DEDUCED, log entry 53] -/
def moveCut (s : State) (asid : Nat) (m : MoveSeed) : Bool :=
  NatSet.mem s.unreach m.node || m.tiles.any fun t =>
    (readMems s none { die := 0 } portChan asid t.1 t.2.2).1.any (·.unreach.isSome) ||
      (List.range t.2.2).any fun i => match (writable s 0 portChan asid (t.2.1 + i)).1 with | .unreach _ _ _ => true | _ => false

/-- The tiles of a moving seed are copied; none where a tile meets WFAULT or STALE_GEN (R369). -/
def copyTiles (s : State) (m : MoveSeed) : Option State :=
  let asid := asidOf s m.region
  if (spaceOf s asid).gen ≠ m.gen then none
  else m.tiles.foldl (fun (r : Option State) t => r.bind fun s => moveTile s m.ov (ctxDie m.ctx % Config.dies) asid t) (some s)

/-- The seed, whose tiles have performed, enters a shard of its node; one for another module leaves this one.
[DESIGN CHOICE, log entry 16] -/
def landSeed (s : State) (m : MoveSeed) : State :=
  match launchOf s m.launch with
  | some _ => if m.node = s.node then placeSeed s m.launch m.shard m.seed else freeSeed s m.region
  | none => freeSeed s m.region

/-- The tiles of a peer module's seed and their bytes, one tile behind the other; none where a byte cannot be written. -/
def landTiles (asid : Nat) : List (Nat × Nat × Nat) → List Byte → State → Option State
  | [], _, s => some s
  | t :: ts, bs, s => (landTile s none 0 asid t.2.1 ((bs.take t.2.2).map fun b => { val := b })).bind (landTiles asid ts (bs.drop t.2.2))

/-- A seed with MOVE that a peer module's launch of the same job has posted arrives: its record, its list, and its tiles' bytes, which are
written before it enters a shard here; `own` is the shard of a KEY of 0. One that does not name this node, that its tiles
cannot reach, or whose SLOT the launch has not installed, stays away, with no report here. [DESIGN CHOICE, log entry 16] -/
def peerSeed (s : State) (l own : Nat) (bs : List Byte) : State :=
  match launchOf s l with
  | none => s
  | some y =>
    let d := seedOf bs
    let list := (bs.drop 64).take 64
    if !seedClean bs || !d.move || !(tilesOf list).2 || moveNode list != s.node || !y.klist.contains d.slot || y.stage != .placed || y.faulted then s
    else match landTiles (asidOf s y.region) (tilesOf list).1 (bs.drop 128) s with
      | some s => placeSeed (takeSeedUnit s y.region) l (shardOf y d.key own) { d with round := if y.det then (y.round + 1) % 2 ^ 32 else d.round }
      | none => s

/-- R369: the tiles of a moving seed have performed and the seed enters a shard of its node. In a deterministic round the tiles go to the
poster's overlay first, and the seed follows the merge that brings them (R327, R361). With d above 0 the seed comes from a peer module:
a the launch, b the shard of a KEY of 0, c its record, list and tiles as a number, d their bytes. Arguments: a seed. [DEDUCED, log entry 53]
[DESIGN CHOICE, log entry 16] -/
def execMoveSeedArrive (s : State) : Res :=
  if s.args.d ≠ 0 then .next (peerSeed s s.args.a s.args.b (leBytes s.args.d s.args.c)) else
  match s.moves.find? fun m => m.id == s.args.a with
  | none => .next s
  | some m =>
    let out := { s with moves := s.moves.filter fun k => k.id != m.id }
    if seedsDead s m.launch then .next s
    else if m.copied then
      match launchOf s m.launch with
      | some y => if y.round < m.seed.round then .next s else .next (landSeed out m)
      | none => .next (landSeed out m)
    else if moveCut s (asidOf s m.region) m then .next s
    else match copyTiles out m with
    | none => .next (dispatchFault out m.region m.launch m.seed)
    | some t => if m.ov.isSome then .next { t with moves := s.moves.map fun k => if k.id = m.id then { k with copied := true } else k }
      else .next (landSeed t m)

end Sys2Proof.Machine
end

