-- ==== Sys2Proof/Machine/Issue.lean ====
section
/-! DEFINITION. The issue of a bundle (R50, R62 to R65, R112 to R116): the waits and stalls of R114, the checks of R391 that come
before the trigger checks, token promotion (R92), the selector (R113, R115), and what remains to be done of the bundle. -/

namespace Sys2Proof.Machine

/-! ## What the moves of a bundle name -/

/-- A live move whose guard is true: its slot number and word. -/
abbrev Slot := Nat × Word

/-- The moves that act: live slots whose guards hold on the visible faces (R50 step 1). -/
def actingSlots (r : RegFile) (ws : List Word) : List Slot :=
  match ws with
  | [] => []
  | h :: slots => (liveSlots (hdrSurr h) slots).filter fun p => guardHolds r (slotGuard p.2)

def isTrigger (w : Word) : Bool := (triggerAt (slotDst w)).isSome

/-- The register that a slot's source names. -/
def slotSource (p : Slot) : List (BitVec 12) :=
  let src := slotSrc p.2
  if src.extractLsb' 12 2 = 0 ∧ isRegSocket (src.extractLsb' 0 12) then [src.extractLsb' 0 12] else []

/-- The register sockets that a slot reads: its source, `m0` for a trigger of `vec` (R174), `g1` to `g5` for WAITC (R354). -/
def slotReads (p : Slot) : List (BitVec 12) :=
  let d := slotDst p.2
  slotSource p ++ (if isTrigger p.2 ∧ (unitOf d).any (·.1 == .vec) then [0xA0#12] else []) ++
    (if d = 0x449#12 then [1#12, 2#12, 3#12, 4#12, 5#12] else [])

/-- The unit whose result or status port a slot reads. -/
def slotPort (p : Slot) : Option FU :=
  let src := slotSrc p.2
  if src.extractLsb' 12 2 ≠ 0 then none
  else match unitOf (src.extractLsb' 0 12) with
    | some (u, 3) => some u
    | some (u, 4) => some u
    | _ => none

/-! ## The latency table (R123) -/

def vecLatency (o : Nat) (ltb : Bool) : Nat :=
  if o ≤ 0x19 then 3 else if o ≤ 0x1C then 4 else if o ≤ 0x52 then 3 else if o ≤ 0x5C then (if ltb then 4 else 3)
  else if o ≤ 0x5F then 6 else if o ≤ 0x63 then 8 else if o ≤ 0x66 then (if ltb then 12 else 10) else if o ≤ 0x69 then 4
  else if o = 0x6D then (if ltb then 4 else 3) else 3

/-- The latency of the trigger at a socket; none where it delivers no port. -/
def latencyOf (d : BitVec 12) (ltb : Bool) : Option Nat :=
  match unitOf d with
  | none => none
  | some (u, o) =>
    let k := o - 8
    match u with
    | .al0 | .al1 => some 1
    | .mul => some (if k < 3 then (if ltb then 3 else 4) else if ltb then 18 else 20)
    | .agu => some 2
    | .br => none
    | .sys => if k = 2 then some 2 else none
    | .ls0 | .ls1 => some (if k = 11 ∨ k = 20 then (if ltb then 7 else 5) else if ltb then 6 else 4)
    | .vec => some (vecLatency o ltb)
    | .mat => some (if k = 6 then 8 else 2)
    | .cpy => some 2
    | .sem => some (if k = 2 ∨ k = 3 ∨ k = 25 ∨ k = 26 ∨ (35 ≤ k ∧ k ≤ 38) then 2 else 12)
    | .tsk => some 2
    | .lnk => some (if k = 1 then 4 else 2)

/-! ## Eager triggers and withheld work (R95, R99, R132, R214, R288, R352) -/

/-- A trigger that is placed as an eager one. -/
def isEager (d : BitVec 12) : Bool :=
  match unitOf d with
  | some (.sys, o) => o == 8
  | some (.ls0, o) => o == 0x15 || o == 0x17 || o == 0x1D
  | some (.ls1, o) => o == 0x15 || o == 0x17 || o == 0x1D
  | some (.cpy, o) => o == 9 || o == 0xA
  | some (.sem, o) => (decide (0xC ≤ o) && decide (o ≤ 0x1F)) || (decide (0x25 ≤ o) && decide (o ≤ 0x28)) || o == 0x2E
  | some (.tsk, o) => o == 8
  | some (.lnk, o) => o == 9
  | _ => false

/-- A trigger that checkpoint mode withholds as a store. -/
def holdsStore (d : BitVec 12) : Bool :=
  match unitOf d with
  | some (u, o) => (u == .ls0 || u == .ls1) && ((decide (0xF ≤ o) && decide (o ≤ 0x12)) || o == 0x14 || o == 0x18 || o == 0x19)
  | none => false

/-- A trigger that checkpoint mode withholds as a command. -/
def holdsCmd (d : BitVec 12) : Bool :=
  match unitOf d with
  | some (.cpy, o) => o == 8 || o == 0xB || o == 0xD
  | some (.sem, o) => o == 0xA || o == 0xB || o == 0x21 || o == 0x22 || (decide (0x2B ≤ o) && decide (o ≤ 0x2D))
  | some (.lnk, o) => o == 8
  | _ => false

/-- A trigger that joins the array queue. -/
def joinsArray (d : BitVec 12) : Bool :=
  match unitOf d with
  | some (.mat, o) => (decide (8 ≤ o) && decide (o ≤ 0xD)) || o == 0xF
  | _ => false

/-! ## The bundle's frame -/

/-- The triggers in ascending socket order (R391). [DEDUCED, log entry 17] -/
def triggerOrder (l : List Slot) : List Slot :=
  sortBy (fun a b => decide ((slotDst a.2).toNat ≤ (slotDst b.2).toNat)) (l.filter fun p => isTrigger p.2)

/-- TRAP and TRET act after the bundle (R132, R133). -/
def isLast (w : Word) : Bool := slotDst w == 0x248#12 || slotDst w == 0x249#12

/-- What is to be done of a bundle, in order: plain moves, the checks of every trigger, the triggers, the SEG mark, the landings
that coincide with it (R84), the span action, TRAP or TRET. [DEDUCED, log entry 17] [DEDUCED, log entry 18] -/
def bundleTodo (h : Word) (acting : List Slot) : List Todo :=
  let trig := triggerOrder acting
  (acting.filter fun p => !isTrigger p.2).map (fun p => Todo.slot p.1) ++ trig.map (fun p => Todo.check p.1) ++
    (trig.filter fun p => !isLast p.2).map (fun p => Todo.slot p.1) ++ (if hdrSeg h = 1 then [Todo.seg] else []) ++
    (if hdrSpan h ≠ 0 then [Todo.land, Todo.span] else []) ++ (trig.filter fun p => isLast p.2).map fun p => Todo.last p.1

/-- The frame of a bundle. The position after it is not cut to 20 bits: past position 2^20 - 1 no segment lies, and the context
that goes on there traps SEGMENT_FAULT (R63, R71). [DESIGN CHOICE, log entry 60] -/
def makeFrame (x : Ctx) (ws : List Word) (len : Nat) (todo : List Todo) : Frame :=
  { pos := x.pc, next := x.pc + len, header := ws.headD 0, slots := ws.drop 1, todo := todo, regs := x.regs, lat := x.lat
    pats := x.pats
    brR := match x.loops with | e :: _ => BitVec.ofNat 64 e.iter | [] => 0
    brSt := BitVec.ofNat 64 (x.loops.length + x.link.length * 256) }

/-- The operands that a trigger of the bundle sees (R50, R162): `a` moved to it, `b` and `c` as the bundle's moves leave them. -/
def operandsOf (x : Ctx) (f : Frame) (acting : List Slot) (p : Slot) : Opnds :=
  let y := (acting.filter fun q => !isTrigger q.2).foldl (fun y q => writeMove y (slotDst q.2) (sourceVal f (slotSrc q.2) q.1)) x
  match unitOf (slotDst p.2) with
  | some (u, _) => let l := latchOf y.lat u
                   ⟨cutTo (portWide u 8) (sourceVal f (slotSrc p.2) p.1).1, l.b, l.c⟩
  | none => ⟨0, 0, 0⟩

/-! ## Stalls before any move acts (R90, R91, R92, R227, R253) -/

/-- A register read is pending and its write has not landed (R92). -/
def pendingRead (x : Ctx) (acting : List Slot) : Bool :=
  acting.any fun p => (slotReads p).any fun d => (x.regs.bits d).pend && !(x.regs.bits d).land

/-- A register read that only a later flip could clear (R92): the lowest socket of them, with the slot that reads it, of
which a slot that names it as its source comes first. -/
def deadlock (x : Ctx) (acting : List Slot) : Option (Nat × BitVec 12) :=
  let stuck := fun (d : BitVec 12) => let b := x.regs.bits d; b.pend && b.land && !(b.asyn && !b.core && !b.conf)
  let all := (acting.flatMap fun p => (slotSource p).map fun d => (p.1, d)) ++ acting.flatMap fun p => (slotReads p).map fun d => (p.1, d)
  (all.filter fun e => stuck e.2).foldl (fun (m : Option (Nat × BitVec 12)) e =>
    match m with
    | none => some e
    | some b => if e.2.toNat < b.2.toNat then some e else m) none

/-- The asynchronous writes of a CPLD fit (R90, R91): `sb` for CPLD.sb. -/
def cpldFits (x : Ctx) (b : D64) (sb : Bool) : Bool :=
  let n := if b.getLsbD 27 then 2 else 1
  let free := fun (d : BitVec 12) => !((x.regs.bits d).pend && !(x.regs.bits d).land)
  if sb then decide (spanBound x + n ≤ Config.asyncWrites)
  else decide (freeOut x + n ≤ Config.asyncWrites) && free (cpldDst b) &&
    (n == 1 || free (BitVec.ofNat 12 (0xA0 + (b.extractLsb' 24 3).toNat)))

/-- A task of a round has copy work or the tiles of a seed on their way: what it reads or writes in a later bundle comes behind them in its
program order (R327). [DEDUCED, log entry 31] -/
def roundOwes (s : State) (c : Nat) : Bool :=
  inRound s c && ((copyWork s c).any (fun j => match j.kind with | .pagereq _ _ => false | _ => true) ||
    (ctxOf s c).going.any (fun w => match w with | .job _ => true | _ => false) ||
    s.moves.any fun m => m.ctx == c && m.ov.isSome && !m.copied)

/-- A trigger that reads or writes memory, the scratchpad or an entry. -/
def touchesMemory (d : BitVec 12) : Bool :=
  match unitOf d with
  | some (.ls0, _) | some (.ls1, _) | some (.mat, _) | some (.cpy, _) | some (.sem, _) | some (.tsk, _) => true
  | _ => false

/-- An LDFW or LDFK of `ls0` in the bundle that passes its checks and could not proceed at once (R203, R204): a PATSET of `ls1` in the bundle
would have to read behind it (R319). [DEDUCED, log entry 59] -/
def waitsFirst (s : State) (c : Nat) (f : Frame) (acting : List Slot) (p : Slot) : Bool :=
  match unitOf (slotDst p.2) with
  | some (.ls0, k) =>
    let o := operandsOf (ctxOf s c) f acting p
    let waits := fun (kind : LsKind) (chk : Check) => (chk s c o).isNone &&
      (let q : LsOp := ⟨(ctxOf s c).seq, (ctxOf s c).bundle, false, kind, o.a64.toNat, s.count⟩
       !feProceeds (modCtx s c fun x => { x with ls := [q] }) c q)
    if k = 0x15 then waits .ldfw (firstOf [eagerCheck, roundDenied, lsAccess 8 8])
    else if k = 0x16 then waits .ldfk (lsAccess 8 8) else false
  | _ => false

/-- A trigger of the bundle that must wait before any move acts (R90, R91, R227, R253), before the checks of R251 too; PATSET
waits for the earlier scratchpad operations of the context, as it reads its descriptor at its trigger (R198, R210, R319). A rolled-back
array operation that still runs is none of the context's eight. [DEDUCED, log entry 59] [DESIGN CHOICE, log entry 76]
[DEDUCED, log entry 77] -/
def triggerStalls (s : State) (c : Nat) (f : Frame) (acting : List Slot) (p : Slot) : Bool :=
  let x := ctxOf s c
  let d := slotDst p.2
  if roundOwes s c && touchesMemory d then true
  else if joinsArray d then decide (((coreOf s (ctxCore c)).aq.filter fun o => o.ctx == c && !o.discard).length ≥ Config.arrayOps)
  else match unitOf d with
  | some (.cpy, k) =>
    let o := operandsOf x f acting p
    let ready : Nat → JobKind → Bool := fun token kind => ckOn x || jobFits s c (newJob s c token kind)
    match k with
    | 8 => let ws := cardWords s c o.a64.toNat
           !ready (cardOf ws).token (.card ws)
    | 9 => !cpldFits x o.b64 false
    | 0xA => !cpldFits x o.b64 true
    | 0xB => !ready (o.c64.extractLsb' 8 6).toNat (.cpst 0 [])
    | 0xD => !ready (o.b64.extractLsb' 0 6).toNat (.pagereq 0 false)
    | _ => false
  | some (.ls0, 0x1B) => x.ls != []
  | some (.ls1, 0x1B) => x.ls != [] || acting.any (waitsFirst s c f acting)
  | _ => false

/-- The bundle's withheld work would not fit (R96). -/
def heldFull (x : Ctx) (acting : List Slot) : Bool :=
  ckOn x && x.held != [] &&
    (decide (heldStores x + (acting.filter fun p => holdsStore (slotDst p.2)).length > Config.withheldStores) ||
     decide (heldCmds x + (acting.filter fun p => holdsCmd (slotDst p.2)).length > Config.withheldCmds))

/-! ## Traps before the trigger checks (R391) -/

/-- UNDERSIZED_COUNT (R121, R228): an early read, or two results of a unit due at one tick, or an early ASWAP. -/
def undersized (s : State) (c : Nat) (f : Frame) (acting : List Slot) : Option TrapInfo :=
  let x := ctxOf s c
  if !x.sys.scb then none
  else
    let early := acting.find? fun p => match slotPort p with
      | some u => x.infl.any fun e => e.unit == u
      | none => false
    match early with
    | some p => some { code := .undersizedCount, slot := p.1 }
    | none =>
      let twin := (triggerOrder acting).find? fun p =>
        (match unitOf (slotDst p.2), latencyOf (slotDst p.2) x.sys.ltb with
         | some (u, _), some l => x.infl.any fun e => e.unit == u && e.due == x.lsc + l
         | _, _ => false) ||
        (slotDst p.2 == 0x38D#12 && (aswapCheck s c (operandsOf x f acting p)).isSome)
      twin.map fun p => { code := .undersizedCount, sock := (slotDst p.2).toNat, slot := p.1 }

/-- EAGER_PLACEMENT (R99, R132): the first eager trigger outside a checkpoint bundle. -/
def misplaced (x : Ctx) (h : Word) (acting : List Slot) : Option TrapInfo :=
  if ckOn x ∧ hdrSpan h < 3 then
    ((triggerOrder acting).find? fun p => isEager (slotDst p.2)).map fun p =>
      { code := .eagerPlacement, sock := (slotDst p.2).toNat, slot := p.1 }
  else none

/-- The trap of a literal bundle that breaks R58. -/
def bundleTrap : DecodeError → TrapInfo
  | .sourceSocket n d => { code := .illegalSocket, sock := d.toNat, slot := n }
  | .destSocket n d => { code := .illegalSocket, sock := d.toNat, slot := n }
  | .gated n d => { code := .illegalSocket, sock := d.toNat, slot := n }
  | .sourceForm n => { code := .illegalBundle, slot := n }
  | .emptyBits n => { code := .illegalBundle, slot := n }
  | _ => { code := .illegalBundle }

/-- The first failing row of R58 for a literal bundle at its issue; a trigger whose guard is false checks nothing and cannot trap
(R163), so a clear FEAT bit fails the first acting trigger that it gates. -/
def literalError (feat : BitVec 64) (r : RegFile) (ws : List Word) : Option DecodeError :=
  match bundleError feat ws with
  | some (.gated _ _) =>
    ((actingSlots r ws).find? fun p => (gateOf (slotDst p.2)).any fun b => !feat.getLsbD b).map fun p => .gated p.1 (slotDst p.2)
  | e => e

/-! ## Issue -/

/-- A write card of the launch's owning region is in progress on the die: every context of the region there has started since
the card was dispatched, and waits before its first bundle (R242). -/
def writeInProgress (s : State) (c : Nat) : Bool :=
  let d := ctxDie c
  match (ctxOf s c).launch with
  | none => false
  | some l => match launchOf s l with
    | none => false
    | some y => (dieOf s d).jobs.any fun j =>
        (match j.kind with | .card ws => (cardOf ws).kind == 5 | _ => false) && j.moving && !j.ended &&
          bankRegion s j.region == bankRegion s y.region

/-- The bundle issues: its reads promote (R92); what it is to do stands in its frame. -/
def issueBundle (s : State) (c : Nat) (f : Frame) (acting : List Slot) : State :=
  let s := modCtx s c fun x =>
    { x with regs := (acting.flatMap slotReads).foldl RegFile.promote x.regs, frame := some f, fetched := false }
  let s := touchFrame s c f.pos
  { s with active := some c }

/-- What a context would do if it were selected. -/
inductive Try where
  | wait           -- ENGINE_WAIT, IDLING or HALTED (R112)
  | stall          -- PIPE_STALL
  | trap (s : State)
  | act (s : State)

/-- The bundle of words `ws`, `len` index words long, at the context's position (R50, R114, R391). -/
def tryBundle (s : State) (c : Nat) (ws : List Word) (len : Nat) : Try :=
  let x := ctxOf s c
  let acting := actingSlots x.regs ws
  if pendingRead x acting || writeInProgress s c then .wait
  else match deadlock x acting with
  | some (n, d) => .trap (enterTrap s c { code := .pendingDeadlock, sock := d.toNat, slot := n } x.pc)
  | none =>
    let f := makeFrame x ws len (bundleTodo (ws.headD 0) acting)
    match undersized s c f acting with
    | some t => .trap (enterTrap s c t x.pc)
    | none =>
      match misplaced x (ws.headD 0) acting with
      | some t => .trap (enterTrap s c t x.pc)
      | none =>
        let s1 := modCtx s c fun x => { x with bundle := x.bundle + 1 }
        if acting.any (triggerStalls s1 c f acting) then .wait
        else if heldFull x acting then .act (implicitCheckpoint s c)
        else .act (issueBundle s1 c f acting)

/-- A load that failed is demanded again (R71). -/
def clearFault (s : State) (c : Nat) : State :=
  match kernelOf s c with
  | none => s
  | some k => modKernel s (ctxCore c) k.launch k.kslot fun y => { y with faulted := y.faulted.filter (· != c) }

/-- The kind of the stop at a due tick (R114): an engine unit waits, and so does a full/empty operation whose condition does not
hold, with what is held behind it (R198); a pipeline unit stalls, RROT among them (R213). Where results of both kinds are late the
context waits. [DEDUCED, log entry 54] -/
def dueStall (s : State) (c : Nat) : Bool :=
  let x := ctxOf s c
  let due := x.infl.filter fun e => decide (e.due ≤ x.lsc) && !e.arrived
  let engine := fun (e : InFlight) => (match e.unit with | .mat | .cpy | .sem | .tsk | .lnk => true | _ => false) ||
    (x.ls.any (fun o => o.seq == e.seq) && x.ls.any fun o => decide (o.seq ≤ e.seq) && o.kind.mayWait && !feReady s c o)
  due != [] && !due.any engine && !(x.aticks.any fun t => decide (t.tick ≤ x.lsc))

/-- What a context would do in this cycle (R112, R114, R391). One that stands in a wait before its next bundle and at a late result
is in the state that the result gives. [DEDUCED, log entry 54] -/
def tryIssue (s : State) (c : Nat) : Try :=
  let x := ctxOf s c
  if x.status ≠ .running ∨ x.frame.isSome ∨ x.stop then .wait
  else if lateNow x ≠ [] then .trap (takeLate s c)
  else if !ticksClear x then (if dueStall s c then .stall else .wait)
  else if x.idle ≠ 0 ∨ x.waits ≠ [] ∨ x.going ≠ [] then .wait
  else match kernelOf s c with
  | none => .wait
  | some k =>
    match (if x.foreign then .trap { code := .segmentFault } else fetchAt k c x.pc) with
    | .demand _ => .wait
    | .trap t => .trap (enterTrap (clearFault s c) c t x.pc)
    | .dict ws => tryBundle s c ws 1
    | .literal ws =>
      if !x.fetched then .wait
      else match literalError (BitVec.ofNat 64 s.feat) x.regs ws with
        | some e => .trap (enterTrap s c (bundleTrap e) x.pc)
        | none => tryBundle s c ws 25

/-! ## The selector (R113, R115) -/

/-- A suspended bundle may go on (R82, R129, R396). -/
def resumable (s : State) (c : Nat) : Bool :=
  let x := ctxOf s c
  match x.frame with
  | none => false
  | some f =>
    x.status == .running && match f.todo.head? with
    | some .span => spanReady s c (match (hdrSpan f.header).toNat with
        | 1 => .flip | 2 => .flipW | 3 => .flipC | 4 => .flipCw | _ => .ckpt)
    | some (.endTask k) => endReady s c k
    | some (.tret t) => tretReady s c t
    | _ => true

/-- A due result can be delivered (R118). -/
def deliverable (s : State) (c : Nat) : Bool :=
  let x := ctxOf s c
  x.status == .running && x.frame.isNone && (x.infl.any (ripe x) || x.aticks.any (tickRipe x))

/-- A late fault ends the wait of a bundle in its span action, in TRET or at its end (R240, R394); not of a context that a fault
ends already. [DEDUCED, log entry 57] -/
def interrupted (s : State) (c : Nat) : Bool :=
  let x := ctxOf s c
  match x.frame with
  | none => false
  | some f => x.status == .running && x.late.any (·.code != .fpTrap) && !f.dead && match f.todo.head? with
    | some .span => true
    | some (.endTask _) => true
    | some (.tret _) => true
    | _ => false

/-- Released commands go on, waits that are over end, and a segment that is needed is demanded. -/
def prepareCtx (s : State) (c : Nat) : State :=
  let s := settleWaits (pump s c) c
  let x := ctxOf s c
  if x.status ≠ .running ∨ x.frame.isSome then s
  else match kernelOf s c with
  | none => s
  | some k => match (if x.foreign then illegalIndex else fetchAt k c x.pc) with | .demand g => demandSeg s c g | _ => s

/-- The selected context acts and becomes the holder (R113); the count of R115, in which the cycle of a switch is the new holder's
first: `rival` says that another context was READY. -/
def selected (t : State) (core i : Nat) (rival : Bool) : State :=
  modCore t core fun k => { k with
    holder := i, yielded := false
    issued := if rival then (if k.holder = i then k.issued else 0) + 1 else 0 }

/-- The state in which the context has acted. -/
def Try.acted : Try → Option State
  | .act t => some t
  | .trap t => some t
  | _ => none

/-- The first context of the order that can act, with its place (R113). -/
def firstAct (s : State) (core : Nat) : List Nat → Option (Nat × State)
  | [] => none
  | i :: is => match (tryIssue s (core * 4 + i)).acted with
    | some t => some (i, t)
    | none => firstAct s core is

/-- R113, R115: one cycle of the core's issue slot; a holder that has issued in 1,024 consecutive cycles while another context
was READY counts as not READY, and a cycle in which it does not issue ends such a run. A YIELD holds for the next cycle alone:
a cycle in which nobody is selected ends it too. [DESIGN CHOICE, log entry 66] -/
def selectIssue (s : State) (core : Nat) : State :=
  let k := coreOf s core
  let h := k.holder
  let rival := fun (i : Nat) => [1, 2, 3].any fun d => (tryIssue s (core * 4 + (i + d) % 4)).acted.isSome
  let idle := modCore s core fun k => { k with issued := 0, yielded := false }
  let own := tryIssue s (core * 4 + h)
  match own, own.acted, k.yielded || decide (Config.holderLimit ≤ k.issued) with
  | .stall, _, _ => idle
  | _, some t, false => selected t core h (rival h)
  | _, _, _ =>
    match firstAct s core [(h + 1) % 4, (h + 2) % 4, (h + 3) % 4, h] with
    | some (i, t) => selected t core i (rival i)
    | none => idle

/-! ## Stopping for a save (R402, R405, R407) -/

/-- Pipeline units run to completion (R402 step 2). -/
def settlePipes (x : Ctx) : Ctx :=
  { x with infl := x.infl.map fun e =>
      if e.engine || e.need.isSome || x.ls.any (fun o => o.seq == e.seq) || x.recvs.any (fun r => r.1 == e.seq) then e
      else { e with arrived := true } }

/-- Of the bundle's parts those that can trap before it acts: its plain moves, for the operands, and the checks (R102). -/
def trapPart (f : Frame) : Todo → Bool
  | .check _ => true
  | .slot n => !isTrigger (f.slots.getD n 0)
  | _ => false

/-- The context's bundle is judged for its traps alone. -/
def trialBundle (s : State) (c : Nat) : State :=
  modCtx s c fun x => { x with frame := x.frame.map fun f => { f with todo := f.todo.filter (trapPart f) ++ [.withdraw] } }

/-- A bundle that does not trap goes back before its issue. -/
def withdrawBundle (s : State) (c : Nat) (f : Frame) : State :=
  { modCtx s c fun x => { x with regs := f.regs, lat := f.lat, frame := none, fetched := true } with active := none }

/-- R407: a trap at the boundary at which a context stops is entered first. -/
def stopTrap (s : State) (c : Nat) : State :=
  let stop := (ctxOf s c).stop
  let back := fun t => modCtx t c fun x => { x with stop := stop }
  match tryIssue (modCtx s c fun x => { x with stop := false }) c with
  | .trap t => back t
  | .act t => if t.active = some c then back (trialBundle t c) else s
  | _ => s

/-- What comes first where contexts stop: the pipeline units run on, results due at the boundary are delivered, and a trap is
entered (R402, R407); `ev` is the event that looks for the trap. -/
def stopping (s : State) (cs : List Nat) (ev : Nat → Event) : State :=
  let s := cs.foldl (fun s c => modCtx s c settlePipes) s
  let due : List Event := (cs.filter (deliverable s)).map fun c => { what := .resultDue, args := { a := c } }
  { s with sched := due ++ cs.map ev ++ s.sched }

/-- A core is stopped (R402): its contexts issue no more. -/
def stopCore (s : State) (core : Nat) : State :=
  stopping (modCore s core fun k => { k with saving := true }) (natsFrom (core * 4) 4)
    fun c => { what := .coreSave, args := { a := core, b := c % 4 + 1 } }

/-- A context is stopped, to be saved alone (R405). -/
def stopCtx (s : State) (c : Nat) : State :=
  stopping (modCtx s c fun x => { x with stop := true }) [c] fun c => { what := .contextSave, args := { a := c, b := 1 } }

/-- R50, R113: a context issues the bundle at its position, or goes on with one that waited in its span action; due results
are delivered first, and a late fault ends a wait. Arguments: a core. [DEDUCED, log entry 54] -/
def execBundleIssue (s : State) : Res :=
  let core := s.args.a
  if (coreOf s core).saving then .next s
  else
    let cs := natsFrom (core * 4) 4
    let s := cs.foldl prepareCtx (serveDemands s core)
    match cs.find? (interrupted s), cs.find? (resumable s) with
    | some c, _ => .next (takeLate s c)
    | none, some c => .next { s with active := some c }
    | none, none =>
      let due := cs.filter (deliverable s)
      if due ≠ [] then
        .next { s with sched := due.map (fun c => { what := .resultDue, args := { a := c } }) ++
                                ({ what := .bundleIssue, args := { a := core } } : Event) :: s.sched }
      else .next (selectIssue s core)

end Sys2Proof.Machine
end

