-- ==== Sys2Proof/Machine/Scalar.lean ====
section
/-! DEFINITION. The scalar units `al0`, `al1`, `mul` and `agu` (R162 to R172), one meaning for each trigger. -/

namespace Sys2Proof.Machine

/-- A scalar result: `.r`, C, V and the flags raised (R164 to R166). -/
structure AluOut where
  r : D64
  c : Bool := false
  v : Bool := false
  flags : FlagSet := 0
deriving DecidableEq, Repr

/-- The low 64 bits of an exact integer. -/
def low64 (v : Int) : D64 := BitVec.ofInt 64 v

/-- An exact signed result, clamped to 64 bits with V and SAT (R165, R166). -/
def clamp64 (v : Int) : AluOut :=
  if v < -(2 ^ 63 : Int) then ⟨low64 (-(2 ^ 63)), false, true, fSAT⟩
  else if v > 2 ^ 63 - 1 then ⟨low64 (2 ^ 63 - 1), false, true, fSAT⟩
  else ⟨low64 v, false, false, 0⟩

/-- The shift count of R165. -/
def shamt (b : D64) : Nat := (b.extractLsb' 0 6).toNat

def b01 (b : Bool) : D64 := if b then 1 else 0

/-- Leading zeros of a 64-bit value. -/
def clz64 (a : D64) : Nat := if a = 0 then 64 else 63 - Nat.log2 a.toNat

/-- One bits of a 64-bit value. -/
def popc64 (a : D64) : Nat := ((List.range 64).filter fun i => a.getLsbD i).length

def al2 (f : D64 → D64 → AluOut) : D64 → D64 → D64 → AluOut := fun a b _ => f a b

/-- The value operations of R165, by name. -/
def aluAdd (a b : D64) : AluOut :=
  { r := a + b, c := decide (a.toNat + b.toNat ≥ 2 ^ 64), v := decide ((a + b).toInt ≠ a.toInt + b.toInt) }
def aluSub (a b : D64) : AluOut :=
  { r := a - b, c := decide (a.toNat < b.toNat), v := decide ((a - b).toInt ≠ a.toInt - b.toInt) }
def aluShl (a b : D64) : AluOut :=
  let n := shamt b; { r := a <<< n, c := n != 0 && a.getLsbD (64 - n) }
def aluShr (a b : D64) : AluOut :=
  let n := shamt b; { r := a >>> n, c := n != 0 && a.getLsbD (n - 1) }
def aluSar (a b : D64) : AluOut :=
  let n := shamt b; { r := a.sshiftRight n, c := n != 0 && a.getLsbD (n - 1) }

def alUnit (u : BitVec 1) : FU := if u = 0 then .al0 else .al1

/-- A trigger of `al0` or `al1`: due after 1 tick in both tables, with its status word (R123, R164, R165). -/
def alTrigger (s : State) (m : Mv) (u : BitVec 1) (off : BitVec 6) (f : D64 → D64 → D64 → AluOut) : Res :=
  trigger s m (alUnit u) (2#5 ++ u ++ off) noCheck fun s c o =>
    let x := f o.a64 o.b64 o.c64
    modCtx s c fun y => addResult y (alUnit u) 1 (some (x.r.setWidth 4096, BitVec.allOnes 4096))
      (some (aluStatus x.v x.c x.r)) x.flags (if x.flags = 0 then [] else [(0, x.flags)])

/-- R165: ADD. -/
def execAlAdd (m : Mv) (u : BitVec 1) (s : State) : Res :=
  alTrigger s m u 0x08#6 (al2 aluAdd)

/-- R165: SUB. -/
def execAlSub (m : Mv) (u : BitVec 1) (s : State) : Res :=
  alTrigger s m u 0x09#6 (al2 aluSub)

/-- R165: ADDS. -/
def execAlAdds (m : Mv) (u : BitVec 1) (s : State) : Res :=
  alTrigger s m u 0x0A#6 (al2 fun a b => clamp64 (a.toInt + b.toInt))

/-- R165: SUBS. -/
def execAlSubs (m : Mv) (u : BitVec 1) (s : State) : Res :=
  alTrigger s m u 0x0B#6 (al2 fun a b => clamp64 (a.toInt - b.toInt))

/-- R165: AND. -/
def execAlAnd (m : Mv) (u : BitVec 1) (s : State) : Res :=
  alTrigger s m u 0x0C#6 (al2 fun a b => { r := a &&& b })

/-- R165: OR. -/
def execAlOr (m : Mv) (u : BitVec 1) (s : State) : Res :=
  alTrigger s m u 0x0D#6 (al2 fun a b => { r := a ||| b })

/-- R165: XOR. -/
def execAlXor (m : Mv) (u : BitVec 1) (s : State) : Res :=
  alTrigger s m u 0x0E#6 (al2 fun a b => { r := a ^^^ b })

/-- R165: ANDN. -/
def execAlAndn (m : Mv) (u : BitVec 1) (s : State) : Res :=
  alTrigger s m u 0x0F#6 (al2 fun a b => { r := a &&& ~~~b })

/-- R165: SHL. -/
def execAlShl (m : Mv) (u : BitVec 1) (s : State) : Res :=
  alTrigger s m u 0x10#6 (al2 aluShl)

/-- R165: SHR. -/
def execAlShr (m : Mv) (u : BitVec 1) (s : State) : Res :=
  alTrigger s m u 0x11#6 (al2 aluShr)

/-- R165: SAR. -/
def execAlSar (m : Mv) (u : BitVec 1) (s : State) : Res :=
  alTrigger s m u 0x12#6 (al2 aluSar)

/-- R165: ROR. -/
def execAlRor (m : Mv) (u : BitVec 1) (s : State) : Res :=
  alTrigger s m u 0x13#6 (al2 fun a b => { r := a.rotateRight (shamt b) })

/-- R165: MIN. -/
def execAlMin (m : Mv) (u : BitVec 1) (s : State) : Res :=
  alTrigger s m u 0x14#6 (al2 fun a b => { r := if a.toInt ≤ b.toInt then a else b })

/-- R165: MAX. -/
def execAlMax (m : Mv) (u : BitVec 1) (s : State) : Res :=
  alTrigger s m u 0x15#6 (al2 fun a b => { r := if a.toInt ≥ b.toInt then a else b })

/-- R165: MINU. -/
def execAlMinu (m : Mv) (u : BitVec 1) (s : State) : Res :=
  alTrigger s m u 0x16#6 (al2 fun a b => { r := if a.toNat ≤ b.toNat then a else b })

/-- R165: MAXU. -/
def execAlMaxu (m : Mv) (u : BitVec 1) (s : State) : Res :=
  alTrigger s m u 0x17#6 (al2 fun a b => { r := if a.toNat ≥ b.toNat then a else b })

/-- R165: CMPEQ. -/
def execAlCmpeq (m : Mv) (u : BitVec 1) (s : State) : Res :=
  alTrigger s m u 0x18#6 (al2 fun a b => { r := b01 (a == b) })

/-- R165: CMPLT. -/
def execAlCmplt (m : Mv) (u : BitVec 1) (s : State) : Res :=
  alTrigger s m u 0x19#6 (al2 fun a b => { r := b01 (decide (a.toInt < b.toInt)) })

/-- R165: CMPLTU. -/
def execAlCmpltu (m : Mv) (u : BitVec 1) (s : State) : Res :=
  alTrigger s m u 0x1A#6 (al2 fun a b => { r := b01 (decide (a.toNat < b.toNat)) })

/-- R165: SEL. -/
def execAlSel (m : Mv) (u : BitVec 1) (s : State) : Res :=
  alTrigger s m u 0x1B#6 (fun a b c => { r := if c.getLsbD 0 then a else b })

/-- R165: CLZ. -/
def execAlClz (m : Mv) (u : BitVec 1) (s : State) : Res :=
  alTrigger s m u 0x1C#6 (al2 fun a _ => { r := BitVec.ofNat 64 (clz64 a) })

/-- R165: POPC. -/
def execAlPopc (m : Mv) (u : BitVec 1) (s : State) : Res :=
  alTrigger s m u 0x1D#6 (al2 fun a _ => { r := BitVec.ofNat 64 (popc64 a) })

/-! ## Multiply and divide (R169, R170) -/

/-- A zero divisor traps (R170). -/
def divCheck : Check := fun _ _ o => if o.b64 = 0 then some .intDivzero else none

/-- A trigger of `mul`; V and C as the operation states (R164, R169). -/
def mulTrigger (s : State) (m : Mv) (sock : BitVec 12) (la lb : Nat) (chk : Check) (f : D64 → D64 → AluOut) : Res :=
  trigger s m .mul sock chk fun s c o =>
    let x := f o.a64 o.b64
    modCtx s c fun y => addResult y .mul (latency y la lb) (some (x.r.setWidth 4096, BitVec.allOnes 4096))
      (some (aluStatus x.v x.c x.r))

/-- R169: MUL. -/
def execMulMul (m : Mv) (s : State) : Res :=
  mulTrigger s m 0x188 4 3 noCheck fun a b =>
    { r := a * b, c := decide (a.toNat * b.toNat ≥ 2 ^ 64)
      v := decide (a.toInt * b.toInt < -(2 ^ 63 : Int) ∨ a.toInt * b.toInt > 2 ^ 63 - 1) }

/-- R169: MULHS. -/
def execMulMulhs (m : Mv) (s : State) : Res :=
  mulTrigger s m 0x189 4 3 noCheck fun a b => { r := low64 (a.toInt * b.toInt / 2 ^ 64) }

/-- R169: MULHU. -/
def execMulMulhu (m : Mv) (s : State) : Res :=
  mulTrigger s m 0x18A 4 3 noCheck fun a b => { r := BitVec.ofNat 64 (a.toNat * b.toNat / 2 ^ 64) }

/-- R169, R170: DIVS, truncated toward zero. -/
def execMulDivs (m : Mv) (s : State) : Res :=
  mulTrigger s m 0x18B 20 18 divCheck fun a b => { r := low64 (a.toInt.tdiv b.toInt) }

/-- R169: DIVU. -/
def execMulDivu (m : Mv) (s : State) : Res :=
  mulTrigger s m 0x18C 20 18 divCheck fun a b => { r := BitVec.ofNat 64 (a.toNat / b.toNat) }

/-- R169: REMS, with the sign of the dividend. -/
def execMulRems (m : Mv) (s : State) : Res :=
  mulTrigger s m 0x18D 20 18 divCheck fun a b => { r := low64 (a.toInt - b.toInt * a.toInt.tdiv b.toInt) }

/-- R169: REMU. -/
def execMulRemu (m : Mv) (s : State) : Res :=
  mulTrigger s m 0x18E 20 18 divCheck fun a b => { r := BitVec.ofNat 64 (a.toNat - b.toNat * (a.toNat / b.toNat)) }

/-! ## Address unit (R171, R172) -/

/-- A trigger of `agu`: 2 ticks in both tables. -/
def aguTrigger (s : State) (m : Mv) (sock : BitVec 12) (chk : Check) (f : D64 → D64 → D64 → D64 × D64) : Res :=
  trigger s m .agu sock chk fun s c o =>
    let x := f o.a64 o.b64 o.c64
    modCtx s c fun y => addResult y .agu 2 (some (x.1.setWidth 4096, BitVec.allOnes 4096)) (some x.2)

/-- W: the exact result is no virtual address (R172). -/
def aguW (v : Int) : D64 := b01 (decide (v < 0 ∨ v > 2 ^ 56 - 1))

/-- R171: AINC. -/
def execAguAinc (m : Mv) (s : State) : Res :=
  aguTrigger s m 0x1C8 noCheck fun a b c =>
    let v : Int := a.toNat + b.toInt * 2 ^ (c.extractLsb' 0 3).toNat
    (low64 v, aguW v)

/-- AMOD with L = 0 traps BOUNDS (R172). -/
def amodCheck : Check := fun _ _ o => if o.c64.extractLsb' 32 32 = 0 then some .bounds else none

/-- R171: AMOD. -/
def execAguAmod (m : Mv) (s : State) : Res :=
  aguTrigger s m 0x1C9 amodCheck fun a b c =>
    let base : Int := (c.extractLsb' 0 32).toNat
    let len : Int := (c.extractLsb' 32 32).toNat
    (low64 (base + (a.toNat - base + b.toInt) % len),
     if (a.toNat : Int) < base ∨ (a.toNat : Int) > base + len - 1 then 2 else 0)

/-- R171: AXY. -/
def execAguAxy (m : Mv) (s : State) : Res :=
  aguTrigger s m 0x1CA noCheck fun a b c =>
    let v : Int := a.toNat + (b.extractLsb' 32 32).toNat * (c.extractLsb' 32 32).toNat +
      (b.extractLsb' 0 32).toNat * (c.extractLsb' 0 32).toNat
    (low64 v, aguW v)

/-- ABND outside its bounds traps BOUNDS (R172). -/
def abndCheck : Check := fun _ _ o =>
  if o.a64.toNat < o.b64.toNat ∨ o.a64.toNat ≥ o.c64.toNat then some .bounds else none

/-- R171: ABND. -/
def execAguAbnd (m : Mv) (s : State) : Res :=
  aguTrigger s m 0x1CB abndCheck fun a _ _ => (a, 0)

end Sys2Proof.Machine
end

