-- ==== Sys2Proof/Machine/Spec.lean ====
section
/-! DEFINITION. The launch specialiser (R371 to R389): the evaluator of one entry point (R372 to R379), the residual code it
lays down (R375, R376, R381), its limits and report (R380, R386), and retiming (R387). -/

namespace Sys2Proof.Machine

/-! ## What the evaluator keeps (R372) -/

/-- An operation that the evaluator has met: when it is due, what it delivers where that is known, whether it surely
happens, and whether its trigger may be removed (R376). -/
structure EOp where
  unit : FU
  due  : Nat
  id   : Nat
  val  : Option (Val × D64)
  sure : Bool
  rem  : Bool
deriving DecidableEq, Repr

/-- What becomes of a move: kept, left out, a folded move into an operand port, or a folded trigger that R376 may remove. -/
inductive EAct where
  | keep
  | out
  | port (id : Nat)
  | trig (id : Nat)
deriving DecidableEq, Repr

/-- A move of a visited bundle (R375): its source as written, the immediate that may replace it, and the operations that the
result port it reads may hold. -/
structure EMove where
  guard : BitVec 4
  dst   : BitVec 12
  src   : BitVec 14
  ext   : List Word
  imm   : Option D64 := none
  reads : List Nat := []
  sure  : Bool
  act   : EAct := .keep
deriving DecidableEq, Repr

/-- A visited bundle: its position, tick, loop depth and iteration word (R389), its moves, the operations it triggers, and its
`:q` moves with whether they folded (R378). -/
structure EStep where
  pos    : Nat
  tick   : Nat
  depth  : Nat
  iter   : D64
  header : Word
  moves  : List EMove
  ops    : List EOp
  qs     : List (Nat × Bool)
deriving DecidableEq, Repr

/-- The evaluator (R372): a context whose known parts are exact, and which of its parts are unknown: visible faces, hidden
faces and written bits; registers that are never known again (R77, R374); the ports whose value is known. -/
structure Eval where
  pos  : Nat
  tick : Nat := 0
  id   : Nat := 1
  x    : Ctx
  uv   : List (BitVec 12) := []
  uh   : List (BitVec 12) := []
  uw   : List (BitVec 12) := []
  dead : List (BitVec 12) := []
  kl   : List (FU × Nat) := []
  infl : List EOp := []
  cur  : List (FU × List Nat) := []
  steps : List EStep := []            -- newest first
deriving DecidableEq, Repr

/-- The report codes of R386. -/
def rENDED : Nat := 0
def rNONE : Nat := 1
def rGROWTH : Nat := 2
def rDICT : Nat := 3
def rUNROLL : Nat := 4
def rBUDGET : Nat := 6
def rSPACE : Nat := 7

def without {α : Type} [DecidableEq α] (l : List α) (a : α) : List α := l.filter fun b => decide (b ≠ a)
def with_ {α : Type} [DecidableEq α] (l : List α) (a : α) : List α := if a ∈ l then l else a :: l

/-- The state at an entry point (R372). -/
def evalStart (k : KernelImage) (args : List Byte) (ltb scb gang : Bool) (pos : Nat) : Eval :=
  let sys : SysRegs := { ltb := ltb, scb := scb }
  let x : Ctx := { status := .running, regs := startRegs args [], sys := sys, pc := pos }
  let own := (k.dynamic.filter (· < 32)).map fun n => BitVec.ofNat 12 (0x40 + n)
  let live := if gang then [] else (natsFrom 1 5).map (BitVec.ofNat 12)
  { pos := pos, x := x, uv := own ++ live, uh := own ++ live }

/-- Operations due by the evaluator's tick become what their units' ports hold (R118, R372). -/
def evalDeliver (e : Eval) : Eval :=
  let due := sortBy (fun a b => decide (a.due < b.due) || (a.due == b.due && decide (a.id ≤ b.id)))
    (e.infl.filter fun o => decide (o.due ≤ e.tick))
  due.foldl (fun e o =>
    let l := latchOf e.x.lat o.unit
    let x : Ctx := match o.val with
      | some v => { e.x with lat := setLatch e.x.lat o.unit { l with r := v.1, st := v.2 } }
      | none => e.x
    let known := o.sure && o.val.isSome
    let ports := [(o.unit, 3), (o.unit, 4)]
    let kl := e.kl.filter fun p => !ports.contains p
    let old := ((e.cur.find? fun p => p.1 == o.unit).map (·.2)).getD [0]
    { e with
      x := x, kl := if known then ports ++ kl else kl
      cur := (o.unit, if o.sure then [o.id] else o.id :: old) :: e.cur.filter fun p => p.1 != o.unit })
    { e with infl := e.infl.filter fun o => !decide (o.due ≤ e.tick) }

/-- A register's visible face is known. -/
def Eval.regKnown (e : Eval) (d : BitVec 12) : Bool := !e.uv.contains d && !e.dead.contains d

/-- The value of a guard, where it is known (R374). -/
def Eval.guard (e : Eval) (g : BitVec 4) : Option Bool :=
  if g = 0 then some true
  else if e.regKnown (0x060#12 ||| (g.extractLsb' 0 3).setWidth 12) then some (guardHolds e.x.regs g) else none

/-- With the checking scoreboard on, a read of the unit's ports would be early: the move is kept, so that it traps (R121, R376). -/
def Eval.early (e : Eval) (u : FU) : Bool := e.x.sys.scb && e.infl.any fun o => o.unit == u

/-- The source of a move is known (R374). -/
def Eval.srcKnown (e : Eval) (src : BitVec 14) : Bool :=
  if src.extractLsb' 12 2 ≠ 0 then true
  else
    let d := src.extractLsb' 0 12
    match unitOf d with
    | some (.br, _) => true
    | some (u, o) => e.kl.contains (u, o) && !(decide (3 ≤ o) && decide (o ≤ 4) && e.early u)
    | none => d == 0 || e.regKnown d

/-- A source of class S or P (R375). -/
def scalarSrc (src : BitVec 14) : Bool :=
  src.extractLsb' 12 2 != 0 ||
    (match unitOf (src.extractLsb' 0 12) with
     | some (u, o) => !portWide u o
     | none => decide ((src.extractLsb' 0 12).toNat < 0x68))

/-- The operations that the port a source names may hold, those in flight among them where the read would be early. -/
def Eval.reach (e : Eval) (src : BitVec 14) : List Nat :=
  if src.extractLsb' 12 2 ≠ 0 then []
  else match unitOf (src.extractLsb' 0 12) with
    | some (u, _) => ((e.cur.find? fun p => p.1 == u).map (·.2)).getD [0] ++
        if e.early u then (e.infl.filter fun o => o.unit == u).map (·.id) else []
    | none => []

/-- A source that reads `br.r` or `br.st`. -/
def readsBr (src : BitVec 14) (o : Nat) : Bool :=
  src.extractLsb' 12 2 == 0 && unitOf (src.extractLsb' 0 12) == some (.br, o)

/-- The surrendered words of a slot's long immediate (R48). -/
def extOf (slots : List Word) (n : Nat) (w : Word) : List Word := (slots.drop (n + 1)).take (longSlots w)

/-- An immediate in the first form of R36 that applies: source field and surrendered words. -/
def immSrc (v : D64) : BitVec 14 × List Word :=
  let i := v.toInt
  if -2048 ≤ i ∧ i ≤ 2047 then (1#2 ++ v.extractLsb' 0 12, [])
  else if -(2 ^ 31 : Int) ≤ i ∧ i < 2 ^ 31 then (0x2000#14, [v.extractLsb' 0 32])
  else if v.toNat < 2 ^ 32 then (0x2001#14, [v.extractLsb' 0 32])
  else if v.extractLsb' 0 32 = 0 then (0x2003#14, [v.extractLsb' 32 32])
  else (0x2002#14, [v.extractLsb' 0 32, v.extractLsb' 32 32])

/-! ## One bundle (R373 to R379) -/

/-- The evaluation of a bundle in progress. -/
structure Turn where
  e     : Eval
  f     : Frame
  moves : List (Nat × EMove) := []
  ops   : List EOp := []
  qs    : List (Nat × Bool) := []
  done  : Bool := false
  loop  : Bool := false           -- the bundle lies in an unrolled loop (R379)
  kw    : List (BitVec 12) := []  -- `k` registers that its moves write: unknown from the next bundle on (R50, R77)
  drop  : Option Bool := none     -- an RNDCMT that acts for sure, or perhaps: it discards results and latches (R129, R356)
deriving DecidableEq, Repr

/-- A move as the evaluator first sees it: inside an unrolled loop `br.r` is the iteration index, as it stands when the bundle issues (R128,
R379). -/
def rawMove (t : Turn) (n : Nat) (w : Word) (sure : Bool) : EMove :=
  let imm : Option D64 := if readsBr (slotSrc w) 3 ∧ t.loop then some t.f.brR else none
  { guard := slotGuard w, dst := slotDst w, src := slotSrc w, ext := extOf t.f.slots n w, imm := imm
    reads := t.e.reach (slotSrc w), sure := sure }

def Turn.add (t : Turn) (n : Nat) (m : EMove) : Turn := { t with moves := t.moves ++ [(n, m)] }

/-- A `:q` move of the bundle folded, or did not (R378). -/
def Turn.mark (t : Turn) (n : Nat) (w : Word) (folded : Bool) : Turn :=
  if slotBind w = 2 then { t with qs := t.qs ++ [(n, folded)] } else t

/-- A folded move (R375): a known true guard becomes always; a known source of class S or P an immediate. [DEDUCED, log entry 37] -/
def foldedMove (m : EMove) (v : D64) : EMove :=
  { m with guard := 0, imm := if scalarSrc m.src then some v else none }

/-- What a plain move leaves known of its destination. -/
def setKnown (e : Eval) (d : BitVec 12) (v : Option (Val × Val)) (sure : Bool) : Eval :=
  match unitOf d with
  | some p =>
    { e with x := match v with | some v => writeMove e.x d v | none => e.x
             kl := if v.isSome && sure then with_ e.kl p else without e.kl p }
  | none =>
    let wrKnown := (e.x.regs.bits d).wr && !e.uw.contains d
    if d = 0 then e
    else match v, sure with
    | some v, true => { e with x := writeMove e.x d v, uh := without e.uh d, uw := without e.uw d }
    | _, true => { e with x := writeMove e.x d (0, BitVec.allOnes 4096), uh := with_ e.uh d, uw := without e.uw d }
    | _, false => { e with uh := with_ e.uh d, uw := if wrKnown then e.uw else with_ e.uw d }

/-- A plain move acts, for sure or perhaps; a `k` register that it writes is static no more (R77). -/
def Turn.write (t : Turn) (d : BitVec 12) (v : Option (Val × Val)) (sure : Bool) : Turn :=
  { t with e := setKnown t.e d v sure, kw := if 0x40 ≤ d.toNat ∧ d.toNat < 0x60 then with_ t.kw d else t.kw }

/-- A plain move (R373 to R375). -/
def evalMove (t : Turn) (n : Nat) (w : Word) : Turn :=
  let b := slotBind w
  let g := t.e.guard (slotGuard w)
  let raw := rawMove t n w (g == some true)
  let v := sourceVal t.f (slotSrc w) n
  if b = 0 then (t.add n raw).write (slotDst w) none (g == some true)
  else if g = some false ∧ t.e.srcKnown (slotSrc w) then (if b = 3 then t.add n raw else (t.mark n w true).add n { raw with act := .out })
  else if g = some true ∧ t.e.srcKnown (slotSrc w) then
    let m := if b = 3 then raw else foldedMove raw (v.1.setWidth 64)
    let port := b ≠ 3 ∧ (unitOf (slotDst w)).isSome
    let t1 := (t.mark n w true).add n (if port then { m with act := .port t.e.id } else m)
    ({ t1 with e := { t.e with id := t.e.id + 1 } } : Turn).write (slotDst w) (some v) true
  else ((t.mark n w false).add n raw).write (slotDst w) none (g == some true)

/-- The meaning of a scalar trigger: the operations that fold (R374). -/
def runScalar (i : Instr) (s : State) : Res :=
  match i with
  | .alAdd m u => execAlAdd m u s | .alSub m u => execAlSub m u s | .alAdds m u => execAlAdds m u s
  | .alSubs m u => execAlSubs m u s | .alAnd m u => execAlAnd m u s | .alOr m u => execAlOr m u s
  | .alXor m u => execAlXor m u s | .alAndn m u => execAlAndn m u s | .alShl m u => execAlShl m u s
  | .alShr m u => execAlShr m u s | .alSar m u => execAlSar m u s | .alRor m u => execAlRor m u s
  | .alMin m u => execAlMin m u s | .alMax m u => execAlMax m u s | .alMinu m u => execAlMinu m u s
  | .alMaxu m u => execAlMaxu m u s | .alCmpeq m u => execAlCmpeq m u s | .alCmplt m u => execAlCmplt m u s
  | .alCmpltu m u => execAlCmpltu m u s | .alSel m u => execAlSel m u s | .alClz m u => execAlClz m u s
  | .alPopc m u => execAlPopc m u s
  | .mulMul m => execMulMul m s | .mulMulhs m => execMulMulhs m s | .mulMulhu m => execMulMulhu m s
  | .mulDivs m => execMulDivs m s | .mulDivu m => execMulDivu m s | .mulRems m => execMulRems m s
  | .mulRemu m => execMulRemu m s
  | .aguAinc m => execAguAinc m s | .aguAmod m => execAguAmod m s | .aguAxy m => execAguAxy m s
  | .aguAbnd m => execAguAbnd m s
  | _ => .next s

/-- The result of a scalar trigger whose operands are known; none where it traps. -/
def evalScalar (t : Turn) (n : Nat) (w : Word) : Option InFlight :=
  match decodeSlot w n with
  | .error _ => none
  | .ok i =>
    let x : Ctx := { t.e.x with infl := [], frame := some { t.f with cur := n, dry := false } }
    match runScalar i { active := some 0, ctxs := [(0, x)] } with
    | .next s => if s.active.isSome then (ctxOf s 0).infl.head? else none
    | _ => none

/-- The operands that an operation uses beside the value moved to it (R127, R165, R169, R171). -/
def usedPorts (u : FU) (o : Nat) : List Nat :=
  match u with
  | .al0 | .al1 => if o = 0x1C ∨ o = 0x1D then [] else if o = 0x1B then [1, 2] else [1]
  | .mul => [1]
  | .br => if o = 0xB then [1] else []
  | _ => [1, 2]

/-- A zero divisor or a zero length that is known traps whatever the other operands are (R170, R172). -/
def surelyTraps (t : Turn) (u : FU) (o : Nat) : Bool :=
  let l := latchOf t.e.x.lat u
  (u == .mul && decide (0xB ≤ o) && t.e.kl.contains (u, 1) && l.b.setWidth 64 == 0#64) ||
    (u == .agu && o == 9 && t.e.kl.contains (u, 2) && l.c.extractLsb' 32 32 == 0#32)

/-- A trigger of `al0`, `al1`, `mul` or `agu`. -/
def evalOp (t : Turn) (n : Nat) (w : Word) (u : FU) (o lat : Nat) : Except Nat Turn :=
  let b := slotBind w
  let g := t.e.guard (slotGuard w)
  let raw := rawMove t n w (g == some true)
  let id := t.e.id
  let open_ : EOp := { unit := u, due := t.e.tick + lat, id := id, val := none, sure := g == some true, rem := false }
  let e' : Eval := { t.e with id := id + 1 }
  let known := t.e.srcKnown (slotSrc w) && (usedPorts u o).all fun p => t.e.kl.contains (u, p)
  if b ≠ 0 ∧ g = some false ∧ known then .ok (if b = 3 then t.add n raw else (t.mark n w true).add n { raw with act := .out })
  else if b ≠ 0 ∧ g = some true ∧ surelyTraps t u o then .error rENDED
  else if b ≠ 0 ∧ g = some true ∧ known then
    match evalScalar t n w with
    | none => .error rENDED
    | some r =>
      let v := (sourceVal t.f (slotSrc w) n).1.setWidth 64
      let m := if b = 3 then raw else { foldedMove raw v with act := .trig id }
      let op : EOp := { open_ with val := some ((r.r.map (·.1)).getD 0, r.st.getD 0), rem := b ≠ 3 && r.flags == 0 }
      .ok { (t.mark n w true).add n m with e := e', ops := t.ops ++ [op] }
  else .ok { (t.mark n w false).add n raw with e := e', ops := t.ops ++ [open_] }

/-- A `br` trigger (R373, R377, R379): JMP, LOOP, BREAKL and HALT fold or end the region before the bundle, a `:k` HALT ends it after; CALL,
RET and YIELD end it before, whatever their guard. -/
def evalBr (t : Turn) (n : Nat) (w : Word) (o : Nat) : Except Nat Turn :=
  let b := slotBind w
  let g := t.e.guard (slotGuard w)
  let raw := rawMove t n w (g == some true)
  let folds := o == 8 || o == 0xB || o == 0xC || o == 0xD
  if !folds ∨ (b = 3 ∧ o ≠ 0xD) ∨ g.isNone then .error rENDED
  else if b = 3 then .ok { t.add n raw with done := g == some true }
  else if !t.e.srcKnown (slotSrc w) ∨ (o = 0xB ∧ !t.e.kl.contains (.br, 1)) then .error rENDED
  else if g = some false then .ok ((t.mark n w true).add n { raw with act := .out })
  else
    let a : D64 := (sourceVal t.f (slotSrc w) n).1.setWidth 64
    let bl : D64 := (latchOf t.e.x.lat .br).b.setWidth 64
    let x := t.e.x
    let out := (t.mark n w true).add n { raw with act := .out }
    if o = 8 then
      if a.extractLsb' 20 44 ≠ 0 then .error rENDED
      else .ok { out with f := { t.f with next := a.toNat, brSet := true } }
    else if o = 0xB then
      if a.extractLsb' 32 32 ≠ 0 ∨ bl.extractLsb' 20 44 ≠ 0 ∨ bl.toNat ≤ t.f.next then .error rENDED
      else if a = 0 then .ok { out with f := { t.f with next := bl.toNat, brSet := true } }
      else if x.loops.length ≥ Config.loopDepth then .error rENDED
      else if a.toNat > 64 then .error rUNROLL
      else
        let y : Ctx := { x with loops := ⟨t.f.next, bl.toNat, a.toNat, 0, 0⟩ :: x.loops }
        .ok { out with e := { t.e with x := y } }
    else if o = 0xC then
      match x.loops with
      | [] => .error rENDED
      | l :: ls =>
        let y : Ctx := { x with loops := ls }
        .ok { out with e := { t.e with x := y }, f := { t.f with next := l.exit, brSet := true } }
    else
      .ok { (t.mark n w true).add n (foldedMove raw a) with done := true }

/-- The registers that a copy command may write asynchronously (R374): every `g` register where its token is not known. -/
def asyncTargets (t : Turn) (o : Nat) : List (BitVec 12) :=
  let l := latchOf t.e.x.lat .cpy
  let b : D64 := l.b.setWidth 64
  let known := fun p => t.e.kl.contains (FU.cpy, p)
  let allG := (natsFrom 1 63).map (BitVec.ofNat 12)
  if o = 9 ∨ o = 0xA then
    if !known 1 then allG ++ (natsFrom 0x80 40).map (BitVec.ofNat 12)
    else cpldDst b :: (if b.getLsbD 27 then [BitVec.ofNat 12 (0xA0 + (b.extractLsb' 24 3).toNat)] else [])
  else if o = 8 then allG
  else if o = 0xB then (if known 2 then [((l.c.setWidth 64 : D64).extractLsb' 8 6).setWidth 12] else allG)
  else if o = 0xD then (if known 1 then [(b.extractLsb' 0 6).setWidth 12] else allG)
  else []

/-- Any other trigger never folds (R374); TDONE and WAITC end the region, a `sys` trigger ends it before, whatever its guard (R377). -/
def evalOther (t : Turn) (n : Nat) (w : Word) (u : FU) (o : Nat) : Except Nat Turn :=
  let g := t.e.guard (slotGuard w)
  let raw := rawMove t n w (g == some true)
  let t1 := (t.mark n w false).add n raw
  if u = .sys then .error rENDED
  else if g = some false then .ok t1
  else if u = .tsk ∧ (o = 9 ∨ o = 0xA) then
    if g = some true then .ok { t1 with done := true } else .error rENDED
  else
    let dead := if u = .cpy then (asyncTargets t o).foldl with_ t.e.dead else t.e.dead
    let id := t.e.id
    let e : Eval := { t.e with id := id + 1, dead := dead }
    let t1 := if u = .tsk ∧ o = 0xC then { t1 with drop := some (g == some true) } else t1
    match latencyOf (slotDst w) t.e.x.sys.ltb with
    | some lat => .ok { t1 with e := e, ops := t.ops ++ [{ unit := u, due := t.e.tick + lat, id := id, val := none, sure := g == some true, rem := false }] }
    | none => .ok { t1 with e := e }

def evalTrigger (t : Turn) (n : Nat) (w : Word) : Except Nat Turn :=
  match unitOf (slotDst w) with
  | none => .ok t
  | some (u, o) => match u with
    | .al0 | .al1 | .mul | .agu => evalOp t n w u o ((latencyOf (slotDst w) t.e.x.sys.ltb).getD 0)
    | .br => evalBr t n w o
    | _ => evalOther t n w u o

/-- With the checking scoreboard on, an operation that is seen to trap UNDERSIZED_COUNT, its result being due with that of another of its
unit, ends the region before its bundle (R121, R377). -/
def earlyUse (e : Eval) (live : List Slot) : Bool :=
  e.x.sys.scb && live.any fun p => e.guard (slotGuard p.2) == some true &&
    (match unitOf (slotDst p.2), latencyOf (slotDst p.2) e.x.sys.ltb with
     | some (u, _), some l => isTrigger p.2 && e.infl.any fun o => o.sure && o.unit == u && o.due == e.tick + l
     | _, _ => false)

/-- After an RNDCMT no port's value is known; what was in flight is gone, or perhaps gone (R129, R356, R372). -/
def evalDrop (e : Eval) : Option Bool → Eval
  | none => e
  | some true => { e with infl := [], kl := [], cur := [] }
  | some false => { e with infl := e.infl.map fun o => { o with val := none, sure := false }, kl := [] }

/-- A flip on what is known (R83): a register that may or may not be written is unknown in both faces. -/
def evalFlip (e : Eval) : Eval :=
  let touched := (e.uv ++ e.uh ++ e.uw).eraseDups
  let maybe := fun d => e.uw.contains d
  let wr := fun d => (e.x.regs.bits d).wr
  { e with
    uv := touched.filter fun d => maybe d || (if wr d then e.uh.contains d else e.uv.contains d)
    uh := touched.filter fun d => maybe d || (if wr d then e.uv.contains d else e.uh.contains d)
    uw := []
    x := { e.x with regs := e.x.regs.flip } }

/-- The iteration word of a bundle inside its unrolled loops (R389). -/
def iterWord (loops : List LoopEnt) : D64 :=
  BitVec.ofNat 64 (loops.length * 2 ^ 32 + ((loops.zipIdx.map fun p => p.1.iter % 256 * 2 ^ (8 * p.2)).sum))

/-- One bundle of words `ws`, `len` index words long: the region ends before it with a report code, or goes on; the flag says
that it ends after it (R377). -/
def evalBundle (e : Eval) (ws : List Word) (len : Nat) : Except Nat (Eval × Bool) :=
  let header := ws.headD 0
  let slots := ws.drop 1
  let live := liveSlots (hdrSurr header) slots
  if earlyUse e live ∨ (e.x.loops ≠ [] ∧ live.any fun p => readsBr (slotSrc p.2) 4) then .error rENDED
  else
    let f := makeFrame { e.x with pc := e.pos } ws len []
    let t := (live.filter fun p => !isTrigger p.2).foldl (fun t p => evalMove t p.1 p.2) { e := e, f := f, loop := e.x.loops != [] }
    match (triggerOrder live).foldlM (fun t p => evalTrigger t p.1 p.2) t with
    | .error c => .error c
    | .ok t =>
      let moves := (sortBy (fun a b => decide (a.1 ≤ b.1)) t.moves).map (·.2)
      let step : EStep := { pos := e.pos, tick := e.tick, depth := e.x.loops.length, iter := iterWord e.x.loops, header := header
                            moves := moves, ops := t.ops, qs := t.qs }
      let at_ := settled t.e.x t.f
      let e2 := { t.e with dead := t.kw.foldl with_ t.e.dead }
      let y : Ctx := { e2.x with loops := at_.1 }
      let e3 : Eval := { e2 with x := y, pos := at_.2, tick := e.tick + 1 + (hdrIdle header).toNat
                                 infl := e2.infl ++ t.ops, steps := step :: e2.steps }
      let e4 := evalDrop e3 t.drop
      .ok (if 1 ≤ (hdrSpan header).toNat ∧ (hdrSpan header).toNat ≤ 4 then evalFlip e4 else e4, t.done)

/-- The kernel with every segment at hand, as the evaluator reads it. -/
def wholeKernel (k : KernelImage) (words : List (List Idx)) : Kernel :=
  { launch := 0, kslot := 0, allow := k.allow, chunks := [], dict := k.dict.map some, segs := k.segs
    frames := words.zipIdx.map fun p => { seg := some p.2, words := p.1 }, demand := [], feat := k.feat }

/-- A literal bundle that the evaluator shows to trap at its issue (R58): a trigger that a clear FEAT bit gates traps where its
guard is known to hold (R163, R377). -/
def literalTraps (feat : D64) (e : Eval) (ws : List Word) : Bool :=
  match bundleError feat ws with
  | none => false
  | some (.gated _ _) => (liveSlots (hdrSurr (ws.headD 0)) (ws.drop 1)).any fun p =>
      e.guard (slotGuard p.2) == some true && (gateOf (slotDst p.2)).any fun b => !feat.getLsbD b
  | some _ => true

/-- Follow a context from its entry point (R372): at most `fuel` bundles. The report code, and whether the region ended after a
bundle. [DEDUCED, log entry 37] -/
def evalRun (k : Kernel) (feat : D64) : Nat → Eval → Nat × Bool × Eval
  | 0, e => (rGROWTH, false, e)
  | n + 1, e =>
    let e := evalDeliver e
    let go := fun (ws : List Word) (len : Nat) => evalBundle e ws len
    let r : Except Nat (Eval × Bool) := match fetchAt k 0 e.pos with
      | .dict ws => go ws 1
      | .literal ws => if literalTraps feat e ws then .error rENDED else go ws 25
      | _ => .error rENDED
    match r with
    | .error c => (c, false, e)
    | .ok (e', true) => (rENDED, true, e')
    | .ok (e', false) => evalRun k feat n e'

/-! ## The residual (R375, R376, R381) -/

/-- A later operation of the unit takes its place at the ports by tick `E`. -/
def opClosed (ops : List EOp) (E : Nat) (o : EOp) : Bool :=
  ops.any fun p => p.unit == o.unit && p.sure && decide (p.due ≤ E) &&
    (decide (o.due < p.due) || (o.due == p.due && decide (o.id < p.id)))

/-- The moves into operand ports that something may still read: a kept trigger of their unit, or the code behind the region. -/
def neededPorts (steps : List EStep) (keep : List Nat) (halted : Bool) : List Nat :=
  let r := steps.foldl (fun (r : List ((FU × Nat) × List Nat) × List Nat) st =>
    let cur := st.moves.foldl (fun cur m => match m.act, unitOf m.dst with
      | .out, _ => cur
      | a, some (u, o) => if o < 3 then
          let ids := match a with | .port id => [id] | _ => []
          let old := ((cur.find? fun p => p.1 == (u, o)).map (·.2)).getD []
          ((u, o), if m.sure then ids else ids ++ old) :: cur.filter (fun p => p.1 != (u, o))
        else cur
      | _, none => cur) r.1
    let kept := st.moves.filterMap fun m => match unitOf m.dst with
      | some (u, o) => if decide (8 ≤ o) && (match m.act with | .keep => true | .trig id => keep.contains id | _ => false) then some (u, o) else none
      | none => none
    let used := kept.flatMap fun p => (usedPorts p.1 p.2).map fun q => (p.1, q)
    (cur, r.2 ++ (cur.filter fun p => used.contains p.1).flatMap (·.2))) ([], [])
  if halted then r.2 else r.2 ++ r.1.flatMap (·.2)

/-- A move stands in the residual. -/
def moveStays (need keep : List Nat) (m : EMove) : Bool :=
  match m.act with
  | .keep => true
  | .out => false
  | .port id => need.contains id
  | .trig id => keep.contains id

/-- The moves of a residual bundle laid out from slot 0, each behind the immediate of the one before; sources become
immediates while slots are free (R375). The slots in order: guard, destination, source, surrendered words; and the
operations whose ports are still read. -/
def layMoves : Nat → List EMove → List (BitVec 4 × BitVec 12 × BitVec 14 × List Word) × List Nat
  | _, [] => ([], [])
  | total, m :: ms =>
    match m.imm with
    | none =>
      let (l, r) := layMoves total ms
      ((m.guard, m.dst, m.src, m.ext) :: l, m.reads ++ r)
    | some v =>
      let (src, ext) := immSrc v
      let t := total + ext.length - m.ext.length
      if t ≤ 11 then
        let (l, r) := layMoves t ms
        ((m.guard, m.dst, src, ext) :: l, r)
      else
        let (l, r) := layMoves total ms
        ((m.guard, m.dst, m.src, m.ext) :: l, m.reads ++ r)

/-- The words of a bundle of laid-out moves: BIND 0b00, SEG and BSUM clear, IDLE and SPAN as in the original (R375, R381). -/
def layWords (header : Word) (ms : List (BitVec 4 × BitVec 12 × BitVec 14 × List Word)) : List Word :=
  let body := ms.flatMap fun m => (false, (0#2 ++ m.1 ++ m.2.1 ++ m.2.2.1 : Word)) :: m.2.2.2.map fun w => (true, w)
  let surr := ((body.zipIdx.map fun p => if p.1.1 then 2 ^ p.2 else 0)).sum
  let h : Word := hdrIdle header ++ hdrSpan header ++ BitVec.ofNat 11 surr ++ 0#13
  h :: (body.map (·.2) ++ List.replicate (11 - body.length) emptySlot)

/-- One residual bundle, and the operations whose ports it reads; `jmp` is the position of R377's JMP; none where there is no
slot for it. Its immediate is short where the position fits one, else a long one of one slot. [DEDUCED, log entry 75] -/
def residBundle (st : EStep) (need keep : List Nat) (jmp : Option Nat) : Option (List Word × List Nat) :=
  let ms := st.moves.filter (moveStays need keep)
  let (l, reads) := layMoves ((ms.map fun m => 1 + m.ext.length).sum) ms
  match jmp with
  | none => some (layWords st.header l, reads)
  | some p =>
    let (src, ext) := immSrc (BitVec.ofNat 64 p)
    let used := (l.map fun m => 1 + m.2.2.2.length).sum
    let clash := l.any fun m => match unitOf m.2.1 with | some (.br, o) => o == 0 || decide (8 ≤ o) | _ => false
    if clash || decide (used + 1 + ext.length > 11) then none
    else some (layWords st.header (l ++ [(0, 0x208, src, ext)]), reads)

/-- Keep the triggers whose ports something still reads, until no more are needed (R376). -/
def settleKeep (steps : List EStep) (halted : Bool) (rem : List Nat) : Nat → List Nat → List Nat
  | 0, keep => keep
  | n + 1, keep =>
    let need := neededPorts steps keep halted
    let reads := steps.flatMap fun st => ((residBundle st need keep none).map (·.2)).getD []
    let more := reads.filter fun id => rem.contains id && !keep.contains id
    if more = [] then keep else settleKeep steps halted rem n (more.eraseDups ++ keep)

/-- The bundles of the residual of a region (R375 to R377): `next` is the position behind it, none where it ended after its last
bundle; none where no slot is left for the JMP. -/
def residWords (steps : List EStep) (E : Nat) (next : Option Nat) : Option (List (List Word)) :=
  let ops := steps.flatMap (·.ops)
  let halted := next.isNone
  let rem := (ops.filter (·.rem)).map (·.id)
  let fixed := (steps.flatMap fun st => st.moves.filterMap fun m => match m.act with | .trig id => some id | _ => none).filter fun id => !rem.contains id
  let open_ := if halted then [] else ((ops.filter fun o => o.rem && !opClosed ops E o).map (·.id))
  let keep := settleKeep steps halted rem (rem.length + 1) (fixed ++ open_)
  let need := neededPorts steps keep halted
  let last := steps.length - 1
  steps.zipIdx.mapM fun p => (residBundle p.1 need keep (if p.2 = last then next else none)).map (·.1)

/-- Number the bundles (R381): one that matches an entry of the dictionary uses it, any other takes a new entry from `first`
up. -/
def numberBundles (dict : List (List Word)) (first : Nat) : List (List Word) → List (List Word) → List Idx × List (List Word)
  | news, [] => ([], news)
  | news, b :: bs =>
    match dict.findIdx? (· == b) with
    | some i => let (l, n) := numberBundles dict first news bs; (BitVec.ofNat 16 i :: l, n)
    | none =>
      match news.findIdx? (· == b) with
      | some i => let (l, n) := numberBundles dict first news bs; (BitVec.ofNat 16 (first + i) :: l, n)
      | none => let (l, n) := numberBundles dict first (news ++ [b]) bs; (BitVec.ofNat 16 (first + news.length) :: l, n)

/-- What the specialiser makes of one entry point. -/
structure SpecOut where
  code  : Nat
  stop  : Option Nat                -- STOPPOS where STOPV is 1
  resid : Option Residual
  bytes : Nat := 0                  -- R383
  bad   : List (Nat × Nat) := []
  seen  : List (Nat × Nat) := []
deriving DecidableEq, Repr

/-- What the residual may take (R380): new entries in the kernel's numbers and in chunks, index-word positions, whether a frame
is free, bytes of SPECB. -/
structure SpecRoom where
  entries : Nat
  words   : Nat
  frame   : Bool
  bytes   : Nat
  dict    : Nat := 2048      -- what is left of the kernel's 2,048 new entries
deriving DecidableEq, Repr

/-- The longest region of at most `n` bundles whose residual fits (R377, R379, R380, R383), or none. -/
def fitRegion (k : KernelImage) (entry base : Nat) (room : SpecRoom) (steps : List EStep) (endTick endPos endDepth : Nat)
    (halted : Bool) : Nat → Nat → SpecOut
  | 0, code => { code := code, stop := some ((steps.head?.map (·.pos)).getD endPos), resid := none }
  | n + 1, code =>
    let lower := fun c => fitRegion k entry base room steps endTick endPos endDepth halted n c
    let whole := halted && n + 1 == steps.length
    let after := steps[n + 1]?
    let depth := match after with | some st => st.depth | none => if steps.length ≤ n + 1 then endDepth else 0
    let pos := match after with | some st => st.pos | none => endPos
    let tick := match after with | some st => st.tick | none => endTick
    if !whole && depth ≠ 0 then lower code
    else
      let part := steps.take (n + 1)
      match residWords part tick (if whole then none else some pos) with
      | none => lower code
      | some bs =>
        let first := chunkUp k.allow
        let (words, news) := numberBundles k.dict first [] bs
        let bytes := 48 * news.length + 2 * words.length + 8 * words.length
        if news.length > room.dict then lower rDICT
        else if !room.frame ∨ first + news.length > Config.dictEntries ∨ news.length > room.entries ∨ words.length > room.words then lower rSPACE
        else if bytes > room.bytes then lower rBUDGET
        else
          let qs := part.flatMap fun st => st.qs.map fun q => (st.pos, q.1, q.2)
          { code := code, stop := if whole then none else some pos
            resid := some { entry := entry, base := base, words := words, entries := news
                            map := part.zipIdx.map fun p => (base + p.2, p.1.pos, p.1.iter) }
            bytes := bytes
            bad := (qs.filter fun q => !q.2.2).map fun q => (q.1, q.2.1)
            seen := (qs.filter fun q => q.2.2).map fun q => (q.1, q.2.1) }

/-- The bundles that stand in a segment from position `pos`, with their positions (R64). -/
def scanBundles (k : Kernel) : Nat → Nat → List Idx → List (Nat × List Word × Bool)
  | 0, _, _ => []
  | _, _, [] => []
  | n + 1, pos, w :: ws =>
    if w = 0xFFFF then
      if ws.length < 24 then [] else (pos, wordsOfIdx (ws.take 24), true) :: scanBundles k n (pos + 25) (ws.drop 24)
    else match (k.dict[w.toNat]?).getD none with
      | some b => if w.toNat < k.allow then (pos, b, false) :: scanBundles k n (pos + 1) ws else scanBundles k n (pos + 1) ws
      | none => scanBundles k n (pos + 1) ws

/-- Every bundle of the kernel's index stream; the mark says that it is a literal one. -/
def kernelBundles (k : Kernel) : List (Nat × List Word × Bool) :=
  k.segs.zipIdx.flatMap fun p =>
    let ws := (k.frames[p.2]?.getD {}).words
    scanBundles k ws.length p.1.start ws

/-- The marks of a kernel: whether some move is marked, and its `:q` moves (R378, R386). -/
def kernelMarks (k : Kernel) : Bool × List (Nat × Nat) :=
  let live := (kernelBundles k).flatMap fun b => (liveSlots (hdrSurr (b.2.1.headD 0)) (b.2.1.drop 1)).map fun p => (b.1, p)
  (live.any (fun q => slotBind q.2.2 != 0), (live.filter fun q => slotBind q.2.2 == 2).map fun q => (q.1, q.2.1))

def streamLen (k : KernelImage) : Nat := (k.segs.map (·.len)).sum

/-- The first residual position of a kernel (R381). -/
def residBase (k : KernelImage) : Nat := (streamLen k + 16383) / 16384 * 16384

/-- The specialiser at one entry point (R371 to R381). -/
def specialise (k : KernelImage) (words : List (List Idx)) (feat : D64) (args : List Byte) (ltb scb gang : Bool) (entry : Nat)
    (room : SpecRoom) : SpecOut :=
  let w := wholeKernel k words
  if !(kernelMarks w).1 then { code := rNONE, stop := none, resid := none }
  else
    let cap := min (4 * streamLen k) 16384
    let (code, halted, e) := evalRun w feat cap (evalStart k args ltb scb gang entry)
    let steps := e.steps.reverse
    fitRegion k entry (residBase k) room steps e.tick e.pos e.x.loops.length halted steps.length code

/-- The report word of an entry point (R386). -/
def specReport (o : SpecOut) (hit : Bool) : D64 :=
  BitVec.ofNat 64 ((o.stop.getD 0) * 2 ^ 44 + bit o.stop.isSome 43 +
    ((o.resid.map fun r => r.entries.length).getD 0) * 2 ^ 16 + bit hit 7 + o.code)

/-- The residual as installed behind `i` others of its kernel that hold `n` entries: its positions and its new entries follow
theirs. -/
def shiftResidual (r : Residual) (first i n : Nat) : Residual :=
  { r with
    base := r.base + 16384 * i
    words := r.words.map fun w => if w.toNat < first then w else BitVec.ofNat 16 (w.toNat + n)
    map := r.map.map fun m => (m.1 + 16384 * i, m.2) }

/-! ## Retiming (R387) -/

/-- A bundle to retime: its position, the dictionary entry it issues (none for a literal bundle) and its words. -/
structure RtBundle where
  pos  : Nat
  key  : Option Nat
  ws   : List Word
deriving DecidableEq, Repr

/-- The key of a literal bundle, whose IDLE field grows by itself. -/
def litKey (pos : Nat) : Nat := 2 ^ 20 + pos

/-- Its length in index words (R63). -/
def RtBundle.len (b : RtBundle) : Nat := if b.key == some (litKey b.pos) then 25 else 1

def liveOf (ws : List Word) : List Slot := liveSlots (hdrSurr (ws.headD 0)) (ws.drop 1)

/-- The `br` triggers of a bundle, by offset. -/
def brOpsOf (ws : List Word) : List Nat :=
  (liveOf ws).filterMap fun p => match unitOf (slotDst p.2) with | some (.br, o) => if 8 ≤ o ∧ o ≤ 0xD then some o else none | _ => none

/-- The bundle ends its context or its task for sure: nothing in flight is read behind it. -/
def endsWork (ws : List Word) : Bool :=
  (liveOf ws).any fun p => slotGuard p.2 == 0 && (slotDst p.2 == 0x20D#12 || slotDst p.2 == 0x449#12 || slotDst p.2 == 0x44A#12)

/-- The value of an immediate source. -/
def immValue (ws : List Word) (p : Slot) : Option Nat :=
  if (slotSrc p.2).extractLsb' 12 2 = 0 then none
  else some ((sourceVal (makeFrame {} ws 0 []) (slotSrc p.2) p.1).1.toNat)

/-- The branch targets that a kernel's code names; none where a target comes from a register (R387). -/
def branchTargets (bs : List (Nat × List Word × Bool)) : Option (List Nat) :=
  bs.foldl (fun acc b =>
    let next := b.1 + (if b.2.2 then 25 else 1)
    (liveOf b.2.1).foldl (fun acc p => match acc with
      | none => none
      | some l =>
        if slotDst p.2 = 0x208#12 then (immValue b.2.1 p).map (· :: l)
        else if slotDst p.2 = 0x209#12 then (immValue b.2.1 p).map fun v => v :: next :: l
        else if slotDst p.2 = 0x201#12 then (immValue b.2.1 p).map (· :: l)
        else if slotDst p.2 = 0x20B#12 then some (next :: l)
        else some l) acc) (some [])

/-- Straight-line runs of bundles: a run ends behind a control transfer and before a branch target. -/
def splitRuns (targets : Option (List Nat)) : List RtBundle → List (List RtBundle)
  | [] => []
  | b :: bs =>
    match splitRuns targets bs with
    | [] => [[b]]
    | r :: rs =>
      let next := (r.head?.map (·.pos)).getD 0
      let cut := next != b.pos + b.len || brOpsOf b.ws != [] || endsWork b.ws ||
        (match targets with | some l => l.contains next | none => true)
      if cut then [b] :: r :: rs else (b :: r) :: rs

/-- A trigger (R123, R387): its unit, due ticks under both tables, whether it surely happens, whether it delivers `.r`, and whether its own
latencies differ. Those of the other units matter too: ticks that a read of an analysed unit needs move the reads of every unit. -/
structure RtOp where
  unit : FU
  dA   : Nat
  dN   : Nat
  sure : Bool
  r    : Bool
  diff : Bool
deriving DecidableEq, Repr

/-- An operation of a unit, of latency `lat`, that delivers `.r` (R123): on a scratchpad unit the loads, of the engines APOP and MSTAT, of
semaphore operations the returning ones. -/
def deliversR (u : FU) (o lat : Nat) : Bool :=
  match u with
  | .ls0 | .ls1 => decide (o ≤ 0xE) || [0x13, 0x15, 0x16, 0x1A, 0x1C].contains o
  | .mat => o == 0xE || o == 0x12
  | .sem => lat == 12
  | _ => true

/-- The triggers of a bundle, with the ticks at which it issues under the declared and the native table. -/
def rtOps (ltb nat : Bool) (ws : List Word) (tA tN : Nat) : List RtOp :=
  (triggerOrder (liveOf ws)).filterMap fun p =>
    match unitOf (slotDst p.2), latencyOf (slotDst p.2) ltb, latencyOf (slotDst p.2) nat with
    | some (u, o), some a, some b =>
      some { unit := u, dA := tA + a, dN := tN + b, sure := slotGuard p.2 == 0, r := deliversR u o a,
             diff := latencyOf (slotDst p.2) false != latencyOf (slotDst p.2) true }
    | _, _, _ => none

/-- The ports that a bundle reads: the unit, and whether it is `.r`; to `sys.st` nothing is ever delivered. -/
def rtReads (ws : List Word) : List (FU × Bool) :=
  (liveOf ws).filterMap fun p => if (slotSrc p.2).extractLsb' 12 2 ≠ 0 then none
    else match unitOf ((slotSrc p.2).extractLsb' 0 12) with
      | some (u, o) => if o = 3 then some (u, true) else if o = 4 ∧ u ≠ .sys then some (u, false) else none
      | none => none

/-- Of operations, the latest first, those that a read may see: down to the first that surely happens. -/
def upToSure : List (RtOp × Nat) → List Nat
  | [] => []
  | p :: ps => p.2 :: if p.1.sure then [] else upToSure ps

/-- The operations that a read at a tick may see, by number, the latest first (R118, R119). -/
def rtSeen (due : RtOp → Nat) (t : Nat) (ops : List (RtOp × Nat)) : List Nat :=
  upToSure (sortBy (fun a b => decide (due b.1 < due a.1) || (due a.1 == due b.1 && decide (b.2 ≤ a.2))) (ops.filter fun p => decide (due p.1 ≤ t)))

/-- A read sees the same operation under both tables, whatever the guards say, and none whose latencies differ from before its run:
`far` are those that may come from there, `here` those of the run (R387). -/
def rtReadOk (far here : List RtOp) (tA tN : Nat) (rd : FU × Bool) : Bool :=
  let mine := fun (l : List RtOp) => l.filter fun o => o.unit == rd.1 && (!rd.2 || o.r)
  let own := (mine here).zipIdx 1
  let same := fun (l : List (RtOp × Nat)) => rtSeen RtOp.dA tA l == rtSeen RtOp.dN tN l
  same own && (mine far).all fun f => same ((f, 0) :: own) && !(f.diff && (rtSeen RtOp.dA tA ((f, 0) :: own)).contains 0)

/-- A case of R121 in which an operation `p` of the unit takes part stands under both tables or under neither; one that surely happens under
both ends what follows. -/
def rtSameCase (byA byN : RtOp → Bool) (l : List RtOp) : Bool :=
  (l.any (fun p => p.sure && byA p) && l.any (fun p => p.sure && byN p)) || l.all fun p => byA p == byN p

/-- With the checking scoreboard on, a bundle traps UNDERSIZED_COUNT under both tables or under neither (R121, R387): by its reads, whose
ticks are `tA` and `tN`, and by its triggers `own`. -/
def rtTrapsAlike (ops own : List RtOp) (tA tN : Nat) (reads : List (FU × Bool)) : Bool :=
  reads.all (fun rd => rtSameCase (fun p => decide (tA < p.dA)) (fun p => decide (tN < p.dN)) (ops.filter fun p => p.unit == rd.1)) &&
    own.all fun q => rtSameCase (fun p => p.dA == q.dA && decide (tA < p.dA)) (fun p => p.dN == q.dN && decide (tN < p.dN)) (ops.filter fun p => p.unit == q.unit)

/-- A bundle at ticks `tA` and `tN` does under the native table what it does under the declared one (R387); `scb`: the scoreboard is on. -/
def rtBundleOk (scb ltb nat : Bool) (far here : List RtOp) (tA tN : Nat) (ws : List Word) : Bool :=
  (rtReads ws).all (rtReadOk far here tA tN) && (!scb || rtTrapsAlike (far ++ here) (rtOps ltb nat ws tA tN) tA tN (rtReads ws))

/-- An operation that no later read can see: one delivered under both tables behind which a sure one of its ports has been delivered. -/
def rtClosed (l : List (RtOp × Nat)) (p : RtOp × Nat) : Bool :=
  p.1.dA == 0 && p.1.dN == 0 && l.any fun q => decide (p.2 < q.2) && q.1.unit == p.1.unit && q.1.sure && (q.1.r || !p.1.r) && q.1.dA == 0 && q.1.dN == 0

/-- What a run leaves for the runs behind it: the operations that a read there may still see, with the ticks to their delivery. -/
def rtLeft (tA tN : Nat) (ops : List RtOp) : List RtOp :=
  let l := (ops.map fun o => { o with dA := o.dA - tA, dN := o.dN - tN }).zipIdx
  ((l.filter fun p => !rtClosed l p).map (·.1)).eraseDups

/-- What a bundle's IDLE field has grown by. -/
def rtMore (inc : List (Nat × Nat)) (b : RtBundle) : Nat := match b.key with | some k => Tab.get 0 inc k | none => 0

/-- Walk a run: whether each of its reads is as it must be, and what the run leaves. -/
def rtWalk (scb ltb nat : Bool) (inc : List (Nat × Nat)) (far : List RtOp) : Nat → Nat → List RtOp → List RtBundle → Bool × List RtOp
  | tA, tN, here, [] => (true, rtLeft tA tN (far ++ here))
  | tA, tN, here, b :: bs =>
    let idle := (hdrIdle (b.ws.headD 0)).toNat
    let r := rtWalk scb ltb nat inc far (tA + 1 + idle) (tN + 1 + idle + rtMore inc b) (here ++ rtOps ltb nat b.ws tA tN) bs
    (rtBundleOk scb ltb nat far here tA tN b.ws && r.1, r.2)

/-- Where control goes on its way through a kernel (R127): the exits of its loops, their starts, and the positions behind its calls. -/
structure RtFlow where
  exits   : List Nat
  starts  : List Nat
  returns : List Nat
deriving DecidableEq, Repr

def rtFlow (bs : List RtBundle) : RtFlow :=
  let at_ := fun (d : BitVec 12) => (bs.filter fun b => (liveOf b.ws).any fun p => slotDst p.2 == d).map fun b => b.pos + b.len
  { exits := bs.flatMap fun b => (liveOf b.ws).filterMap fun p => if slotDst p.2 = 0x201#12 then immValue b.ws p else none
    starts := at_ 0x20B, returns := at_ 0x209 }

/-- A transfer, or an end, that happens whenever its bundle issues. -/
def leavesSurely (p : Slot) : Bool :=
  slotGuard p.2 == 0 && [0x208#12, 0x209#12, 0x20A#12, 0x20C#12, 0x20D#12, 0x449#12, 0x44A#12].contains (slotDst p.2)

/-- The positions that may follow a bundle. -/
def rtNext (f : RtFlow) (b : RtBundle) : List Nat :=
  let next := b.pos + b.len
  (liveOf b.ws).flatMap (fun p =>
    if slotDst p.2 = 0x208#12 ∨ slotDst p.2 = 0x209#12 then (immValue b.ws p).toList
    else if slotDst p.2 = 0x20A#12 then f.returns
    else if slotDst p.2 = 0x20B#12 ∨ slotDst p.2 = 0x20C#12 then f.exits
    else []) ++
    if (liveOf b.ws).any leavesSurely then [] else next :: if f.exits.contains next then f.starts else []

/-- The runs that may follow a run: every run, where a register names a target. -/
def rtSucc (known : Bool) (f : RtFlow) (runs : List (List RtBundle)) (run : List RtBundle) : List Nat :=
  match run.getLast? with
  | none => []
  | some b => (List.range runs.length).filter fun i => !known || (rtNext f b).contains (((runs.getD i []).head?.map (·.pos)).getD 0)

/-- What may come into each run from before it, one step further. -/
def rtSpread (succ : List (List Nat)) (outs : List (List RtOp)) (ins : List (List RtOp)) : List (List RtOp) :=
  ins.zipIdx.map fun p => (p.1 ++ ((outs.zip succ).filter fun q => q.2.contains p.2).flatMap (·.1)).eraseDups

/-- What may come into each run, once it grows no more. -/
def rtFix (scb ltb nat : Bool) (inc : List (Nat × Nat)) (runs : List (List RtBundle)) (succ : List (List Nat)) : Nat → List (List RtOp) → List (List RtOp)
  | 0, ins => ins
  | n + 1, ins =>
    let new := rtSpread succ ((runs.zip ins).map fun p => (rtWalk scb ltb nat inc p.2 0 0 [] p.1).2) ins
    if new = ins then ins else rtFix scb ltb nat inc runs succ n new

/-- Every read of the kernel sees what it must, with the IDLE fields grown by `inc`. -/
def rtHolds (scb ltb nat : Bool) (runs : List (List RtBundle)) (succ : List (List Nat)) (inc : List (Nat × Nat)) : Bool :=
  let ins := rtFix scb ltb nat inc runs succ (32768 * runs.length) (runs.map fun _ => [])
  (runs.zip ins).all fun p => (rtWalk scb ltb nat inc p.2 0 0 [] p.1).1

/-- The first read of a run that is not as it must be: the IDLE fields before it, the last first. -/
def rtFail (scb ltb nat : Bool) (inc : List (Nat × Nat)) (far : List RtOp) : Nat → Nat → List RtOp → List Nat → List RtBundle → Option (List Nat)
  | _, _, _, _, [] => none
  | tA, tN, here, before, b :: bs =>
    let idle := (hdrIdle (b.ws.headD 0)).toNat
    if rtBundleOk scb ltb nat far here tA tN b.ws then
      rtFail scb ltb nat inc far (tA + 1 + idle) (tN + 1 + idle + rtMore inc b) (here ++ rtOps ltb nat b.ws tA tN) (b.key.toList ++ before) bs
    else some before

/-- Give the last IDLE field with room before a read that is not as it must be one tick more, until every read is. -/
def rtGrow (scb ltb nat : Bool) (runs : List (List RtBundle)) (succ : List (List Nat)) (room : List (Nat × Nat) → Nat → Bool) :
    Nat → List (Nat × Nat) → Option (List (Nat × Nat))
  | 0, _ => none
  | n + 1, inc =>
    let ins := rtFix scb ltb nat inc runs succ (32768 * runs.length) (runs.map fun _ => [])
    match (runs.zip ins).findSome? fun p => rtFail scb ltb nat inc p.2 0 0 [] [] p.1 with
    | none => some inc
    | some ks => match ks.find? (room inc) with
      | some k => rtGrow scb ltb nat runs succ room n (Tab.put inc k (Tab.get 0 inc k + 1))
      | none => none

/-- `ok` of every read of a run: of the operations of its port in the run, its tick under both tables. -/
def rtEvery (ltb nat : Bool) (inc : List (Nat × Nat)) (ok : List (RtOp × Nat) → Nat → Nat → Bool) : Nat → Nat → List RtOp → List RtBundle → Bool
  | _, _, _, [] => true
  | tA, tN, here, b :: bs =>
    let idle := (hdrIdle (b.ws.headD 0)).toNat
    (rtReads b.ws).all (fun rd => ok ((here.filter fun o => o.unit == rd.1 && (!rd.2 || o.r)).zipIdx 1) tA tN) &&
      rtEvery ltb nat inc ok (tA + 1 + idle) (tN + 1 + idle + rtMore inc b) (here ++ rtOps ltb nat b.ws tA tN) bs

/-- What a read sees under the declared table has been delivered under the native one: not so with the longest IDLE fields, then never. -/
def rtReach (l : List (RtOp × Nat)) (tA tN : Nat) : Bool :=
  (rtSeen RtOp.dA tA l).all fun n => l.any fun p => p.2 == n && decide (p.1.dN ≤ tN)

/-- No other operation has been delivered under the native table that hides what the read sees under the declared one, and that longer
IDLE fields would not take behind it: not so without more ticks, then never. -/
def rtClear (l : List (RtOp × Nat)) (tA tN : Nat) : Bool :=
  let seen := rtSeen RtOp.dA tA l
  let base := (l.filter fun p => seen.contains p.2).find? (·.1.sure)
  !l.any fun q => !seen.contains q.2 && decide (q.1.dN ≤ tN) &&
    (match base with | none => true | some p => decide (p.2 < q.2) && decide (p.1.dN ≤ q.1.dN))

/-- The ways to spread `t` ticks over entries, the later entries first. -/
def spreads : List Nat → Nat → List (List (Nat × Nat))
  | [], t => if t = 0 then [[]] else []
  | k :: ks, t => (List.range (t + 1)).flatMap fun v => (spreads ks (t - v)).map fun l => if v = 0 then l else (k, v) :: l

/-- Of the ways to spread at most `n` ticks more than `t`, the first that serves, one of the fewest ticks. -/
def rtSearch (ok : List (Nat × Nat) → Bool) (keys : List Nat) : Nat → Nat → Option (List (Nat × Nat))
  | 0, _ => none
  | n + 1, t => match (spreads keys t).find? ok with
    | some l => some l
    | none => rtSearch ok keys n (t + 1)

/-- The bundles of a kernel and of its residuals, in runs. -/
def rtRuns (k : Kernel) : List (List RtBundle) :=
  let bs := kernelBundles k
  let word := fun (pos : Nat) (lit : Bool) => if lit then some (litKey pos) else
    (k.segs.zipIdx.findSome? fun p => if p.1.start ≤ pos ∧ pos < p.1.start + p.1.len then
      ((k.frames[p.2]?.getD {}).words[pos - p.1.start]?).map (·.toNat) else none)
  let orig := splitRuns (branchTargets bs) (bs.map fun b => ⟨b.1, word b.1 b.2.2, b.2.1⟩)
  let first := chunkUp k.allow
  let resid := k.resids.map fun r => r.words.zipIdx.map fun p =>
    let n := p.1.toNat
    (⟨r.base + p.2, some n, if n < first then ((k.dict[n]?).getD none).getD [] else (residEntries k).getD (n - first) []⟩ : RtBundle)
  orig ++ resid

/-- Retime a kernel with all its code at hand for the native table, or refuse (R387). A read across a control transfer of an operation
whose latencies differ refuses, under the declared table already. Each read that needs ticks gets them right before it, where there is
room; where that does not serve, the fewest ticks that do, wherever they stand. Where none serve, the refusal says whether longer IDLE
fields would (0b10) or not (0b11). [DEDUCED, log entry 38] -/
def retime (k : Kernel) (scb ltb nat : Bool) : Except Nat Kernel :=
  if ltb = nat then .ok { k with retimed := true }
  else
    let first := chunkUp k.allow
    let bs := kernelBundles k
    let runs := rtRuns k
    let succ := runs.map (rtSucc (branchTargets bs).isSome (rtFlow runs.flatten) runs)
    let entry := fun n => if n < first then ((k.dict[n]?).getD none).getD [] else (residEntries k).getD (n - first) []
    let idleOf := fun n =>
      if litKey 0 ≤ n then ((bs.find? fun b => litKey b.1 == n).map fun b => (hdrIdle (b.2.1.headD 0)).toNat).getD 0
      else (hdrIdle ((entry n).headD 0)).toNat
    let keys := (runs.flatten.filterMap (·.key)).eraseDups
    let fits := fun (inc : List (Nat × Nat)) => inc.all fun p => decide (idleOf p.1 + p.2 ≤ 15)
    let fuel := 32 * keys.length + 1
    let grown := fun (most : Nat → Nat) => rtGrow scb ltb nat runs succ (fun inc k => decide (Tab.get 0 inc k < most k)) fuel []
    let hopeless := !rtHolds scb ltb ltb runs succ [] || !runs.all (rtEvery ltb nat [] rtClear 0 0 [])
    let longest := keys.foldl (fun l k => Tab.put l k (15 - idleOf k)) []
    let found := if hopeless || !runs.all (rtEvery ltb nat longest rtReach 0 0 []) then none
      else match grown (fun k => 15 - idleOf k) with
        | some inc => some inc
        | none => rtSearch (fun inc => fits inc && rtHolds scb ltb nat runs succ inc) keys (15 * keys.length + 1) 0
    match found with
    | none => .error (if hopeless then 3 else if (grown fun _ => 32).isSome then 2
        else if (rtSearch (rtHolds scb ltb nat runs succ) keys fuel 0).isSome then 2 else 3)
    | some inc =>
      let grow := fun (l : List Residual) => l.foldl (fun (r : Nat × List Residual) x =>
        (r.1 + x.entries.length, r.2 ++ [{ x with entries := x.entries.zipIdx.map fun p => moreIdle (Tab.get 0 inc (r.1 + p.2)) p.1 }])) (first, [])
      .ok { k with retimed := true
                   dict := k.dict.zipIdx.map fun p => p.1.map (moreIdle (Tab.get 0 inc p.2))
                   resids := (grow k.resids).2
                   lit := (inc.filter fun p => decide (litKey 0 ≤ p.1)).map fun p => (p.1 - litKey 0, p.2) }

end Sys2Proof.Machine
end

