-- ==== Sys2Proof/Machine/Launch.lean ====
section
/-! DEFINITION. Launches (R338 to R344, R430): the checks that fail one, its placement on bangles (R339 to R341), its install
(R60, R72, R193 to R195), specialisation on each die (R371, R383 to R387), pre-emption, CYCB (R337), and its retirement
(R342, R343). -/

namespace Sys2Proof.Machine

/-! ## The codes of R342 -/

def lBAD_ARCH : Nat := 0x01
def lBAD_DICT : Nat := 0x02
def lBAD_SEGTAB : Nat := 0x03
def lCODE_FULL : Nat := 0x04
def lSPAD_FULL : Nat := 0x05
def lSPEC_REQUIRED : Nat := 0x06
def lBAD_KIND : Nat := 0x07
def lBAD_GRID : Nat := 0x08
def lNO_BANGLES : Nat := 0x09
def lBAD_OPB : Nat := 0x0A
def lNO_FEATURE : Nat := 0x0B
def lBUDGET_HELD : Nat := 0x0C
def lFAULTED : Nat := 0x0E

/-- A cause of failure (R430): code, die, kernel slot, detail, INFO1. -/
structure Failure where
  code   : Nat
  die    : Nat := 255
  kslot  : Nat := 0
  detail : Nat := 0
  info   : D64 := 0
deriving DecidableEq, Repr

/-! ## The kernels of a launch -/

/-- The kernels that a launch installs, in ascending slot (R338). -/
def installSlots (y : Launch) : List Nat := sortBy (fun a b => decide (a ≤ b)) y.klist.eraseDups

def kernelImage (y : Launch) (slot : Nat) : Option KernelImage := y.image.kernels[slot]?

/-- The grid that the kernels declare (R339). -/
def gridOf (y : Launch) : Nat × Nat := (((installSlots y).head?.bind (kernelImage y)).map (·.grid)).getD (1, 1)

/-- The scratchpad area of the launch (R193): up to the end of the last part among its kernels, a part being a whole number
of 4 KiB pages. [DEDUCED, log entry 33] -/
def areaBytes (y : Launch) : Nat :=
  ((installSlots y).map fun n => match kernelImage y n with
    | some k => if k.part.2 = 0 then 0 else (k.part.1 + k.part.2 + 4095) / 4096 * 4096
    | none => 0).foldl max 0

/-- The contexts a core must have free (R340): as many as the gang has kernels, else one. -/
def ctxNeed (y : Launch) : Nat := match y.kind with | .gang => y.klist.length | _ => 1

def chunksOf (k : KernelImage) : Nat := (k.allow + 63) / 64
def framesOf (k : KernelImage) : Nat := if k.segs.length ≤ 1 then 1 else 2

/-! ## Checks that do not depend on a core (R430, 1 to 7) -/

/-- The lowest segment whose table entry fails R67: the starts follow each other, lengths and addresses are in range. A table of more than
64 entries, which the assembler refuses (R66), fails at segment 64. [DESIGN CHOICE, log entry 56] -/
def badSegment (k : KernelImage) : Option Nat :=
  let r := k.segs.foldl (fun (r : Nat × Nat × Option Nat) g =>
    let bad := g.start != r.2.1 || g.len == 0 || decide (g.len > 16384) || g.addr % 64 != 0 || decide (g.addr ≥ 2 ^ 56) ||
      decide (g.start ≥ 2 ^ 20) || k.badSeg == some r.1 || decide (r.1 ≥ 64)
    (r.1 + 1, g.start + g.len, match r.2.2 with | some n => some n | none => if bad then some r.1 else none)) (0, 0, none)
  if k.segs = [] then some 0 else r.2.2

/-- The lowest dictionary entry that fails R58; an entry beyond the allowance has no place (R59). -/
def badEntry (k : KernelImage) : Option Nat :=
  (k.dict.zipIdx.find? fun p => decide (k.allow ≤ p.2) || (bundleError (BitVec.ofNat 64 k.feat) p.1).isSome).map (·.2)

/-- BAD_SEGTAB, then BAD_DICT, of each kernel in ascending slot (R430). -/
def badCode (y : Launch) : Option Failure :=
  (installSlots y).findSome? fun n => match kernelImage y n with
    | none => none
    | some k => match badSegment k with
      | some g => some { code := lBAD_SEGTAB, kslot := n, detail := g }
      | none => (badEntry k).map fun e => { code := lBAD_DICT, kslot := n, detail := e }

/-- The bangles of the region's partition that are not retired, ascending (R339). [DEDUCED, log entry 47] -/
def partBangles (s : State) (r : Nat) : List Nat :=
  (sortBy (fun a b => decide (a ≤ b)) (Tab.get {} s.parts (partOf s r) : Partition).bangles).filter fun b => !NatSet.mem s.retired b

/-- The kernels that contexts of the launch run from its start: the gang's, or those its work names (R409). -/
def workSlots (y : Launch) : List Nat :=
  match y.kind with
  | .gang => installSlots y
  | _ => sortBy (fun a b => decide (a ≤ b)) (y.entries.map (·.1)).eraseDups

/-- A gang of 2 to 4 kernels of the image, outside DET regions (R338). -/
def kindOk (s : State) (y : Launch) : Bool :=
  y.kindOk && (match y.kind with
    | .gang => decide (2 ≤ y.klist.length) && decide (y.klist.length ≤ 4) && !detOf s y.region && y.klist.all fun n => (kernelImage y n).isSome
    | _ => true)

/-- The first of the checks 1 to 7 of R430 that the launch fails. -/
def earlyFailure (s : State) (y : Launch) : Option Failure :=
  let grids := (installSlots y).map fun n => ((kernelImage y n).map (·.grid)).getD (0, 0)
  if !y.image.skenis3 then some { code := lBAD_ARCH }
  else if !kindOk s y then some { code := lBAD_KIND }
  else if grids.any (fun g => g != gridOf y) then some { code := lBAD_GRID }
  else if y.kind = .operator ∧ !y.opbOk then some { code := lBAD_OPB }
  else match badCode y with
  | some f => some f
  | none =>
    if (partBangles s y.region).length < (gridOf y).1 then some { code := lNO_BANGLES }
    else ((workSlots y).find? fun n => !covers s.feat (kernelFeat y n)).map fun n => { code := lNO_FEATURE, kslot := n }

/-! ## Placement (R339 to R341) -/

/-- A launch holds the context (R340); a context that is saved for a spent CYCB stays held (R337). -/
def ctxTaken (s : State) (c : Nat) : Bool :=
  (s.launches.any fun p => p.2.stage != .retired && (heldCtxs p.2).contains c) ||
    s.saves.any fun p => p.2.on s == ctxCore c && p.2.ctxs.contains (c % 4) &&
      (match launchOf s p.2.launch with | some y => y.stage == .placed | none => false)

def freeCtxs (s : State) (core : Nat) : List Nat := (natsFrom (core * 4) 4).filter fun c => !ctxTaken s c

/-- The cores that the grid maps on a bangle (R339). -/
def bangleCores (y : Launch) (b : Nat) : List Nat := natsFrom (b * 8) (gridOf y).2

/-- The contexts that a place of the grid needs: as many as a pre-empted launch held there. -/
def needAt (y : Launch) (place : Nat) : Nat :=
  match y.stage with
  | .preempted => ((y.ctxs[place]?).map (·.2.length)).getD 0
  | _ => ctxNeed y

/-- A bangle can take a launch as its virtual bangle `v` (R340). -/
def canTake (s : State) (y : Launch) (v b : Nat) : Bool :=
  (bangleCores y b).zipIdx.all fun p =>
    decide (needAt y (v * (gridOf y).2 + p.2) ≤ (freeCtxs s p.1).length) && !(coreOf s p.1).saving &&
      (areaBytes y == 0 || (coreOf s p.1).area.all (·.2 == 0))

/-- The lowest-numbered bangles that can take the launch, in ascending order (R339). [DEDUCED, log entry 33] -/
def chooseBangles (s : State) (y : Launch) : Nat → List Nat → List Nat
  | _, [] => []
  | v, b :: bs => if canTake s y v b then b :: chooseBangles s y (v + 1) bs else chooseBangles s y v bs

/-- The bangles of the launch, where enough can take it. -/
def placeFor (s : State) (y : Launch) : Option (List Nat) :=
  let l := (chooseBangles s y 0 (partBangles s y.region)).take (gridOf y).1
  if l.length = (gridOf y).1 then some l else none

/-- A pre-empted launch whose contexts have all been saved (R341, R402). -/
def allSaved (y : Launch) : Bool := (heldCtxs y).all fun c => decide (4 * Config.cores ≤ c)

/-- A launch that waits to be placed (R341). -/
def waits (s : State) (y : Launch) : Bool :=
  match y.stage with
  | .waiting => !y.faulted && (earlyFailure s y).isNone
  | .preempted => !y.faulted
  | _ => false

/-- The CYCB that the region spends is spent (R337). [DESIGN CHOICE, log entry 34] -/
def cycbHeld (s : State) (r : Nat) : Bool := (regionOf s (budgetRegion s r 8)).heldC

/-- Launch `a` comes before `b` among the waiting launches of a partition (R341). -/
def before (s : State) (a b : Launch) : Bool :=
  decide (prioOf s b.region < prioOf s a.region) || (prioOf s a.region == prioOf s b.region && decide (a.order < b.order))

/-- The launch is the first that waits in its partition (R341). -/
def firstWaiting (s : State) (l : Nat) (y : Launch) : Bool :=
  !s.launches.any fun p => p.1 != l && waits s p.2 && partOf s p.2.region == partOf s y.region && before s p.2 y

/-! ## Install (R60, R72, R193 to R195) -/

/-- The first of SPAD_FULL and CODE_FULL that a core meets (R72, R194, R430). -/
def coreFailure (s : State) (y : Launch) (core : Nat) : Option Failure :=
  let k := coreOf s core
  let low := (installSlots y).headD 0
  if areaBytes y > Config.spadBytes ∨ (areaBytes y ≠ 0 ∧ !k.area.all (·.2 == 0)) then
    some { code := lSPAD_FULL, die := coreDie core, kslot := low }
  else
    let r := (installSlots y).foldl (fun (r : Nat × Nat × Option Nat) n => match kernelImage y n with
      | none => r
      | some i =>
        let c := r.1 + chunksOf i; let f := r.2.1 + framesOf i
        (c, f, match r.2.2 with | some m => some m | none => if c > Config.dictChunks ∨ f > Config.frames then some n else none))
      (k.chunks.length, k.frames, none)
    r.2.2.map fun n => { code := lCODE_FULL, die := coreDie core, kslot := n }

/-- The lowest `n` chunks of a core that no kernel holds (R59). -/
def freeChunks (k : Core) (n : Nat) : List Nat := ((List.range Config.dictChunks).filter fun c => !k.chunks.contains c).take n

/-- The index words of a segment, read over the code path; none where the read fails (R67, R69). -/
def segWords (s : State) (die asid : Nat) (g : Segment) : Option (List Idx) × State :=
  let (bs, s) := codeRead s die asid g.addr (2 * g.len)
  (bs.map idxOfBytes, s)

/-- Install one kernel on a core: chunks, frames, dictionary, segment 0 (R60); where segment 0 cannot be read the frame stays empty, and
the first need of it demands it again. [DESIGN CHOICE, log entry 56] -/
def installKernel (s : State) (l : Nat) (y : Launch) (core slot : Nat) : State :=
  match kernelImage y slot with
  | none => s
  | some i =>
    let (ws, s) := match i.segs with
      | g :: _ => segWords s (coreDie core) (asidOf s y.region) g
      | [] => (none, s)
    let k := coreOf s core
    let chunks := freeChunks k (chunksOf i)
    let f0 : IdxFrame := match ws with | some w => { seg := some 0, words := w } | none => {}
    let n : Kernel := { launch := l, kslot := slot, allow := i.allow, chunks := chunks
                        dict := i.dict.map some ++ List.replicate (i.allow - i.dict.length) none
                        segs := i.segs, frames := f0 :: List.replicate (framesOf i - 1) {}, demand := [], feat := i.feat }
    setCore s core { k with kernels := k.kernels ++ [n], chunks := k.chunks ++ chunks, frames := k.frames + framesOf i }

/-- Allot the area of a core (R193 to R195, R218): zeros, full tags, the contents of the installed kernels, clear accumulators. -/
def allotArea (s : State) (l : Nat) (y : Launch) (core : Nat) : State :=
  let n := areaBytes y
  if n = 0 then s
  else
    let s := modCore s core fun k => { k with
      area := some (l, n), accs := Vector.replicate 4 {}, accBad := [], arrayBad := false, aq := [], rrot := [], rrots := 0
      tagBad := k.tagBad.filter fun w => decide (n ≤ 4 * w)
      spad := k.spad.filter fun p => decide (n ≤ p.1)
      empty := k.empty.filter fun w => decide (n ≤ 4 * w)
      poison := k.poison.filter fun w => decide (n ≤ 16 * w) }
    (installSlots y).foldl (fun s slot => match kernelImage y slot with
      | some i => i.data.foldl (fun s d => spadWrite s core d.1 d.2) s
      | none => s) s

def installCore (s : State) (l : Nat) (y : Launch) (core : Nat) : State :=
  allotArea ((installSlots y).foldl (fun s n => installKernel s l y core n) s) l y core

/-- Write an image's memory objects at its first launch in an address space, unit by unit; none where a page of them is not valid,
resident and writable (R29): every unit is checked before the first is written, so that nothing is written then. A node that
cannot be reached counts with such a page. [DESIGN CHOICE, log entry 56] -/
def loadObjects (s : State) (y : Launch) (die : Nat) : Option State :=
  let asid := asidOf s y.region
  if s.loaded.contains (asid, y.image.digest) then some s
  else
    let units := y.image.objects.flatMap fun o => unitChunks o.2.length o.1 o.2
    let found := units.foldl (fun (r : Option (List (Nat × List Byte) × State)) u => r.bind fun r =>
      match writable r.2 die portChan asid u.1 with
      | (.yes leaf sz, s) => some (r.1 ++ [(pageKey leaf sz u.1, u.2)], s)
      | _ => none) (some ([], s))
    found.map fun r =>
      let s := r.1.foldl (fun s u => memWrite s u.1 u.2) r.2
      { s with loaded := (asid, y.image.digest) :: s.loaded }

/-- The launch's copy of the handler table, a block for each kernel of the image (R392, R393). -/
def readHandlers (s : State) (y : Launch) (die : Nat) : List (List D64) × State :=
  let base := htabOf s y.region
  if base = 0 then ([], s)
  else (List.range y.image.kernels.length).foldl (fun (r : List (List D64) × State) n =>
    let (row, s) := (List.range 32).foldl (fun (q : List D64 × State) c =>
      let (bs, s) := codeRead q.2 die (asidOf r.2 y.region) (base + 256 * n + 8 * c) 8
      (q.1 ++ [match bs with | some b => BitVec.ofNat 64 (leNat b) | none => 0], s)) ([], r.2)
    (r.1 ++ [row], s)) ([], s)

/-! ## Specialisation on a die (R371, R383, R384, R387) -/

/-- The bytes of SPECB that a budget region has in use (R383). -/
def specUsed (s : State) (b : Nat) : Nat :=
  (s.dies.map fun d => ((d.2.cache.filter fun e => budgetRegion s e.region 12 == b).map (·.bytes)).sum).sum

/-- The bytes of SPECB that a region may still use on top of what is held. -/
def specLeft (s : State) (r : Nat) : Nat := (rcbWord s (budgetRegion s r 12) 12).toNat - specUsed s (budgetRegion s r 12)

/-- Evict the least recently used entry that is not in use: first one of the creating region, then any (R383). -/
def evictOne (s : State) (die r : Nat) : Option State :=
  let idle := (dieOf s die).cache.filter fun e => e.users == []
  let own := idle.filter fun e => e.region == r
  match if own ≠ [] then own else idle with
  | [] => none
  | e :: es =>
    let old := es.foldl (fun m x => if x.used < m.used then x else m) e
    some (modDie s die fun d => { d with cache := d.cache.erase old })

def cacheFull (s : State) (die : Nat) : Bool := decide (Config.specEntries ≤ ((dieOf s die).cache.filter fun e => !e.own).length)

/-- Make room for an entry of `n` bytes (R383). [DEDUCED, log entry 38] -/
def makeRoom (die r n : Nat) : Nat → State → State
  | 0, s => s
  | f + 1, s =>
    if !cacheFull s die && decide (n ≤ specLeft s r) then s
    else match evictOne s die r with
      | some t => makeRoom die r n f t
      | none => s

/-- The code space that a residual of a kernel may still take on every one of the cores (R73, R381). -/
def roomOn (s : State) (l slot : Nat) (i : KernelImage) (cores : List Nat) (bytes : Nat) : SpecRoom :=
  let per := cores.map fun c =>
    let k := coreOf s c
    match k.kernels.find? fun y => y.launch == l && y.kslot == slot with
    | none => ((0, 0), false, 0)
    | some y =>
      let n := (residEntries y).length
      let chunks := (n + 63) / 64 + (Config.dictChunks - k.chunks.length)
      ((min (chunks * 64 - n) (Config.dictEntries - chunkUp i.allow - n), 2 ^ 20 - (residBase i + 16384 * y.resids.length)), decide (k.frames < Config.frames), 2048 - n)
  { entries := (per.map (·.1.1)).foldl min Config.dictEntries, words := (per.map (·.1.2)).foldl min (2 ^ 20)
    frame := per.all (·.2.1), bytes := bytes, dict := (per.map (·.2.2)).foldl min 2048 }

/-- Install a residual beside its kernel on a core (R73, R381). -/
def installResidual (s : State) (l slot core : Nat) (r : Residual) : State :=
  let k := coreOf s core
  match k.kernels.find? fun y => y.launch == l && y.kslot == slot with
  | none => s
  | some y =>
    let n := (residEntries y).length
    let more := (n + r.entries.length + 63) / 64 - (n + 63) / 64
    let new := freeChunks k more
    let s := setCore s core { k with chunks := k.chunks ++ new, frames := k.frames + 1 }
    modKernel s core l slot fun y =>
      { y with chunks := y.chunks ++ new, resids := y.resids ++ [shiftResidual r (chunkUp y.allow) y.resids.length n] }

/-- The key material of an entry point (R384). -/
def specKey (s : State) (y : Launch) (slot entry : Nat) (i : KernelImage) : SpecKey :=
  { image := y.image.digest, kernel := slot, entry := entry
    args := y.args.zipIdx.map fun p => if i.dynamic.contains (p.2 / 8) then 0 else p.1
    ltb := if y.policy % 2 = 1 then s.stepB else y.image.ltb, feat := s.feat, policy := y.policy }

/-- The residual of a cached entry fits the code space (R73). -/
def entryFits (room : SpecRoom) (r : Residual) : Bool :=
  room.frame && decide (r.entries.length ≤ room.entries) && decide (r.entries.length ≤ room.dict) && decide (r.words.length ≤ room.words)

/-- The time stamp of the next use of a die's cache (model). -/
def cacheNow (s : State) (die : Nat) : Nat := ((dieOf s die).cache.map (·.used)).foldl max 0 + 1

/-- What one entry point gives: its report word and its `:q` moves. -/
structure EntryOut where
  report : D64
  bad    : List (Nat × Nat)
  seen   : List (Nat × Nat)
deriving DecidableEq, Repr

def installOn (s : State) (l slot : Nat) (cores : List Nat) (r : Option Residual) : State :=
  match r with
  | some r => cores.foldl (fun s c => installResidual s l slot c r) s
  | none => s

/-- The specialiser at one entry point of a launch on a die: from the cache, or evaluated and held (R383, R384). -/
def specEntry (s : State) (l : Nat) (y : Launch) (die slot entry : Nat) (i : KernelImage) (words : List (List Idx)) (cores : List Nat) :
    EntryOut × State :=
  let key := specKey s y slot entry i
  let now := cacheNow s die
  let room := roomOn s l slot i cores (2 ^ 64)
  match (dieOf s die).cache.find? fun e => !e.own && e.key == key && (e.code.words == [] || entryFits room e.code) with
  | some e =>
    let s := modDie s die fun d => { d with cache := d.cache.map fun x => if x = e then { x with used := now, users := NatSet.insert x.users l } else x }
    (⟨e.report ||| 0x80#64, e.bad, e.seen⟩, installOn s l slot cores (if e.code.words = [] then none else some e.code))
  | none =>
    let go := specialise i words (BitVec.ofNat 64 s.feat) y.args y.image.ltb (y.policy / 2 % 2 == 1) (y.kind == .gang) entry
    let want := go room
    if want.code = rNONE then (⟨specReport want false, [], []⟩, s)
    else
      let s := makeRoom die y.region want.bytes (dieOf s die).cache.length s
      let out := go { room with bytes := if cacheFull s die then 0 else specLeft s y.region }
      let code := out.resid.getD ⟨entry, residBase i, [], [], []⟩
      let ent : SpecEnt := { key := key, region := y.region, bytes := out.bytes, used := now, code := code
                             report := specReport out false, users := [l], own := out.code == rBUDGET || out.code == rSPACE
                             bad := out.bad, seen := out.seen }
      let s := modDie s die fun d => { d with cache := d.cache ++ [ent] }
      (⟨specReport out false, out.bad, out.seen⟩, installOn s l slot cores out.resid)

/-- Every segment of a kernel, as the specialiser reads it; a segment that cannot be read holds no word. -/
def kernelWords (s : State) (die asid : Nat) (i : KernelImage) : List (List Idx) × State :=
  i.segs.foldl (fun (r : List (List Idx) × State) g =>
    let (w, s) := segWords r.2 die asid g
    (r.1 ++ [w.getD []], s)) ([], s)

/-- The lowest position and slot of a list of moves. -/
def lowestMove (l : List (Nat × Nat)) : Option (Nat × Nat) :=
  l.foldl (fun m p => match m with | none => some p | some q => if p.1 < q.1 ∨ (p.1 = q.1 ∧ p.2 < q.2) then some p else some q) none

/-- Retime a kernel on the cores of a die (R387): the RETIME field of R386. -/
def retimeOn (s : State) (l : Nat) (y : Launch) (slot : Nat) (words : List (List Idx)) (cores : List Nat) : Nat × State :=
  let first := cores.headD 0
  match (coreOf s first).kernels.find? fun k => k.launch == l && k.kslot == slot with
  | none => (0, s)
  | some k =>
    match retime { k with frames := words.zipIdx.map fun p => { seg := some p.2, words := p.1 } } (y.policy / 2 % 2 == 1) y.image.ltb s.stepB with
    | .error c => (c, s)
    | .ok n => (1, cores.foldl (fun s c => modKernel s c l slot fun k => { k with dict := n.dict, resids := n.resids, lit := n.lit, retimed := true }) s)

/-- The specialisation of one kernel on a die: the report of its first entry point, its RETIME, and a move that must fold and
does not (R371, R378). -/
def specKernel (s : State) (l : Nat) (y : Launch) (die slot : Nat) (cores : List Nat) : (D64 × Nat × Option (Nat × Nat)) × State :=
  match kernelImage y slot with
  | none => ((0, 0, none), s)
  | some i =>
    let (words, s) := kernelWords s die (asidOf s y.region) i
    let points := (((y.entries.filter fun p => p.1 == slot).map (·.2)).eraseDups).take 8
    let nofold := y.policy / 4 % 2 = 1
    let r := if nofold then (([] : List EntryOut), s) else points.foldl (fun (r : List EntryOut × State) p =>
      let (o, s) := specEntry r.2 l y die slot p i words cores
      (r.1 ++ [o], s)) ([], s)
    let must := (kernelMarks (wholeKernel i words)).2
    let seen := r.1.flatMap (·.seen)
    let bad := r.1.flatMap (·.bad) ++ must.filter fun m => !seen.contains m
    let (rt, s) := if y.policy % 2 = 1 then retimeOn r.2 l y slot words cores else (0, r.2)
    (((r.1.head?.map (·.report)).getD (BitVec.ofNat 64 rNONE), rt, if nofold ∨ points = [] then none else lowestMove bad), s)

/-- The specialiser on one die (R371): the report of the launch's first entry point there (R386), or SPEC_REQUIRED. -/
def specDie (s : State) (l : Nat) (y : Launch) (die : Nat) (cores : List Nat) : Except Failure (D64 × State) :=
  let lead := (y.entries.head?.map (·.1)).getD 0
  (installSlots y).foldl (fun (r : Except Failure (D64 × State)) slot => match r with
    | .error f => .error f
    | .ok (rep, s) =>
      let ((report, rt, bad), s) := specKernel s l y die slot cores
      match bad with
      | some m => .error { code := lSPEC_REQUIRED, die := die, kslot := slot, detail := m.2, info := BitVec.ofNat 64 m.1 }
      | none => .ok (if slot = lead then report ||| BitVec.ofNat 64 (rt * 2 ^ 8) else rep, s)) (.ok (0, s))

/-! ## The launch status block (R343) -/

/-- The header: bytes 0 to 63. -/
def statusHeader (y : Launch) (code : Nat) (done : Bool) : List Byte :=
  leBytes 8 (y.die % 256 * 2 ^ 40 + y.kfail % 256 * 2 ^ 32 + y.detail % 65536 * 2 ^ 16 + bit done 8 + code) ++
    ((List.range 5).flatMap fun n => leBytes 8 ((y.info.getD n 0).toNat)) ++ List.replicate 16 0

/-- The words behind the header: reports, HALTMAP, exit values. -/
def statusBody (y : Launch) : List Byte :=
  let n := (gridOf y).1 * (gridOf y).2 * 4
  let has := fun i => (Tab.find y.exits i).isSome
  ((List.range 4).flatMap fun d => leBytes 8 ((y.spec.getD d 0).toNat)) ++ List.replicate 160 0 ++
    ((List.range 256).map fun b => BitVec.ofNat 8 ((List.range 8).map fun k => bit (decide (8 * b + k < n) && has (8 * b + k)) k).sum) ++
    (List.range n).flatMap fun i => leBytes 4 (Tab.get 0 y.exits i).toNat

def writeHeader (s : State) (y : Launch) (code : Nat) (done : Bool) : State :=
  if y.status = 0 then s else hostWrite s y.status (statusHeader y code done)

/-- A launch ends with its final code: the status block, then the completion record (R342, R343). -/
def concludeLaunch (s : State) (l : Nat) (y : Launch) (whole : Bool) : State :=
  let s := setLaunch s l { y with stage := .retired }
  let s := writeHeader s y y.code true
  let s := if whole ∧ y.status ≠ 0 then hostWrite s (y.status + 64) (statusBody y) else s
  finishLaunch s l y

/-- A launch that fails before any context starts writes only the header (R343, R430). -/
def failLaunch (s : State) (l : Nat) (y : Launch) (f : Failure) : State :=
  concludeLaunch s l { y with code := f.code, die := f.die, kfail := f.kslot, detail := f.detail
                              info := if f.code = lSPEC_REQUIRED then [f.info, 0, 0, 0, 0] else y.info } false

/-! ## Starting a launch -/

/-- Install on every core in ascending order, or the first failure (R72, R430). -/
def installAll (s : State) (l : Nat) (y : Launch) (cores : List Nat) : Except Failure State :=
  match cores.findSome? (coreFailure s y) with
  | some f => .error f
  | none => .ok (cores.foldl (fun s c => installCore s l y c) s)

/-- Specialise on every die that holds a core of the grid, in ascending order (R371). -/
def specAll (s : State) (l : Nat) (y : Launch) (cores : List Nat) : Except Failure (List D64 × State) :=
  (List.range Config.dies).foldl (fun (r : Except Failure (List D64 × State)) d => match r with
    | .error f => .error f
    | .ok (reps, s) =>
      let here := cores.filter fun c => coreDie c == d
      if here = [] then .ok (reps ++ [0], s)
      else match specDie s l y d here with
        | .error f => .error f
        | .ok (rep, s) => .ok (reps ++ [rep], s)) (.ok ([], s))

/-- A context of an operator or task launch looks for a seed (R338, R349). -/
def startSeeker (s : State) (c l : Nat) : State :=
  let old := ctxOf s c
  setCtx s c { status := .seeking 0 false, launch := some l, seq := old.seq, bundle := old.bundle }

/-- The contexts of a core start (R338, R340). -/
def startCore (s : State) (l : Nat) (y : Launch) (ctxs : List Nat) : State :=
  match y.kind with
  | .gang => (ctxs.zip y.klist).foldl (fun s p => startCtx s p.1 l p.2 0 true false true [0, 0, 0, 0, 0, 0] {}) s
  | _ => ctxs.foldl (fun s c => startSeeker s c l) s

/-- A launch whose memory objects cannot be written starts no context: a dispatch fault of its region's fault domain (R29, R336), which
under every FDOM ends this launch, since it has no context that could go on; `t` holds what the attempt has translated.
[DESIGN CHOICE, log entry 56] -/
def failObjects (s t : State) (l r : Nat) : State :=
  killLaunch (faultDomain { s with free := t.free } r l none) l

/-- Place a launch that has not started (R339, R340, R60, R371). The memory objects are written once the specialiser has not failed the
launch. [DESIGN CHOICE, log entry 56] -/
def startLaunch (s : State) (l : Nat) (y : Launch) (bangles : List Nat) : State :=
  let cores := bangles.flatMap (bangleCores y)
  let pol := y.policy / 4 * 4 + y.policy % 2 + (if scbPolicy s y.region then 2 else 0)
  let held := cores.map fun c => (c, match y.kind with | .gang => (freeCtxs s c).take y.klist.length | _ => freeCtxs s c)
  let y := { y with policy := pol }
  match installAll s l y cores with
  | .error f => failLaunch s l y f
  | .ok s1 =>
    match specAll s1 l y cores with
    | .error f => failLaunch s l y f
    | .ok (reps, s1) =>
      let die := coreDie (cores.headD 0)
      match loadObjects s1 y die with
      | none => failObjects s s1 l y.region
      | some s1 =>
      let (hs, s1) := readHandlers s1 y die
      let n := (gridOf y).1
      let z : Launch := { y with
        stage := .placed, bangles := bangles, perB := (gridOf y).2, ctxs := held, handlers := hs, spec := reps
        shards := match y.kind with | .gang => [] | _ => List.replicate n [], det := detOf s y.region
        seeds := y.seeds.map fun d => if detOf s y.region then { d with round := 0 } else d }
      let s1 := held.foldl (fun s p => startCore s l z p.2) (setLaunch s1 l z)
      if z.det then modLaunch s1 l fun y => { y with base := some (baseNow s1) } else s1

/-! ## Pre-emption (R341) -/

/-- A launch without its place: what the cores would look like to another launch. -/
def displaced (s : State) (l : Nat) : State :=
  { (modLaunch s l fun y => { y with ctxs := [] }) with
    saves := s.saves.filter fun p => p.2.launch != l
    cores := s.cores.map fun p => (p.1, if p.2.area.any (fun a => a.1 == l) then { p.2 with area := none } else p.2) }

/-- A launch that could be pre-empted for the waiting one: placed in its partition, of strictly lower priority (R341). -/
def lower (s : State) (y z : Launch) : Bool :=
  z.stage == .placed && !z.faulted && partOf s z.region == partOf s y.region && decide (prioOf s z.region < prioOf s y.region)

/-- The launch holds a bangle that the waiting launch could take, were every launch of lower priority displaced.
[DEDUCED, log entry 33] -/
def couldYield (s : State) (y z : Launch) : Bool :=
  let t := (s.launches.filter fun p => lower s y p.2).foldl (fun t p => displaced t p.1) s
  z.bangles.any fun b => (partBangles s y.region).contains b && (List.range (gridOf y).1).any fun v => canTake t y v b && !canTake s y v b

/-- The launch that is pre-empted for a waiting one: the lowest in priority, the last submitted among equals (R341). -/
def victimFor (s : State) (y : Launch) : Option Nat :=
  let low := s.launches.filter fun p => lower s y p.2 && couldYield s y p.2
  (low.foldl (fun (m : Option (Nat × Launch)) p => match m with
    | none => some p
    | some q => if before s q.2 p.2 then some p else some q) none).map (·.1)

/-- The images of a launch, by number. -/
def imagesOf (s : State) (l : Nat) : List (Nat × Saved) := s.saves.filter fun p => p.2.launch == l

/-- Stop a launch for pre-emption: the cores of its grid are to be saved (R402); the area of one that stands in an image already, held for
a spent CYCB or by a debugger, is free for another launch. -/
def stopLaunch (s : State) (l : Nat) : State :=
  match launchOf s l with
  | none => s
  | some z =>
    let s := setLaunch s l { z with stage := .preempted }
    let s := ((imagesOf s l).filter fun p => p.2.kind == 0).foldl (fun s p =>
      modCore s p.2.core fun k => { k with area := if k.area.any fun a => a.1 == l then none else k.area }) s
    z.ctxs.foldl (fun s p => if p.1 < Config.cores ∧ p.2 ≠ [] then stopCore s p.1 else s) s

/-- A pre-empted launch resumes on bangles that are free: each saved core is restored at its place of the grid (R341, R404). -/
def resumeLaunch (s : State) (l : Nat) (y : Launch) (bangles : List Nat) : State :=
  let cores := bangles.flatMap (bangleCores y)
  let moves := ((y.ctxs.zip cores).filter fun p => decide (Config.cores ≤ p.1.1)).map fun p => ({ what := .restore, args := { a := p.1.1 - Config.cores, b := p.2 } } : Event)
  let s := setLaunch s l { y with stage := .placed, bangles := bangles }
  { s with sched := moves ++ s.sched }

/-- The entries that a launch's residual code stands in and that another die does not hold (R385); one that serves the launch alone is
held only where its code is the same. -/
def missingEntries (s : State) (l old new : Nat) : List SpecEnt :=
  let mine := fun (e f : SpecEnt) => f.key == e.key && f.own == e.own && (!e.own || (f.users.contains l && f.code == e.code))
  if old = new then []
  else (dieOf s old).cache.filter fun e => e.users.contains l && !(dieOf s new).cache.any (mine e)

/-- The specialiser of a die creates an entry that it does not hold, where cache and SPECB have room (R383, R385). -/
def takeEntry (l die : Nat) (s : State) (e : SpecEnt) : Option State :=
  let s := makeRoom die e.region e.bytes (dieOf s die).cache.length s
  if (!e.own && cacheFull s die) || decide (specLeft s e.region < e.bytes) then none
  else some (modDie s die fun d => { d with cache := d.cache ++ [{ e with users := [l], used := cacheNow s die }] })

/-- A die holds every entry that the launch's residual code on another die needs, or none where there is no room (R385). -/
def takeEntries (s : State) (l old new : Nat) : Option State := (missingEntries s l old new).foldlM (takeEntry l new) s

/-- Two kernels hold the same code, residual code among it (R75, R385). -/
def sameCode (a b : Kernel) : Bool := a.dict == b.dict && a.resids == b.resids && a.retimed == b.retimed && a.lit == b.lit

/-- Of the kernels that an image's contexts ran, those that a core must get before the contexts resume there (R75, R385). -/
def comingKernels (s : State) (l core : Nat) (code : List Kernel) : List Kernel :=
  code.filter fun z => !(coreOf s core).kernels.any fun y => y.launch == l && y.kslot == z.kslot && sameCode y z

/-- The launch's kernels on the core whose places those take, being cut short otherwise on that die (R383). -/
def leavingKernels (s : State) (l core : Nat) (code : List Kernel) : List Kernel :=
  (coreOf s core).kernels.filter fun y => y.launch == l && (comingKernels s l core code).any fun z => z.kslot == y.kslot

/-- A context of the launch that is not in a core image runs a kernel of the core. -/
def runsHere (s : State) (core : Nat) (k : Kernel) : Bool :=
  (natsFrom (core * 4) 4 ++ (s.saves.filter fun p => p.2.kind == 1 && p.2.home == core).flatMap fun p => natsFrom ((Config.cores + p.1) * 4) 4).any fun c =>
    let x := ctxOf s c
    x.launch == some k.launch && x.kslot == k.kslot && (x.status == .running || x.status == .saved)

/-- The kernels of an image fit the code space of a core (R75, R385). -/
def codeFits (s : State) (l core : Nat) (code : List Kernel) : Bool :=
  let k := coreOf s core
  let come := comingKernels s l core code
  let go := leavingKernels s l core code
  let chunks := fun (z : List Kernel) => (z.map fun y => y.chunks.length).sum
  let frames := fun (z : List Kernel) => (z.map fun y => y.frames.length + y.resids.length).sum
  !go.any (runsHere s core) && decide (k.chunks.length + chunks come ≤ Config.dictChunks + chunks go) &&
    decide (k.frames + frames come ≤ Config.frames + frames go)

/-- What R75 and R385 ask of a core before the contexts of an image resume there. -/
def mayResume (s : State) (l core : Nat) (img : Saved) : Bool :=
  codeFits s l core img.code && (takeEntries s l (coreDie img.core) (coreDie core)).isSome

/-- The contexts of a place of the grid, if they stand in an image, may resume on a core. -/
def placeResumes (s : State) (l k core : Nat) : Bool :=
  match Tab.find s.saves (k - Config.cores) with
  | some img => mayResume s l core img
  | none => true

/-- R341, R430: a waiting launch fails, is placed, resumes, or pre-empts one of lower priority; not while the hub's services pause (R421).
Arguments: a launch. -/
def execLaunchPlace (s : State) : Res :=
  let l := s.args.a
  match launchOf s l with
  | none => .next s
  | some y =>
    if y.faulted || s.fw.paused then .next s
    else match y.stage with
    | .waiting =>
      match earlyFailure s y with
      | some f => .next (failLaunch s l y f)
      | none =>
        if !firstWaiting s l y || cycbHeld s y.region then .next s
        else match placeFor s y with
        | some bs => .next (startLaunch s l y bs)
        | none =>
          if s.launches.any (fun p => p.2.stage == .preempted && !allSaved p.2) then .next s
          else match victimFor s y with
          | some v => .next (stopLaunch s v)
          | none => .next s
    | .preempted =>
      if !allSaved y || !firstWaiting s l y || cycbHeld s y.region then .next s
      else match placeFor s y with
      | some bs => if (y.ctxs.zip (bs.flatMap (bangleCores y))).all (fun p => placeResumes s l p.1.1 p.2) then .next (resumeLaunch s l y bs) else .next s
      | none => .next s
    | _ => .next s

/-! ## CYCB (R337) -/

/-- A context of a region that spends against `b` is started and has not halted. -/
def spender (s : State) (b c : Nat) : Bool :=
  let x := ctxOf s c
  x.launch.isSome && (x.status == .running || (match x.status with | .seeking _ _ => true | _ => false)) &&
    budgetRegion s (ctxRegion s c) 8 == b

/-- Stop the contexts of a core that spend against `b`: all of the core, or one by one where others share it (R401). -/
def stopSpenders (s : State) (b core : Nat) : State :=
  let cs := natsFrom (core * 4) 4
  let mine := cs.filter (spender s b)
  if mine = [] then s
  else if cs.all fun c => (ctxOf s c).launch.isNone || budgetRegion s (ctxRegion s c) 8 == b then
    stopCore s core
  else mine.foldl stopCtx s

/-- The launches in progress, pre-empted ones too, that a CYCB of region `b` holds write a header of their status (R343). -/
def writeHeld (s : State) (b code : Nat) : State :=
  (s.launches.filter fun p => (p.2.stage == .placed || p.2.stage == .preempted) && budgetRegion s p.2.region 8 == b).foldl
    (fun s p => writeHeader s p.2 code false) s

/-- R337: a region's CYCB is spent; its contexts are stopped, to be saved and held. Arguments: a region. [DESIGN CHOICE, log entry 34] -/
def execCycbExhausted (s : State) : Res :=
  let b := s.args.a
  match Tab.find s.regions b with
  | none => .next s
  | some x =>
    if rcbWord s b 8 = BitVec.allOnes 64 ∨ x.heldC ∨ !(s.ctxs.any fun p => decide (p.1 < Config.contexts) && spender s b p.1) then .next s
    else
      let s := modRegion s b fun x => { x with heldC := true, cycb := 0 }
      let s := (s.cores.map (·.1)).foldl (fun s k => if k < Config.cores then stopSpenders s b k else s) s
      .next (writeHeld s b lBUDGET_HELD)

/-! ## Retirement (R342) -/

/-- A seed of the launch exists (R347). -/
def seedsLeft (s : State) (l : Nat) (y : Launch) : Bool :=
  y.seeds != [] || y.shards.any (· != []) || s.conts.any (fun k => k.launch == l) || s.moves.any (fun m => m.launch == l) ||
    (y.kind == .operator && decide (y.walker.next < y.walker.total))

def ctxDone (s : State) (c : Nat) : Bool :=
  match (ctxOf s c).status with
  | .halted => true
  | .seeking _ _ => true
  | _ => false

/-- A card of the launch that touches a scratchpad has not completed (R280). -/
def cardsLeft (s : State) (l : Nat) : Bool := s.dies.any fun d => d.2.jobs.any fun j => j.launch == l && j.isCard && cardCores j != []

/-- The launch may retire (R342, R280, R196). -/
def mayRetire (s : State) (l : Nat) (y : Launch) : Bool :=
  match y.stage with
  | .waiting => y.faulted
  | .retired => false
  | _ =>
    (heldCtxs y).all (fun c => ctxDone s c && storesDone (ctxOf s c) && s.active != some c) && !cardsLeft s l &&
      (y.faulted || (match y.kind with
        | .gang => (heldCtxs y).all fun c => (ctxOf s c).status == .halted
        | _ => !seedsLeft s l y && y.tasks == []))

/-- Free a launch's place on a core (R72, R196): code space, area, contexts. -/
def freeCore (s : State) (l core : Nat) : State :=
  modCore s core fun k =>
    let gone := k.kernels.filter fun y => y.launch == l
    { k with
      kernels := k.kernels.filter fun y => y.launch != l
      chunks := k.chunks.filter fun c => !gone.any fun y => y.chunks.contains c
      frames := k.frames - (gone.map fun y => y.frames.length + y.resids.length).sum
      area := if k.area.any fun a => a.1 == l then none else k.area
      aq := if k.area.any fun a => a.1 == l then [] else k.aq
      saving := k.saving && k.kernels.any fun y => y.launch != l }

/-- R342: a launch retires: its seeds, code, areas and contexts are freed, and its status written; before that, it retires on the cores
where nothing of it is left (R72, R196). Its record waits where the hub's services pause (R421). Arguments: a launch. -/
def execLaunchRetire (s : State) : Res :=
  let l := s.args.a
  match launchOf s l with
  | none => .next s
  | some y =>
    if !mayRetire s l y || s.fw.paused then .next (reclaim s l)
    else
      let live := (y.shards.map List.length).sum + (s.conts.filter fun k => k.launch == l).length + (s.moves.filter fun m => m.launch == l).length
      let s := (List.range live).foldl (fun s _ => freeSeed s y.region) s
      let s := (heldCtxs y).foldl (fun s c => freeCtx s l c) s
      let s := ((s.cores.filter fun p => p.2.kernels.any (fun k => k.launch == l) || p.2.area.any fun a => a.1 == l).map (·.1)).foldl (fun s k => freeCore s l k) s
      let own := imagesOf s l
      let s : State := { s with
        conts := s.conts.filter fun k => k.launch != l, moves := s.moves.filter fun m => m.launch != l
        msgs := s.msgs.filter fun m => m.place.1 != l
        saves := s.saves.filter fun p => p.2.launch != l
        cores := s.cores.filter fun p => !own.any fun i => p.1 == Config.cores + i.1
        ctxs := s.ctxs.filter fun p => !own.any fun i => p.1 / 4 == Config.cores + i.1
        dies := s.dies.map fun d =>
          let c := (d.2.cache.map fun e => { e with users := NatSet.erase e.users l }).filter fun e => !e.own || e.users != []
          (d.1, { d.2 with cache := c }) }
      let code := if y.faulted ∧ y.code ≠ 0x0D then lFAULTED else y.code
      .next (concludeLaunch s l { y with code := code, shards := [], seeds := [], ctxs := y.ctxs } true)

end Sys2Proof.Machine
end

