-- ==== Sys2Proof/Machine/Save.lean ====
section
/-! DEFINITION. Core saves, context saves and restores (R401 to R407, R111). A saved context goes on under the number it has in
its image, so that what completes for it finds it there (R111). -/

namespace Sys2Proof.Machine

/-! ## New numbers for contexts and cores -/

/-- A renaming of contexts: old number, new number. -/
abbrev Renaming := List (Nat × Nat)

def Renaming.new (r : Renaming) (c : Nat) : Nat := (List.lookup c r).getD c

/-- A copy operation of a context that has a new number. A card keeps the core by which it names its scratchpad. -/
def renameJob (r : Renaming) (j : Job) : Job :=
  { j with ctx := r.new j.ctx, core := if j.isCard || (List.lookup j.ctx r).isNone then j.core else r.new j.ctx / 4, ov := j.ov.map r.new }

/-- A queued card finds the scratchpad of core `old` at `new` from now on (R280). -/
def followJob (region old new : Nat) (j : Job) : Job :=
  if j.region ≠ region ∨ !j.isCard ∨ j.chan.isSome then j
  else { j with moved := (j.moved.map fun p => if p.2 = old then (p.1, new) else p) ++
                  if old < Config.cores ∧ !j.moved.any fun p => p.1 == old then [(old, new)] else [] }

def renameOp (r : Renaming) (o : SemOp) : SemOp := { o with ctx := r.new o.ctx }

def renameHeld (r : Renaming) : Withheld → Withheld
  | .job j => .job (renameJob r j)
  | .sem o => .sem (renameOp r o)
  | .store o => .store o
  | .send p d => .send p d

/-- The conditions and seeds that only a core's contexts may take follow it (R354). -/
def renameCont (r : Renaming) (core : Nat → Nat) (k : Cont) : Cont :=
  let seed : Seed := { k.seed with only := k.seed.only.map core }
  let cond : ContCond := match k.cond with | .tag c a => .tag (core c) a | .counter a t => .counter a t | .barrier a p => .barrier a p
  { k with ctx := r.new k.ctx, seed := seed, cond := cond }

/-- A bank word of an overlay. -/
def renameUnit (core : Nat → Nat) (u : Nat × Nat) : Nat × Nat :=
  if u.1 = 2 then (2, core (u.2 / 2 ^ 16) * 2 ^ 16 + u.2 % 2 ^ 16) else u

/-- The parts of an overlay that stand for a core's scratchpad follow it (R360). -/
def renameOverlay (r : Renaming) (core : Nat → Nat) (o : Overlay) : Overlay :=
  { o with
    bytes := o.bytes.map fun p => if p.1.1 = 2 then ((2, core (p.1.2 / 2 ^ 20) * 2 ^ 20 + p.1.2 % 2 ^ 20), p.2) else p
    tags := o.tags.map fun t => (core (t.1 / 2 ^ 18) * 2 ^ 18 + t.1 % 2 ^ 18, t.2)
    bad := o.bad.map (renameUnit core), good := o.good.map (renameUnit core)
    sems := o.sems.map (renameOp r) }

/-- A context under its new number. -/
def renameCtx (r : Renaming) (core : Nat → Nat) (x : Ctx) : Ctx :=
  { x with
    held := x.held.map (renameHeld r), going := x.going.map (renameHeld r), ov := renameOverlay r core x.ov
    frame := x.frame.map fun f => { f with cont := f.cont.map (renameCont r core) } }

/-- What a round's tasks read of a core follows it, in the place of what the round found on the core where it goes (R327). -/
def renameBase (core : Nat → Nat) (b : RoundBase) : RoundBase :=
  let moved := (b.spads.filter fun p => core p.1 != p.1).map fun p => (core p.1, p.2)
  { b with spads := moved ++ b.spads.filter fun p => core p.1 == p.1 && !moved.any fun q => q.1 == p.1 }

/-- A launch whose contexts have new numbers. -/
def renameLaunch (r : Renaming) (core : Nat → Nat) (y : Launch) : Launch :=
  { y with
    ctxs := y.ctxs.map fun q => (q.1, q.2.map r.new)
    waiting := y.waiting.map r.new
    shards := y.shards.map fun q => q.map fun d => { d with only := d.only.map core }
    tasks := y.tasks.map fun t => { t with ov := renameOverlay r core t.ov }
    base := y.base.map (renameBase core) }

/-- A write that not every agent sees, by the contexts that see it (R318). -/
def renameLag (r : Renaming) (l : Lag) : Lag := { l with ctx := r.new l.ctx, known := (l.known.map r.new).foldl NatSet.insert [] }

/-- A MOVE seed on its way: the context that posted it, and the overlay that takes its tiles (R327, R369). -/
def renameMove (r : Renaming) (m : MoveSeed) : MoveSeed := { m with ctx := r.new m.ctx, ov := m.ov.map r.new }

/-- Give contexts new numbers wherever the machine names them; what belongs to a core follows by `core`. Only the contexts and
the seeds of launch `l` are concerned by `core`. -/
def renumber (s : State) (l : Nat) (r : Renaming) (core : Nat → Nat) : State :=
  let moved := s.ctxs.filter fun p => (List.lookup p.1 r).isSome
  let stay := (s.ctxs.filter fun p => (List.lookup p.1 r).isNone).map fun p =>
    (p.1, if p.2.launch = some l then { p.2 with ov := renameOverlay r core p.2.ov } else p.2)
  { s with
    ctxs := moved.foldl (fun t p => Tab.put t (r.new p.1) (renameCtx r core p.2)) stay
    semOps := s.semOps.map (renameOp r)
    xfers := s.xfers.map fun x => { x with ctx := r.new x.ctx }
    moves := s.moves.map (renameMove r)
    conts := s.conts.map fun k => if k.launch = l then renameCont r core k else k
    dies := s.dies.map fun d => (d.1, { d.2 with jobs := d.2.jobs.map (renameJob r) })
    lags := s.lags.map (renameLag r)
    cores := s.cores.map fun k => (k.1, { k.2 with aq := k.2.aq.map fun o =>
      if (List.lookup o.ctx r).isSome then { o with ctx := r.new o.ctx, view := o.view.map (renameOverlay r core) } else o })
    launches := s.launches.map fun p => if p.1 = l then (p.1, renameLaunch r core p.2) else p }

/-! ## When a context is at a point where it can be saved (R402, R403) -/

/-- Nothing of the context's scratchpad work is before the banks, but for what is withdrawn (R403). -/
def banksIdle (x : Ctx) : Bool := match x.ls with | [] => true | o :: _ => o.withdraws

/-- A returning semaphore operation or transfer of the context has no outcome yet (R296, R402 step 4): a watch alone may be left
unsatisfied. [DEDUCED, log entry 36] -/
def outcomeDue (s : State) (c : Nat) : Bool :=
  (s.semOps.any fun o => o.ctx == c && o.result.isSome && !o.kind.isWatch) ||
    ((ctxOf s c).going.any fun w => match w with | .sem o => o.result.isSome && !o.kind.isWatch | _ => false) ||
    s.xfers.any fun x => x.ctx == c && x.result.isSome && !x.told

/-- A late fault or FP_TRAP that the context takes at this boundary, or in the wait in which it stands (R407, R394). -/
def faultFirst (s : State) (c : Nat) : Bool :=
  interrupted s c || ((ctxOf s c).status == .running && (ctxOf s c).frame.isNone && lateNow (ctxOf s c) != [])

/-- The context as its image holds it: withdrawn RROTs and demands for segments are gone (R214, R75), and what it could see of memory here it
sees wherever it goes on (R404). [DEDUCED, log entry 36] -/
def saveCtx (s : State) (c : Nat) : State :=
  let core := ctxCore c
  let s := acquire s c
  let s := modCore s core fun k => { k with
    rrot := k.rrot.filter fun a => a.ctx != c
    kernels := k.kernels.map fun y => { y with demand := y.demand.filter (fun d => d.1 != c), faulted := y.faulted.filter (· != c) } }
  modCtx s c fun x => { settlePipes x with status := if x.status = .running then .saved else x.status, stop := false }

/-- Bytes of a context's withheld stores and commands (R406): 512 for a store, 32 for a command. -/
def withheldBytes (x : Ctx) : Nat := (x.held.map fun w => match w with | .store _ => 512 | _ => 32).sum

/-- The required masks of the kernels that the contexts run (R406). -/
def requiredFeat (s : State) (y : Launch) (cs : List Nat) : Nat :=
  (cs.map fun c => if (ctxOf s c).status = .halted then 0 else kernelFeat y (ctxOf s c).kslot).foldl (· ||| ·) 0

/-- A number that no image has. -/
def freshImage (s : State) : Nat := (s.saves.map (·.1)).foldl max 0 + 1

/-! ## Core save (R402) -/

/-- The launches on a core that a save writes to images: those that are pre-empted or held, or all of them at a debug stop. -/
def launchesToSave (s : State) (core : Nat) : List Nat :=
  let here := (s.launches.filter fun p => p.2.stage != .retired && p.2.ctxs.any fun q => q.1 == core && q.2 != []).map (·.1)
  let must := here.filter fun l => match launchOf s l with
    | some y => y.stage == .preempted || cycbHeld s y.region
    | none => false
  if must = [] then here else must

/-- The queued and withheld cards of a region find the scratchpad of core `old` at `new` from now on (R280). -/
def followCards (s : State) (region old new : Nat) : State :=
  let held := fun (w : Withheld) => match w with | .job j => Withheld.job (followJob region old new j) | w => w
  { s with dies := s.dies.map fun d => (d.1, { d.2 with jobs := d.2.jobs.map (followJob region old new) })
           ctxs := s.ctxs.map fun p => (p.1, { p.2 with held := p.2.held.map held, going := p.2.going.map held }) }

/-- The banks, accumulators and queue of a core go where another core's were. -/
def moveCore (s : State) (src dst : Nat) (keep : Bool) : State :=
  let k := coreOf s src
  let d := coreOf s dst
  let s := setCore s dst { d with spad := k.spad, empty := k.empty, poison := k.poison, tagBad := k.tagBad, area := k.area, rrots := k.rrots, accs := k.accs
                                  accBad := k.accBad, arrayBad := k.arrayBad, aq := k.aq }
  modCore s src fun k => { k with spad := [], empty := [], poison := [], tagBad := [], area := if keep then k.area else none
                                  accs := Vector.replicate 4 {}, accBad := [], arrayBad := false, aq := [] }

/-- Write the image of one launch's contexts on a core. [DEDUCED, log entry 36] -/
def saveLaunch (s : State) (core l : Nat) : State :=
  match launchOf s l with
  | none => s
  | some y =>
    let n := freshImage s
    let k := Config.cores + n
    let cs := ((y.ctxs.find? fun q => q.1 == core).map (·.2)).getD []
    let here := cs.filter fun c => decide (c < Config.contexts)
    let holds := (coreOf s core).area.any fun a => a.1 == l
    let img : Saved := { kind := 0, ctxs := here.map (· % 4), region := y.region, core := core, feat := requiredFeat s y here
                         code := (coreOf s core).kernels.filter fun z => z.launch == l
                         bytes := 1949696 + (here.map fun c => withheldBytes (ctxOf s c)).sum, launch := l, home := core }
    let s := here.foldl saveCtx s
    let s := renumber s l (here.map fun c => (c, 4 * k + c % 4)) fun c => if holds && c == core then k else c
    let s := if holds then moveCore (followCards s y.region core k) core k (y.stage != .preempted) else s
    let s := modLaunch s l fun y => { y with ctxs := y.ctxs.map fun q => if q.1 = core then (k, q.2) else q }
    let saves := s.saves.map fun p => if p.2.kind = 1 ∧ p.2.launch = l ∧ p.2.home = core then (p.1, { p.2 with home := k }) else p
    { s with saves := Tab.put saves n img }

/-- Every context of the core has reached a point of R403, the array stands at a step boundary, and the core's copy and
semaphore work is done (R402, R237). -/
def coreSaveReady (s : State) (core : Nat) : Bool :=
  arrayHalted (coreOf s core) &&
  (natsFrom (core * 4) 4).all (fun c => s.active != some c && banksIdle (ctxOf s c) && !outcomeDue s c) &&
    !s.dies.any fun d => d.2.jobs.any fun j => j.chan.isSome && (cardCores j).contains core

/-- R401, R402, R403, R407: a core is stopped; what comes due meanwhile is delivered, and a trap that it brings is entered; when its
contexts, engine and cards stand, its image is written.
Arguments: a core, b 0, or the place of a context plus 1: what it traps at its stop is entered. -/
def execCoreSave (s : State) : Res :=
  let core := s.args.a
  if core ≥ Config.cores then .next s
  else if s.args.b ≠ 0 then .next (stopTrap s (core * 4 + (s.args.b - 1)))
  else if !(coreOf s core).saving then .next (stopCore s core)
  else
  let s := (natsFrom (core * 4) 4).foldl pump s
  match (natsFrom (core * 4) 4).filter (deliverable s), (natsFrom (core * 4) 4).find? (faultFirst s) with
  | d :: ds, _ => .next { s with sched := (d :: ds).map (fun c => { what := .resultDue, args := { a := c } }) ++ s.sched }
  | [], some c => .next (takeLate s c)
  | [], none =>
    if !coreSaveReady s core then .next s
    else .next (modCore ((launchesToSave s core).foldl (fun s l => saveLaunch s core l) s) core fun k => { k with saving := false })

/-! ## Context save (R405) -/

/-- R405: a stopped context is saved alone, once its array operations have completed, rolled back ones too (R238, R239). Arguments: a
context, b 0, or 1: what it traps at its stop is entered (R407). -/
def execContextSave (s : State) : Res :=
  let c := s.args.a
  let x := ctxOf s c
  match x.launch with
  | none => .next s
  | some l =>
    match launchOf s l with
    | none => .next s
    | some y =>
      if !x.stop || c ≥ Config.contexts || x.status ≠ .running then .next (modCtx s c fun x => { x with stop := false })
      else if s.active = some c then .next s
      else if s.args.b ≠ 0 then .next (stopTrap s c)
      else if deliverable s c then .next { s with sched := { what := .resultDue, args := { a := c } } :: s.sched }
      else if faultFirst s c then .next (takeLate s c)
      else if !banksIdle x || (coreOf s (ctxCore c)).aq.any (fun o => o.ctx == c) then .next s
      else
        let n := freshImage s
        let img : Saved := { kind := 1, ctxs := [c % 4], region := y.region, core := ctxCore c, feat := requiredFeat s y [c]
                             bytes := 81920 + withheldBytes x, launch := l, home := ctxCore c }
        let s := renumber (saveCtx s c) l [(c, 4 * (Config.cores + n) + c % 4)] fun k => k
        .next { s with saves := Tab.put s.saves n img }

/-! ## Restore (R404, R75, R385) -/

/-- Install on a core what it still lacks of the kernels of an image, with the residual code that its contexts ran (R75, R385). -/
def followKernels (s : State) (l : Nat) (y : Launch) (img : Saved) (new : Nat) : State :=
  let come := comingKernels s l new img.code
  let s := freeKernels s l new ((leavingKernels s l new img.code).map (·.kslot))
  let s := come.foldl (fun s k =>
    let s := installKernel s l y new k.kslot
    let here := coreOf s new
    let extra := freeChunks here (k.chunks.length - (k.allow + 63) / 64)
    let s := setCore s new { here with chunks := here.chunks ++ extra, frames := here.frames + k.resids.length }
    modKernel s new l k.kslot fun z =>
      { z with dict := k.dict, resids := k.resids, retimed := k.retimed, lit := k.lit, chunks := z.chunks ++ extra }) s
  let held := (dieOf s (coreDie img.core)).cache.filter fun e => e.users.contains l && !e.own
  let s := (takeEntries s l (coreDie img.core) (coreDie new)).getD s
  modDie s (coreDie new) fun d =>
    { d with cache := d.cache.map fun f =>
        if !f.own && held.any fun e => e.key == f.key then { f with users := NatSet.insert f.users l } else f }

/-- Where the contexts of a place go on a core: to their own number where it is free, else to the lowest that is (R340). -/
def seatCtxs (free : List Nat) (core : Nat) : List Nat → Renaming
  | [] => []
  | c :: cs =>
    let own := core * 4 + c % 4
    let pick := if free.contains own then own else free.headD own
    (c, pick) :: seatCtxs (free.filter (· != pick)) core cs

/-- A context runs again; its withdrawn RROTs are armed again (R404, R214), and what waits keeps its arrival number (R204). What its copy
work has written performs for every agent, so that it does so at every scope of the place where the context is now (R270, R321).
[DEDUCED, log entry 65] -/
def wakeCtx (s : State) (c : Nat) : State :=
  let s := (copyWork s c).foldl (fun s j => performWide s j.id) s
  let s := modCtx s c fun x => { x with status := if x.status = .saved then .running else x.status }
  rearm s c ((ctxOf s c).ls.filter fun o => o.withdraws)

/-- A core image is written back on a core (R404). -/
def restoreCore (s : State) (n core : Nat) (img : Saved) (y : Launch) : State :=
  let l := img.launch
  let k := Config.cores + n
  let cs := ((y.ctxs.find? fun q => q.1 == k).map (·.2)).getD []
  let free := (freeCtxs { s with saves := s.saves.filter fun p => p.2.launch != l } core)
  let seats := seatCtxs free core cs
  let here := seats.filter fun p => p.1 / 4 == k
  let alone := seats.filter fun p => p.1 / 4 != k
  let s := followKernels s l y img core
  let holds := (coreOf s k).area.isSome
  let s := renumber s l here fun c => if holds && c == k then core else c
  let s := if holds then
      let back := (coreOf s k).area
      modCore (moveCore (followCards s img.region k core) k core false) core fun z => { z with area := back }
    else s
  let s := modLaunch s l fun y => { y with ctxs := y.ctxs.map fun q => if q.1 = k then (core, q.2) else q }
  let s : State := { s with
    cores := s.cores.filter fun p => p.1 != k
    saves := (s.saves.filter fun p => p.1 != n).map fun p =>
      if p.2.kind = 1 ∧ p.2.launch = l ∧ p.2.home = k then
        (p.1, { p.2 with home := core, ctxs := (alone.filter fun q => q.1 / 4 == Config.cores + p.1).map (·.2 % 4) })
      else p }
  here.foldl (fun s p => wakeCtx s p.2) s

/-- A context image is written back on the core that holds its launch's area (R405). -/
def restoreCtx (s : State) (n : Nat) (img : Saved) : State :=
  let k := Config.cores + n
  let here := ((s.ctxs.filter fun p => p.1 / 4 == k).map (·.1)).map fun c => (c, img.home * 4 + img.ctxs.headD 0)
  let s := renumber s img.launch here fun c => c
  let s : State := { s with saves := s.saves.filter fun p => p.1 != n }
  here.foldl (fun s p => wakeCtx s p.2) s

/-- The core is free to take the image: a core of the launch's partition that is not retired, its contexts, its code space and its FEAT
(R75, R331, R340, R409). -/
def canRestore (s : State) (n core : Nat) (img : Saved) (y : Launch) : Bool :=
  let k := Config.cores + n
  decide (core < Config.cores) && covers s.feat img.feat && !cycbHeld s y.region && y.stage == .placed && !(coreOf s core).saving &&
    (if img.kind == 0 then
      (partBangles s y.region).contains (core / 8) && mayResume s img.launch core img && ((coreOf s k).area.isNone || (coreOf s core).area.all fun a => a.1 == img.launch || a.2 == 0) &&
        decide ((((y.ctxs.find? fun q => q.1 == k).map (·.2)).getD []).length ≤
          (freeCtxs { s with saves := s.saves.filter fun p => p.2.launch != img.launch } core).length)
    else core == img.home)

/-- R404: a saved image is written back and its contexts and engine go on; a launch that has started again without having
retired takes its contexts back on the core it names. Arguments: an image, b a core. -/
def execRestore (s : State) : Res :=
  let n := s.args.a
  match Tab.find s.saves n with
  | none => .next s
  | some img =>
    match launchOf s img.launch with
    | none => .next s
    | some y =>
      if !canRestore s n s.args.b img y then .next s
      else if img.kind = 0 then .next (restoreCore s n s.args.b img y)
      else .next (restoreCtx s n img)

end Sys2Proof.Machine
end

