-- ==== Sys2Proof/Machine/Host.lean ====
section
/-! DEFINITION. Command queues and packets (R412 to R418), and the packets themselves: launches (R416), regions (R332 to R335),
grants (R284), slot tables (R259), generations (R276), scale classes (R287), caps (R427) and reconciliation (R428). -/

namespace Sys2Proof.Machine

/-! ## Packets (R413) -/

/-- A packet at the head of its queue. -/
structure Packet where
  bytes : List Byte
  off   : Nat                       -- byte offset from the base of its ring, or of its called buffer
  tag   : Nat
  size  : Nat                       -- in 64-byte units
  op    : Nat
  clean : Bool                      -- the header breaks no rule of R413
deriving DecidableEq, Repr

def Packet.word (p : Packet) (n : Nat) : D64 := word64 p.bytes n

/-- A packet from the bytes of its unit and its offset. [DEDUCED, log entry 39] -/
def packetAt (unit : List Byte) (off : Nat) : Packet :=
  let bs := unit.drop (off % 256)
  let d0 := word64 bs 0
  let size := (d0.extractLsb' 8 8).toNat
  { bytes := bs.take (64 * size), off := off, tag := (d0.extractLsb' 32 32).toNat, size := size, op := (d0.extractLsb' 0 8).toNat
    clean := d0.extractLsb' 16 16 == 0 && decide (1 ≤ size) && decide (size ≤ 4) && decide (off % 256 + 64 * size ≤ 256) }

def ringBytes (x : Queue) : Nat := 256 * 2 ^ x.log

/-- The bytes of a called buffer, which may lie in host memory or, as a launch's kernels must be able to write it (R418), in the memory of this
module: an address from 2^63 on is a physical address of this node. [DESIGN CHOICE, log entry 80] -/
def bufferBytes (s : State) (a n : Nat) : List Byte :=
  if a < 2 ^ 63 then Memory.readBytes s.host a n
  else (natsFrom (a - 2 ^ 63) n).map fun pa => s.mem.read (lineKey s.migs s.migs.length (physKey s.node pa))

/-- A unit of a called buffer: as look-ahead fetched it, else as the buffer holds it now (R418). -/
def unitOf_ (s : State) (x : Queue) (path : List Nat) (addr u : Nat) : List Byte :=
  match x.pre.find? fun p => p.1 == path ++ [u] with
  | some p => p.2
  | none => bufferBytes s (addr + 256 * u) 256

/-- The packet that the queue issues next (R417). [DEDUCED, log entry 39] -/
def headPacket (s : State) (q : Nat) : Option Packet :=
  match Tab.find s.queues q with
  | none => none
  | some x =>
    if x.stopped || s.fw.paused || s.fw.quiesced || !s.fw.first then none
    else match x.calls with
    | f :: _ => some (packetAt (unitOf_ s x f.path f.addr (f.at_ / 256)) f.at_)
    | [] => if x.head = x.tail then none
            else some (packetAt (Memory.readBytes s.host (x.base + x.head / 256 * 256) 256) x.head)

/-- The unit that issue has reached is fetched as a whole (R418). -/
def pinUnit (s : State) (q : Nat) : State :=
  match (queueOf s q).calls with
  | f :: _ =>
    let u := f.at_ / 256
    if (queueOf s q).pre.any (fun p => p.1 == f.path ++ [u]) then s
    else modQueue s q fun x => { x with pre := x.pre ++ [(f.path ++ [u], unitOf_ s x f.path f.addr u)] }
  | [] => s

/-! ## Look-ahead (R417, R418) -/

/-- The packets of a unit from an offset on, as look-ahead walks them. -/
def unitPackets (unit : List Byte) : Nat → Nat → List Packet
  | 0, _ => []
  | n + 1, off =>
    if off % 256 + 64 > 256 then []
    else
      let p := packetAt unit off
      if !p.clean then [p] else p :: if (off + 64 * p.size) % 256 = 0 then [] else unitPackets unit n (off + 64 * p.size)

def callWords (p : Packet) : Nat × Nat := ((p.word 1).toNat, (p.word 2).toNat)

/-- The fields of a CALL are well formed (R414). -/
def callClean (p : Packet) : Bool := p.clean && (callWords p).1 % 256 == 0

/-- Look ahead in units `us` of a buffer, entering its CALLs to the depth that is left: each unit is fetched or left for later
by a free choice; a JOIN holds everything behind it (R418). The Bool says whether a JOIN has been met. -/
def lookBuffer (q : Nat) : Nat → State → List Nat → Nat → Nat → List Nat → State × Bool
  | 0, s, _, _, _, _ => (s, false)
  | depth + 1, s, path, addr, off, us =>
    us.foldl (fun (r : State × Bool) u =>
      if r.2 then r
      else
        let (n, s) := nextFree r.1
        let key := path ++ [u]
        let had := (queueOf s q).pre.any fun p => p.1 == key
        let take := had || Config.freeChoice n % 2 == 1
        let unit := unitOf_ s (queueOf s q) path addr u
        let s := if take && !had then modQueue s q fun x => { x with pre := x.pre ++ [(key, unit)] } else s
        (unitPackets unit 4 (max off (256 * u))).foldl (fun (r : State × Bool) p =>
          if r.2 then r
          else if p.op = 8 then (r.1, true)
          else if p.op = 7 ∧ take ∧ callClean p then
            lookBuffer q depth r.1 (path ++ [p.off]) (callWords p).1 0 (List.range (callWords p).2)
          else r) (s, false)) (s, false)

/-- Look ahead in the called buffers that issue is in, the innermost first. -/
def lookCalls (q : Nat) : State → List CallFrame → State × Bool
  | s, [] => (s, false)
  | s, f :: fs =>
    let u := f.at_ / 256
    let r := lookBuffer q (4 - fs.length) s f.path f.addr f.at_ (natsFrom u ((f.len + 255) / 256 - u))
    if r.2 then r else lookCalls q r.1 fs

/-- Look ahead in the ring: `n` packets at most, from byte offset `at_`. -/
def lookRing (q : Nat) : Nat → State → Nat → State
  | 0, s, _ => s
  | n + 1, s, at_ =>
    let x := queueOf s q
    if at_ = x.tail then s
    else
      let p := packetAt (Memory.readBytes s.host (x.base + at_ / 256 * 256) 256) at_
      if !p.clean || p.op == 8 then s
      else
        let next := (at_ + 64 * p.size) % ringBytes x
        if p.op = 7 ∧ callClean p then
          let r := lookBuffer q 4 s [p.off] (callWords p).1 0 (List.range (callWords p).2)
          if r.2 then r.1 else lookRing q n r.1 next
        else lookRing q n s next

/-- Look-ahead of a queue. -/
def lookAhead (s : State) (q : Nat) : State :=
  let r := lookCalls q s (queueOf s q).calls
  if r.2 then r.1 else lookRing q (4 * 2 ^ (queueOf s q).log) r.1 (queueOf s q).head

/-! ## Issue (R417) -/

/-- Called buffers that have been issued to their end: their CALL packets complete (R414). -/
def leaveCalls (q : Nat) : Nat → State → State
  | 0, s => s
  | n + 1, s =>
    match (queueOf s q).calls with
    | f :: fs =>
      if f.len ≤ f.at_ then
        let s := modQueue s q fun x => { x with calls := fs, pre := x.pre.filter fun p => !(f.path.isPrefixOf p.1) }
        let s := modQueue s q fun x => { x with open_ := (x.open_.reverse.erase { tag := f.tag, op := 7 }).reverse }
        leaveCalls q n (settleSignals q (queueOf s q).open_.length (postRecord s q f.tag 7 0 0))
      else s
    | [] => s

/-- The packet has been issued: the next one is behind it; the head index goes back to the host (R413). -/
def advance (s : State) (q : Nat) (p : Packet) : State :=
  let s := modQueue s q fun x => match x.calls with
    | f :: fs => { x with calls := { f with at_ := f.at_ + 64 * p.size } :: fs }
    | [] => { x with head := (x.head + 64 * p.size) % ringBytes x }
  let x := queueOf s q
  lookAhead (leaveCalls q 4 (hostWrite s x.headAt (leBytes 4 (x.head / 256)))) q

/-- The packet completes BAD_PACKET and its queue stops (R414, R415). -/
def badPacket (s : State) (q : Nat) (p : Packet) : State :=
  modQueue (postRecord s q p.tag p.op 0x81 p.off) q fun x => { x with stopped := true }

/-- The packet completes at its issue (R414). -/
def complete (s : State) (q : Nat) (p : Packet) : State := advance (postRecord s q p.tag p.op 0 0) q p

/-- The packet is refused with a reason and changes nothing (R415). [DEDUCED, log entry 40] -/
def refuse (s : State) (q : Nat) (p : Packet) (reason : Nat) : State := advance (postRecord s q p.tag p.op 0x80 reason) q p

/-- The packet is accepted and completes later. -/
def keepOpen (s : State) (q : Nat) (p : Packet) (launch asid : Option Nat) : State :=
  advance (modQueue s q fun x => { x with open_ := x.open_ ++ [{ tag := p.tag, op := p.op, launch := launch, asid := asid }] }) q p

/-- The mould of a packet's meaning: the queue's next packet is of this kind; a malformed one completes BAD_PACKET (R414). -/
def withPacket (s : State) (isKind : Packet → Bool) (clean : Packet → Bool) (act : State → Nat → Packet → State) : Res :=
  let q := s.args.a
  let s := pinUnit s q
  match headPacket s q with
  | none => .next s
  | some p =>
    if !isKind p then .next s
    else if !p.clean || !clean p then .next (badPacket s q p)
    else .next (act s q p)

/-- The function of a queue (R412). -/
def funcOf (s : State) (q : Nat) : Func := Tab.get {} s.funcs (queueOf s q).func

/-- A packet of the queue may act on a partition (R414). -/
def mayActOn (s : State) (q part : Nat) : Bool := (funcOf s q).pf || (funcOf s q).part == some part

def opIs (n : Nat) (p : Packet) : Bool := p.op == n

/-! ## Doorbells and resets (R413, R414) -/

/-- R413: the host writes a queue's tail index, in units; look-ahead begins. Arguments: a queue, b tail index.
[DESIGN CHOICE, log entry 14] -/
def execDoorbellWrite (s : State) : Res :=
  let q := s.args.a
  let s := modQueue s q fun x => { x with tail := 256 * s.args.b % ringBytes x }
  if (queueOf s q).stopped then .next s else .next (lookAhead s q)

/-- The settings of a queue are ones that it may have (R412, R413, R419): its function exists and holds no more than 16 queues, the
ring's alignment and length, COUNT and TIMEOUT. -/
def queueOk (s : State) (q : Nat) (x : Queue) : Bool :=
  (Tab.find s.funcs x.func).isSome &&
    decide ((s.queues.filter fun p => p.1 != q && p.2.func == x.func).length < Config.queuesPerFunc) &&
    x.base % 4096 == 0 && decide (4 ≤ x.log) && decide (x.log ≤ 16) && decide (1 ≤ x.count) && decide (x.count ≤ 256) &&
    decide (x.timeout ≤ 65)

/-- A queue's settings as they stand at `a` in host memory: seven words, of the ring, the head write-back, the completion ring and
the interrupt; the queue itself is empty. [DESIGN CHOICE, log entry 14] -/
def queueAt (s : State) (func a : Nat) : Queue :=
  let w := fun n => (host64 s (a + 8 * n)).toNat
  { func := func, base := w 0, log := w 1, headAt := w 2, ring := w 3, ringLen := w 4, count := w 5, timeout := w 6 }

/-- The host configures a queue; settings that a queue may not have fail the configuration, and nothing changes (R413, R419).
[DESIGN CHOICE, log entry 14] -/
def configureQueue (s : State) (q func a : Nat) : State :=
  let x := queueAt s func a
  if queueOk s q x then { s with queues := Tab.put s.queues q x } else s

/-- R414: the host resets a queue that BAD_PACKET has stopped, or configures one that holds no open packet (R413, R419). Arguments:
a queue, b 0, or where its settings stand, c function. [DESIGN CHOICE, log entry 14] -/
def execQueueReset (s : State) : Res :=
  if s.args.b ≠ 0 then
    .next (if (queueOf s s.args.a).open_ = [] then configureQueue s s.args.a s.args.c s.args.b else s)
  else .next (modQueue s s.args.a fun x =>
    if x.stopped then { x with stopped := false, head := 0, tail := 0, calls := [], pre := []
                               open_ := x.open_.filter fun p => p.op != 7 } else x)

/-! ## NOP, CALL, JOIN, SIGNAL (R414, R417, R418) -/

/-- A kind of R414; REGION names one of three commands. -/
def knownKind (p : Packet) : Bool := decide (p.op ≤ 0x0B) && (p.op != 2 || decide ((p.word 2).toNat ≤ 2))

/-- R414: NOP; a packet of an unknown kind completes BAD_PACKET. Arguments: a queue. -/
def execNop (s : State) : Res := withPacket s (fun p => p.op == 0 || !knownKind p) (opIs 0) complete

/-- R417: CALL; or look-ahead goes on, which it may at any time (R418). Arguments: a queue, b not 0 for look-ahead. -/
def execCall (s : State) : Res :=
  if s.args.b ≠ 0 then .next (if (queueOf s s.args.a).stopped then s else lookAhead s s.args.a)
  else withPacket s (opIs 7) callClean fun s q p =>
    let x := queueOf s q
    if 4 ≤ x.calls.length then badPacket s q p
    else
      let (addr, len) := callWords p
      let path := (match x.calls with | f :: _ => f.path | [] => []) ++ [p.off]
      let s := modQueue s q fun x => { x with open_ := x.open_ ++ [{ tag := p.tag, op := 7 }] }
      let f : CallFrame := { addr := addr, path := path, at_ := 0, len := 256 * len, tag := p.tag }
      let s := modQueue s q fun x => match x.calls with
        | g :: gs => { x with calls := f :: { g with at_ := g.at_ + 64 * p.size } :: gs }
        | [] => { x with calls := [f], head := (x.head + 64 * p.size) % ringBytes x }
      let x := queueOf s q
      lookAhead (leaveCalls q 5 (hostWrite s x.headAt (leBytes 4 (x.head / 256)))) q

/-- R418: JOIN is issued once every earlier packet has completed, but for the CALLs it stands in. Arguments: a queue. -/
def execJoin (s : State) : Res :=
  withPacket s (opIs 8) (fun _ => true) fun s q p =>
    if (queueOf s q).open_.all (fun o => o.op == 7 || o.op == 9) then complete s q p else s

/-- R414: SIGNAL completes once every earlier packet has. Arguments: a queue. -/
def execSignal (s : State) : Res :=
  withPacket s (opIs 9) (fun _ => true) fun s q p =>
    let s := keepOpen s q p none none
    settleSignals q (queueOf s q).open_.length s

/-! ## LAUNCH (R416) -/

/-- The fields of LAUNCH that make the packet malformed. -/
def launchClean (p : Packet) : Bool :=
  let d := p.word
  let f := fun n lo w => ((d n).extractLsb' lo w).toNat
  let kind := f 3 0 2
  let arglen := f 3 32 9
  let nk := f 4 32 4
  p.size == 1 && f 1 56 8 == 0 && f 1 0 56 % 64 == 0 && f 2 56 8 == 0 && f 2 0 56 % 8 == 0 && (arglen != 0 || f 2 0 56 == 0) &&
    f 3 41 7 == 0 && f 3 6 26 == 0 && f 3 2 2 == 0 && kind != 3 && decide (arglen ≤ 256) &&
    f 4 36 28 == 0 && (kind == 0 || (nk == 0 && f 4 0 32 == 0)) && (kind != 0 || f 4 0 32 / 2 ^ (8 * min nk 4) == 0) &&
    f 5 56 8 == 0 && (match kind with | 0 => f 5 0 56 == 0 | 1 => f 5 0 56 % 8 == 0 | _ => f 5 0 56 % 64 == 0) &&
    f 6 16 48 == 0 && (if kind = 2 then f 6 0 16 != 0 else f 6 0 16 == 0) && f 7 56 8 == 0 && f 7 0 56 % 64 == 0

/-- An operator parameter block (R357): walker, slot, and whether it breaks no field. -/
def parseOpb (bs : List Byte) (kernels : Nat) : Walker × Bool :=
  let w := word64 bs
  let d0 := w 0
  let b32 := fun a => leNat ((bs.drop a).take 4)
  let nlev := (d0.extractLsb' 49 3).toNat
  let level := fun l => (b32 (48 + 24 * l), (List.range 4).map fun k => b32 (56 + 24 * l + 4 * k))
  let levels := (List.range nlev).map level
  let total := (levels.map (·.1)).foldl (· * ·) 1
  let slot := (d0.extractLsb' 56 8).toNat
  ({ slot := slot, ckEn := d0.getLsbD 52, pin := d0.getLsbD 53, pos := (d0.extractLsb' 0 20).toNat, keyc := (d0.extractLsb' 47 2).toNat
     bases := (List.range 4).map fun k => w (2 + k), levels := levels, next := 0, total := total },
   !d0.getLsbD 54 && !d0.getLsbD 55 && d0.extractLsb' 20 27 == 0 && w 1 == 0 && decide (1 ≤ nlev) && decide (nlev ≤ 6) &&
     decide (slot < kernels) && (levels.all fun l => l.1 != 0) && decide (total < 2 ^ 48) &&
     (List.range 6).all (fun l => b32 (52 + 24 * l) == 0) && (bs.drop (48 + 24 * nlev)).all (· == 0))

/-- A seed record of a task launch passes R416's checks. -/
def initialClean (bs : List Byte) (kernels : Nat) : Bool :=
  seedClean bs && !(seedOf bs).move && decide ((seedOf bs).slot < kernels)

/-- Kernels with those that share a residency group with one of them (R338). -/
def withResidents (ks : List KernelImage) (named : List Nat) : List Nat :=
  let groups := (named.filterMap fun n => (ks[n]?).map (·.group)).filter (· != 0)
  (List.range ks.length).filter fun n => named.contains n || groups.contains ((ks[n]?.map (·.group)).getD 0)

/-- What stands at an IMAGE address that holds no image: nothing that names Skenis-3, so that the launch retires BAD_ARCH (R12).
[DESIGN CHOICE, log entry 9] -/
def noImage : Image := { skenis3 := false, ltb := false, digest := 0, kernels := [], pipes := [], objects := [] }

/-- A block of a region's address space, as the hub reads it. -/
def regionBytes (s : State) (region va n : Nat) : List Byte × State :=
  let (bs, s) := readMems s none { die := 0 } portChan (asidOf s region) va n
  (bs.map (·.val), s)

/-- The launch that a packet submits; one whose IMAGE address holds no image submits `noImage`. [DESIGN CHOICE, log entry 9] -/
def launchOfPacket (s : State) (q : Nat) (p : Packet) : Launch × State :=
  let d := p.word
  let f := fun n lo w => ((d n).extractLsb' lo w).toNat
  let region := f 3 48 16
  let img := ((s.images.find? fun i => i.1 == (asidOf s region, f 1 0 56)).map (·.2)).getD noImage
  let nks := img.kernels.length
  let arglen := f 3 32 9
  let (args, s) := regionBytes s region (f 2 0 56) arglen
  let base : Launch := { region := region, image := img, kind := .gang, klist := [], args := args ++ List.replicate (256 - arglen) 0
                         policy := f 3 4 1 + 4 * f 3 5 1, status := f 7 0 56, queue := q, tag := p.tag, order := s.nlaunch }
  match f 3 0 2 with
  | 0 =>
    let nk := f 4 32 4
    let ks := (List.range (min nk 4)).map fun i => f 4 (8 * i) 8
    ({ base with klist := ks, kindOk := decide (nk ≤ 4), entries := ks.map fun k => (k, 0) }, s)
  | 1 =>
    let (bs, s) := regionBytes s region (f 5 0 56) 256
    let (w, ok) := parseOpb bs nks
    ({ base with kind := .operator, klist := withResidents img.kernels [w.slot], walker := w, opbOk := ok, entries := [(w.slot, w.pos)] }, s)
  | _ =>
    let n := f 6 0 16
    let (bs, s) := regionBytes s region (f 5 0 56) (64 * n)
    let recs := (List.range n).map fun i => (bs.drop (64 * i)).take 64
    let seeds := recs.map seedOf
    ({ base with kind := .task, klist := withResidents img.kernels (seeds.map (·.slot)).eraseDups, seeds := seeds
                 kindOk := recs.all fun r => initialClean r nks, entries := (seeds.map fun d => (d.slot, d.pos)).eraseDups }, s)

/-- R416: LAUNCH. Arguments: a queue. -/
def execLaunch (s : State) : Res :=
  withPacket s (opIs 1) launchClean fun s q p =>
    let region := ((p.word 3).extractLsb' 48 16).toNat
    if (Tab.find s.regions region).isNone || !mayActOn s q (partOf s region) then refuse s q p 8
    else
      let (y, s) := launchOfPacket s q p
      let l := s.nlaunch
      keepOpen (setLaunch { s with nlaunch := l + 1 } l y) q p (some l) none

/-! ## REGION (R332 to R335, R285) -/

/-- A region control block of 256 bytes in host memory. -/
def readRcb (s : State) (a : Nat) : List D64 := (List.range 32).map fun n => host64 s (a + 8 * n)

def inherit : D64 := BitVec.allOnes 64

/-- Every must-be-zero bit of a control block is zero (R333); so are the low six bits of HTAB, a multiple of 64, for which R333 names no
reason of its own. [DESIGN CHOICE, log entry 73] -/
def rcbZeros (b : List D64) : Bool :=
  let d := fun n => b.getD n 0
  let f := fun n lo w => ((d n).extractLsb' lo w).toNat
  let quota := fun n => d n == inherit || f n 32 32 == 0
  f 0 0 8 == 0 && f 1 10 54 == 0 && f 2 16 48 == 0 && f 2 7 1 == 0 && f 7 56 8 == 0 && f 7 0 6 == 0 && quota 10 && quota 11 &&
    (natsFrom 13 19).all fun n => d n == 0

def rcbRegion (b : List D64) : Nat := ((b.getD 0 0).extractLsb' 48 16).toNat
def rcbParent (b : List D64) : Nat := ((b.getD 0 0).extractLsb' 32 16).toNat
def rcbPart (b : List D64) : Nat := ((b.getD 0 0).extractLsb' 24 8).toNat

/-- A bank of the block is owned by another region (R333, R241). -/
def banksTaken (s : State) (b : List D64) : Bool :=
  !(b.getD 1 0).getLsbD 8 && s.regions.any fun p => p.1 != rcbRegion b && !(rcbWord s p.1 1).getLsbD 8 &&
    (List.range 4).any fun d => b.getD (3 + d) 0 &&& rcbWord s p.1 (3 + d) != 0

/-- The checks of R333 that give reason 1. [DEDUCED, log entry 40] -/
def rcbFails (s : State) (b : List D64) (parent part : Nat) : Bool :=
  let root := parent == 0xFFFF
  !rcbZeros b || rcbRegion b == 0xFFFF || decide (part > 63) || (!root && partOf s parent != part) || banksTaken s b ||
    (root && ((b.getD 1 0).extractLsb' 0 10 != 0 || ((natsFrom 8 5).any fun n => b.getD n 0 == inherit) ||
      (b.getD 2 0).extractLsb' 4 2 == 3))

/-- The packet's address and command. -/
def regionKind (n : Nat) (p : Packet) : Bool := p.op == 2 && (p.word 2).toNat == n
def regionClean (p : Packet) : Bool := (p.word 1).toNat % 256 == 0

/-- R333: a region is created. Arguments: a queue. -/
def execRegionCreate (s : State) : Res :=
  withPacket s (regionKind 0) regionClean fun s q p =>
    let b := (readRcb s (p.word 1).toNat).take 32
    let n := rcbRegion b
    if (rcbParent b != 0xFFFF && (Tab.find s.regions (rcbParent b)).isNone) || (Tab.find s.parts (rcbPart b)).isNone || !mayActOn s q (rcbPart b) then
      refuse s q p 8
    else if (Tab.find s.regions n).isSome || n == Config.powerRegion then refuse s q p 10
    else if rcbFails s b (rcbParent b) (rcbPart b) then refuse s q p 1
    else
      let r : Region := { rcb := b.take 13, cycb := (b.getD 8 0).toNat, copyb := (b.getD 9 0).toNat }
      complete { s with regions := Tab.put s.regions n r } q p

/-- What is left of a budget after its word changes. -/
def budgetLeft (left : Nat) (old new : D64) : Nat := left + new.toNat - old.toNat

/-- DET, ASID or BANKS, or whether one is inherited, differ between two blocks (R335). -/
def fixedDiffers (a b : List D64) : Bool :=
  let x := fun n => a.getD n 0
  let y := fun n => b.getD n 0
  (x 0).extractLsb' 8 16 != (y 0).extractLsb' 8 16 || (x 2).getLsbD 6 != (y 2).getLsbD 6 || (x 1).getLsbD 2 != (y 1).getLsbD 2 ||
    (x 1).getLsbD 8 != (y 1).getLsbD 8 || (natsFrom 3 4).any fun n => x n != y n

def launchLeft (s : State) (r : Nat) : Bool := s.launches.any fun p => p.2.region == r && p.2.stage != .retired

/-- R335, R337: a region's block is read again; a CYCB that is raised ends the hold, which the launches' status reports.
Arguments: a queue. -/
def execRegionUpdate (s : State) : Res :=
  withPacket s (regionKind 1) regionClean fun s q p =>
    let b := (readRcb s (p.word 1).toNat).take 32
    let n := rcbRegion b
    match Tab.find s.regions n with
    | none => refuse s q p 8
    | some r =>
      if !mayActOn s q (partOf s n) then refuse s q p 8
      else if rcbPart b ≠ partOf s n ∨ rcbFails s b (parentOf s n) (partOf s n) then refuse s q p 1
      else if fixedDiffers r.rcb b && launchLeft s n then refuse s q p 2
      else
        let d0 := rcbWord s n 0 &&& 0xFFFFFFFFFF0000FF#64 ||| (b.getD 0 0 &&& 0x0000000000FFFF00#64)
        let raised := r.heldC && ((rcbWord s n 8).toNat < (b.getD 8 0).toNat)
        let new : Region := { r with rcb := d0 :: (b.take 13).drop 1, cycb := budgetLeft r.cycb (rcbWord s n 8) (b.getD 8 0)
                                     copyb := budgetLeft r.copyb (rcbWord s n 9) (b.getD 9 0), heldC := r.heldC && !raised }
        let s := { s with regions := Tab.put s.regions n new }
        complete (if raised then writeHeld s n 0 else s) q p

/-- The entries that a region owns. -/
def ownedBy (s : State) (r : Nat) : List Nat := (s.sems.filter fun p => p.2.owner == r).map (·.1)

/-- An entry goes back to the hub as UNSET; watches on it complete (R285, R300). -/
def unsetEntry (s : State) (a : Nat) : State := semWrite s a { poison := (entryOf s a).poison }

/-- R285, R29: a region is destroyed; with the last one of an address space the record of its written images goes. Arguments: a queue. -/
def execRegionDestroy (s : State) : Res :=
  withPacket s (regionKind 2) regionClean fun s q p =>
    let b := readRcb s (p.word 1).toNat
    let n := rcbRegion b
    if (Tab.find s.regions n).isNone || !mayActOn s q (partOf s n) then refuse s q p 8
    else
      let own := ownedBy s n
      if own.any (fun a => ((entryOf s a).type == 3 && (entryOf s a).bal != 0) || s.xfers.any fun x => x.src == a || x.dst == a) then refuse s q p 3
      else if s.regions.any (fun k => k.1 != n && parentOf s k.1 == n) || launchLeft s n then refuse s q p 9
      else
        let s := own.foldl unsetEntry s
        let asid := asidOf s n
        let last := !s.regions.any fun k => k.1 != n && asidOf s k.1 == asid
        complete { s with
          loaded := if last then s.loaded.filter fun k => k.1 != asid else s.loaded
          regions := Tab.del s.regions n, dies := s.dies.map fun d => (d.1, { d.2 with drops := Tab.del d.2.drops n }) } q p

/-! ## GRANT (R284, R286) -/

/-- R284: entries are granted to a region. Arguments: a queue. -/
def execGrant (s : State) : Res :=
  withPacket s (opIs 3) (fun _ => true) fun s q p =>
    let a := (p.word 1).toNat; let n := (p.word 2).toNat; let r := (p.word 3).toNat
    if !semAddrOk s a || (Tab.find s.regions r).isNone || !mayActOn s q (partOf s r) then refuse s q p 8
    else if n = 0 ∨ a % 2 ^ 14 + n > Config.semEntries then refuse s q p 1
    else
      let taken := fun i => (entryOf s i).owner != 0xFFFF
      let range := natsFrom a n
      if range.any taken then
        refuse s q p (if (natsFrom (a / 2 ^ 14 * 2 ^ 14) Config.semEntries).all taken then 5 else 4)
      else complete (range.foldl (fun s i => setEntry s i { entryOf s i with owner := r }) s) q p

/-! ## SLOTTAB, CLASSDEF, CAPSET, RECONCILE -/

/-- A kind that is accepted only from a physical function (R414). -/
def pfOnly (act : State → Nat → Packet → State) (s : State) (q : Nat) (p : Packet) : State :=
  if (funcOf s q).pf then act s q p else refuse s q p 7

/-- R259: a die's slot table is written. Arguments: a queue. -/
def execSlottab (s : State) : Res :=
  withPacket s (opIs 4) (fun _ => true) (pfOnly fun s q p =>
    let die := (p.word 2).toNat
    let t := Memory.readBytes s.host (p.word 1).toNat 16384
    if die ≥ Config.dies then refuse s q p 8
    else if t.any (fun v => decide (v.toNat > 63) && v != slotFree) then refuse s q p 1
    else
      let cells := (t.zipIdx.filter fun v => v.1 != slotFree).map fun v => (v.2, v.1)
      complete (modDie s die fun d => { d with newSlots := some cells }) q p)

/-- R287: a scale class is defined. Arguments: a queue. -/
def execClassdef (s : State) : Res :=
  withPacket s (opIs 6) (fun _ => true) (pfOnly fun s q p =>
    let c := (p.word 1).toNat; let f := (p.word 2).toNat
    if c > 255 ∨ f > 64 then refuse s q p 1
    else if (classOf s c).isSome ∧ (s.sems.any fun e => e.2.type == 3 && e.2.cls == c) then refuse s q p 6
    else complete { s with classes := Tab.put s.classes c f } q p)

/-- R427: a partition's cap in watts; a cap that is exceeded demands some clock below the nominal one. Arguments: a queue.
[DESIGN CHOICE, log entry 42] -/
def execCapset (s : State) : Res :=
  withPacket s (opIs 0x0A) (fun _ => true) fun s q p =>
    let part := (p.word 1).toNat; let cap := (p.word 2).toNat
    match Tab.find s.parts part with
    | none => refuse s q p 8
    | some x =>
      if !mayActOn s q part then refuse s q p 8
      else
        let (n, s) := nextFree s
        let x : Partition := { x with
          cap := cap
          partClk := if cap ≠ 0 ∧ cap < x.watts then some (Config.freeChoice n % Config.nominalClock) else none }
        complete (latchSticky { s with parts := Tab.put s.parts part x }) q p

/-- A retired node is of the domain no more: its file, with the quanta that its accounts hold, leaves every total (R428, R311). -/
def leaveNode (s : State) (n : Nat) : State :=
  { s with nodes := s.nodes.filter (· != n)
           sems := s.sems.filter fun p => semNode p.1 != n, transit := s.transit.filter fun p => p.1 / 256 / 8 != n
           xfers := s.xfers.filter fun x => semNode x.dst != n }

/-- R428: the transfers in transit toward a retired node are refunded; this module's own node is no retired one. Arguments: a
queue. [DESIGN CHOICE, log entry 44] [DEDUCED, log entry 41] -/
def execReconcile (s : State) : Res :=
  withPacket s (opIs 0x0B) (fun _ => true) (pfOnly fun s q p =>
    let n := (p.word 1).toNat
    if !s.nodes.contains n then refuse s q p 8
    else if n = s.node then refuse s q p 1
    else
      let gone := s.xfers.filter fun x => semNode x.dst == n
      complete (leaveNode (gone.foldl (fun s x => refundXfer s x sUNREACH) s) n) q p)

/-! ## Generations (R276) -/

/-- A request of an address space that is two generations older than the current one, `gen`, is in flight. [DEDUCED, log entry 41] -/
def oldInFlight (s : State) (asid gen : Nat) : Bool :=
  let old := (gen + 65534) % 65536
  (s.dies.any fun d => d.2.jobs.any fun j => j.asid == asid && j.gen == old) ||
    (s.cores.any fun k => k.2.kernels.any fun y => (launchOf s y.launch).any (fun l => asidOf s l.region == asid) &&
      y.frames.any fun f => f.loading.isSome && f.gen == old) ||
    s.moves.any fun m => asidOf s m.region == asid && m.gen == old

/-- A virtual function asks for an address space that no region of its partition uses (R414). [DEDUCED, log entry 41] -/
def foreignSpace (s : State) (q asid : Nat) : Bool :=
  !(funcOf s q).pf && !s.regions.any fun p => asidOf s p.1 == asid && mayActOn s q (partOf s p.1)

/-- R276: GENADV: dispatch of the address space's cards stops; the packet stays open. It waits while an advance of the space is
in progress or an old request is in flight. Arguments: a queue. -/
def execGenadv (s : State) : Res :=
  withPacket s (opIs 5) (fun p => (p.word 1).extractLsb' 16 48 == 0) fun s q p =>
    let asid := (p.word 1).toNat
    let sp := spaceOf s asid
    if foreignSpace s q asid then complete s q p
    else if sp.advance.isSome || oldInFlight s asid sp.gen then s
    else
      let s := { s with spaces := Tab.put s.spaces asid { sp with advance := some (q, p.tag) } }
      keepOpen s q p none (some asid)

/-- A dispatched card of the address space has not completed. -/
def cardsMoving (s : State) (asid : Nat) : Bool := s.dies.any fun d => d.2.jobs.any fun j => j.asid == asid && j.isCard && j.chan.isSome

/-- R276: the cards of the old generation have completed: the new generation is current and dispatch resumes; at a wrap every
TLB is flushed. Arguments: an address space. -/
def execGenerationCurrent (s : State) : Res :=
  let asid := s.args.a
  let sp := spaceOf s asid
  match sp.advance with
  | none => .next s
  | some (q, _) =>
    if cardsMoving s asid || s.fw.paused then .next s
    else
      let gen := (sp.gen + 1) % 65536
      let s : State := { s with
        spaces := Tab.put s.spaces asid { sp with gen := gen, advance := none }
        migs := s.migs.map fun m => if m.asid = asid then { m with active := true } else m
        dies := if gen = 0 then s.dies.map fun d => (d.1, { d.2 with tlb := [] }) else s.dies }
      match (queueOf s q).open_.find? fun p => p.asid == some asid with
      | some p => .next (finishOpen s q p 0 0)
      | none => .next s

end Sys2Proof.Machine
end

