-- ==== Sys2Proof/Machine/Dispatch.lean ====
section
/-! DEFINITION. The dispatch: one arm for every instruction, each one call of its meaning. -/

namespace Sys2Proof.Machine

def exec (i : Instr) (s : State) : Host.Outcome State Fault Refusal :=
  match i with
  | .move m dst => Sys2Proof.Machine.execMove m dst s
  | .flip h e => Sys2Proof.Machine.execFlip h e s
  | .flipW h e => Sys2Proof.Machine.execFlipW h e s
  | .flipC h e => Sys2Proof.Machine.execFlipC h e s
  | .flipCw h e => Sys2Proof.Machine.execFlipCw h e s
  | .ckpt h e => Sys2Proof.Machine.execCkpt h e s
  | .seg h p => Sys2Proof.Machine.execSeg h p s
  | .alAdd m u => Sys2Proof.Machine.execAlAdd m u s
  | .alSub m u => Sys2Proof.Machine.execAlSub m u s
  | .alAdds m u => Sys2Proof.Machine.execAlAdds m u s
  | .alSubs m u => Sys2Proof.Machine.execAlSubs m u s
  | .alAnd m u => Sys2Proof.Machine.execAlAnd m u s
  | .alOr m u => Sys2Proof.Machine.execAlOr m u s
  | .alXor m u => Sys2Proof.Machine.execAlXor m u s
  | .alAndn m u => Sys2Proof.Machine.execAlAndn m u s
  | .alShl m u => Sys2Proof.Machine.execAlShl m u s
  | .alShr m u => Sys2Proof.Machine.execAlShr m u s
  | .alSar m u => Sys2Proof.Machine.execAlSar m u s
  | .alRor m u => Sys2Proof.Machine.execAlRor m u s
  | .alMin m u => Sys2Proof.Machine.execAlMin m u s
  | .alMax m u => Sys2Proof.Machine.execAlMax m u s
  | .alMinu m u => Sys2Proof.Machine.execAlMinu m u s
  | .alMaxu m u => Sys2Proof.Machine.execAlMaxu m u s
  | .alCmpeq m u => Sys2Proof.Machine.execAlCmpeq m u s
  | .alCmplt m u => Sys2Proof.Machine.execAlCmplt m u s
  | .alCmpltu m u => Sys2Proof.Machine.execAlCmpltu m u s
  | .alSel m u => Sys2Proof.Machine.execAlSel m u s
  | .alClz m u => Sys2Proof.Machine.execAlClz m u s
  | .alPopc m u => Sys2Proof.Machine.execAlPopc m u s
  | .mulMul m => Sys2Proof.Machine.execMulMul m s
  | .mulMulhs m => Sys2Proof.Machine.execMulMulhs m s
  | .mulMulhu m => Sys2Proof.Machine.execMulMulhu m s
  | .mulDivs m => Sys2Proof.Machine.execMulDivs m s
  | .mulDivu m => Sys2Proof.Machine.execMulDivu m s
  | .mulRems m => Sys2Proof.Machine.execMulRems m s
  | .mulRemu m => Sys2Proof.Machine.execMulRemu m s
  | .aguAinc m => Sys2Proof.Machine.execAguAinc m s
  | .aguAmod m => Sys2Proof.Machine.execAguAmod m s
  | .aguAxy m => Sys2Proof.Machine.execAguAxy m s
  | .aguAbnd m => Sys2Proof.Machine.execAguAbnd m s
  | .brJmp m => Sys2Proof.Machine.execBrJmp m s
  | .brCall m => Sys2Proof.Machine.execBrCall m s
  | .brRet m => Sys2Proof.Machine.execBrRet m s
  | .brLoop m => Sys2Proof.Machine.execBrLoop m s
  | .brBreakl m => Sys2Proof.Machine.execBrBreakl m s
  | .brHalt m => Sys2Proof.Machine.execBrHalt m s
  | .brYield m => Sys2Proof.Machine.execBrYield m s
  | .sysTrap m => Sys2Proof.Machine.execSysTrap m s
  | .sysTret m => Sys2Proof.Machine.execSysTret m s
  | .sysRdsr m => Sys2Proof.Machine.execSysRdsr m s
  | .sysWrsr m => Sys2Proof.Machine.execSysWrsr m s
  | .sysFence m => Sys2Proof.Machine.execSysFence m s
  | .lsLd8 m u => Sys2Proof.Machine.execLsLd8 m u s
  | .lsLd8Sx m u => Sys2Proof.Machine.execLsLd8Sx m u s
  | .lsLd16 m u => Sys2Proof.Machine.execLsLd16 m u s
  | .lsLd16Sx m u => Sys2Proof.Machine.execLsLd16Sx m u s
  | .lsLd32 m u => Sys2Proof.Machine.execLsLd32 m u s
  | .lsLd32Sx m u => Sys2Proof.Machine.execLsLd32Sx m u s
  | .lsLd64 m u => Sys2Proof.Machine.execLsLd64 m u s
  | .lsSt8 m u => Sys2Proof.Machine.execLsSt8 m u s
  | .lsSt16 m u => Sys2Proof.Machine.execLsSt16 m u s
  | .lsSt32 m u => Sys2Proof.Machine.execLsSt32 m u s
  | .lsSt64 m u => Sys2Proof.Machine.execLsSt64 m u s
  | .lsVld m u => Sys2Proof.Machine.execLsVld m u s
  | .lsVst m u => Sys2Proof.Machine.execLsVst m u s
  | .lsLdfw m u => Sys2Proof.Machine.execLsLdfw m u s
  | .lsLdfk m u => Sys2Proof.Machine.execLsLdfk m u s
  | .lsStew m u => Sys2Proof.Machine.execLsStew m u s
  | .lsStff m u => Sys2Proof.Machine.execLsStff m u s
  | .lsFeclr m u => Sys2Proof.Machine.execLsFeclr m u s
  | .lsFeq m u => Sys2Proof.Machine.execLsFeq m u s
  | .lsPatset m u => Sys2Proof.Machine.execLsPatset m u s
  | .lsLdpat m u => Sys2Proof.Machine.execLsLdpat m u s
  | .lsRrot m u => Sys2Proof.Machine.execLsRrot m u s
  | .vecAddF32 m => Sys2Proof.Machine.execVecAddF32 m s
  | .vecAddF16 m => Sys2Proof.Machine.execVecAddF16 m s
  | .vecAddBf16 m => Sys2Proof.Machine.execVecAddBf16 m s
  | .vecAddI32 m => Sys2Proof.Machine.execVecAddI32 m s
  | .vecAddI16 m => Sys2Proof.Machine.execVecAddI16 m s
  | .vecAddI8 m => Sys2Proof.Machine.execVecAddI8 m s
  | .vecSubF32 m => Sys2Proof.Machine.execVecSubF32 m s
  | .vecSubF16 m => Sys2Proof.Machine.execVecSubF16 m s
  | .vecSubBf16 m => Sys2Proof.Machine.execVecSubBf16 m s
  | .vecSubI32 m => Sys2Proof.Machine.execVecSubI32 m s
  | .vecSubI16 m => Sys2Proof.Machine.execVecSubI16 m s
  | .vecSubI8 m => Sys2Proof.Machine.execVecSubI8 m s
  | .vecMulF32 m => Sys2Proof.Machine.execVecMulF32 m s
  | .vecMulF16 m => Sys2Proof.Machine.execVecMulF16 m s
  | .vecMulBf16 m => Sys2Proof.Machine.execVecMulBf16 m s
  | .vecMulI32 m => Sys2Proof.Machine.execVecMulI32 m s
  | .vecMulI16 m => Sys2Proof.Machine.execVecMulI16 m s
  | .vecMulI8 m => Sys2Proof.Machine.execVecMulI8 m s
  | .vecFmaF32 m => Sys2Proof.Machine.execVecFmaF32 m s
  | .vecFmaF16 m => Sys2Proof.Machine.execVecFmaF16 m s
  | .vecFmaBf16 m => Sys2Proof.Machine.execVecFmaBf16 m s
  | .vecMinF32 m => Sys2Proof.Machine.execVecMinF32 m s
  | .vecMinF16 m => Sys2Proof.Machine.execVecMinF16 m s
  | .vecMinBf16 m => Sys2Proof.Machine.execVecMinBf16 m s
  | .vecMinI32 m => Sys2Proof.Machine.execVecMinI32 m s
  | .vecMinI16 m => Sys2Proof.Machine.execVecMinI16 m s
  | .vecMinI8 m => Sys2Proof.Machine.execVecMinI8 m s
  | .vecMinN32 m => Sys2Proof.Machine.execVecMinN32 m s
  | .vecMinN16 m => Sys2Proof.Machine.execVecMinN16 m s
  | .vecMinN8 m => Sys2Proof.Machine.execVecMinN8 m s
  | .vecMaxF32 m => Sys2Proof.Machine.execVecMaxF32 m s
  | .vecMaxF16 m => Sys2Proof.Machine.execVecMaxF16 m s
  | .vecMaxBf16 m => Sys2Proof.Machine.execVecMaxBf16 m s
  | .vecMaxI32 m => Sys2Proof.Machine.execVecMaxI32 m s
  | .vecMaxI16 m => Sys2Proof.Machine.execVecMaxI16 m s
  | .vecMaxI8 m => Sys2Proof.Machine.execVecMaxI8 m s
  | .vecMaxN32 m => Sys2Proof.Machine.execVecMaxN32 m s
  | .vecMaxN16 m => Sys2Proof.Machine.execVecMaxN16 m s
  | .vecMaxN8 m => Sys2Proof.Machine.execVecMaxN8 m s
  | .vecAddsI32 m => Sys2Proof.Machine.execVecAddsI32 m s
  | .vecAddsI16 m => Sys2Proof.Machine.execVecAddsI16 m s
  | .vecAddsI8 m => Sys2Proof.Machine.execVecAddsI8 m s
  | .vecAddsN32 m => Sys2Proof.Machine.execVecAddsN32 m s
  | .vecAddsN16 m => Sys2Proof.Machine.execVecAddsN16 m s
  | .vecAddsN8 m => Sys2Proof.Machine.execVecAddsN8 m s
  | .vecCmpeqF32 m => Sys2Proof.Machine.execVecCmpeqF32 m s
  | .vecCmpeqF16 m => Sys2Proof.Machine.execVecCmpeqF16 m s
  | .vecCmpeqBf16 m => Sys2Proof.Machine.execVecCmpeqBf16 m s
  | .vecCmpeqI32 m => Sys2Proof.Machine.execVecCmpeqI32 m s
  | .vecCmpeqI16 m => Sys2Proof.Machine.execVecCmpeqI16 m s
  | .vecCmpeqI8 m => Sys2Proof.Machine.execVecCmpeqI8 m s
  | .vecCmpltF32 m => Sys2Proof.Machine.execVecCmpltF32 m s
  | .vecCmpltF16 m => Sys2Proof.Machine.execVecCmpltF16 m s
  | .vecCmpltBf16 m => Sys2Proof.Machine.execVecCmpltBf16 m s
  | .vecCmpltI32 m => Sys2Proof.Machine.execVecCmpltI32 m s
  | .vecCmpltI16 m => Sys2Proof.Machine.execVecCmpltI16 m s
  | .vecCmpltI8 m => Sys2Proof.Machine.execVecCmpltI8 m s
  | .vecCmpltN32 m => Sys2Proof.Machine.execVecCmpltN32 m s
  | .vecCmpltN16 m => Sys2Proof.Machine.execVecCmpltN16 m s
  | .vecCmpltN8 m => Sys2Proof.Machine.execVecCmpltN8 m s
  | .vecSelI32 m => Sys2Proof.Machine.execVecSelI32 m s
  | .vecSelI16 m => Sys2Proof.Machine.execVecSelI16 m s
  | .vecSelI8 m => Sys2Proof.Machine.execVecSelI8 m s
  | .vecAnd m => Sys2Proof.Machine.execVecAnd m s
  | .vecOr m => Sys2Proof.Machine.execVecOr m s
  | .vecXor m => Sys2Proof.Machine.execVecXor m s
  | .vecShlI32 m => Sys2Proof.Machine.execVecShlI32 m s
  | .vecShlI16 m => Sys2Proof.Machine.execVecShlI16 m s
  | .vecShlI8 m => Sys2Proof.Machine.execVecShlI8 m s
  | .vecShrI32 m => Sys2Proof.Machine.execVecShrI32 m s
  | .vecShrI16 m => Sys2Proof.Machine.execVecShrI16 m s
  | .vecShrI8 m => Sys2Proof.Machine.execVecShrI8 m s
  | .vecSarI32 m => Sys2Proof.Machine.execVecSarI32 m s
  | .vecSarI16 m => Sys2Proof.Machine.execVecSarI16 m s
  | .vecSarI8 m => Sys2Proof.Machine.execVecSarI8 m s
  | .vecCvtF32 m => Sys2Proof.Machine.execVecCvtF32 m s
  | .vecCvtF16 m => Sys2Proof.Machine.execVecCvtF16 m s
  | .vecCvtBf16 m => Sys2Proof.Machine.execVecCvtBf16 m s
  | .vecCvtI32 m => Sys2Proof.Machine.execVecCvtI32 m s
  | .vecCvtI16 m => Sys2Proof.Machine.execVecCvtI16 m s
  | .vecCvtI8 m => Sys2Proof.Machine.execVecCvtI8 m s
  | .vecCvtE4m3Sat m => Sys2Proof.Machine.execVecCvtE4m3Sat m s
  | .vecCvtE4m3Nsat m => Sys2Proof.Machine.execVecCvtE4m3Nsat m s
  | .vecCvtE5m2Sat m => Sys2Proof.Machine.execVecCvtE5m2Sat m s
  | .vecCvtE5m2Nsat m => Sys2Proof.Machine.execVecCvtE5m2Nsat m s
  | .vecVdot16E4m3 m => Sys2Proof.Machine.execVecVdot16E4m3 m s
  | .vecVdot16E5m2 m => Sys2Proof.Machine.execVecVdot16E5m2 m s
  | .vecVdot8Bf16 m => Sys2Proof.Machine.execVecVdot8Bf16 m s
  | .vecRsumF32 m => Sys2Proof.Machine.execVecRsumF32 m s
  | .vecRsumI32 m => Sys2Proof.Machine.execVecRsumI32 m s
  | .vecRmaxF32 m => Sys2Proof.Machine.execVecRmaxF32 m s
  | .vecRmaxI32 m => Sys2Proof.Machine.execVecRmaxI32 m s
  | .vecExp2F32 m => Sys2Proof.Machine.execVecExp2F32 m s
  | .vecRcpF32 m => Sys2Proof.Machine.execVecRcpF32 m s
  | .vecRsqF32 m => Sys2Proof.Machine.execVecRsqF32 m s
  | .vecShufI32 m => Sys2Proof.Machine.execVecShufI32 m s
  | .vecShufI16 m => Sys2Proof.Machine.execVecShufI16 m s
  | .vecShufI8 m => Sys2Proof.Machine.execVecShufI8 m s
  | .vecBcastI32 m => Sys2Proof.Machine.execVecBcastI32 m s
  | .vecBcastI16 m => Sys2Proof.Machine.execVecBcastI16 m s
  | .vecBcastI8 m => Sys2Proof.Machine.execVecBcastI8 m s
  | .vecVqntD8 m => Sys2Proof.Machine.execVecVqntD8 m s
  | .vecAbsF32 m => Sys2Proof.Machine.execVecAbsF32 m s
  | .vecAbsF16 m => Sys2Proof.Machine.execVecAbsF16 m s
  | .vecAbsBf16 m => Sys2Proof.Machine.execVecAbsBf16 m s
  | .vecAbsI32 m => Sys2Proof.Machine.execVecAbsI32 m s
  | .vecAbsI16 m => Sys2Proof.Machine.execVecAbsI16 m s
  | .vecAbsI8 m => Sys2Proof.Machine.execVecAbsI8 m s
  | .matMmaOv m => Sys2Proof.Machine.execMatMmaOv m s
  | .matMmaAc m => Sys2Proof.Machine.execMatMmaAc m s
  | .matMgemmOv m => Sys2Proof.Machine.execMatMgemmOv m s
  | .matMgemmAc m => Sys2Proof.Machine.execMatMgemmAc m s
  | .matMzero m => Sys2Proof.Machine.execMatMzero m s
  | .matAswap m => Sys2Proof.Machine.execMatAswap m s
  | .matApop m => Sys2Proof.Machine.execMatApop m s
  | .matApush m => Sys2Proof.Machine.execMatApush m s
  | .matMdesc m => Sys2Proof.Machine.execMatMdesc m s
  | .matMdcv m => Sys2Proof.Machine.execMatMdcv m s
  | .matMstat m => Sys2Proof.Machine.execMatMstat m s
  | .matMfence m => Sys2Proof.Machine.execMatMfence m s
  | .cpyCpy m => Sys2Proof.Machine.execCpyCpy m s
  | .cpyCpld m => Sys2Proof.Machine.execCpyCpld m s
  | .cpyCpldSb m => Sys2Proof.Machine.execCpyCpldSb m s
  | .cpyCpst m => Sys2Proof.Machine.execCpyCpst m s
  | .cpyDrain m => Sys2Proof.Machine.execCpyDrain m s
  | .cpyPagereq m => Sys2Proof.Machine.execCpyPagereq m s
  | .cpyJobq m => Sys2Proof.Machine.execCpyJobq m s
  | .cpyCpqry m => Sys2Proof.Machine.execCpyCpqry m s
  | .cpySlotq m => Sys2Proof.Machine.execCpySlotq m s
  | .semSld m f => Sys2Proof.Machine.execSemSld m f s
  | .semSst m f => Sys2Proof.Machine.execSemSst m f s
  | .semSadd m f => Sys2Proof.Machine.execSemSadd m f s
  | .semSmin m f => Sys2Proof.Machine.execSemSmin m f s
  | .semSmax m f => Sys2Proof.Machine.execSemSmax m f s
  | .semScas m f => Sys2Proof.Machine.execSemScas m f s
  | .semStx m f => Sys2Proof.Machine.execSemStx m f s
  | .semSwaitge m => Sys2Proof.Machine.execSemSwaitge m s
  | .semBarr m => Sys2Proof.Machine.execSemBarr m s
  | .semBexp m => Sys2Proof.Machine.execSemBexp m s
  | .semBwait m => Sys2Proof.Machine.execSemBwait m s
  | .semBtest m => Sys2Proof.Machine.execSemBtest m s
  | .semCxferQ m => Sys2Proof.Machine.execSemCxferQ m s
  | .semCxferFRn m => Sys2Proof.Machine.execSemCxferFRn m s
  | .semCxferFRz m => Sys2Proof.Machine.execSemCxferFRz m s
  | .semCxferFRd m => Sys2Proof.Machine.execSemCxferFRd m s
  | .semCbal m => Sys2Proof.Machine.execSemCbal m s
  | .semCtotal m => Sys2Proof.Machine.execSemCtotal m s
  | .semCfloor m => Sys2Proof.Machine.execSemCfloor m s
  | .semCmint m => Sys2Proof.Machine.execSemCmint m s
  | .semCburn m => Sys2Proof.Machine.execSemCburn m s
  | .semSinit m => Sys2Proof.Machine.execSemSinit m s
  | .semCinfo m => Sys2Proof.Machine.execSemCinfo m s
  | .tskPost m => Sys2Proof.Machine.execTskPost m s
  | .tskWaitc m => Sys2Proof.Machine.execTskWaitc m s
  | .tskTdone m => Sys2Proof.Machine.execTskTdone m s
  | .tskTid m => Sys2Proof.Machine.execTskTid m s
  | .tskRndcmt m => Sys2Proof.Machine.execTskRndcmt m s
  | .lnkSend m => Sys2Proof.Machine.execLnkSend m s
  | .lnkRecv m => Sys2Proof.Machine.execLnkRecv m s
  | .lnkLstat m => Sys2Proof.Machine.execLnkLstat m s
  | .bundleIssue => Sys2Proof.Machine.execBundleIssue s
  | .idleTick => Sys2Proof.Machine.execIdleTick s
  | .resultDue => Sys2Proof.Machine.execResultDue s
  | .resultArrival => Sys2Proof.Machine.execResultArrival s
  | .holderLimit => Sys2Proof.Machine.execHolderLimit s
  | .asyncLanding => Sys2Proof.Machine.execAsyncLanding s
  | .literalBundleFetch => Sys2Proof.Machine.execLiteralBundleFetch s
  | .frameLoadComplete => Sys2Proof.Machine.execFrameLoadComplete s
  | .ckmodeEnable => Sys2Proof.Machine.execCkmodeEnable s
  | .ckmodeDisable => Sys2Proof.Machine.execCkmodeDisable s
  | .capcauseW1c => Sys2Proof.Machine.execCapcauseW1c s
  | .storePerform => Sys2Proof.Machine.execStorePerform s
  | .bankRefresh => Sys2Proof.Machine.execBankRefresh s
  | .rrotRotation => Sys2Proof.Machine.execRrotRotation s
  | .rrotTimeout => Sys2Proof.Machine.execRrotTimeout s
  | .arrayOpStart => Sys2Proof.Machine.execArrayOpStart s
  | .mgemmKStep => Sys2Proof.Machine.execMgemmKStep s
  | .arrayOpComplete => Sys2Proof.Machine.execArrayOpComplete s
  | .aswapPerform => Sys2Proof.Machine.execAswapPerform s
  | .wsRefresh => Sys2Proof.Machine.execWsRefresh s
  | .cardLinear => Sys2Proof.Machine.execCardLinear s
  | .cardStrided => Sys2Proof.Machine.execCardStrided s
  | .cardGather => Sys2Proof.Machine.execCardGather s
  | .cardScatter => Sys2Proof.Machine.execCardScatter s
  | .cardTile => Sys2Proof.Machine.execCardTile s
  | .cardWswrite => Sys2Proof.Machine.execCardWswrite s
  | .migrateArm => Sys2Proof.Machine.execMigrateArm s
  | .migrateWait => Sys2Proof.Machine.execMigrateWait s
  | .migrateLinePull => Sys2Proof.Machine.execMigrateLinePull s
  | .cardBytesArrive => Sys2Proof.Machine.execCardBytesArrive s
  | .barDecrement => Sys2Proof.Machine.execBarDecrement s
  | .cardComplete => Sys2Proof.Machine.execCardComplete s
  | .cpstComplete => Sys2Proof.Machine.execCpstComplete s
  | .slotAdvance => Sys2Proof.Machine.execSlotAdvance s
  | .generationCurrent => Sys2Proof.Machine.execGenerationCurrent s
  | .pagerDecision => Sys2Proof.Machine.execPagerDecision s
  | .semArrive => Sys2Proof.Machine.execSemArrive s
  | .creditArrive => Sys2Proof.Machine.execCreditArrive s
  | .refundArrive => Sys2Proof.Machine.execRefundArrive s
  | .ackArrive => Sys2Proof.Machine.execAckArrive s
  | .nodeUnreachable => Sys2Proof.Machine.execNodeUnreachable s
  | .nodeReachable => Sys2Proof.Machine.execNodeReachable s
  | .uncorrectableError => Sys2Proof.Machine.execUncorrectableError s
  | .messageArrive => Sys2Proof.Machine.execMessageArrive s
  | .seedPickup => Sys2Proof.Machine.execSeedPickup s
  | .walkerStep => Sys2Proof.Machine.execWalkerStep s
  | .continuationEnter => Sys2Proof.Machine.execContinuationEnter s
  | .moveSeedArrive => Sys2Proof.Machine.execMoveSeedArrive s
  | .roundMerge => Sys2Proof.Machine.execRoundMerge s
  | .launchPlace => Sys2Proof.Machine.execLaunchPlace s
  | .launchRetire => Sys2Proof.Machine.execLaunchRetire s
  | .cycbExhausted => Sys2Proof.Machine.execCycbExhausted s
  | .coreSave => Sys2Proof.Machine.execCoreSave s
  | .contextSave => Sys2Proof.Machine.execContextSave s
  | .restore => Sys2Proof.Machine.execRestore s
  | .doorbellWrite => Sys2Proof.Machine.execDoorbellWrite s
  | .queueReset => Sys2Proof.Machine.execQueueReset s
  | .nop => Sys2Proof.Machine.execNop s
  | .launch => Sys2Proof.Machine.execLaunch s
  | .regionCreate => Sys2Proof.Machine.execRegionCreate s
  | .regionUpdate => Sys2Proof.Machine.execRegionUpdate s
  | .regionDestroy => Sys2Proof.Machine.execRegionDestroy s
  | .grant => Sys2Proof.Machine.execGrant s
  | .slottab => Sys2Proof.Machine.execSlottab s
  | .genadv => Sys2Proof.Machine.execGenadv s
  | .classdef => Sys2Proof.Machine.execClassdef s
  | .call => Sys2Proof.Machine.execCall s
  | .join => Sys2Proof.Machine.execJoin s
  | .signal => Sys2Proof.Machine.execSignal s
  | .capset => Sys2Proof.Machine.execCapset s
  | .reconcile => Sys2Proof.Machine.execReconcile s
  | .msiXInterrupt => Sys2Proof.Machine.execMsiXInterrupt s
  | .heartbeat => Sys2Proof.Machine.execHeartbeat s
  | .firmwareReset => Sys2Proof.Machine.execFirmwareReset s
  | .liveUpdate => Sys2Proof.Machine.execLiveUpdate s
  | .liveUpdateRollback => Sys2Proof.Machine.execLiveUpdateRollback s
  | .getVersion => Sys2Proof.Machine.execGetVersion s
  | .getCapabilities => Sys2Proof.Machine.execGetCapabilities s
  | .negotiateAlgorithms => Sys2Proof.Machine.execNegotiateAlgorithms s
  | .getDigests => Sys2Proof.Machine.execGetDigests s
  | .getCertificate => Sys2Proof.Machine.execGetCertificate s
  | .challenge => Sys2Proof.Machine.execChallenge s
  | .getMeasurements => Sys2Proof.Machine.execGetMeasurements s
  | .hallCapFrame => Sys2Proof.Machine.execHallCapFrame s
  | .energyBurn => Sys2Proof.Machine.execEnergyBurn s
  | .supplySag => Sys2Proof.Machine.execSupplySag s
  | .thermalLimit => Sys2Proof.Machine.execThermalLimit s
  | .dieReset => Sys2Proof.Machine.execDieReset s
  | .bangleRetire => Sys2Proof.Machine.execBangleRetire s
  | .supplySagEnds => Sys2Proof.Machine.execSupplySagEnds s
  | .thermalLimitEnds => Sys2Proof.Machine.execThermalLimitEnds s

end Sys2Proof.Machine
end

