-- ==== Sys2Proof/Machine/Events.lean ====
section
/-! DEFINITION. What may happen next when no bundle is being carried out: the events of the contexts, the cores, the dies, the
hub and the host's queues. An event whose condition does not hold changes nothing; which of them comes first is free (log
entry 3). What reaches the module from outside stands in `State.sched`. -/

namespace Sys2Proof.Machine

def eventOf (i : Instr) (a : Nat := 0) (b : Nat := 0) (c : Nat := 0) (d : Nat := 0) : Event := { what := i, args := ⟨a, b, c, d⟩ }

/-- What a context's own units may do. -/
def ctxEvents (s : State) (c : Nat) : List Event :=
  let x := ctxOf s c
  x.async.map (fun w => eventOf .asyncLanding c w.id) ++
    if c < Config.contexts then
      [eventOf .idleTick c, eventOf .literalBundleFetch c, eventOf .storePerform c, eventOf .seedPickup c] ++
        x.infl.map (fun e => eventOf .resultArrival c e.seq) ++ x.ls.map (fun o => eventOf .resultArrival c o.seq) ++
        (match x.aside with | some a => a.infl.map fun e => eventOf .resultArrival c e.seq | none => []) ++
        if x.stop then [eventOf .contextSave c] else []
    else []

/-- What a core's selector, banks and array may do. -/
def coreEvents (s : State) (k : Nat) : List Event :=
  let x := coreOf s k
  if k < Config.cores then
    [eventOf .bundleIssue k, eventOf .holderLimit k, eventOf .bankRefresh k, eventOf .arrayOpStart k, eventOf .mgemmKStep k,
     eventOf .arrayOpComplete k, eventOf .aswapPerform k] ++
      (List.range x.kernels.length).map (fun i => eventOf .frameLoadComplete k i) ++
      (if x.aq.any fun o => o.started && (match o.kind with | .mma _ _ _ da db _ => da.kind == 0 || db.kind == 0 | _ => false) then
        (natsFrom 1 256).map fun i => eventOf .arrayOpStart k i else []) ++
      (if x.rrot = [] then [] else [eventOf .rrotRotation (k / 8), eventOf .rrotTimeout (k / 8) k]) ++
      if x.saving then [eventOf .coreSave k] else []
  else []

/-- The event of a card's kind (R250). -/
def cardInstr (k : Card) : Instr :=
  match k.kind with
  | 0 => .cardLinear
  | 1 => .cardStrided
  | 2 => .cardGather
  | 3 => .cardScatter
  | 4 => .cardTile
  | 5 => .cardWswrite
  | _ => if k.xn = 0 then .migrateArm else .migrateWait

/-- What a copy job may do; the pager's answer is free. -/
def jobEvents (s : State) (die : Nat) (j : Job) : List Event :=
  match j.kind with
  | .card ws => [eventOf (cardInstr (cardOf ws)) die j.id, eventOf (cardInstr (cardOf ws)) die j.id (Config.freeDigest 11 s.free) (Config.freeDigest 12 s.free), eventOf .barDecrement die j.id, eventOf .cardComplete die j.id] ++
      (natsFrom 1 (s.lags.filter fun l => l.job == j.id).length).map (fun i => eventOf .cardComplete die j.id i) ++
      (List.range j.buf.length).map fun i => eventOf .cardBytesArrive die j.id i
  | .cpld _ _ _ _ _ => []
  | .cpst _ _ => (List.range ((s.lags.filter fun l => l.job == j.id).length + 1)).map fun i => eventOf .cpstComplete die j.id i
  | .pagereq _ _ => (List.range 5).map fun r => eventOf .pagerDecision die j.id r (Config.freeDigest 10 s.free)

/-- What a launch may do. -/
def launchEvents (l : Nat) : List Event :=
  [eventOf .launchPlace l, eventOf .launchRetire l, eventOf .walkerStep l, eventOf .roundMerge l]

/-- The event of a packet's kind (R414). -/
def packetInstr (p : Packet) : Instr :=
  match p.op with
  | 1 => .launch
  | 2 => match (p.word 2).toNat with
    | 0 => .regionCreate
    | 1 => .regionUpdate
    | 2 => .regionDestroy
    | _ => .nop
  | 3 => .grant
  | 4 => .slottab
  | 5 => .genadv
  | 6 => .classdef
  | 7 => .call
  | 8 => .join
  | 9 => .signal
  | 10 => .capset
  | 11 => .reconcile
  | _ => .nop

/-- What a queue may do: issue its next packet, send its interrupt. -/
def queueEvents (s : State) (q : Nat) : List Event :=
  (match headPacket s q with | some p => [eventOf (packetInstr p) q] | none => []) ++
    (if (queueOf s q).tail = (queueOf s q).head ∧ (queueOf s q).calls = [] then [] else [eventOf .call q 1]) ++
    if (queueOf s q).held = 0 then [] else [eventOf .msiXInterrupt q]

/-- What the firmware may do. -/
def hubEvents (s : State) : List Event :=
  (List.range 4).map (fun k => eventOf .heartbeat k) ++ [eventOf .firmwareReset, eventOf .liveUpdateRollback] ++
    (s.parts.map fun p => eventOf .energyBurn p.1 (Config.freeDigest (20 + p.1) s.free)) ++
    s.spaces.map (fun p => eventOf .generationCurrent p.1) ++ s.regions.map fun p => eventOf .cycbExhausted p.1

/-- Every event that may come next. [DESIGN CHOICE, log entry 48] -/
def enabled (s : State) : List Event :=
  s.ctxs.flatMap (fun p => ctxEvents s p.1) ++ s.cores.flatMap (fun p => coreEvents s p.1) ++
    s.dies.flatMap (fun d => d.2.jobs.flatMap (jobEvents s d.1)) ++
    (List.range Config.dies).flatMap (fun d => [eventOf .slotAdvance d, eventOf .wsRefresh d]) ++
    s.semOps.map (fun o => eventOf .semArrive o.id) ++
    s.xfers.flatMap (fun x => [eventOf .creditArrive x.id, eventOf .refundArrive x.id, eventOf .ackArrive x.id]) ++
    s.msgs.map (fun m => eventOf .messageArrive m.id) ++ s.conts.map (fun k => eventOf .continuationEnter k.id) ++
    s.moves.map (fun m => eventOf .moveSeedArrive m.id) ++
    s.migs.flatMap (fun m => m.absent.map fun line => eventOf .migrateLinePull m.new line) ++
    s.launches.flatMap (fun p => if p.2.stage = .retired then [] else launchEvents p.1) ++
    s.saves.map (fun p => eventOf .restore p.1 p.2.home) ++ s.queues.flatMap (fun p => queueEvents s p.1) ++ hubEvents s

/-- Run an event. [DESIGN CHOICE, log entry 48] -/
def runEvent (s : State) (e : Event) : Res := exec e.what { s with args := e.args }

/-- An event of `State.sched` runs; the clock limits in force set their sticky bits first (R429). -/
def runScheduled (s : State) (e : Event) : Res := runEvent (latchSticky s) e

/-- One of the events that may come next, or a step in which time passes; the clock limits in force set their sticky bits (R429).
[DESIGN CHOICE, log entry 3] -/
def chooseEvent (s : State) : Res :=
  let s := latchSticky s
  let l := enabled s
  let (n, t) := nextFree s
  match l[Config.freeChoice n % (l.length + 1)]? with
  | some e => runEvent t e
  | none => .next { t with cycles := t.cycles + 1 }

/-! ## The bundle being carried out -/

/-- The frame of the running context as a part of its bundle finds it. -/
def withFrame (s : State) (c : Nat) (f : Frame) : State := modCtx s c fun x => { x with frame := some f }

/-- The instruction of a slot of the bundle, decoded from its word. -/
def runSlot (s : State) (c : Nat) (f : Frame) : Res :=
  match decodeSlot (f.slots.getD f.cur 0) f.cur with
  | .ok i => exec i (withFrame s c f)
  | .error _ => .next (withFrame s c f)

/-- The instruction that the header holds, decoded from its word. -/
def runHeader (s : State) (c : Nat) (f : Frame) (i : Option Instr) : Res :=
  match i with
  | some i => exec i (withFrame s c f)
  | none => .next (withFrame s c f)

/-- R84: a write that lands as the bundle issues does so after its moves and before its span action: some of the context's writes,
or none more. [DESIGN CHOICE, log entry 3] -/
def runLand (s : State) (c : Nat) (f : Frame) (rest : List Todo) : Res :=
  let ws := (ctxOf s c).async
  let (n, t) := nextFree s
  match ws[Config.freeChoice n % (ws.length + 1)]? with
  | some w => runEvent (withFrame t c { f with todo := .land :: rest }) (eventOf .asyncLanding c w.id)
  | none => .next (withFrame t c { f with todo := rest })

/-- The next part of a bundle. -/
def runTodo (s : State) (c : Nat) (f : Frame) (rest : List Todo) : Todo → Res
  | .check n => runSlot s c { f with todo := rest, cur := n, dry := true }
  | .slot n => runSlot s c { f with todo := rest, cur := n, dry := false }
  | .last n => runSlot s c { f with todo := rest, cur := n, dry := false }
  | .seg => runHeader s c { f with todo := rest } (decodeSeg f.header)
  | .land => runLand s c f rest
  | .span => runHeader s c { f with todo := rest } (decodeSpan f.header)
  | .event e => runEvent (withFrame s c { f with todo := rest }) e
  | .endTask k => .next (endTask (withFrame s c { f with todo := rest }) c k)
  | .tret t => .next (tretStep (withFrame s c { f with todo := rest }) c t)
  | .withdraw => .next (withdrawBundle s c f)

/-- A step of the context whose bundle is being carried out. -/
def runActive (s : State) (c : Nat) : Res :=
  match (ctxOf s c).frame with
  | none => .next { s with active := none }
  | some f =>
    match f.todo with
    | [] => .next (endBundle s c)
    | t :: ts => runTodo s c f ts t

/-- The frame of a bundle that holds one instruction's word: in slot 0, or as the header where the word is a header's. -/
def wordFrame (x : Ctx) (w : Word) (i : Instr) : Frame :=
  match i with
  | .flip _ _ | .flipW _ _ | .flipC _ _ | .flipCw _ _ | .ckpt _ _ => makeFrame x (w :: List.replicate 11 emptySlot) 1 [.span]
  | .seg _ _ => makeFrame x (w :: List.replicate 11 emptySlot) 1 [.seg]
  | _ => makeFrame x (0 :: w :: List.replicate 10 emptySlot) 1 [.slot 0]

/-- The word stands where the next step reads an instruction: in the bundle of the active context, or of context 0.
[DESIGN CHOICE, log entry 6] -/
def placeWord (s : State) (nbits w : Nat) : State :=
  let c := s.active.getD 0
  match decodeTableWord nbits w with
  | some i => { modCtx s c fun x => { x with frame := some (wordFrame x (BitVec.ofNat 32 w) i) } with active := some c }
  | none => s

end Sys2Proof.Machine
end

