-- ==== Sys2Proof/Machine/Step.lean ====
section
/-! DEFINITION. One step of the module: the next part of the bundle being carried out, else what is scheduled, else one of the
events that may come next. -/

namespace Sys2Proof.Machine

def step (s : State) : Host.Outcome State Fault Refusal :=
  match s.active with
  | some c => runActive s c
  | none =>
    match s.sched with
    | e :: es => runScheduled { s with sched := es } e
    | [] => chooseEvent s

/-- `s` with the instruction of the word placed where `step` finds its next instruction (log entry 6). [DEDUCED, log entry 1] -/
def State.withFetchWord (s : State) (nbits w : Nat) : State := placeWord s nbits w

end Sys2Proof.Machine
end

