-- ==== Sys2Proof/Safety.lean ====
section
/-! DEFINITION. What counts as a safe run: the words in which claims speak of steps, of what an instruction leaves unchanged,
and of the states that runs can reach. -/

namespace Sys2Proof.Machine

/-- The machine goes on from `s` with `t`. -/
def Steps (s t : State) : Prop := step s = .next t

/-- The states that follow `s` in some number of steps. -/
inductive Reaches (s : State) : State → Prop where
  | refl : Reaches s s
  | tail {t u : State} : Reaches s t → Steps t u → Reaches s u

/-- A run is safe: no step from a state that follows `s` ends in a fault or a refusal. -/
def Safe (s : State) : Prop := ∀ t, Reaches s t → ∃ u, Steps t u

/-! ## What claims about one instruction of a bundle are stated with -/

/-- The slot `f.cur` of the bundle of context `c` acts now, and its guard holds (R47, R50). -/
structure Acts (s : State) (m : Mv) (c : Nat) (x : Ctx) (f : Frame) : Prop where
  active : s.active = some c
  ctx : ctxOf s c = x
  frame : x.frame = some f
  guard : guardHolds f.regs m.guard = true
  acting : f.dry = false

/-- Context `x` with its latch `.a` of unit `u` holding the operand moved to a trigger (R78, R162). -/
def latched (x : Ctx) (u : FU) (a : Val) : Ctx := { x with lat := setLatch x.lat u { latchOf x.lat u with a := a } }

/-- Context `x` after a trigger of unit `u`: its latch `.a` holds the operand, and one more result is on its way, due
`ticks` after the tick of the bundle (R118, R162). -/
def started (x : Ctx) (u : FU) (a : Val) (ticks : Nat) (r : Option (Val × Val)) (st : Option D64) (flags : FlagSet := 0)
    (lanes : List (Nat × FlagSet) := []) (engine : Bool := false) : Ctx :=
  { latched x u a with
    infl := x.infl ++ [{ unit := u, seq := x.seq, bundle := x.bundle, due := x.lsc + ticks, r := r, st := st,
                         flags := flags, lanes := lanes, engine := engine }]
    seq := x.seq + 1 }

/-- A class S result with every bit enabled (R52, R175). -/
def full64 (r : D64) : Option (Val × Val) := some (r.setWidth 4096, BitVec.allOnes 4096)

/-- A trigger of `vec` that acts delivers `v` after `ticks` (R118, R175, R176): the value, its enabled bits, the status word of
the flags its lanes raised, and those flags; nothing else changes but the latch `.a`. -/
def Delivers (i : Instr) (s : State) (c : Nat) (x : Ctx) (a : Val) (ticks : Nat) (v : VecOut) : Prop :=
  exec i s = .next (setCtx s c (started x .vec a ticks (some (v.val, v.en)) (some (vecStatus v.lanes)) (lanesFlags v.lanes) v.lanes))

/-- The result `v` of `n` lanes of width `w`, lane by lane: an inhibited lane is disabled, zero and raises nothing; any other
holds `g i` and raises its flags (R174 to R176). -/
def LaneWise (w n : Nat) (inh : BitVec 512) (v : VecOut) (g : Nat → Nat × FlagSet) : Prop :=
  (∀ i, i < n → lane w v.val.toNat i = if inh.getLsbD i then 0 else (g i).1) ∧
  (∀ i, i < n → lane w v.en.toNat i = if inh.getLsbD i then 0 else 2 ^ w - 1) ∧
  (∀ i fl, (i, fl) ∈ v.lanes ↔ i < n ∧ inh.getLsbD i = false ∧ fl = (g i).2 ∧ fl ≠ 0)

/-- Core `k` is about to choose among its contexts, and only its holder `c` may act: the other contexts are halted and owe nothing;
`c` runs `y`, is not to be stopped, has no result due and waits for nothing (R112, R113). -/
structure Alone (s : State) (k c : Nat) (x : Ctx) (y : Kernel) : Prop where
  core : s.args.a = k
  open_ : (coreOf s k).saving = false ∧ (coreOf s k).yielded = false
  holder : (coreOf s k).holder < 4 ∧ c = k * 4 + (coreOf s k).holder
  ctx : ctxOf s c = x
  others : ∀ d, d / 4 = k → d ≠ c →
    (ctxOf s d).status = .halted ∧ (ctxOf s d).going = [] ∧ (ctxOf s d).frame = none ∧ (ctxOf s d).waits = []
  running : x.status = .running ∧ x.frame = none ∧ x.stop = false
  ticks : x.idle = 0 ∧ (∀ e ∈ x.infl, x.lsc < e.due) ∧ ∀ e ∈ x.aticks, x.lsc < e.tick
  clear : x.waits = [] ∧ x.going = [] ∧ x.held = []
  code : kernelOf s c = some y ∧ x.foreign = false
  served : ∀ n ∈ (coreOf s k).kernels, n.demand = []

/-- Context `x` at a bundle of words `ws`, none of whose reads waits, with no write of a weight store in progress (R92, R242). -/
structure MayIssue (s : State) (c : Nat) (x : Ctx) (ws : List Word) : Prop where
  reads : pendingRead x (actingSlots x.regs ws) = false ∧ deadlock x (actingSlots x.regs ws) = none
  store : writeInProgress s c = false

/-- Everything of the state but its contexts is the same, and so is every context but `c`. -/
def OnlyCtx (s t : State) (c : Nat) : Prop := t = { s with ctxs := t.ctxs } ∧ ∀ d, d ≠ c → ctxOf t d = ctxOf s d

end Sys2Proof.Machine
end

