-- ==== Sys2Proof/Certificates/Slice0/Obligations.lean ====
section
/-! DEFINITION. The statements for the provers. `Acts`, `started` and the other words they are written with stand in
Safety.lean; a table of rows beside a statement says, row by row, what the spec gives each instruction that it names. -/

open Sys2Proof Sys2Proof.Machine

/-! ## Moves, span actions and branches (R50, R79 to R88, R94, R126 to R135) -/

/-- What a plain move makes of a register face under the policy `dwp`: the hidden face takes the value, the register is
written and of class CORE; where an asynchronous write has reached it, TRAP marks a conflict and ASYNC_WINS discards the value
(R80, R86). -/
def faceMoved {w : Nat} (dwp : D64) (v : BitVec w) (r : Face w) : Face w :=
  if r.asyn ∧ dwp = 2 then { r with wr := true, core := true }
  else { r with hid := v, wr := true, core := true, conf := r.conf || (r.asyn && dwp == 0) }

/-- R50, R52, R53, R78 to R81, R86: a plain move that acts writes the value its source carries, cut to the width of its
destination, into the hidden face of a `g`, `k`, `p`, `v` or `m` register, or into an operand latch. A move to `g0` changes
nothing. Visible faces, every other register and everything else stay as they are. -/
def moveResults : Prop :=
  ∀ (m : Mv) (s : State) (c : Nat) (x : Ctx) (f : Frame), Acts s m c x f →
    let v := sourceVal f m.src f.cur
    let put := fun (r : RegFile) => Host.Outcome.next (setCtx s c { x with regs := r })
    exec (.move m 0) s = put x.regs ∧
    (∀ n (h : n < 64), 0 < n → exec (.move m (BitVec.ofNat 12 n)) s =
      put { x.regs with g := x.regs.g.set n (faceMoved x.sys.dwp (v.1.setWidth 64) x.regs.g[n]) }) ∧
    (∀ n (h : n < 32), exec (.move m (BitVec.ofNat 12 (0x40 + n))) s =
      put { x.regs with k := x.regs.k.set n (faceMoved x.sys.dwp (v.1.setWidth 64) x.regs.k[n]) }) ∧
    (∀ n (h : n < 8), 0 < n → exec (.move m (BitVec.ofNat 12 (0x60 + n))) s =
      put { x.regs with p := x.regs.p.set n (faceMoved x.sys.dwp (v.1.setWidth 1) x.regs.p[n]) }) ∧
    (∀ n (h : n < 32), exec (.move m (BitVec.ofNat 12 (0x80 + n))) s =
      let old := if x.regs.v[n].wr then x.regs.v[n].hid else x.regs.v[n].vis
      put { x.regs with v := x.regs.v.set n (faceMoved x.sys.dwp ((old &&& ~~~v.2) ||| (v.1 &&& v.2)) x.regs.v[n]) }) ∧
    (∀ n (h : n < 8), exec (.move m (BitVec.ofNat 12 (0xA0 + n))) s =
      put { x.regs with m := x.regs.m.set n (faceMoved x.sys.dwp (v.1.setWidth 512) x.regs.m[n]) }) ∧
    (∀ (d : BitVec 12) (u : FU) (o : Nat), unitOf d = some (u, o) → o < 3 → exec (.move m d) s =
      let w := if portWide u o then v.1 else (v.1.setWidth 64).setWidth 4096
      let l := latchOf x.lat u
      let l' := if o = 0 then { l with a := w } else if o = 1 then { l with b := w } else { l with c := w }
      .next (setCtx s c { x with lat := setLatch x.lat u l' }))

/-- R48, R50, R53, R79, R118, R128: what the source of a move carries: a register its visible face, as it was at the issue of the
bundle, where no asynchronous value waits to be promoted; `g0` zero; a result or status port of a unit what the port holds at
the issue of the bundle, a status word zero-extended; a short immediate its twelve bits sign-extended; a long
immediate the words that follow its slot, in the form that its MODE names; `br.r` and `br.st` what the loop stack gave at
issue. -/
def moveSources : Prop :=
  (∀ (f : Frame) (k : Nat), (sourceVal f 0 k).1 = 0) ∧
  (∀ (f : Frame) (k n : Nat) (h : n < 64), 0 < n → f.regs.g[n].land = false →
    (sourceVal f (BitVec.ofNat 14 n) k).1 = f.regs.g[n].vis.setWidth 4096) ∧
  (∀ (f : Frame) (k n : Nat) (h : n < 32), f.regs.k[n].land = false →
    (sourceVal f (BitVec.ofNat 14 (0x40 + n)) k).1 = f.regs.k[n].vis.setWidth 4096) ∧
  (∀ (f : Frame) (k n : Nat) (h : n < 8), 0 < n → f.regs.p[n].land = false →
    (sourceVal f (BitVec.ofNat 14 (0x60 + n)) k).1 = f.regs.p[n].vis.setWidth 4096) ∧
  (∀ (f : Frame) (k n : Nat) (h : n < 32), f.regs.v[n].land = false →
    (sourceVal f (BitVec.ofNat 14 (0x80 + n)) k).1 = f.regs.v[n].vis) ∧
  (∀ (f : Frame) (k n : Nat) (h : n < 8), f.regs.m[n].land = false →
    (sourceVal f (BitVec.ofNat 14 (0xA0 + n)) k).1 = f.regs.m[n].vis.setWidth 4096) ∧
  (∀ (f : Frame) (k : Nat) (d : BitVec 12) (u : FU), u ≠ .br →
    (unitOf d = some (u, 3) → (sourceVal f (0#2 ++ d) k).1 = (latchOf f.lat u).r) ∧
    (unitOf d = some (u, 4) → (sourceVal f (0#2 ++ d) k).1 = (latchOf f.lat u).st.setWidth 4096)) ∧
  (∀ (f : Frame) (k : Nat) (i : BitVec 12), (sourceVal f (1#2 ++ i) k).1 = (i.signExtend 64).setWidth 4096) ∧
  (∀ (f : Frame) (k : Nat),
    let w1 := f.slots.getD (k + 1) 0; let w2 := f.slots.getD (k + 2) 0
    (sourceVal f 0x2000 k).1 = (w1.signExtend 64).setWidth 4096 ∧
    (sourceVal f 0x2001 k).1 = w1.setWidth 4096 ∧
    (sourceVal f 0x2002 k).1 = (w2 ++ w1).setWidth 4096 ∧
    (sourceVal f 0x2003 k).1 = (w1 ++ 0#32).setWidth 4096) ∧
  (∀ (f : Frame) (k : Nat), (sourceVal f 0x203 k).1 = f.brR.setWidth 4096 ∧ (sourceVal f 0x204 k).1 = f.brSt.setWidth 4096)

/-- What a flip makes of a register: a written one exchanges its faces and is written no more; a value that had landed for a
pending register is taken (R83). -/
def faceFlipped {w : Nat} (r : Face w) : Face w :=
  if r.wr then { vis := r.hid, hid := r.vis, conf := r.conf, pend := r.pend && !r.land, land := r.land && !r.pend } else r

/-- Every register of a file flipped. -/
def fileFlipped (r : RegFile) : RegFile :=
  { g := r.g.map faceFlipped, k := r.k.map faceFlipped, p := r.p.map faceFlipped, v := r.v.map faceFlipped
    m := r.m.map faceFlipped }

/-- The waits of a flip are over: no span-bound write of the span is out and, for the W forms, no pending register of the
files has yet to be landed on; no register is conflicted (R82, R83). -/
def FlipReady (s : State) (c : Nat) (code : SpanCode) : Prop :=
  spanReady s c code = true ∧ (ctxOf s c).regs.conflict = none

/-- R82, R83, R88, R94: with its waits over and no conflict, FLIP and FLIP.W exchange the faces of every written register of
the context and change nothing else; FLIP.C and FLIP.CW do the same and, with checkpoint mode on, then take a checkpoint;
CKPT takes a checkpoint and flips nothing; with checkpoint mode off the checkpoint forms take none. With a wait left, the
bundle goes on waiting: the action stays its next part. A flip whose waits are over and that finds a conflicted register flips
nothing and takes DOUBLE_WRITE with that register's socket: with checkpoint mode on at the bundle's position, after a rollback;
with it off at the position where the bundle goes on, once the bundle is settled, with the span action still to be done. That the other
parts that the bundle has left (TDONE, WAITC, RNDCMT, TRET) are dropped then, and that a CKMODE write of the bundle acts behind the trap
with checkpoint mode off and is given up with it on, are the model's readings (DEDUCED, log entry 20). -/
def Obligations.SpanActions : Prop :=
  ∀ (h : Hd) (e : BitVec 1) (s : State) (c : Nat) (x : Ctx) (f : Frame), current s = some (c, x, f) →
    let flipped := setCtx s c { x with regs := fileFlipped x.regs }
    let marked := fun (t : State) => if ckOn x then checkpoint t c else t
    (FlipReady s c .flip → exec (.flip h e) s = .next flipped) ∧
    (FlipReady s c .flipW → exec (.flipW h e) s = .next flipped) ∧
    (FlipReady s c .flipC → exec (.flipC h e) s = .next (marked flipped)) ∧
    (FlipReady s c .flipCw → exec (.flipCw h e) s = .next (marked flipped)) ∧
    (spanReady s c .ckpt = true → exec (.ckpt h e) s = .next (marked s)) ∧
    (∀ p ∈ [(Instr.flip h e, SpanCode.flip), (.flipW h e, .flipW), (.flipC h e, .flipC), (.flipCw h e, .flipCw),
        (.ckpt h e, .ckpt)], spanReady s c p.2 = false →
      exec p.1 s = .next { setCtx s c { x with frame := some { f with todo := .span :: f.todo } } with active := none }) ∧
    (∀ d, x.regs.conflict = some d →
      let t : TrapInfo := { code := .doubleWrite, sock := d.toNat }
      let u := settleBundle s c true
      ∀ p ∈ [(Instr.flip h e, SpanCode.flip), (.flipW h e, .flipW), (.flipC h e, .flipC), (.flipCw h e, .flipCw)],
        spanReady s c p.2 = true →
        let v := enterTrap u c t (ctxOf u c).pc p.2 (haltHeld f) (some f.pos)
        (ckOn x = true → exec p.1 s = .next (enterTrap s c t f.pos)) ∧
        (ckOn x = false → ckmodeLeft f = none → exec p.1 s = .next v) ∧
        (∀ on, ckOn x = false → ckmodeLeft f = some on →
          exec p.1 s = .next (modCtx v c fun y => { y with sys := { y.sys with ckmode := if on then 1 else 0 } })))

/-- R94, R96, R97, R239: what a checkpoint records where nothing is withheld and nothing waits to be issued: the registers,
the latches, the results in flight, the stacks and FLG, and the restart position and tick after the bundle; the context's
ASWAPs, those included that it has triggered and that have not performed; every accumulator bank of the context becomes CLEAN
and RPC holds the position. That ASWAPs triggered and not performed count is the model's reading (log entry 58). -/
def checkpointRecords : Prop :=
  ∀ (s : State) (c : Nat) (x : Ctx) (f : Frame), current s = some (c, x, f) → x.held = [] → x.going = [] →
    let y := ctxOf (checkpoint s c) c
    let pos := (goesOn x f).2
    let owed := fun (n : Nat) => ((coreOf s (ctxCore c)).aq.filter fun o =>
      o.ctx == c && o.kind == .aswap && o.acc == n && !o.discard).length
    y.shadow = some { regs := x.regs, lat := x.lat, desc := x.desc, dcv := x.dcv, infl := x.infl
                      swaps := Vector.ofFn fun (n : Fin 4) => (x.swaps[n.val]?.getD 0) + owed n.val
                      link := x.link, loops := (goesOn x f).1, flg := x.sys.flg, aticks := x.aticks, gemm := x.gemm
                      pos := pos, tick := x.lsc + 1 + (hdrIdle f.header).toNat, seq := x.seq } ∧
    y.sys.rpc = pos ∧ y.banks = Vector.replicate 8 .clean ∧ y.landed = [] ∧ y.regs = x.regs ∧ y.lat = x.lat ∧
    (checkpoint s c).mem = s.mem ∧ (checkpoint s c).host = s.host ∧ (checkpoint s c).semOps = s.semOps

/-- R70: the SEG mark starts the load of the next segment into a frame that is not pinned, unless the bundle is residual code,
there is no next segment, or it is resident; it changes nothing then, nor while another load of the kernel is in progress or no
frame can be taken. -/
def segmentRequest : Prop :=
  ∀ (h : Hd) (p : BitVec 4) (s : State) (c : Nat) (x : Ctx) (f : Frame) (k : Kernel),
    current s = some (c, x, f) → kernelOf s c = some k →
    ((residualAt k f.pos).isSome → exec (.seg h p) s = .next s) ∧
    ∀ g, residualAt k f.pos = none → segOf k f.pos = some g →
    (g + 1 < k.segs.length → frameOf k (g + 1) = none → loadingSeg k = none → ∀ i, chooseFrame s (ctxCore c) k = some i →
      exec (.seg h p) s = .next (modKernel s (ctxCore c) k.launch k.kslot fun y =>
        { y with frames := y.frames.modify i fun r => { r with
          seg := none, words := [], loading := some (g + 1), used := 0, gen := (spaceOf s (kernelAsid s k)).gen } })) ∧
    (k.segs.length ≤ g + 1 ∨ (frameOf k (g + 1)).isSome ∨ (loadingSeg k).isSome ∨ chooseFrame s (ctxCore c) k = none →
      exec (.seg h p) s = .next s)

/-- The context after a trigger of `br` that sets the position at which it goes on. -/
def goesTo (x : Ctx) (f : Frame) (pos : Nat) : Ctx := { x with frame := some { f with next := pos, brSet := true } }

/-- R126, R127, R129, R130: JMP, CALL, RET, LOOP and BREAKL that act set the position at which the context goes on and change
its stacks as R127 says; HALT puts the end of the context behind the bundle's span action, with its exit value; YIELD changes
only the selector of its core. -/
def branchResults : Prop :=
  ∀ (m : Mv) (s : State) (c : Nat) (x : Ctx) (f : Frame), Acts s m c x f →
    let o := opndsAt x f m .br
    let y := latched x .br o.a
    let a := o.a64.toNat
    let ex := o.b64.toNat
    (a < 2 ^ 20 → exec (.brJmp m) s = .next (setCtx s c (goesTo y f a))) ∧
    (a < 2 ^ 20 → x.link.length < 32 →
      exec (.brCall m) s = .next (setCtx s c (goesTo { y with link := f.next :: x.link } f a))) ∧
    (∀ p ps, x.link = p :: ps → exec (.brRet m) s =
      .next (setCtx s c (goesTo { y with link := ps, loops := x.loops.filter fun l => decide (l.depth ≤ ps.length) } f p))) ∧
    (a < 2 ^ 32 → ex < 2 ^ 20 → f.next < ex → a = 0 → exec (.brLoop m) s = .next (setCtx s c (goesTo y f ex))) ∧
    (a < 2 ^ 32 → ex < 2 ^ 20 → f.next < ex → a ≠ 0 → x.loops.length < 4 → exec (.brLoop m) s =
      .next (setCtx s c { y with loops := { start := f.next, exit := ex, left := a, iter := 0, depth := x.link.length } :: x.loops })) ∧
    (∀ l ls, x.loops = l :: ls → exec (.brBreakl m) s = .next (setCtx s c (goesTo { y with loops := ls } f l.exit))) ∧
    exec (.brHalt m) s =
      .next (setCtx s c { y with frame := some { f with exit := o.a64, todo := f.todo ++ [.endTask .halt] } }) ∧
    exec (.brYield m) s = .next (modCore (setCtx s c y) (ctxCore c) fun k => { k with yielded := true })

/-- R126, R127, R163: where a branch operation traps BOUNDS, precisely: a position of more than 20 bits, a full or empty link
stack, a trip count or exit position out of range, an exit position that is not ahead, a full or empty loop stack. -/
def branchTraps : Prop :=
  ∀ (m : Mv) (s : State) (c : Nat) (x : Ctx) (f : Frame), Acts s m c x f →
    let o := opndsAt x f m .br
    let trap := fun (k : Nat) => Host.Outcome.next (preciseTrap s c { code := .bounds, sock := k, slot := f.cur })
    (2 ^ 20 ≤ o.a64.toNat → exec (.brJmp m) s = trap 0x208) ∧
    (2 ^ 20 ≤ o.a64.toNat ∨ 32 ≤ x.link.length → exec (.brCall m) s = trap 0x209) ∧
    (x.link = [] → exec (.brRet m) s = trap 0x20A) ∧
    (2 ^ 32 ≤ o.a64.toNat ∨ 2 ^ 20 ≤ o.b64.toNat ∨ o.b64.toNat ≤ f.next ∨ (o.a64 ≠ 0 ∧ 4 ≤ x.loops.length) →
      exec (.brLoop m) s = trap 0x20B) ∧
    (x.loops = [] → exec (.brBreakl m) s = trap 0x20C)

/-- A loop whose body ends where the context goes on behind its bundle, at the depth at which it was opened (R127). -/
def LoopCloses (e : LoopEnt) (x : Ctx) (f : Frame) : Prop := e.depth = x.link.length ∧ f.next = e.exit

/-- R116, R127: a bundle whose parts are done ends: its context goes on at the position a branch set, else at the position
that the loop check gives the fall-through: the innermost loops that close there with no iteration left go, several in one check
where they share an exit; the next one that closes there starts its next iteration; where none does, the context falls through. The
tick of the bundle has passed and its idle ticks are owed. -/
def Obligations.BundleEnds : Prop :=
  ∀ (s : State) (c : Nat) (x : Ctx) (f : Frame), current s = some (c, x, f) → f.todo = [] →
    ∃ t, step s = .next t ∧ t.active = none ∧ t.mem = s.mem ∧ t.cores = s.cores ∧
      (∀ d, d ≠ c → ctxOf t d = ctxOf s d) ∧
      let y := ctxOf t c
      y.frame = none ∧ y.lsc = x.lsc + 1 ∧ y.idle = (hdrIdle f.header).toNat ∧ y.regs = x.regs ∧ y.link = x.link ∧
      (f.brSet = true → y.pc = f.next ∧ y.loops = x.loops) ∧
      (∀ ends rest, f.brSet = false → x.loops = ends ++ rest → (∀ e ∈ ends, LoopCloses e x f ∧ e.left ≤ 1) →
        (rest = [] → y.pc = f.next ∧ y.loops = []) ∧
        (∀ l ls, rest = l :: ls → ¬ LoopCloses l x f → y.pc = f.next ∧ y.loops = l :: ls) ∧
        (∀ l ls, rest = l :: ls → LoopCloses l x f → 1 < l.left →
          y.pc = l.start ∧ y.loops = { l with left := l.left - 1, iter := l.iter + 1 } :: ls))

/-- Moves: what a move takes from its source, and what it makes of its destination. -/
def Obligations.Moves : Prop := moveSources ∧ moveResults

/-- Branch operations: their results, and where they trap. -/
def Obligations.Branches : Prop := branchResults ∧ branchTraps
/-! ## System unit (R105, R131 to R135, R390 to R399) -/

/-- R105, R106, R134: RDSR of a listed register delivers its value after 2 ticks and no status word; of any other number it
traps ILLEGAL_SOCKET. WSCAL is read at the die's cycle as the read finds it, which is the model's free choice within the
calendar slot (R245, log entry 15). -/
def readSystemRegister : Prop :=
  ∀ (m : Mv) (s : State) (c : Nat) (x : Ctx) (f : Frame), Acts s m c x f →
    let o := opndsAt x f m .sys
    let n := o.a64.toNat
    (n ≤ 0xE → n ≠ 0xC → exec (.sysRdsr m) s =
      .next (setCtx s c (started x .sys o.a 2 (full64 (readSys s c n)) none))) ∧
    (n = 0xC → let t := dieNow s (ctxDie c)
      exec (.sysRdsr m) s = .next (setCtx t c (started x .sys o.a 2 (full64 (readSys t c n)) none))) ∧
    (0xE < n → exec (.sysRdsr m) s = .next (preciseTrap s c { code := .illegalSocket, sock := 0x24A, slot := f.cur }))

/-- R74, R105, R109, R110, R122, R245, R397, R429: the value of each register of R105 that RDSR delivers: LSC, FLG, DWP, CKMODE,
FEAT, TRAPSTAT, TRAPPC, TRAPOPC and TRAPITER as the context holds them; LATTAB, TCKPT, WSCAL, CODEUSE, CAPCAUSE and SPST field by
field, as their tables lay them out. With checkpoint mode off TCKPT holds ROLLS, IMPL and WSEL alone. -/
def systemRegisterValues : Prop :=
  ∀ (s : State) (c : Nat),
    let y := (ctxOf s c).sys
    readSys s c 0x0 = BitVec.ofNat 64 (ctxOf s c).lsc ∧ readSys s c 0x1 = y.flg ∧ readSys s c 0x2 = y.dwp ∧
    readSys s c 0x3 = y.ckmode ∧ readSys s c 0x5 = BitVec.ofNat 64 s.feat ∧ readSys s c 0x7 = y.trapstat ∧
    readSys s c 0x8 = y.trappc ∧ readSys s c 0x9 = y.trapopc ∧ readSys s c 0xA = y.trapiter ∧
    readSys s c 0x4 = BitVec.ofNat 64 ((if y.retimed then 0x10 else 0) + (if y.scb then 8 else 0) + (if s.stepB then 2 else 0) +
      if y.ltb then 1 else 0) ∧
    (let x := ctxOf s c
     let k := coreOf s (ctxCore c)
     let banks := x.banks.toList
     let wsel := ((List.range 4).map fun n => if (k.accs[n]?.getD {}).work1 then 2 ^ (16 + n) else 0).sum
     let accst := ((List.range 8).map fun i => 4 ^ i * match banks.getD i .clean with
       | .clean => 0 | .read => 1 | .fresh => 2 | .lost => 3).sum
     let base := y.rolls * 2 ^ 32 + y.impl * 2 ^ 24 + wsel
     (y.ckmode ≠ 1 → readSys s c 0xB = BitVec.ofNat 64 base) ∧
     (y.ckmode = 1 → readSys s c 0xB =
       BitVec.ofNat 64 (y.rpc * 2 ^ 44 + (if BankState.lost ∈ banks then 2 ^ 43 else 0) + base + accst))) ∧
    (let d := ctxDie c
     let t := (dieOf s d).cycle
     let slot := t % 32768 / 512
     readSys s c 0xC = BitVec.ofNat 64 (16 * d * 2 ^ 32 + (slot + 16 * d) % 64 * 2 ^ 15 + t % 32768)) ∧
    (∀ k, kernelOf s c = some k → residualAt k (ctxOf s c).pc = none →
      let r := coreOf s (ctxCore c)
      readSys s c 0xD = BitVec.ofNat 64 ((segOf k (ctxOf s c).pc).getD 0 % 64 * 2 ^ 32 + r.frames * 2 ^ 24 + k.chunks.length * 2 ^ 16 +
        r.chunks.length)) ∧
    (let p := ctxPart s c
     let v := readSys s c 0x6
     v.extractLsb' 16 4 = BitVec.ofNat 4 s.power.level ∧ v.extractLsb' 8 5 = (Tab.get {} s.parts p : Partition).sticky ∧
     v.extractLsb' 0 5 = BitVec.ofNat 5 (capCurrent s p)) ∧
    (let x := ctxOf s c
     let stores := x.held.filter fun w => match w with | .store _ => true | _ => false
     let cmds := x.held.filter fun w => match w with | .store _ => false | _ => true
     let out := x.async.filter fun a => !a.drop
     readSys s c 0xE = BitVec.ofNat 64 (stores.length * 2 ^ 24 + cmds.length * 2 ^ 16 + (out.filter fun a => a.sb).length * 2 ^ 8 +
       (out.filter fun a => !a.sb).length))

/-- R87, R93, R105, R106, R134: WRSR of FLG, TRAPSTAT and TRAPPC writes the register; of DWP it takes effect with the next
bundle; of CKMODE it turns checkpoint mode on or off at the end of the bundle, and does nothing where it is so already; of
CAPCAUSE it clears the sticky bits named. A number that is not listed traps ILLEGAL_SOCKET, a read-only register PRIVILEGE, a
reserved bit or encoding BOUNDS, in this order, and leaves everything to the trap. -/
def writeSystemRegister : Prop :=
  ∀ (m : Mv) (s : State) (c : Nat) (x : Ctx) (f : Frame), Acts s m c x f →
    let o := opndsAt x f m .sys
    let n := o.a64.toNat
    let b := o.b64
    let y := latched x .sys o.a
    let trap := fun (t : Trap) => Host.Outcome.next (preciseTrap s c { code := t, sock := 0x24B, slot := f.cur })
    (n = 1 → b &&& ~~~0x3F3F#64 = 0 → exec (.sysWrsr m) s = .next (setCtx s c { y with sys := { x.sys with flg := b } })) ∧
    (n = 2 → b.toNat ≤ 2 → exec (.sysWrsr m) s = .next (setCtx s c { y with frame := some { f with dwp := some b } })) ∧
    (n = 3 → b.toNat ≤ 1 → x.sys.ckmode = b → exec (.sysWrsr m) s = .next (setCtx s c y)) ∧
    (n = 3 → b.toNat ≤ 1 → x.sys.ckmode ≠ b →
      let e : Event := { what := if b = 1 then .ckmodeEnable else .ckmodeDisable, args := { a := c } }
      exec (.sysWrsr m) s = .next (setCtx s c { y with frame := some { f with todo := insertTodo (.event e) f.todo } })) ∧
    (n = 6 → b &&& ~~~0xF1F1F#64 = 0 →
      let e : Event := { what := .capcauseW1c, args := { a := ctxPart s c, b := b.toNat } }
      exec (.sysWrsr m) s = .next (setCtx s c { y with frame := some { f with todo := .event e :: f.todo } })) ∧
    (n = 7 → b &&& ~~~trapstatMask = 0 → (b.extractLsb' 0 5).toNat < 0x16 →
      exec (.sysWrsr m) s = .next (setCtx s c { y with sys := { x.sys with trapstat := b } })) ∧
    (n = 8 → b.toNat < 2 ^ 20 → exec (.sysWrsr m) s = .next (setCtx s c { y with sys := { x.sys with trappc := b } })) ∧
    (0xE < n → exec (.sysWrsr m) s = trap .illegalSocket) ∧
    (n = 0 ∨ n = 4 ∨ n = 5 ∨ (9 ≤ n ∧ n ≤ 0xE) → exec (.sysWrsr m) s = trap .privilege) ∧
    ((n = 1 ∧ b &&& ~~~0x3F3F#64 ≠ 0) ∨ (n = 2 ∧ 2 < b.toNat) ∨ (n = 3 ∧ 1 < b.toNat) ∨ (n = 6 ∧ b &&& ~~~0xF1F1F#64 ≠ 0) ∨
      (n = 7 ∧ (b &&& ~~~trapstatMask ≠ 0 ∨ 0x16 ≤ (b.extractLsb' 0 5).toNat)) ∨ (n = 8 ∧ 2 ^ 20 ≤ b.toNat) →
      exec (.sysWrsr m) s = trap .bounds)

/-- R135: FENCE with its reserved bits clear makes the context wait, before its next bundle, for its earlier scratchpad stores
(bit 0) and for its earlier asynchronous writes (bit 1), and does nothing else; a reserved bit traps BOUNDS. -/
def fenceWaits : Prop :=
  ∀ (m : Mv) (s : State) (c : Nat) (x : Ctx) (f : Frame), Acts s m c x f →
    let o := opndsAt x f m .sys
    let y := latched x .sys o.a
    (o.a64 = 0 → exec (.sysFence m) s = .next (setCtx s c { y with waits := x.waits })) ∧
    (o.a64 = 1 → exec (.sysFence m) s = .next (setCtx s c { y with waits := x.waits ++ [.storesTo x.seq] })) ∧
    (o.a64 = 2 → exec (.sysFence m) s = .next (setCtx s c { y with waits := x.waits ++ [.asyncTo s.count] })) ∧
    (o.a64 = 3 → exec (.sysFence m) s = .next (setCtx s c { y with waits := x.waits ++ [.storesTo x.seq, .asyncTo s.count] })) ∧
    (4 ≤ o.a64.toNat → exec (.sysFence m) s = .next (preciseTrap s c { code := .bounds, sock := 0x24C, slot := f.cur }))

/-- R94, R102, R103, R133, R392 to R394, R397: taking a trap with checkpoint mode off, where the launch has a handler for its
code, and the trap is none that its own bundle raises behind itself: the context enters handler state at the handler's position,
with no register written, its latches zero, no result in
flight, both stacks empty and no idle tick; TRAPPC holds the position in its 20 bits, TRAPSTAT the record of the trap; what it had is set
aside. Memory is unchanged, and so is every other context. -/
def trapEntered : Prop :=
  ∀ (s : State) (c : Nat) (t : TrapInfo) (pc pos : Nat),
    let x := ctxOf s c
    x.handler = false → x.sys.ckmode = 0 → t.code ≠ .softError → t.code ≠ .matrixFault → t.code ≠ .doubleWrite →
    t.code.after = false → handlerOf s c t.code = some pos →
    let u := enterTrap s c t pc
    let y := ctxOf u c
    y.handler = true ∧ y.pc = pos ∧ y.frame = none ∧ y.regs = x.regs.clearSpan ∧ y.lat = Vector.replicate 14 {} ∧
    y.infl = [] ∧ y.link = [] ∧ y.loops = [] ∧ y.idle = 0 ∧ y.waits = [] ∧
    y.sys = { x.sys with trapstat := statusWord t false false false false, trappc := BitVec.ofNat 64 (pc % 2 ^ 20)
                         trapopc := BitVec.ofNat 64 ((originalOf s c pc).1 % 2 ^ 20), trapiter := (originalOf s c pc).2 } ∧
    (∃ a, y.aside = some a ∧ a.regs = x.regs ∧ a.lat = x.lat ∧ a.infl = x.infl ∧ a.link = x.link ∧ a.loops = x.loops ∧
      a.idle = x.idle ∧ a.tick = x.lsc) ∧
    u.mem = s.mem ∧ u.host = s.host ∧ (∀ d, d ≠ c → ctxOf u d = ctxOf s d)

/-- R58, R163: a trap at a trigger is precise: what the bundle did so far is undone before the trap is taken, so the registers,
latches and results in flight that the handler sets aside are those before the bundle, and TRAPPC is its position. -/
def trapIsPrecise : Prop :=
  ∀ (s : State) (c : Nat) (f : Frame) (t : TrapInfo) (pos : Nat),
    let x := ctxOf s c
    x.frame = some f → x.handler = false → x.sys.ckmode = 0 → t.code ≠ .softError → t.code ≠ .matrixFault →
    t.code ≠ .doubleWrite → handlerOf s c t.code = some pos →
    let y := ctxOf (preciseTrap s c t) c
    y.handler = true ∧ y.pc = pos ∧ y.sys.trappc = BitVec.ofNat 64 (f.pos % 2 ^ 20) ∧
    ∃ a, y.aside = some a ∧ a.regs = f.regs ∧ a.lat = f.lat ∧ a.infl = x.infl.filter fun e => e.bundle != x.bundle

/-- R399: a trap raised in handler state escalates: no handler is entered, the launch records the first escalation with its
context, status word and positions, and a later one changes nothing of that record. -/
def escalationRecorded : Prop :=
  ∀ (s : State) (c l : Nat) (y : Launch) (t : TrapInfo) (pc : Nat),
    let x := ctxOf s c
    x.handler = true → x.launch = some l → launchOf s l = some y → fdomOf s (ctxRegion s c) = 0 →
    let u := enterTrap s c t pc
    (ctxOf u c).frame = some (endFrame x 0xFFFFFFFF#64) ∧
    ∃ z, launchOf u l = some z ∧ z.tlist = true ∧
      (y.tlist = true → z.info = y.info) ∧
      (y.tlist = false → z.info = [BitVec.ofNat 64 (2 ^ 63 + c),
        statusWord t false false (decide (t.code = .softError ∨ t.code = .matrixFault)) false, BitVec.ofNat 64 (pc % 2 ^ 20),
        BitVec.ofNat 64 ((originalOf s c pc).1 % 2 ^ 20), (originalOf s c pc).2])

/-- R100: a rollback brings back what the checkpoint recorded: registers (with the landings since), latches, results in
flight, stacks, FLG, position and tick; everything withheld is dropped and ROLLS counts up to 255. DWP is no part of it and holds what
was written last (R87, R94), by the bundle that rolls back too. -/
def rollbackRestores : Prop :=
  ∀ (s : State) (c : Nat) (h : Shadow), (ctxOf s c).shadow = some h →
    let x := ctxOf s c
    let y := ctxOf (rollback s c) c
    let dwp := match x.frame with | some f => f.dwp.getD x.sys.dwp | none => x.sys.dwp
    y.sys.dwp = dwp ∧ y.regs = x.landed.foldl (reland dwp) h.regs ∧ y.lat = h.lat ∧ y.infl = h.infl ∧ y.link = h.link ∧ y.loops = h.loops ∧
    y.sys.flg = h.flg ∧ y.sys.rolls = (if x.sys.rolls < 255 then x.sys.rolls + 1 else 255) ∧
    y.pc = h.pos ∧ y.lsc = h.tick ∧ y.idle = 0 ∧ y.held = [] ∧ y.frame = none ∧ y.desc = h.desc ∧ y.dcv = h.dcv

/-- R99, R132, R133, R394: a TRAP that may stand in its bundle, which with checkpoint mode on takes a checkpoint, takes SOFTWARE behind that
bundle: the bundle is settled first, so TRAPPC is the position after it, bits 15:0 of the operand are its argument, and a HALT of the
bundle is held in TRAPSTAT. TRET outside handler state takes TRET_OUTSIDE, likewise, but for a HALT that a rollback undoes. In handler state
with a reserved bit of TRAPSTAT set TRET takes BAD_STATUS at its own bundle; with a valid TRAPSTAT the return is what remains of the
bundle, unless the bundle holds a HALT, which ends the context: that is what remains then. That a valid TRET beside HALT has no effect is
the model's reading (DEDUCED, log entry 18), and so is that SOFTWARE with checkpoint mode on takes its bundle's effect and then rolls
back like every trap (DEDUCED, log entry 19). -/
def softwareTrapAndReturn : Prop :=
  ∀ (m : Mv) (s : State) (c : Nat) (x : Ctx) (f : Frame), Acts s m c x f →
    let o := opndsAt x f m .sys
    let u := setCtx s c (latched x .sys o.a)
    let t := settleBundle u c false
    ((ckOn x = true → 3 ≤ (hdrSpan f.header).toNat) → exec (.sysTrap m) s =
      .next (enterTrap t c { code := .software, sock := 0x248, slot := f.cur, arg := (o.a64.extractLsb' 0 16).toNat }
        (ctxOf t c).pc .none (haltHeld f) (some f.pos))) ∧
    (x.handler = false → exec (.sysTret m) s =
      .next (enterTrap t c { code := .tretOutside, sock := 0x249, slot := f.cur } (ctxOf t c).pc .none
        (if ckOn x = true ∧ f.ck = false then none else haltHeld f) (some f.pos))) ∧
    (x.handler = true → x.sys.trapstat &&& ~~~trapstatMask ≠ 0 → exec (.sysTret m) s =
      .next (enterTrap u c { code := .badStatus, sock := 0x249, slot := f.cur } f.pos)) ∧
    (x.handler = true → x.sys.trapstat &&& ~~~trapstatMask = 0 → (haltHeld f).isSome = true → exec (.sysTret m) s = .next u) ∧
    (x.handler = true → x.sys.trapstat &&& ~~~trapstatMask = 0 → haltHeld f = none → exec (.sysTret m) s =
      .next (setCtx s c { latched x .sys o.a with frame := some { f with todo := [.tret .start] } }))

/-- R103, R133, R396: the return itself: with the handler's writes landed and no conflict, and no span action or HALT left over,
three steps of the module later the context goes on at TRAPPC out of handler state, with the span state that was set aside and
the visible faces as the handler left them after its flip. -/
def returnRestores : Prop :=
  ∀ (s : State) (c : Nat) (x : Ctx) (f : Frame) (a : Aside), current s = some (c, x, f) → f.todo = [.tret .start] →
    x.aside = some a → x.async = [] → x.regs.conflict = none → x.sys.trapstat.getLsbD 30 = false →
    x.sys.trapstat.getLsbD 26 = false → x.sys.ckmode = 0 →
    ∃ t u v, step s = .next t ∧ step t = .next u ∧ step u = .next v ∧ v.active = none ∧ v.mem = s.mem ∧
      let y := ctxOf v c
      y.handler = false ∧ y.frame = none ∧ y.aside = none ∧ y.pc = (x.sys.trappc.extractLsb' 0 20).toNat ∧
      y.regs = a.regs.restoreSpan (fileFlipped x.regs) ∧ y.lat = a.lat ∧ y.infl = a.infl ∧ y.link = a.link ∧
      y.loops = a.loops ∧ y.idle = a.idle ∧ y.lsc = a.tick

/-- R93, R98, R395: the ends of a bundle that wrote CKMODE. Turned on, CKMODE reads 1 and a checkpoint is taken; that in handler
state, where R395 suspends checkpoint mode, none is taken at that point is the model's reading (DEDUCED, log entry 21). Turned off,
everything withheld is released, then the shadow set is gone and CKMODE and RPC read 0. -/
def checkpointModeSwitches : Prop :=
  ∀ (s : State) (c : Nat) (x : Ctx) (f : Frame), ctxOf s c = x → x.frame = some f → s.args.a = c →
    let on := setCtx s c { x with sys := { x.sys with ckmode := 1 } }
    let z := ctxOf (releaseAll s c) c
    (x.sys.ckmode = 1 → exec .ckmodeEnable s = .next s) ∧
    (x.sys.ckmode ≠ 1 → x.handler = true → exec .ckmodeEnable s = .next on) ∧
    (x.sys.ckmode ≠ 1 → x.handler = false → exec .ckmodeEnable s = .next (checkpoint on c)) ∧
    exec .ckmodeDisable s = .next (setCtx (releaseAll s c) c
      { z with shadow := none, landed := [], sys := { z.sys with ckmode := 0, rpc := 0 } })

/-- System registers: their reads, their writes, what a write of CKMODE brings at the end of its bundle (in handler state as log
entry 21 has it), and FENCE. -/
def Obligations.SystemRegisters : Prop :=
  readSystemRegister ∧ systemRegisterValues ∧ writeSystemRegister ∧ checkpointModeSwitches ∧ fenceWaits

/-- Taking a trap: the entry, its precision, and the escalation of a trap in handler state. -/
def Obligations.TrapEntry : Prop := trapEntered ∧ trapIsPrecise ∧ escalationRecorded

/-- TRAP, TRET and the return from a handler. -/
def Obligations.SoftwareTraps : Prop := softwareTrapAndReturn ∧ returnRestores

/-- What a checkpoint records and what a rollback brings back. -/
def Obligations.CheckpointAndRollback : Prop := checkpointRecords ∧ rollbackRestores
/-! ## Scalar units (R162 to R172) -/

/-- What an operation of `al0` or `al1` delivers for `a`, `b` and `c`: `.r`, C, V and the flags it raises (R165, R166). -/
structure AluSays where
  r : D64
  c : Bool := false
  v : Bool := false
  flags : FlagSet := 0

/-- An exact signed sum, clamped to 64 bits: V and SAT tell that it clamped (R165, R166). -/
def clampSays (v : Int) : AluSays :=
  if v < -(2 ^ 63) then ⟨BitVec.intMin 64, false, true, fSAT⟩
  else if 2 ^ 63 ≤ v then ⟨BitVec.intMax 64, false, true, fSAT⟩
  else ⟨BitVec.ofInt 64 v, false, false, 0⟩

/-- The exact signed value does not fit in 64 bits. -/
def tooBig (v : Int) : Bool := decide (v < -(2 ^ 63) ∨ 2 ^ 63 ≤ v)

/-- The rows of R165. -/
def aluRows : List ((Mv → BitVec 1 → Instr) × (D64 → D64 → D64 → AluSays)) := [
  (.alAdd, fun a b _ => { r := a + b, c := decide (2 ^ 64 ≤ a.toNat + b.toNat), v := tooBig (a.toInt + b.toInt) }),
  (.alSub, fun a b _ => { r := a - b, c := decide (a.toNat < b.toNat), v := tooBig (a.toInt - b.toInt) }),
  (.alAdds, fun a b _ => clampSays (a.toInt + b.toInt)),
  (.alSubs, fun a b _ => clampSays (a.toInt - b.toInt)),
  (.alAnd, fun a b _ => { r := a &&& b }),
  (.alOr, fun a b _ => { r := a ||| b }),
  (.alXor, fun a b _ => { r := a ^^^ b }),
  (.alAndn, fun a b _ => { r := a &&& ~~~b }),
  (.alShl, fun a b _ =>
    { r := BitVec.ofNat 64 (a.toNat * 2 ^ (b.toNat % 64))
      c := decide (b.toNat % 64 ≠ 0) && a.getLsbD (64 - b.toNat % 64) }),
  (.alShr, fun a b _ =>
    { r := BitVec.ofNat 64 (a.toNat / 2 ^ (b.toNat % 64))
      c := decide (b.toNat % 64 ≠ 0) && a.getLsbD (b.toNat % 64 - 1) }),
  (.alSar, fun a b _ =>
    { r := BitVec.ofInt 64 (a.toInt / 2 ^ (b.toNat % 64))
      c := decide (b.toNat % 64 ≠ 0) && a.getLsbD (b.toNat % 64 - 1) }),
  (.alRor, fun a b _ =>
    { r := (a >>> (b.toNat % 64)) ||| (a <<< (64 - b.toNat % 64)) }),
  (.alMin, fun a b _ => { r := BitVec.ofInt 64 (min a.toInt b.toInt) }),
  (.alMax, fun a b _ => { r := BitVec.ofInt 64 (max a.toInt b.toInt) }),
  (.alMinu, fun a b _ => { r := BitVec.ofNat 64 (min a.toNat b.toNat) }),
  (.alMaxu, fun a b _ => { r := BitVec.ofNat 64 (max a.toNat b.toNat) }),
  (.alCmpeq, fun a b _ => { r := if a = b then 1 else 0 }),
  (.alCmplt, fun a b _ => { r := if a.toInt < b.toInt then 1 else 0 }),
  (.alCmpltu, fun a b _ => { r := if a.toNat < b.toNat then 1 else 0 }),
  (.alSel, fun a b c => { r := if c.getLsbD 0 then a else b }),
  (.alClz, fun a _ _ => { r := BitVec.ofNat 64 (if a = 0 then 64 else 63 - Nat.log2 a.toNat) }),
  (.alPopc, fun a _ _ => { r := BitVec.ofNat 64 (((List.range 64).filter fun i => a.getLsbD i).length) })]

/-- The status word of `al0`, `al1` and `mul`: V, C, and N and Z of the result (R164). -/
def stWord (v c : Bool) (r : D64) : D64 := BitVec.ofNat 64 (8 * v.toNat + 4 * c.toNat + 2 * r.msb.toNat + (r == 0).toNat)

/-- R162, R164 to R166: every operation of `al0` and `al1` that acts delivers after 1 tick, in both latency tables, the result
of its row, with V, C, N and Z as its row says; ADDS and SUBS that clamp raise SAT, no other raises a flag. Nothing else
changes, but the latch `.a` and the results in flight of the context. -/
def Obligations.ScalarAluResults : Prop :=
  ∀ p ∈ aluRows, ∀ (m : Mv) (u : BitVec 1) (s : State) (c : Nat) (x : Ctx) (f : Frame), Acts s m c x f →
    let un := alUnit u
    let o := opndsAt x f m un
    let y := p.2 o.a64 o.b64 o.c64
    exec (p.1 m u) s =
      .next (setCtx s c (started x un o.a 1 (full64 y.r) (some (stWord y.v y.c y.r)) y.flags
        (if y.flags = 0 then [] else [(0, y.flags)])))

/-- The rows of R169: LT-A and LT-B latency, whether the operation divides, its socket, `.r`, C and V. -/
def mulRows : List ((Mv → Instr) × Nat × Nat × Bool × Nat × (D64 → D64 → AluSays)) := [
  (.mulMul, 4, 3, false, 0x188, fun a b =>
    { r := BitVec.ofNat 64 (a.toNat * b.toNat), c := decide (2 ^ 64 ≤ a.toNat * b.toNat), v := tooBig (a.toInt * b.toInt) }),
  (.mulMulhs, 4, 3, false, 0x189, fun a b => { r := BitVec.ofInt 64 (a.toInt * b.toInt / 2 ^ 64) }),
  (.mulMulhu, 4, 3, false, 0x18A, fun a b => { r := BitVec.ofNat 64 (a.toNat * b.toNat / 2 ^ 64) }),
  (.mulDivs, 20, 18, true, 0x18B, fun a b => { r := BitVec.ofInt 64 (Int.tdiv a.toInt b.toInt) }),
  (.mulDivu, 20, 18, true, 0x18C, fun a b => { r := BitVec.ofNat 64 (a.toNat / b.toNat) }),
  (.mulRems, 20, 18, true, 0x18D, fun a b => { r := BitVec.ofInt 64 (Int.tmod a.toInt b.toInt) }),
  (.mulRemu, 20, 18, true, 0x18E, fun a b => { r := BitVec.ofNat 64 (a.toNat % b.toNat) })]

/-- R164, R169, R170: every operation of `mul` that acts delivers its row's result and status after its latency, in LT-B
where the launch declared LT-B; a division by zero traps INT_DIVZERO precisely instead. -/
def multiplyDivideResults : Prop :=
  ∀ p ∈ mulRows, ∀ (m : Mv) (s : State) (c : Nat) (x : Ctx) (f : Frame), Acts s m c x f →
    let o := opndsAt x f m .mul
    let y := p.2.2.2.2.2 o.a64 o.b64
    (p.2.2.2.1 = false ∨ o.b64 ≠ 0 →
      exec (p.1 m) s =
        .next (setCtx s c (started x .mul o.a (if x.sys.ltb then p.2.2.1 else p.2.1) (full64 y.r)
          (some (stWord y.v y.c y.r))))) ∧
    (p.2.2.2.1 = true ∧ o.b64 = 0 →
      exec (p.1 m) s = .next (preciseTrap s c { code := .intDivzero, sock := p.2.2.2.2.1, slot := f.cur }))

/-- R171, R172: AINC, AMOD, AXY and ABND deliver after 2 ticks the exact address reduced modulo 2^64, with W where AINC's or
AXY's exact result is no virtual address and OUT where AMOD's operand lies outside its ring; AMOD with length 0 and ABND
outside its bounds trap BOUNDS precisely. -/
def addressResults : Prop :=
  ∀ (m : Mv) (s : State) (c : Nat) (x : Ctx) (f : Frame), Acts s m c x f →
    let o := opndsAt x f m .agu
    let a : Int := o.a64.toNat
    let w := fun v : Int => if 0 ≤ v ∧ v < 2 ^ 56 then 0#64 else 1#64
    let done := fun (v : Int) (st : D64) => setCtx s c (started x .agu o.a 2 (full64 (BitVec.ofInt 64 v)) (some st))
    (let v := a + o.b64.toInt * 2 ^ (o.c64.toNat % 8); exec (.aguAinc m) s = .next (done v (w v))) ∧
    (let base : Int := (o.c64.toNat % 2 ^ 32 : Nat)
     let len : Int := (o.c64.toNat / 2 ^ 32 : Nat)
     (len ≠ 0 → exec (.aguAmod m) s =
        .next (done (base + (a - base + o.b64.toInt) % len) (if base ≤ a ∧ a < base + len then 0 else 2))) ∧
     (len = 0 → exec (.aguAmod m) s = .next (preciseTrap s c { code := .bounds, sock := 0x1C9, slot := f.cur }))) ∧
    (let v := a + (o.b64.toNat / 2 ^ 32 : Nat) * (o.c64.toNat / 2 ^ 32 : Nat) +
       (o.b64.toNat % 2 ^ 32 : Nat) * (o.c64.toNat % 2 ^ 32 : Nat)
     exec (.aguAxy m) s = .next (done v (w v))) ∧
    (o.b64.toNat ≤ o.a64.toNat ∧ o.a64.toNat < o.c64.toNat → exec (.aguAbnd m) s = .next (done a 0)) ∧
    (o.a64.toNat < o.b64.toNat ∨ o.c64.toNat ≤ o.a64.toNat →
      exec (.aguAbnd m) s = .next (preciseTrap s c { code := .bounds, sock := 0x1CB, slot := f.cur }))

/-- The integer multiplier, the divider and the address unit. -/
def Obligations.MultiplyDivideAndAddress : Prop := multiplyDivideResults ∧ addressResults
/-! ## Scratchpad (R189 to R214) -/

/-- Context `x` after a trigger of a scratchpad unit (R95, R118, R198): `.a` holds the operand; a result with `.st` zero, and
`.r` where the operation delivers a value, is due after `ticks`; the operation waits for its turn, or is withheld. -/
def lsStarted (x : Ctx) (u : BitVec 1) (a : Val) (arrive : Nat) (kind : LsKind) (addr ticks : Nat)
    (value withheld engine : Bool) : Ctx :=
  let y := started x (lsUnit u) a ticks (if value then some (0, BitVec.allOnes 4096) else none) (some 0) 0 [] engine
  let o : LsOp := { seq := x.seq, bundle := x.bundle, unit1 := u == 1, kind := kind, addr := addr, arrive := arrive }
  if withheld ∧ ckOn x then { y with held := x.held ++ [.store o] } else { y with ls := enqueue x.ls o }

/-- A row of R202, R203 or R206: bytes, alignment, latencies, whether `.r` is delivered, whether checkpoint mode withholds it,
whether it is eager, and what it is to do for its data operand. -/
structure LsRow where
  op : Mv → BitVec 1 → Instr
  bytes : Nat
  align : Nat
  la : Nat
  lb : Nat
  value : Bool
  withheld : Bool
  eager : Bool
  kind : Val → LsKind

/-- The loads and stores of R202 and the full/empty operations of R203 and R206 whose operand is an address. -/
def lsRows : List LsRow := [
  ⟨.lsLd8, 1, 1, 4, 6, true, false, false, fun _ => .load 1 false⟩, ⟨.lsLd8Sx, 1, 1, 4, 6, true, false, false, fun _ => .load 1 true⟩,
  ⟨.lsLd16, 2, 2, 4, 6, true, false, false, fun _ => .load 2 false⟩, ⟨.lsLd16Sx, 2, 2, 4, 6, true, false, false, fun _ => .load 2 true⟩,
  ⟨.lsLd32, 4, 4, 4, 6, true, false, false, fun _ => .load 4 false⟩, ⟨.lsLd32Sx, 4, 4, 4, 6, true, false, false, fun _ => .load 4 true⟩,
  ⟨.lsLd64, 8, 8, 4, 6, true, false, false, fun _ => .load 8 false⟩,
  ⟨.lsSt8, 1, 1, 4, 6, false, true, false, fun b => .store (leBytes 1 b.toNat)⟩,
  ⟨.lsSt16, 2, 2, 4, 6, false, true, false, fun b => .store (leBytes 2 b.toNat)⟩,
  ⟨.lsSt32, 4, 4, 4, 6, false, true, false, fun b => .store (leBytes 4 b.toNat)⟩,
  ⟨.lsSt64, 8, 8, 4, 6, false, true, false, fun b => .store (leBytes 8 b.toNat)⟩,
  ⟨.lsVld, 512, 64, 5, 7, true, false, false, fun _ => .load 512 false⟩,
  ⟨.lsVst, 512, 64, 4, 6, false, true, false, fun b => .store (leBytes 512 b.toNat)⟩,
  ⟨.lsLdfw, 8, 8, 4, 6, true, false, true, fun _ => .ldfw⟩, ⟨.lsLdfk, 8, 8, 4, 6, true, false, false, fun _ => .ldfk⟩,
  ⟨.lsStew, 8, 8, 4, 6, false, false, true, fun b => .stew (leBytes 8 b.toNat)⟩,
  ⟨.lsStff, 8, 8, 4, 6, false, true, false, fun b => .stff (leBytes 8 b.toNat)⟩,
  ⟨.lsFeq, 256, 256, 4, 6, true, false, false, fun _ => .feq⟩]

/-- An eager trigger may stand in this bundle of this context: checkpoint mode is off, or the bundle takes a checkpoint (R99);
and the context runs no task of a deterministic round (R360). -/
def EagerOk (s : State) (c : Nat) (x : Ctx) (f : Frame) : Prop :=
  (ckOn x = true → 3 ≤ (hdrSpan f.header).toNat) ∧ inRound s c = false

/-- R95, R99, R118, R197, R202, R203, R206, R360: a load, store or full/empty operation whose bytes lie in the area of its launch,
aligned as its row says, starts: it delivers after its latency and takes its turn at the banks, or is withheld where its row is
withheld and checkpoint mode is on. Outside the area it traps SPAD_RANGE, else misaligned MISALIGNED, precisely. LDFW and STEW, which are
eager, trap EAGER_PLACEMENT in checkpoint mode outside a checkpoint bundle, else PRIVILEGE in a deterministic round; that this comes before
range and alignment is the model's reading (DEDUCED, log entry 22). -/
def scratchpadOps : Prop :=
  ∀ p ∈ lsRows, ∀ (m : Mv) (u : BitVec 1) (s : State) (c : Nat) (x : Ctx) (f : Frame), Acts s m c x f →
    let o := opndsAt x f m (lsUnit u)
    let a := o.a64.toNat
    let trap := fun (t : Trap) => ∃ k, exec (p.op m u) s = .next (preciseTrap s c { code := t, sock := k, slot := f.cur })
    (p.eager = true → (ckOn x = true → (hdrSpan f.header).toNat < 3 → trap .eagerPlacement) ∧
      ((ckOn x = true → 3 ≤ (hdrSpan f.header).toNat) → inRound s c = true → trap .privilege)) ∧
    ((p.eager = true → EagerOk s c x f) →
    (a < 2 ^ 20 → a + p.bytes ≤ areaOf s c → a % p.align = 0 → exec (p.op m u) s =
      .next { setCtx s c (lsStarted x u o.a s.count (p.kind o.b) a (if x.sys.ltb then p.lb else p.la) p.value p.withheld false) with
                count := s.count + 1 }) ∧
    (2 ^ 20 ≤ a ∨ areaOf s c < a + p.bytes → trap .spadRange) ∧
    (a < 2 ^ 20 → a + p.bytes ≤ areaOf s c → a % p.align ≠ 0 → trap .misaligned))

/-- R205, R208 to R214: FECLR of a count of whole words, none among them, PATSET of a valid descriptor, LDPAT of a pattern slot that was set
before its bundle, and RROT of whole units that do not overlap start as the other scratchpad operations do. PATSET reads its descriptor
once, at its trigger, behind a load of `ls0` of its own bundle, which takes its banks first (the order at the banks within a bundle is log
entry 59); it sets its slot for later bundles, its `.st` is there, and where the descriptor holds an uncorrectable error SOFT_ERROR comes
with it (log entry 60). RROT arms its core. -/
def extractorAndRingOps : Prop :=
  ∀ (m : Mv) (u : BitVec 1) (s : State) (c : Nat) (x : Ctx) (f : Frame), Acts s m c x f →
    let o := opndsAt x f m (lsUnit u)
    let a := o.a64.toNat
    let b := o.b64.toNat
    let n := o.c64.toNat
    let done := fun (y : Ctx) => Host.Outcome.next ({ setCtx s c y with count := s.count + 1 } : State)
    let lt := fun (lb la : Nat) => if x.sys.ltb then lb else la
    (b % 4 = 0 → b ≤ 2 ^ 20 → a < 2 ^ 20 → (b = 0 ∨ a + b ≤ areaOf s c) → a % 4 = 0 →
      exec (.lsFeclr m u) s = done (lsStarted x u o.a s.count (.feclr b) a (lt 6 4) false true false)) ∧
    (patsetCheck s c o = none → (∀ p ∈ x.ls, p.bundle ≠ x.bundle) →
      let p := (parsePattern (viewBytes s c x.bundle a 80)).1
      exec (.lsPatset m u) s = .next (setCtx s c (fillResult
        { started x (lsUnit u) o.a (lt 6 4) none (some 0) with pats := x.pats.setIfInBounds (b % 8) (some p) } x.seq fun e =>
          { e with arrived := true, late := if spadBad s c a 80 then some { code := .softError } else none }))) ∧
    (patsetCheck s c o = none →
      let t := ownLoads (setCtx s c (latched x (lsUnit u) o.a)) c
      exec (.lsPatset m u) s = .next (modCtx (fillSlot t c (ctxOf t c).bundle a (b % 8)) c fun y =>
        fillResult (addResult y (lsUnit u) (latency y 4 6) none (some 0)) y.seq fun e =>
          { e with arrived := true, late := if spadBad t c a 80 then some { code := .softError } else none })) ∧
    (ldpatCheck s c o = none → ∀ p, f.pats[b % 8]? = some (some p) →
      exec (.lsLdpat m u) s =
        done (lsStarted x u o.a s.count (.ldpat p (8 * 2 ^ (b / 16 % 4))) a (lt 7 5) true false false)) ∧
    (EagerOk s c x f → n % 64 = 0 → 64 ≤ n → n ≤ 65536 → a % 64 = 0 → b % 64 = 0 → a < 2 ^ 20 → b < 2 ^ 20 →
      a + n ≤ areaOf s c → b + n ≤ areaOf s c → (a + n ≤ b ∨ b + n ≤ a) →
      exec (.lsRrot m u) s = .next { modCore (setCtx s c
          (lsStarted x u o.a s.count (.rrot b n) a (lt 6 4) false false true)) (ctxCore c)
        (fun k => { k with rrot := k.rrot ++ [⟨c, x.seq, a, b, n⟩] }) with count := s.count + 1 })

/-- R99, R197, R205, R208 to R213, R360: where FECLR, PATSET, LDPAT and RROT trap, precisely, each in the order of its checks.
FECLR: a count that is no whole number of words or beyond the scratchpad is BOUNDS. PATSET: a slot above 7 is BOUNDS, and behind
range and alignment a descriptor that breaks the table is BOUNDS. LDPAT: a reserved bit or lane code, a slot that was not set before
the bundle, a field wider than a lane or a stream of more than 8,192 bits is BOUNDS. RROT: in checkpoint mode outside a checkpoint
bundle it is EAGER_PLACEMENT, in a deterministic round PRIVILEGE; a size that is no whole number of units or out of range, and
ranges that overlap, are BOUNDS. -/
def extractorAndRingTraps : Prop :=
  ∀ (m : Mv) (u : BitVec 1) (s : State) (c : Nat) (x : Ctx) (f : Frame), Acts s m c x f →
    let o := opndsAt x f m (lsUnit u)
    let a := o.a64.toNat
    let b := o.b64.toNat
    let n := o.c64.toNat
    let area := areaOf s c
    let trap := fun (i : Instr) (t : Trap) => ∃ k, exec i s = .next (preciseTrap s c { code := t, sock := k, slot := f.cur })
    let feclr := trap (.lsFeclr m u)
    let patset := trap (.lsPatset m u)
    let ldpat := trap (.lsLdpat m u)
    let rrot := trap (.lsRrot m u)
    (b % 4 ≠ 0 ∨ 2 ^ 20 < b → feclr .bounds) ∧
    (b % 4 = 0 → b ≤ 2 ^ 20 → (2 ^ 20 ≤ a ∨ (b ≠ 0 ∧ area < a + b)) → feclr .spadRange) ∧
    (b % 4 = 0 → b ≤ 2 ^ 20 → a < 2 ^ 20 → (b = 0 ∨ a + b ≤ area) → a % 4 ≠ 0 → feclr .misaligned) ∧
    (8 ≤ b → patset .bounds) ∧
    (b < 8 → (2 ^ 20 ≤ a ∨ area < a + 80) → patset .spadRange) ∧
    (b < 8 → a < 2 ^ 20 → a + 80 ≤ area → a % 16 ≠ 0 → patset .misaligned) ∧
    (b < 8 → a < 2 ^ 20 → a + 80 ≤ area → a % 16 = 0 →
      let p := parsePattern (viewBytes s c x.bundle a 80)
      ((∃ g ∈ p.1.fields, p.1.per + 1 < g.off + g.width + 1) ∨ fieldsOverlap p.1.fields = true ∨ p.2 = false) → patset .bounds) ∧
    (64 ≤ b ∨ b / 8 % 2 = 1 ∨ b / 16 % 4 = 3 → ldpat .bounds) ∧
    (b < 64 → b / 8 % 2 = 0 → b / 16 % 4 ≠ 3 →
      let lw := 8 * 2 ^ (b / 16 % 4)
      (f.pats[b % 8]? = some none → ldpat .bounds) ∧
      (∀ p, f.pats[b % 8]? = some (some p) →
        ((∃ g ∈ p.fields, lw < g.width + 1) ∨ 8192 < patBits p lw → ldpat .bounds) ∧
        ((∀ g ∈ p.fields, g.width + 1 ≤ lw) → patBits p lw ≤ 8192 → 0 < patBits p lw →
          (2 ^ 20 ≤ a ∨ area < a + (patBits p lw + 7) / 8) → ldpat .spadRange))) ∧
    (ckOn x = true → (hdrSpan f.header).toNat < 3 → rrot .eagerPlacement) ∧
    ((ckOn x = true → 3 ≤ (hdrSpan f.header).toNat) → inRound s c = true → rrot .privilege) ∧
    (EagerOk s c x f →
      (n % 64 ≠ 0 ∨ n < 64 ∨ 65536 < n → rrot .bounds) ∧
      (n % 64 = 0 → 64 ≤ n → n ≤ 65536 →
        (a < b + n → b < a + n → rrot .bounds) ∧
        (b + n ≤ a ∨ a + n ≤ b →
          (2 ^ 20 ≤ a ∨ 2 ^ 20 ≤ b ∨ area < a + n ∨ area < b + n → rrot .spadRange) ∧
          (a < 2 ^ 20 → b < 2 ^ 20 → a + n ≤ area → b + n ≤ area → (a % 64 ≠ 0 ∨ b % 64 ≠ 0) → rrot .misaligned))))

/-- R189, R199, R202, R203, R205: where the context's oldest operation is a store, STEW, STFF or FECLR that may proceed, and
the context runs no round, STORE_PERFORM writes exactly its bytes: each byte of the data reads back, every other address of
the scratchpad reads as before, and so does every other core and all of MEM; STEW and STFF leave the tags of their two words
FULL, FECLR of `n` bytes leaves those of its words EMPTY, and no other tag changes. It leaves the queue of its context, where the operations
behind it stand as before; only a STEW, which performs at once in checkpoint mode, takes its doubleword out of stores that its context
triggered before it and that perform later (log entry 59). -/
def Obligations.StorePerforms : Prop :=
  ∀ (s : State) (o : LsOp) (rest : List LsOp), let c := s.args.a; let k := ctxCore c
    (ctxOf s c).ls = o :: rest → inRound s c = false → (coreOf s k).spad.wf = true → feProceeds s c o = true →
    (∃ d, o.kind = .store d ∨ o.kind = .stew d ∨ o.kind = .stff d ∨ (d = [] ∧ ∃ n, o.kind = .feclr n)) →
    ∃ t, exec .storePerform s = .next t ∧
      (∀ i, i < o.writes.length → (coreOf t k).spad.read (o.addr + i) = o.writes.getD i 0) ∧
      (∀ a, a < o.addr ∨ o.addr + o.writes.length ≤ a → (coreOf t k).spad.read a = (coreOf s k).spad.read a) ∧
      (∀ w, NatSet.mem (coreOf t k).empty w =
        match o.kind with
        | .stew _ | .stff _ => NatSet.mem (coreOf s k).empty w && !(tagWords o.addr 8).contains w
        | .feclr n => NatSet.mem (coreOf s k).empty w || (tagWords o.addr n).contains w
        | _ => NatSet.mem (coreOf s k).empty w) ∧
      (∀ j, j ≠ k → coreOf t j = coreOf s j) ∧ t.mem = s.mem ∧ t.host = s.host ∧ t.dies = s.dies ∧
      (∀ d, d ≠ c → ctxOf t d = ctxOf s d) ∧ (ctxOf t c).regs = (ctxOf s c).regs ∧
      (((∀ v, o.kind ≠ .stew v) ∨ ∀ p ∈ rest, o.seq ≤ p.seq) → (ctxOf t c).ls = rest.filter (· != o)) ∧
      (∀ v, o.kind = .stew v → (ctxOf t c).ls = (rest.filter (· != o)).flatMap fun p => (leaveTags o p).flatMap (leaveBytes o))

/-- Every operation of the load-store units. -/
def Obligations.ScratchpadOperations : Prop := scratchpadOps ∧ extractorAndRingOps ∧ extractorAndRingTraps
/-! ## Vector unit (R137 to R188) -/

/-- Lane operations on two's complement codes of width `w` (R178, R179, R182). -/
def iAdd (w a b _c : Nat) : Nat × FlagSet := ((BitVec.ofNat w a + BitVec.ofNat w b).toNat, 0)
def iSub (w a b _c : Nat) : Nat × FlagSet := ((BitVec.ofNat w a - BitVec.ofNat w b).toNat, 0)
def iMul (w a b _c : Nat) : Nat × FlagSet := ((BitVec.ofNat w a * BitVec.ofNat w b).toNat, 0)
def iMin (w a b _c : Nat) : Nat × FlagSet := (if (BitVec.ofNat w b).slt (BitVec.ofNat w a) then b else a, 0)
def iMax (w a b _c : Nat) : Nat × FlagSet := (if (BitVec.ofNat w a).slt (BitVec.ofNat w b) then b else a, 0)
def nMin (a b _c : Nat) : Nat × FlagSet := (min a b, 0)
def nMax (a b _c : Nat) : Nat × FlagSet := (max a b, 0)
def iAbs (w a _b _c : Nat) : Nat × FlagSet := (if (BitVec.ofNat w a).msb then (-BitVec.ofNat w a).toNat else a, 0)
def iShl (w a b _c : Nat) : Nat × FlagSet := ((BitVec.ofNat w a <<< b).toNat, 0)
def iShr (w a b _c : Nat) : Nat × FlagSet := ((BitVec.ofNat w a >>> b).toNat, 0)
def iSar (w a b _c : Nat) : Nat × FlagSet := (((BitVec.ofNat w a).sshiftRight b).toNat, 0)

/-- ADDS of signed and of unsigned lanes: the exact sum, clamped with SAT (R141, R179). -/
def iAdds (w a b _c : Nat) : Nat × FlagSet :=
  let t := (BitVec.ofNat w a).toInt + (BitVec.ofNat w b).toInt
  if t < -(2 ^ (w - 1)) then (2 ^ (w - 1), fSAT) else if 2 ^ (w - 1) ≤ t then (2 ^ (w - 1) - 1, fSAT)
  else ((BitVec.ofInt w t).toNat, 0)
def nAdds (w a b _c : Nat) : Nat × FlagSet := if 2 ^ w ≤ a + b then (2 ^ w - 1, fSAT) else (a + b, 0)

/-- The element-wise operations that are not on floating-point lanes: ticks in both tables, lane width, lane operation. -/
def vecIntRows : List ((Mv → Instr) × Nat × Nat × (Nat → Nat → Nat → Nat × FlagSet)) := [
  (.vecAddI32, 3, 32, iAdd 32), (.vecAddI16, 3, 16, iAdd 16), (.vecAddI8, 3, 8, iAdd 8),
  (.vecSubI32, 3, 32, iSub 32), (.vecSubI16, 3, 16, iSub 16), (.vecSubI8, 3, 8, iSub 8),
  (.vecMulI32, 3, 32, iMul 32), (.vecMulI16, 3, 16, iMul 16), (.vecMulI8, 3, 8, iMul 8),
  (.vecMinI32, 3, 32, iMin 32), (.vecMinI16, 3, 16, iMin 16), (.vecMinI8, 3, 8, iMin 8),
  (.vecMinN32, 3, 32, nMin), (.vecMinN16, 3, 16, nMin), (.vecMinN8, 3, 8, nMin),
  (.vecMaxI32, 3, 32, iMax 32), (.vecMaxI16, 3, 16, iMax 16), (.vecMaxI8, 3, 8, iMax 8),
  (.vecMaxN32, 3, 32, nMax), (.vecMaxN16, 3, 16, nMax), (.vecMaxN8, 3, 8, nMax),
  (.vecAddsI32, 3, 32, iAdds 32), (.vecAddsI16, 3, 16, iAdds 16), (.vecAddsI8, 3, 8, iAdds 8),
  (.vecAddsN32, 3, 32, nAdds 32), (.vecAddsN16, 3, 16, nAdds 16), (.vecAddsN8, 3, 8, nAdds 8),
  (.vecShlI32, 3, 32, iShl 32), (.vecShlI16, 3, 16, iShl 16), (.vecShlI8, 3, 8, iShl 8),
  (.vecShrI32, 3, 32, iShr 32), (.vecShrI16, 3, 16, iShr 16), (.vecShrI8, 3, 8, iShr 8),
  (.vecSarI32, 3, 32, iSar 32), (.vecSarI16, 3, 16, iSar 16), (.vecSarI8, 3, 8, iSar 8),
  (.vecAbsI32, 3, 32, iAbs 32), (.vecAbsI16, 3, 16, iAbs 16), (.vecAbsI8, 3, 8, iAbs 8),
  (.vecAnd, 3, 32, fun a b _ => (a &&& b, 0)), (.vecOr, 3, 32, fun a b _ => (a ||| b, 0)), (.vecXor, 3, 32, fun a b _ => (a ^^^ b, 0))]

/-- R173 to R176, R178, R179, R181, R182: every element-wise integer operation of `vec`, the bitwise operations and SEL deliver
lane by lane the value of their row, with the flags of ADDS, under the inhibit mask of `m0` as it was at issue. -/
def vectorIntegerLanes : Prop :=
  (∀ p ∈ vecIntRows, ∀ (m : Mv) (s : State) (c : Nat) (x : Ctx) (f : Frame), Acts s m c x f →
    let o := opndsAt x f m .vec
    let w := p.2.2.1
    ∃ v : VecOut, Delivers (p.1 m) s c x o.a p.2.1 v ∧
      LaneWise w (4096 / w) (f.regs.m[0]).read v fun i => p.2.2.2 (lane w o.a.toNat i) (lane w o.b.toNat i) (lane w o.c.toNat i)) ∧
  (∀ p ∈ [(Instr.vecSelI32, 32), (Instr.vecSelI16, 16), (Instr.vecSelI8, 8)],
    ∀ (m : Mv) (s : State) (c : Nat) (x : Ctx) (f : Frame), Acts s m c x f →
      let o := opndsAt x f m .vec
      ∃ v : VecOut, Delivers (p.1 m) s c x o.a 3 v ∧
        LaneWise p.2 (4096 / p.2) (f.regs.m[0]).read v fun i => (if o.c.getLsbD i then lane p.2 o.a.toNat i else lane p.2 o.b.toNat i, 0))

/-- Floating-point lane operations (R139, R147, R148, R178): the exact value rounded once to nearest, with the flags of the
operation and of the rounding; MIN, MAX and ABS round nothing. -/
def fpAdd (f : Fmt) (a b _c : Nat) : Nat × FlagSet :=
  let v := Fp.add (f.decode a) (f.decode b); let r := f.round .rne v.1; (r.1, v.2 ||| r.2)
def fpSub (f : Fmt) (a b _c : Nat) : Nat × FlagSet :=
  let v := Fp.add (f.decode a) (Fp.neg (f.decode b)); let r := f.round .rne v.1; (r.1, v.2 ||| r.2)
def fpMul (f : Fmt) (a b _c : Nat) : Nat × FlagSet :=
  let v := Fp.mul (f.decode a) (f.decode b); let r := f.round .rne v.1; (r.1, v.2 ||| r.2)
def fpFma (f : Fmt) (a b c : Nat) : Nat × FlagSet :=
  let p := Fp.mul (f.decode a) (f.decode b); let v := Fp.add p.1 (f.decode c); let r := f.round .rne v.1
  (r.1, p.2 ||| v.2 ||| r.2)
def isNan (f : Fmt) (a : Nat) : Bool := f.decode a == .nan
def fpMin (f : Fmt) (a b _c : Nat) : Nat × FlagSet :=
  (if isNan f a || isNan f b then f.nan else if (f.decode b).less (f.decode a) then b else a, 0)
def fpMax (f : Fmt) (a b _c : Nat) : Nat × FlagSet :=
  (if isNan f a || isNan f b then f.nan else if (f.decode a).less (f.decode b) then b else a, 0)
def fpAbs (f : Fmt) (a _b _c : Nat) : Nat × FlagSet := (if isNan f a then f.nan else a % 2 ^ (f.width - 1), 0)

/-- The element-wise operations on floating-point lanes: ticks in both tables, lane width, lane operation. -/
def vecFloatRows : List ((Mv → Instr) × Nat × Nat × (Nat → Nat → Nat → Nat × FlagSet)) := [
  (.vecAddF32, 3, 32, fpAdd f32), (.vecAddF16, 3, 16, fpAdd f16), (.vecAddBf16, 3, 16, fpAdd bf16),
  (.vecSubF32, 3, 32, fpSub f32), (.vecSubF16, 3, 16, fpSub f16), (.vecSubBf16, 3, 16, fpSub bf16),
  (.vecMulF32, 3, 32, fpMul f32), (.vecMulF16, 3, 16, fpMul f16), (.vecMulBf16, 3, 16, fpMul bf16),
  (.vecFmaF32, 4, 32, fpFma f32), (.vecFmaF16, 4, 16, fpFma f16), (.vecFmaBf16, 4, 16, fpFma bf16),
  (.vecMinF32, 3, 32, fpMin f32), (.vecMinF16, 3, 16, fpMin f16), (.vecMinBf16, 3, 16, fpMin bf16),
  (.vecMaxF32, 3, 32, fpMax f32), (.vecMaxF16, 3, 16, fpMax f16), (.vecMaxBf16, 3, 16, fpMax bf16),
  (.vecAbsF32, 3, 32, fpAbs f32), (.vecAbsF16, 3, 16, fpAbs f16), (.vecAbsBf16, 3, 16, fpAbs bf16)]

/-- R139, R147, R148, R173 to R176, R178: every element-wise floating-point operation of `vec` delivers lane by lane the value
and flags of its row, under the inhibit mask of `m0` as it was at issue. That FMA raises IV for 0 times infinity with a NaN addend too is
the model's reading (log entry 49). -/
def vectorFloatLanes : Prop :=
  ∀ p ∈ vecFloatRows, ∀ (m : Mv) (s : State) (c : Nat) (x : Ctx) (f : Frame), Acts s m c x f →
    let o := opndsAt x f m .vec
    let w := p.2.2.1
    ∃ v : VecOut, Delivers (p.1 m) s c x o.a p.2.1 v ∧
      LaneWise w (4096 / w) (f.regs.m[0]).read v fun i => p.2.2.2 (lane w o.a.toNat i) (lane w o.b.toNat i) (lane w o.c.toNat i)

/-- The compares of R180: lane width and what the bit of a lane says. -/
def vecCompareRows : List ((Mv → Instr) × Nat × (Nat → Nat → Bool)) := [
  (.vecCmpeqF32, 32, fun a b => Fp.cmp (f32.decode a) (f32.decode b) == some .eq),
  (.vecCmpeqF16, 16, fun a b => Fp.cmp (f16.decode a) (f16.decode b) == some .eq),
  (.vecCmpeqBf16, 16, fun a b => Fp.cmp (bf16.decode a) (bf16.decode b) == some .eq),
  (.vecCmpltF32, 32, fun a b => Fp.cmp (f32.decode a) (f32.decode b) == some .lt),
  (.vecCmpltF16, 16, fun a b => Fp.cmp (f16.decode a) (f16.decode b) == some .lt),
  (.vecCmpltBf16, 16, fun a b => Fp.cmp (bf16.decode a) (bf16.decode b) == some .lt),
  (.vecCmpeqI32, 32, fun a b => a == b),
  (.vecCmpeqI16, 16, fun a b => a == b),
  (.vecCmpeqI8, 8, fun a b => a == b),
  (.vecCmpltI32, 32, fun a b => (BitVec.ofNat 32 a).slt (BitVec.ofNat 32 b)),
  (.vecCmpltI16, 16, fun a b => (BitVec.ofNat 16 a).slt (BitVec.ofNat 16 b)),
  (.vecCmpltI8, 8, fun a b => (BitVec.ofNat 8 a).slt (BitVec.ofNat 8 b)),
  (.vecCmpltN32, 32, fun a b => decide (a < b)),
  (.vecCmpltN16, 16, fun a b => decide (a < b)),
  (.vecCmpltN8, 8, fun a b => decide (a < b))]

/-- R180: every compare of `vec` delivers after 3 ticks, with every lane enabled and no flag, one bit for each lane: whether
the lane is not inhibited and its comparison holds; every other bit is zero. -/
def vectorCompares : Prop :=
  ∀ p ∈ vecCompareRows, ∀ (m : Mv) (s : State) (c : Nat) (x : Ctx) (f : Frame), Acts s m c x f →
    let o := opndsAt x f m .vec
    ∃ v : VecOut, Delivers (p.1 m) s c x o.a 3 v ∧ v.en = BitVec.allOnes 4096 ∧ v.lanes = [] ∧
      ∀ i, v.val.getLsbD i = (decide (i < 4096 / p.2.1) && !((f.regs.m[0]).read.getLsbD i) &&
        p.2.2 (lane p.2.1 o.a.toNat i) (lane p.2.1 o.b.toNat i))

/-- The conversions of R183: destination, form of an FP8 destination, socket. -/
def vecCvtRows : List ((Mv → Instr) × Kind × Option Bool × Nat) := [
  (.vecCvtF32, (.fp f32), none, 0x353), (.vecCvtF16, (.fp f16), none, 0x354), (.vecCvtBf16, (.fp bf16), none, 0x355),
  (.vecCvtI32, (.int 32), none, 0x356), (.vecCvtI16, (.int 16), none, 0x357), (.vecCvtI8, (.int 8), none, 0x358),
  (.vecCvtE4m3Sat, (.fp e4m3), (some true), 0x359), (.vecCvtE4m3Nsat, (.fp e4m3), (some false), 0x35A), (.vecCvtE5m2Sat, (.fp e5m2), (some true), 0x35B),
  (.vecCvtE5m2Nsat, (.fp e5m2), (some false), 0x35C)]

/-- R149, R150, R183: CVT from a listed source format, with a part below the ratio of lane counts, delivers after 3 ticks, 4 in
LT-B, the converted lanes of its part, under the inhibit mask, and disables every lane outside it where it narrows; any other
value of `b` traps BOUNDS precisely. -/
def vectorConversions : Prop :=
  ∀ p ∈ vecCvtRows, ∀ (m : Mv) (s : State) (c : Nat) (x : Ctx) (f : Frame), Acts s m c x f →
    let o := opndsAt x f m .vec
    let b := o.b64.toNat
    let dst := p.2.1
    let nd := 4096 / dst.width
    let part := b / 16 % 4
    (∀ src, cvtSource (b % 16) = some src → b < 64 → part < max nd (4096 / src.width) / min nd (4096 / src.width) →
      ∃ v : VecOut, Delivers (p.1 m) s c x o.a (if x.sys.ltb then 4 else 3) v ∧
        let ns := 4096 / src.width
        let inh := (f.regs.m[0]).read
        let from_ := fun j => if ns ≤ nd then j - part * ns else part * nd + j
        let here := fun j => !inh.getLsbD j && (decide (nd < ns) || (decide (part * ns ≤ j) && decide (j < part * ns + ns)))
        let g := fun j => convert src dst p.2.2.1 (lane src.width o.a.toNat (from_ j))
        (∀ j, j < nd → lane dst.width v.val.toNat j = if here j then (g j).1 % 2 ^ dst.width else 0) ∧
        (∀ j, j < nd → lane dst.width v.en.toNat j = if here j then 2 ^ dst.width - 1 else 0) ∧
        (∀ j fl, (j, fl) ∈ v.lanes ↔ j < nd ∧ here j = true ∧ fl = (g j).2 ∧ fl ≠ 0)) ∧
    (cvtSource (b % 16) = none ∨ 64 ≤ b ∨ (∃ src, cvtSource (b % 16) = some src ∧
        max nd (4096 / src.width) / min nd (4096 / src.width) ≤ part) →
      exec (p.1 m) s = .next (preciseTrap s c { code := .bounds, sock := p.2.2.2, slot := f.cur }))

/-- R57, R184 to R188: VDOT16 and VDOT8 deliver 32 sums of dot groups with the flags of the group and of the sum, every other
lane disabled, RSUM and RMAX one reduction in lane 0 with an inhibited lane as its identity, every lane enabled, RSUM.f32 with the flags of
its additions, EXP2, RCP and RSQ (with FEAT bit 1) their function of each lane with its flags, SHUF and BCAST the lane their index
names, VQNT (with FEAT bit 0) the quantised bytes, each after its latency; what these functions are, the statement on the functions' values
says. Without their FEAT bit EXP2, RCP, RSQ and VQNT trap
ILLEGAL_SOCKET. -/
def Obligations.VectorGroups : Prop :=
  ∀ (m : Mv) (s : State) (c : Nat) (x : Ctx) (f : Frame), Acts s m c x f →
    let o := opndsAt x f m .vec
    let inh := (f.regs.m[0]).read
    let a := o.a.toNat
    let b := o.b.toNat
    let lt := fun (lb la : Nat) => if x.sys.ltb then lb else la
    (∀ p ∈ [(Instr.vecVdot16E4m3, 16, e4m3, dotFp8), (Instr.vecVdot16E5m2, 16, e5m2, dotFp8), (Instr.vecVdot8Bf16, 8, bf16, dotBf16)],
      ∃ v : VecOut, Delivers (p.1 m) s c x o.a 6 v ∧ LaneWise 32 128 (inh ||| BitVec.allOnes 512 <<< 32) v fun j =>
        let g := p.2.2.2 ((List.range p.2.1).map fun i =>
          (p.2.2.1.decode (lane p.2.2.1.width a (p.2.1 * j + i)), p.2.2.1.decode (lane p.2.2.1.width b (p.2.1 * j + i))))
        let sum := accAdd (lane 32 o.c.toNat j) g.1
        (sum.1, g.2 ||| sum.2)) ∧
    (∀ p ∈ [(Instr.vecRsumF32, 0x80000000, sumTree 7), (Instr.vecRsumI32, 0, fun l => (List.sum l % 2 ^ 32, 0)),
        (Instr.vecRmaxF32, 0xFF800000, fun l => (l.foldl (f32.minmax true) 0xFF800000, 0)),
        (Instr.vecRmaxI32, 0x80000000, fun l => (l.foldl (fun u w => if intOf 32 u < intOf 32 w then w else u) 0x80000000, 0))],
      let r := p.2.2 ((List.range 128).map fun i => if inh.getLsbD i then p.2.1 else lane 32 a i)
      ∃ v : VecOut, Delivers (p.1 m) s c x o.a 8 v ∧ v.en = BitVec.allOnes 4096 ∧ v.val = BitVec.ofNat 4096 r.1 ∧
        v.lanes = if r.2 = 0 then [] else [(0, r.2)]) ∧
    (∀ p ∈ [(Instr.vecExp2F32, exp2F32, 0x364), (Instr.vecRcpF32, rcpF32, 0x365), (Instr.vecRsqF32, rsqF32, 0x366)],
      (s.feat.testBit 1 = true → ∃ v : VecOut, Delivers (p.1 m) s c x o.a (lt 12 10) v ∧
        LaneWise 32 128 inh v fun i => p.2.1 (lane 32 a i)) ∧
      (s.feat.testBit 1 = false → exec (p.1 m) s = .next (preciseTrap s c { code := .illegalSocket, sock := p.2.2, slot := f.cur }))) ∧
    (∀ p ∈ [(Instr.vecShufI32, 32), (Instr.vecShufI16, 16), (Instr.vecShufI8, 8)],
      ∃ v : VecOut, Delivers (p.1 m) s c x o.a 4 v ∧ LaneWise p.2 (4096 / p.2) inh v fun i =>
        (lane p.2 a (if p.2 = 8 then 256 * (i / 256) + lane 8 b i % 256 else lane p.2 b i % (4096 / p.2)), 0)) ∧
    (∀ p ∈ [(Instr.vecBcastI32, 32), (Instr.vecBcastI16, 16), (Instr.vecBcastI8, 8)],
      ∃ v : VecOut, Delivers (p.1 m) s c x o.a 3 v ∧ LaneWise p.2 (4096 / p.2) inh v fun _ =>
        (lane p.2 a (o.b64.toNat % (4096 / p.2)), 0)) ∧
    (s.feat.testBit 0 = true → Delivers (.vecVqntD8 m) s c x o.a (lt 4 3) (quantise inh a)) ∧
    (s.feat.testBit 0 = false → exec (.vecVqntD8 m) s =
      .next (preciseTrap s c { code := .illegalSocket, sock := 0x36D, slot := f.cur }))

/-! ### The values of EXP2, RCP, RSQ, VQNT and the dot groups, from the rules' own words -/

/-- The magnitude that bits 30:0 of an FP32 code stand for (R138). Code 0x7F800000, all ones with no fraction, gives 2^128 here, the
value after the largest finite one where the exponent is unbounded above (R146). -/
def magOf (k : Nat) : ℚ :=
  if k / 2 ^ 23 = 0 then (k : ℚ) / 2 ^ 149 else ((2 ^ 23 + k % 2 ^ 23 : Nat) : ℚ) * 2 ^ ((k / 2 ^ 23 : Nat) - 150 : ℤ)

/-- `r` is the code and the flags of magnitude `v` with a sign, rounded by ROUND_RNE into FP32 (R146, R147): the nearest value, a tie to
the even fraction; past the largest finite value infinity with OF and NX; otherwise no flag where exact, NX, and UF too below 2^-126. -/
def RoundsEven (neg : Bool) (v : ℝ) (r : Nat × FlagSet) : Prop :=
  ∃ k ≤ 0x7F800000,
    (∀ j ≤ 0x7F800000, j ≠ k → |v - (magOf k : ℝ)| < |v - (magOf j : ℝ)| ∨
      (|v - (magOf k : ℝ)| = |v - (magOf j : ℝ)| ∧ k % 2 = 0)) ∧
    r.1 = k + (if neg then 2 ^ 31 else 0) ∧
    (k = 0x7F800000 → r.2 = fOF ||| fNX) ∧
    (k < 0x7F800000 → (magOf k : ℝ) = v → r.2 = 0) ∧
    (k < 0x7F800000 → (magOf k : ℝ) ≠ v → 2 ^ (-126 : ℤ) ≤ v → r.2 = fNX) ∧
    (k < 0x7F800000 → (magOf k : ℝ) ≠ v → v < 2 ^ (-126 : ℤ) → r.2 = fUF ||| fNX)

/-- R186: RCP is 1/x and RSQ is 1/√x rounded once by ROUND_RNE, and every special case of EXP2, RCP and RSQ. EXP2 of an integer from -149
to 127 is that power of two, exactly; from 128 it overflows; of every other finite value it is inexact, with UF below 2^-126, and lies between the powers
of two about it (that it is the nearest FP32 value there is the model's choice, log entry 10, and is not stated). -/
def specialFunctions : Prop :=
  ∀ c < 2 ^ 32,
    let neg : Bool := c.testBit 31
    let k := c % 2 ^ 31
    let x : ℚ := if neg then -magOf k else magOf k
    (0x7F800000 < k → exp2F32 c = (0x7FC00000, 0) ∧ rcpF32 c = (0x7FC00000, 0) ∧ rsqF32 c = (0x7FC00000, 0)) ∧
    (k = 0x7F800000 → exp2F32 c = (if neg then 0 else 0x7F800000, 0) ∧ rcpF32 c = (if neg then 0x80000000 else 0, 0) ∧
      rsqF32 c = if neg then (0x7FC00000, fIV) else (0, 0)) ∧
    (k = 0 → exp2F32 c = (0x3F800000, 0) ∧ rcpF32 c = (if neg then 0xFF800000 else 0x7F800000, fDZ) ∧
      rsqF32 c = (if neg then 0xFF800000 else 0x7F800000, fDZ)) ∧
    (0 < k → k < 0x7F800000 →
      RoundsEven neg (1 / (magOf k : ℝ)) (rcpF32 c) ∧
      (if neg then rsqF32 c = (0x7FC00000, fIV) else RoundsEven false (1 / Real.sqrt (magOf k : ℝ)) (rsqF32 c)) ∧
      (128 ≤ x → exp2F32 c = (0x7F800000, fOF ||| fNX)) ∧
      (∀ n : ℤ, x = n → -149 ≤ n → n ≤ 127 → (exp2F32 c).1 < 0x7F800000 ∧ magOf (exp2F32 c).1 = 2 ^ n ∧ (exp2F32 c).2 = 0) ∧
      (x < 128 → (∀ n : ℤ, x = n → n < -149) →
        (exp2F32 c).1 < 0x7F800000 ∧ (exp2F32 c).2 = (if x < -126 then fUF ||| fNX else fNX) ∧
        magOf (exp2F32 c).1 ≤ 2 ^ (⌊x⌋ + 1) ∧ (-149 ≤ ⌊x⌋ → 2 ^ ⌊x⌋ ≤ magOf (exp2F32 c).1)))

/-- The value of a D8 byte (R143). -/
def d8Val (b : Nat) : ℚ :=
  let term := fun (s e : Nat) => if e = 7 then (0 : ℚ) else (if s = 1 then -1 else 1) / 2 ^ e
  term (b / 128 % 2) (b / 16 % 8) + term (b / 8 % 2) (b % 8)

/-- The canonical bytes (R145). -/
def CanonicalD8 (b : Nat) : Prop :=
  b < 256 ∧ b / 16 % 8 ≤ b % 8 ∧ (b / 16 % 8 = 7 → b / 128 % 2 = 0) ∧ (b % 8 = 7 → b / 8 % 2 = 0) ∧
    (b / 16 % 8 ≠ 7 → b % 8 ≠ 7 → d8Val b ≠ 0)

/-- `b` with flags `fl` is ROUND_D8 of `y` (R145), the smallest code where several have the value (R188). -/
def IsRoundD8 (y : ℚ) (b : Nat) (fl : FlagSet) : Prop :=
  if 2 < |y| then b = (if 0 < y then 0x00 else 0x88) ∧ fl = fSAT ||| fNX
  else CanonicalD8 b ∧ fl = (if d8Val b = y then 0 else fNX) ∧
    ∀ d, CanonicalD8 d → |y - d8Val b| < |y - d8Val d| ∨ (|y - d8Val b| = |y - d8Val d| ∧
      (|d8Val b| < |d8Val d| ∨ (|d8Val b| = |d8Val d| ∧ b ≤ d)))

/-- R145, R188: what VQNT writes for each block of 32 lanes: its scale byte, the bytes of its lanes and the flags that each lane raises; every
lane is enabled and lanes 132 and up are zero. -/
def vqntBlocks : Prop :=
  ∀ (inh : BitVec 512) (a : Nat),
    let v := quantise inh a
    let k := fun i => lane 32 a i % 2 ^ 31
    let x := fun i => if (lane 32 a i).testBit 31 then -magOf (k i) else magOf (k i)
    let act := fun i => inh.getLsbD i = false
    v.en = BitVec.allOnes 4096 ∧ (∀ i, 132 ≤ i → lane 8 v.val.toNat i = 0) ∧ (∀ i fl, (i, fl) ∈ v.lanes → i < 128 ∧ fl ≠ 0) ∧
    ∀ q < 4,
      let X := lane 8 v.val.toNat (128 + q)
      let block := fun i => 32 * q ≤ i ∧ i < 32 * q + 32
      ((∃ i, block i ∧ act i ∧ 0x7F800000 ≤ k i) → X = 255 ∧ ∀ i, block i → lane 8 v.val.toNat i = 0x77 ∧
        ∀ fl, (i, fl) ∈ v.lanes ↔ act i ∧ 0x7F800000 ≤ k i ∧ fl = fIV) ∧
      ((∀ i, block i → act i → k i < 0x7F800000) →
        ((∀ i, block i → act i → k i = 0) → X = 127) ∧
        (∀ e : ℤ, IsLeast (fun d : ℤ => ∀ i, block i → act i → magOf (k i) ≤ 2 ^ (d + 1)) e →
          (X : ℤ) = min (max (127 + e) 0) 254) ∧
        ∀ i, block i →
          (¬act i → lane 8 v.val.toNat i = 0x77 ∧ ∀ fl, (i, fl) ∉ v.lanes) ∧
          (act i → ∃ fl, IsRoundD8 (x i * 2 ^ (127 - X : ℤ)) (lane 8 v.val.toNat i) fl ∧ ∀ f, (i, f) ∈ v.lanes ↔ f = fl ∧ fl ≠ 0))

/-- What R151 needs of an operand format: exponent and fraction widths, bias, and the smallest magnitude code that is a NaN and the infinity. -/
structure GroupFmt where
  eb : Nat
  fb : Nat
  bias : Int
  nanAt : Nat
  infAt : Option Nat

/-- The operand formats of the dot groups (R137, R138). -/
def groupE4m3 : GroupFmt := ⟨4, 3, 7, 0x7F, none⟩
def groupE5m2 : GroupFmt := ⟨5, 2, 15, 0x7D, some 0x7C⟩
def groupBf16 : GroupFmt := ⟨8, 7, 127, 0x7F81, some 0x7F80⟩

/-- Sign, class, significand P and E - f of an operand (R151). -/
def GroupFmt.mag (g : GroupFmt) (c : Nat) : Nat := c % 2 ^ (g.eb + g.fb)
def GroupFmt.neg (g : GroupFmt) (c : Nat) : Bool := c.testBit (g.eb + g.fb)
def GroupFmt.isNan (g : GroupFmt) (c : Nat) : Prop := g.nanAt ≤ g.mag c
def GroupFmt.isInf (g : GroupFmt) (c : Nat) : Prop := g.infAt = some (g.mag c)
def GroupFmt.sig (g : GroupFmt) (c : Nat) : Nat := if g.mag c < 2 ^ g.fb then g.mag c else 2 ^ g.fb + g.mag c % 2 ^ g.fb
def GroupFmt.exp (g : GroupFmt) (c : Nat) : Int :=
  (if g.mag c < 2 ^ g.fb then 1 else (g.mag c / 2 ^ g.fb : Nat)) - g.bias - g.fb

/-- What one pair adds to S with `f` fraction bits under the alignment exponent `top` (R153). -/
def GroupFmt.term (g : GroupFmt) (f : Nat) (top : Int) (p : Nat × Nat) : Int :=
  let d := top - (g.exp p.1 + g.exp p.2)
  let t : Int := ⌊(g.sig p.1 * g.sig p.2 : ℚ) * 2 ^ (f - d)⌋
  if (g.neg p.1).xor (g.neg p.2) then -t else t

/-- R152, R153: the outcome of a group over the pairs `ps`: the special values first, then the sum of the truncated products over the largest
exponent of a live product. `Fin S U` says what a finite sum S * 2^(U - f) gives. -/
def GroupIs (g : GroupFmt) (f : Nat) (ps : List (Nat × Nat)) (Fin : Int → Int → Fp × FlagSet → Prop) (r : Fp × FlagSet) : Prop :=
  let inf := fun (p : Nat × Nat) => g.isInf p.1 ∨ g.isInf p.2
  let sign := fun (p : Nat × Nat) => (g.neg p.1).xor (g.neg p.2)
  let live := fun (p : Nat × Nat) => g.sig p.1 * g.sig p.2 ≠ 0
  ((∃ p ∈ ps, g.isNan p.1 ∨ g.isNan p.2) → r = (.nan, 0)) ∧
  ((∀ p ∈ ps, ¬g.isNan p.1 ∧ ¬g.isNan p.2) →
    ((∃ p ∈ ps, inf p ∧ (g.mag p.1 = 0 ∨ g.mag p.2 = 0)) → r = (.nan, fIV)) ∧
    ((∀ p ∈ ps, inf p → g.mag p.1 ≠ 0 ∧ g.mag p.2 ≠ 0) →
      ((∃ p ∈ ps, inf p ∧ sign p = true) → (∃ p ∈ ps, inf p ∧ sign p = false) → r = (.nan, fIV)) ∧
      (∀ b, (∃ p ∈ ps, inf p) → (∀ p ∈ ps, inf p → sign p = b) → r = (.inf b, 0)) ∧
      ((∀ p ∈ ps, ¬inf p) →
        ((∀ p ∈ ps, ¬live p) → ∃ e, r = (.fin false 0 e, 0)) ∧
        ∀ U : Int, (∃ p ∈ ps, live p ∧ g.exp p.1 + g.exp p.2 = U) → (∀ p ∈ ps, live p → g.exp p.1 + g.exp p.2 ≤ U) →
          Fin (ps.map (g.term f U)).sum U r)))

/-- R151 to R153, R155: the groups of VDOT16 and VDOT8. An FP8 group is the exact sum; a BF16 group's sum is rounded once into FP32. -/
def dotGroups : Prop :=
  (∀ p ∈ [(groupE4m3, e4m3), (groupE5m2, e5m2)], ∀ ps : List (Nat × Nat), (∀ t ∈ ps, t.1 < 2 ^ 8 ∧ t.2 < 2 ^ 8) →
    GroupIs p.1 12 ps (fun S U r => ∃ e : Int, r = (.fin (decide (S < 0)) S.natAbs e, 0) ∧ (S ≠ 0 → e = U - 12))
      (dotFp8 (ps.map fun t => (p.2.decode t.1, p.2.decode t.2)))) ∧
  ∀ ps : List (Nat × Nat), (∀ t ∈ ps, t.1 < 2 ^ 16 ∧ t.2 < 2 ^ 16) →
    GroupIs groupBf16 20 ps (fun S U r => ∃ c fl, r = (f32.decode c, fl) ∧
        RoundsEven (decide (S < 0)) ((S.natAbs : ℝ) * 2 ^ (U - 20)) (c, fl))
      (dotBf16 (ps.map fun t => (bf16.decode t.1, bf16.decode t.2)))

/-- The functions that the statement on the vector groups names give what R151 to R153, R155, R186 and R188 say: the dot groups of VDOT16 and
VDOT8, the special functions, and VQNT's blocks. -/
def Obligations.VectorFunctionValues : Prop := dotGroups ∧ specialFunctions ∧ vqntBlocks

/-- The lane-wise operations of `vec`, integer and floating-point, its compares and its conversions. -/
def Obligations.VectorLanes : Prop := vectorIntegerLanes ∧ vectorFloatLanes ∧ vectorCompares ∧ vectorConversions
/-! ## Matrix engine (R217 to R246) -/

/-- Context `x` after operation `u` on physical bank `b` of accumulator `n`, for the restart (R101) and, where it writes, for
what a round's task leaves behind (R360). -/
def bankUsed (x : Ctx) (n b : Nat) (u : BankUse) : Ctx :=
  { x with banks := x.banks.setIfInBounds (2 * n + b) ((x.banks[2 * n + b]?.getD .clean).after u)
           wrote := match u with | .read => x.wrote | _ => NatSet.insert x.wrote (2 * n + b) }

/-- The state after an operation of context `c` has joined its core's array queue (R225 to R227): `.st` zero after 2 ticks, and
completion `count` ticks after the trigger; in a deterministic round it reads what its task has written so far (R327); `x` is the context,
with what the operation changed of it before. -/
def arrayJoined (s : State) (c : Nat) (x : Ctx) (a : Val) (acc count : Nat) (kind : ArrayKind) : State :=
  let o : ArrayOp := { id := s.count, ctx := c, acc := acc, kind := kind, tick := x.lsc + count, postCk := x.shadow.isSome
                       bundle := x.bundle, view := roundWrites s c }
  let t : ArrayTick := { id := s.count, acc := acc, tick := x.lsc + count, swap := kind == .aswap
                         src := match kind with | .mma _ _ _ da _ _ => if da.kind = 2 then some da.base else none | _ => none }
  let y := { started x .mat a 2 none (some 0) with aticks := x.aticks ++ [t] }
  { modCore (setCtx s c y) (ctxCore c) (fun k => { k with aq := k.aq ++ [o] }) with count := s.count + 1 }

/-- The conditions of R233 in their order, each with its trap, for the control word `a` of an MMA or, where `gemm`, an MGEMM. -/
def mmaRows (s : State) (c : Nat) (x : Ctx) (gemm : Bool) (a : D64) : List (Bool × Trap) :=
  let k := a.toNat / 2 ^ 16 % 2 ^ 16
  let sa := slotDesc x (a.toNat / 16 % 8); let sb := slotDesc x (a.toNat / 256 % 8)
  let da := sa.getD ⟨0, 0, 0, 0⟩; let db := sb.getD ⟨0, 0, 0, 0⟩
  let fa := if da.kind = 2 then x.dcv / 256 % 16 else da.fmt
  let bytes := fun (f : Nat) => if f = 2 then 2 * k else if f = 4 then k + k / 32 else k
  let past := fun (d : Desc) (f : Nat) => decide (d.kind = 0 ∧ areaOf s c < d.base + 127 * d.stride * 64 + bytes f)
  [(decide (areaOf s c = 0), .privilege),
   (decide (2 ^ 32 ≤ a.toNat ∨ a.toNat / 2 ^ 11 % 32 ≠ 0 ∨ a.toNat / 2 ^ 7 % 2 ≠ 0 ∨ a.toNat / 4 % 4 ≠ 0 ∨
      (if gemm then k < 256 ∨ 65280 < k ∨ k % 256 ≠ 0 else k < 32 ∨ 1024 < k ∨ k % 32 ≠ 0)) || sa.isNone || sb.isNone, .bounds),
   (decide (da.kind = 1 ∨ db.kind = 2 ∨ (da.kind = 2 ∧ (gemm = true ∨ k ≠ 128))), .bounds),
   (!((fa, db.fmt) ∈ [(0, 0), (0, 1), (1, 0), (1, 1), (3, 3), (2, 2), (0, 4), (1, 4)]), .bounds),
   (decide (db.kind = 1) && wsDenied s c db (bytes db.fmt), .bounds),
   (past da fa || past db db.fmt, .spadRange)]

/-- R101, R218, R224 to R228, R232 to R235: MMA and MGEMM whose operands pass every check of R233, MZERO, ASWAP and APUSH of an
accumulator, on a core where the launch holds accumulators, join the array queue with the completion tick of R225: occupancy of
their K plus 24, 16, 2, or 8 ticks; ASWAP stops the context before its next bundle. The first check of R233 that fails traps,
precisely. With the checking scoreboard on, ASWAP of an accumulator on which an operation of the context has its completion tick
still to come traps UNDERSIZED_COUNT. Where the launch holds no accumulators the others trap PRIVILEGE, and a bad operand BOUNDS. -/
def arrayOperations : Prop :=
  ∀ (m : Mv) (s : State) (c : Nat) (x : Ctx) (f : Frame), Acts s m c x f →
    let o := opndsAt x f m .mat
    let a := o.a64
    let n := a.toNat % 4
    let k := a.toNat / 2 ^ 16 % 2 ^ 16
    let core := coreOf s (ctxCore c)
    let trap := fun (t : Trap) (k : Nat) => Host.Outcome.next (preciseTrap s c { code := t, sock := k, slot := f.cur })
    let early := x.sys.scb && x.aticks.any fun t => !t.swap && (t.acc == n || t.src == some n) && decide (x.lsc < t.tick)
    (∀ p ∈ [(Instr.matMmaOv, false, 0x388), (Instr.matMmaAc, false, 0x389), (Instr.matMgemmOv, true, 0x38A),
        (Instr.matMgemmAc, true, 0x38B)],
      ∀ r, (mmaRows s c x p.2.1 a).find? (·.1) = some r → exec (p.1 m) s = trap r.2 p.2.2) ∧
    (areaOf s c ≠ 0 →
      (∀ p ∈ [(Instr.matMmaOv, false, true), (Instr.matMmaAc, false, false), (Instr.matMgemmOv, true, true), (Instr.matMgemmAc, true, false)],
        ∀ da db, (mmaRows s c x p.2.1 a).all (fun r => !r.1) = true → slotDesc x (a.toNat / 16 % 8) = some da → slotDesc x (a.toNat / 256 % 8) = some db →
        let x1 := if da.kind = 2 then bankUsed x da.base (1 - workBank core da.base) .read else x
        let x2 := bankUsed x1 n (workBank core n) (if p.2.2 then .over else .accum)
        let g : Gemm := { id := s.count, start := x.lsc, total := k / 256, per := occupancy db.fmt 256 }
        let x3 := if p.2.1 then { x2 with gemm := g } else x2
        exec (p.1 m) s = .next (arrayJoined s c x3 o.a n (occupancy db.fmt k + 24) (.mma p.2.2 p.2.1 k da db x.dcv))) ∧
      (a.toNat < 4 → exec (.matMzero m) s = .next (arrayJoined s c (bankUsed x n (workBank core n) .over) o.a n 16 .mzero)) ∧
      (a.toNat < 4 → early = false → exec (.matAswap m) s =
        let t := arrayJoined s c x o.a n 2 .aswap
        .next (modCtx t c fun y => { y with waits := x.waits ++ [.aswap s.count] })) ∧
      (a.toNat < 2 ^ 15 → a.toNat / 4 % 64 = 0 → exec (.matApush m) s =
        .next (arrayJoined s c (bankUsed x n (workBank core n) .accum) o.a n 8 (.apush (a.toNat / 256) o.b)))) ∧
    (areaOf s c = 0 →
      ∀ p ∈ [(Instr.matMmaOv, 0x388), (Instr.matMmaAc, 0x389), (Instr.matMgemmOv, 0x38A), (Instr.matMgemmAc, 0x38B),
          (Instr.matMzero, 0x38C), (Instr.matApop, 0x38E), (Instr.matApush, 0x38F)],
        exec (p.1 m) s = trap .privilege p.2) ∧
    (early = true → exec (.matAswap m) s = trap .undersizedCount 0x38D) ∧
    (areaOf s c = 0 → early = false → exec (.matAswap m) s = trap .privilege 0x38D) ∧
    (areaOf s c ≠ 0 →
      (4 ≤ a.toNat → exec (.matMzero m) s = trap .bounds 0x38C) ∧
      (4 ≤ a.toNat → early = false → exec (.matAswap m) s = trap .bounds 0x38D) ∧
      (2 ^ 15 ≤ a.toNat ∨ a.toNat / 4 % 64 ≠ 0 → exec (.matApush m) s = trap .bounds 0x38F ∧ exec (.matApop m) s = trap .bounds 0x38E))

/-- R225, R229, R230, R234, R235, R240: APOP delivers after 8 ticks the row of the visible bank as it stands at the trigger, with
MATRIX_FAULT where the bank holds an uncorrectable error; MDESC and
MDCV of valid operands write the descriptor slot and the conversion register, and of others take the trap that their check names;
MSTAT delivers its word; MFENCE stops the context before its next bundle until its array operations have completed. -/
def matrixRegisters : Prop :=
  ∀ (m : Mv) (s : State) (c : Nat) (x : Ctx) (f : Frame), Acts s m c x f →
    let o := opndsAt x f m .mat
    let a := o.a64.toNat
    let b := o.b64.toNat
    let st := started x .mat o.a 2 none (some 0)
    (areaOf s c ≠ 0 → a < 2 ^ 15 → a / 4 % 64 = 0 →
      let k := coreOf s (ctxCore c)
      let vis := 1 - workNow k (a % 4)
      ∃ v : Val, (∀ j, j < 128 → v.extractLsb' (32 * j) 32 = accElem k (a % 4) vis (a / 256 * 128 + j)) ∧
        let y := started (bankUsed x (a % 4) vis .read) .mat o.a 8 (some (v, BitVec.allOnes 4096)) (some 0)
        (bankBad k (a % 4) vis = false → exec (.matApop m) s = .next (setCtx s c y)) ∧
        (bankBad k (a % 4) vis = true → exec (.matApop m) s = .next (setCtx s c { y with
          infl := fillList y.infl x.seq fun e => { e with late := some { code := .matrixFault, arg := a % 4 } } }))) ∧
    (mdescCheck s c o = none → exec (.matMdesc m) s =
      let d : Desc := { kind := b / 16 % 16, fmt := b / 256 % 16, stride := b / 2 ^ 16 % 2 ^ 16, base := a }
      .next (setCtx s c { st with desc := x.desc.setIfInBounds (b % 8) (some d) })) ∧
    (mdcvCheck s c o = none → exec (.matMdcv m) s = .next (setCtx s c { st with dcv := a })) ∧
    (∀ t, mdescCheck s c o = some t →
      exec (.matMdesc m) s = .next (preciseTrap s c { code := t, sock := 0x390, slot := f.cur })) ∧
    (∀ t, mdcvCheck s c o = some t →
      exec (.matMdcv m) s = .next (preciseTrap s c { code := t, sock := 0x391, slot := f.cur })) ∧
    (∃ y : Ctx, exec (.matMstat m) s = .next (setCtx s c y) ∧
      y.infl.map (fun e => { e with need := none }) =
        (started x .mat o.a 2 (full64 (mstatWord x)) (some 0)).infl.map (fun e => { e with need := none }) ∧
      y.lat = st.lat ∧ y.regs = x.regs ∧ y.aticks = x.aticks) ∧
    exec (.matMfence m) s = .next (setCtx s c { st with waits := x.waits ++ [.arrayTo s.count] })

/-- R217, R224, R226, R227, R232, R234, R235, R236: what the array does. ARRAY_OP_START starts the oldest operation that has not
started, once what was started before it, in the queue's order, is in its last step at most. MZERO, APUSH and MMA at the head, once
started, complete: every element of the working bank then is zero, the pushed row's element or as before, or the dot groups of its
row and column added in increasing K to zero (`.ov`) or to what was there (`.ac`); no other accumulator and no byte of memory
changes, and the operation leaves the queue. MGEMM_K_STEP of a started MGEMM adds the groups of its next 256 values of K.
ASWAP_PERFORM exchanges the banks of its accumulator. -/
def Obligations.ArraySteps : Prop :=
  ∀ (s : State), let k := s.args.a; let y := coreOf s k
    (∀ pre o rest, y.aq = pre ++ o :: rest → y.saving = false → s.args.b = 0 → o.started = false → o.kind.isSwap = false →
      (∀ p ∈ pre, p.started = true ∧ p.kind.isSwap = false ∧ stepsOf p ≤ p.ksteps + 1) → (∀ p ∈ rest, p.started = false) →
      exec .arrayOpStart s = .next (setCore s k (modArray y o.id fun p => { p with started := true }))) ∧
    (∀ o rest, y.aq = o :: rest → o.started = true → ctxCore o.ctx = k → o.acc < 4 →
      let w := workNow y o.acc
      let after := fun (g : Nat → BitVec 32) => ∃ t, exec .arrayOpComplete s = .next t ∧
        (∀ i, i < 16384 → accElem (coreOf t k) o.acc w i = g i) ∧
        (∀ n, n ≠ o.acc → (coreOf t k).accs[n]? = y.accs[n]?) ∧ workNow (coreOf t k) o.acc = w ∧
        (coreOf t k).spad = y.spad ∧ t.mem = s.mem ∧ t.host = s.host ∧ ∀ p ∈ (coreOf t k).aq, p.id ≠ o.id
      (o.kind = .mzero → after fun _ => 0) ∧
      (∀ row data, o.kind = .apush row data → row < 128 → Sparse.wf 0 (accBank y o.acc w) = true → after fun i =>
        if i / 128 = row then data.extractLsb' (32 * (i % 128)) 32 else accElem y o.acc w i) ∧
      (∀ ov kk da db dcv, o.kind = .mma ov false kk da db dcv → productFault s o ov kk da db 0 (kk / groupSize db.fmt) = none → after fun i =>
        BitVec.ofNat 32 (elemSum s o da db dcv kk (i / 128) (i % 128) 0 (kk / groupSize db.fmt)
          (if ov then 0 else (accElem y o.acc w i).toNat)).1)) ∧
    (∀ o rest ov kk da db dcv, y.aq = o :: rest → o.started = true → y.saving = false → ctxCore o.ctx = k → o.acc < 4 →
      o.kind = .mma ov true kk da db dcv → o.ksteps < kk / 256 →
      productFault s o (ov && o.ksteps == 0) kk da db (o.ksteps * (256 / groupSize db.fmt)) (256 / groupSize db.fmt) = none →
      ∃ t, exec .mgemmKStep s = .next t ∧ t.mem = s.mem ∧ (coreOf t k).spad = y.spad ∧
        (∀ i, i < 16384 → accElem (coreOf t k) o.acc (workNow y o.acc) i =
          BitVec.ofNat 32 (elemSum s o da db dcv kk (i / 128) (i % 128) (o.ksteps * (256 / groupSize db.fmt)) (256 / groupSize db.fmt)
            (if ov && o.ksteps == 0 then 0 else (accElem y o.acc (workNow y o.acc) i).toNat)).1) ∧
        (coreOf t k).aq.head?.map (fun p => p.ksteps) = some (if o.stop then kk / 256 else o.ksteps + 1)) ∧
    (∀ o rest, y.aq = o :: rest → o.kind = .aswap → o.acc < 4 →
      ∃ t, exec .aswapPerform s = .next t ∧ workNow (coreOf t k) o.acc = 1 - workNow y o.acc ∧ (coreOf t k).aq = rest ∧
        (∀ n, n ≠ o.acc → (coreOf t k).accs[n]? = y.accs[n]?) ∧ (coreOf t k).spad = y.spad ∧ t.mem = s.mem)

/-- Triggers of the matrix engine: the operations that join the array queue, and the others. -/
def Obligations.MatrixEngine : Prop := arrayOperations ∧ matrixRegisters

/-! ## Copy engines (R247 to R280) -/

/-- The state after copy command `j` of context `c`, which has become `y`, has issued (R91, R252): its token is pending, it has
taken the ASID and the generation, and it stands last in the queue of its die. -/
def copyIssued (s : State) (c : Nat) (y : Ctx) (j : Job) : State :=
  let asid := asidOf s j.region
  let j' : Job := { j with id := s.count, asid := asid, gen := (spaceOf s asid).gen
                           async := if j.token = 0 then none else some (s.count + 1), ov := if inRound s c then some c else none }
  let t := setCtx s c (issueAsync y (s.count + 1) (BitVec.ofNat 12 j.token) false j.handler false)
  { modDie t (ctxDie c) (fun d => { d with jobs := d.jobs ++ [j'] }) with count := s.count + 2 }

/-- The copy commands: socket, checks, and the token and the work that the operands and the scratchpad name (R249, R251, R269,
R271). -/
def copyRows : List ((Mv → Instr) × Nat × Check × (State → Nat → Opnds → Nat × JobKind)) := [
  (.cpyCpy, 0x3C8, cpyCheck, fun s c o => ((cardOf (cardWords s c o.a64.toNat)).token, .card (cardWords s c o.a64.toNat))),
  (.cpyCpst, 0x3CB, cpstCheck, fun _ _ o => (o.c64.toNat / 256 % 64,
    .cpst o.a64.toNat (leBytes (o.c64.toNat % 128) o.b.toNat))),
  (.cpyPagereq, 0x3CD, pagereqCheck, fun _ _ o => (o.b64.toNat % 64, .pagereq o.a64.toNat (o.b64.getLsbD 8)))]

/-- R90, R91, R95, R247, R251 to R253, R269, R271: CPY, CPST and PAGEREQ that pass their checks deliver `.r` and `.st` zero after
2 ticks. With checkpoint mode on the command is withheld; else it issues at once, as its bundle has issued only where the limits of
R253, R90 and R91 allow (`copyOverLimit`). A failing check traps precisely. -/
def copyCommands : Prop :=
  ∀ p ∈ copyRows, ∀ (m : Mv) (s : State) (c : Nat) (x : Ctx) (f : Frame), Acts s m c x f →
    let o := opndsAt x f m .cpy
    let w := p.2.2.2 s c o
    let j := newJob s c w.1 w.2
    let y := started x .cpy o.a 2 (full64 0) (some 0)
    (p.2.2.1 s c o = none →
      (ckOn x = true → exec (p.1 m) s = .next (setCtx s c { y with held := x.held ++ [.job j] })) ∧
      (ckOn x = false → x.going = [] → jobFits s c j = true → exec (p.1 m) s = .next (copyIssued s c y j))) ∧
    (∀ t, p.2.2.1 s c o = some t → exec (p.1 m) s = .next (preciseTrap s c { code := t, sock := p.2.1, slot := f.cur }))

/-- R90, R91, R253: a bundle with a copy command that would exceed the limits waits before any of its moves acts: with checkpoint
mode off, where the context's 32 copy operations, its die's queue, its partition's share, or the asynchronous writes of its
token leave no room, the core carries out no bundle, and no context, memory or engine changes. -/
def copyOverLimit : Prop :=
  ∀ (s : State) (k c : Nat) (x : Ctx) (y : Kernel) (ws : List Word), Alone s k c x y → x.late = [] → fetchAt y c x.pc = .dict ws →
    MayIssue s c x ws → x.sys.scb = false → ckOn x = false →
    let acting := actingSlots x.regs ws
    let f := makeFrame x ws 1 (bundleTodo (ws.headD 0) acting)
    ∀ p ∈ acting, ∀ r ∈ copyRows, (slotDst p.2).toNat = r.2.1 →
      let u := setCtx s c { x with bundle := x.bundle + 1 }
      let w := r.2.2.2 u c (operandsOf x f acting p)
      jobFits s c (newJob s c w.1 w.2) = false →
      ∃ t, exec .bundleIssue s = .next t ∧ t.active = s.active ∧ t.mem = s.mem ∧ t.dies = s.dies ∧ (∀ d, ctxOf t d = ctxOf s d)

/-- R251: the checks of CPY in their order: the card's range, its alignment, its fields, the ranges that it names, their
alignment, and the policy of MIGRATE. -/
def cardChecks : Prop :=
  ∀ (s : State) (c : Nat) (o : Opnds),
    let a := o.a64.toNat
    let k := cardOf (cardWords s c a)
    let range := a < 2 ^ 20 ∧ a + 64 ≤ areaOf s c
    (¬ range → cpyCheck s c o = some .spadRange) ∧
    (range → a % 64 ≠ 0 → cpyCheck s c o = some .misaligned) ∧
    (range → a % 64 = 0 → k.bad = true → cpyCheck s c o = some .bounds) ∧
    (range → a % 64 = 0 → k.bad = false → k.outside (areaOf s c) = true → cpyCheck s c o = some .spadRange) ∧
    (range → a % 64 = 0 → k.bad = false → k.outside (areaOf s c) = false → k.misaligned = true →
      cpyCheck s c o = some .misaligned) ∧
    (range → a % 64 = 0 → k.bad = false → k.outside (areaOf s c) = false → k.misaligned = false →
      cpyCheck s c o = if k.kind = 6 ∧ migratePolicy s (ctxRegion s c) = false then some .privilege else none)

/-- R90, R91, R247, R268, R270, R273, R261: CPLD and CPLD.sb in a bundle where an eager trigger may stand issue at once, with the
destination and the residency mask pending (`.sb` marks them span-bound and makes nothing pending); DRAIN makes the context
wait for its copy work; JOBQ, CPQRY and SLOTQ deliver their words after 2 ticks; that CPQRY answers 1
inside a round is the model's reading (log entry 31). -/
def copyLoadsAndQueries : Prop :=
  ∀ (m : Mv) (s : State) (c : Nat) (x : Ctx) (f : Frame), Acts s m c x f →
    let o := opndsAt x f m .cpy
    let a := o.a64.toNat
    let b := o.b64
    let y := started x .cpy o.a 2 (full64 0) (some 0)
    let told := fun (i : Instr) (v : D64) => exec i s = .next (setCtx s c (started x .cpy o.a 2 (full64 v) (some 0)))
    (∀ p ∈ [(Instr.cpyCpld, false), (.cpyCpldSb, true)], (ckOn x = true → 3 ≤ (hdrSpan f.header).toNat) → cpldCheck s c o = none →
      let h := x.aside.isSome
      let mask : BitVec 12 := BitVec.ofNat 12 (0xA0 + b.toNat / 2 ^ 24 % 8)
      let z1 := issueAsync y (s.count + 1) (b.setWidth 12) p.2 h true
      let z := if b.getLsbD 27 then issueAsync z1 (s.count + 2) mask p.2 h true (some (s.count + 1)) else z1
      let asid := asidOf s (ctxRegion s c)
      let j : Job := { newJob s c 0 (.cpld a (b.toNat / 2 ^ 16 % 128) (b.setWidth 12) p.2 (if b.getLsbD 27 then some mask else none)) with
                       id := s.count, asid := asid, gen := (spaceOf s asid).gen, async := some (s.count + 1)
                       async2 := if b.getLsbD 27 then some (s.count + 2) else none, ov := if inRound s c then some c else none }
      exec (p.1 m) s = .next { modDie (setCtx s c z) (ctxDie c) (fun d => { d with jobs := d.jobs ++ [j] }) with count := s.count + 3 }) ∧
    (a ≤ 4 → exec (.cpyDrain m) s = .next (setCtx s c { y with waits := x.waits ++ [.copyTo a] })) ∧
    (a = 0 → told (.cpyJobq m) (BitVec.ofNat 64 (outstanding s c +
      2 ^ 8 * ((cardsOf s (ctxDie c)).filter fun k => partOf s k.region == ctxPart s c).length + 2 ^ 24 * cardShare s (ctxPart s c) (ctxDie c)))) ∧
    (a = 1 → told (.cpyJobq m) (BitVec.ofNat 64 (dieOf s (ctxDie c)).spec)) ∧
    (a = 2 → told (.cpyJobq m) (BitVec.ofNat 64 (regionOf s (budgetRegion s (ctxRegion s c) 9)).copyb)) ∧
    (∀ n (hn : n < 64), 0 < n → a = n →
      told (.cpyCpqry m) (if inRound s c = true ∨ x.regs.g[n].pend = false ∨ x.regs.g[n].land = true then 1 else 0)) ∧
    (a = 512 → told (.cpySlotq m) (BitVec.ofNat 64 ((dieOf s (ctxDie c)).cycle / 64 % 256))) ∧
    (a < 512 → ∃ v : D64, told (.cpySlotq m) v ∧ ∀ n, n < 64 →
      v.getLsbD n = (slotCell (dieOf s (ctxDie c)) (a % 256) n == if 256 ≤ a then 0x7F else ctxPart s c))

/-- The words of a job's status at its end. -/
def jobEnds (t : State) (die : Nat) (j : Job) (code info : Nat) : Prop :=
  ∃ j', jobOf t die j.id = some j' ∧ j'.ended = true ∧ j'.moving = false ∧ j'.status = code ∧ j'.info = info

/-- The kinds of cards and their events (R250). -/
def cardKinds : List (Instr × Nat) :=
  [(.cardLinear, 0), (.cardStrided, 1), (.cardGather, 2), (.cardScatter, 3), (.cardTile, 4), (.cardWswrite, 5)]

/-- The page of an address may be written: it is resident and its WR bit is set (R262, R274). That no address outside the 56 bits can be
is the model's reading (log entry 29). -/
def CanWrite (s : State) (asid : Nat) (a : Int) : Prop :=
  0 ≤ a ∧ a < 2 ^ 56 ∧ ∃ leaf at_ sz, (walkVa s asid a.toNat).1 = .page leaf at_ sz ∧ leaf.getLsbD 60 = true

/-- R254, R258, R262: a card that its die may dispatch takes its channel, and its checks are made in order: a stale generation,
a budget that does not suffice, a bad space, the weight-store bank, a bad index, and a destination page that cannot be
written (WFAULT, with the stream offset of the first byte in it; one outside the 56 bits of an address too, which is the model's reading, log
entry 29) each give it its status, with no byte written and the budget as
before; a card that passes, whichever space it writes, holds its index list, has debited its length and moves its stream. For
MEM it is taken that no translation of the address space is cached on the die, that its root table is aligned and that no migration is
under way. -/
def cardDispatch : Prop :=
  ∀ p ∈ cardKinds, ∀ (s : State) (die : Nat) (j : Job) (ws : List D64) (n : Nat),
    s.args.a = die → jobOf s die s.args.b = some j → j.kind = .card ws → (cardOf ws).kind = p.2 → j.chan = none → j.ended = false →
    j.moving = false → j.held = 0 → dispatchChan s die j = some n →
    let k := cardOf ws
    let br := budgetRegion s j.region 9
    let budget := fun (t : State) => (regionOf t br).copyb
    let same := (spaceOf s j.asid).gen = j.gen
    let paid := k.cost ≤ budget s ∧ (Tab.find s.regions br).isSome
    ∃ t, exec p.1 s = .next t ∧ (∃ j', jobOf t die j.id = some j' ∧ j'.chan = some n) ∧ (k.ds ≠ 0 → s.migs = [] → t.mem = s.mem) ∧
      t.ctxs = s.ctxs ∧ t.cores = s.cores ∧
      (¬ same → jobEnds t die j 0x02 j.gen ∧ budget t = budget s) ∧
      (same → budget s < k.cost → jobEnds t die j 0x07 0 ∧ budget t = budget s) ∧
      (same → paid → ∀ side, badSpace s j k = some side → jobEnds t die j 0x0C side ∧ budget t = budget s) ∧
      (same → paid → badSpace s j k = none → ∀ code bank, wsCheck s die j k = some (code, bank) →
        jobEnds t die j code bank ∧ budget t = budget s) ∧
      (same → paid → badSpace s j k = none → wsCheck s die j k = none →
        (∀ i, badIndex k (indexList s j k) = some i → jobEnds t die j 0x06 i ∧ budget t = budget s) ∧
        (badIndex k (indexList s j k) = none → k.ds ≠ 0 → budget t = budget s - k.cost ∧
          ∃ j', jobOf t die j.id = some j' ∧ j'.moving = true ∧ j'.words = indexList s j k ∧ j'.held = 0) ∧
        (badIndex k (indexList s j k) = none → k.ds = 0 → s.mem.wf = true → s.migs = [] →
          (∀ r, (spaceOf s j.asid).root = some r → r % 8 = 0) → (∀ e ∈ (dieOf s die).tlb, e.asid ≠ j.asid) →
          let at_ := fun n => streamAddr k (indexList s j k) true n
          ((∀ q ∈ pageEntries k (indexList s j k), CanWrite s j.asid (at_ q)) → budget t = budget s - k.cost ∧
            ∃ j', jobOf t die j.id = some j' ∧ j'.moving = true ∧ j'.words = indexList s j k ∧ j'.held = 0) ∧
          (∀ pre q post, pageEntries k (indexList s j k) = pre ++ q :: post → (∀ p ∈ pre, CanWrite s j.asid (at_ p)) →
            ¬ CanWrite s j.asid (at_ q) → jobEnds t die j 0x03 q ∧ budget t = budget s)))

/-- Triggers of the copy engines: the commands, what they check first, and the limits that they wait for. -/
def Obligations.CopyTriggers : Prop := copyCommands ∧ copyOverLimit ∧ cardChecks ∧ copyLoadsAndQueries

/-- A byte of its stream that a card has not read yet. -/
def StillUnread (j : Job) (k : Card) (n : Nat) : Prop := ∃ g ∈ unread j k, g.1 ≤ n ∧ n < g.2

/-- R249, R259, R262, R266, R317: a card that moves and whose channel has the slot reads a run of its stream, the one at its first byte
that is not read or one that starts c bytes behind it, or d bytes of it: the bytes of a run are not read yet and lie one behind the other
in one 64-byte unit of the destination. After that they are read, and no other. Read from a scratchpad the bytes are those that stand there; nothing is
written. Which bytes of the stream make a run that is read in one step is the model's reading (log entry 28). -/
def cardReadsRuns : Prop :=
  ∀ p ∈ cardKinds, ∀ (s : State) (die : Nat) (j : Job) (ws : List D64),
    s.args.a = die → jobOf s die s.args.b = some j → j.kind = .card ws → (cardOf ws).kind = p.2 → j.chan.isSome = true →
    j.moving = true → j.ended = false → slotOpen s die j = true →
    let k := cardOf ws
    let n := j.read + s.args.c
    let dst := fun i => streamAddr k j.words true (n + i)
    (¬ StillUnread j k n → exec p.1 s = .next s) ∧
    (StillUnread j k n → ∃ m t, 1 ≤ m ∧ m ≤ max 1 (runLength k j.words n) ∧
      (j.early = [] → s.args.c = 0 → m = if s.args.d = 0 then max 1 (runLength k j.words n) else min s.args.d (max 1 (runLength k j.words n))) ∧
      (∀ i, i < m → StillUnread j k (n + i) ∧ dst i = dst 0 + i ∧ dst i / 64 = dst 0 / 64) ∧
      exec p.1 s = .next t ∧ t.cores = s.cores ∧ t.ctxs = s.ctxs ∧ t.host = s.host ∧
      ∃ j', jobOf t die j.id = some j' ∧ j'.owed = j.owed ∧
        (∀ i, StillUnread j' k i ↔ StillUnread j k i ∧ ¬ (n ≤ i ∧ i < n + m)) ∧
        (k.ss ≠ 0 → s.migs = [] → t.mem = s.mem) ∧
        ((k.ss = 1 ∨ k.ss = 2) → j.ov = none → ∃ q, j'.buf = j.buf ++ [q] ∧ q.pos = n ∧ q.bytes.length = m ∧
          ∀ i, i < m → let at_ := spadSide j k.ss k.sb (streamAddr k j.words false (n + i))
            q.bytes[i]? = some ((coreOf s at_.1).spad.read at_.2)))

/-- The bytes of one write step of a card: where they lie and what they are, all from sources without an error, in a unit that the
card has not written poisoned before (R266, R267). -/
def CleanRun (j : Job) (k : Card) (ps : List Piece) (a : Int) (bs : List Byte) : Prop :=
  runsOf j k ps = [(a, bs, false)] ∧ NatSet.mem j.marked (a.toNat / 64) = false

/-- R266: the bytes that a card writes in one step: a piece of its own, where the card does not write every byte of the unit; else
every piece of the unit, as its 64 bytes, once they have all been read. -/
def writeSteps : Prop :=
  ∀ (j : Job) (k : Card) (q : Piece), let u := pieceUnit j k q; let parts := unitParts k j.words u
    (wholeUnit parts = false → stepPieces j k q = some [q] ∧
      runsOf j k [q] = [(streamAddr k j.words true q.pos, q.bytes, q.bad)]) ∧
    (wholeUnit parts = true → (∃ r ∈ parts, ∃ i, i < r.2.2 ∧ StillUnread j k (r.1 + i)) → stepPieces j k q = none) ∧
    (wholeUnit parts = true → (∀ r ∈ parts, ∀ i, i < r.2.2 → ¬ StillUnread j k (r.1 + i)) → ∃ ps, stepPieces j k q = some ps ∧
      (∀ p, p ∈ ps ↔ p ∈ j.buf ∧ pieceUnit j k p = u) ∧
      ∀ a bs, 1 < ps.length → (∀ i : Nat, i < 64 → ∃ p ∈ ps, streamAddr k j.words true p.pos ≤ 64 * u + i ∧
        64 * u + i < streamAddr k j.words true p.pos + p.bytes.length) → (runsOf j k ps).head?.map (fun r => (r.1, r.2.1)) = some (a, bs) →
        a = 64 * u ∧ bs.length = 64 ∧ (runsOf j k ps).length = 1)

/-- R189, R207, R265, R266, R321: a run that arrives at a scratchpad writes exactly its bytes there, marks FULL the words of which the
card has no byte left to write, where it says so, and adds its length to what the card's barrier is owed; at the weight store it
writes exactly its bytes there; in MEM likewise, where the page may be written or could be at the card's dispatch (log entry 30): the
card's own context reads them from then on, every other agent at once or, until they have performed for it, what stood there before
(log entry 27). It leaves the card's buffer, and
all other storage is as before. In a deterministic round a scratchpad run goes into the overlay instead. A piece of a unit that
the card writes whole waits until all of the unit is read. -/
def cardWrites : Prop :=
  ∀ (s : State) (die : Nat) (j : Job) (ws : List D64) (q : Piece),
    s.args.a = die → jobOf s die s.args.b = some j → j.kind = .card ws → j.buf[s.args.c]? = some q → slotOpen s die j = true →
    let k := cardOf ws
    (stepPieces j k q = none → exec .cardBytesArrive s = .next s) ∧
    ∀ ps a bs, stepPieces j k q = some ps → CleanRun j k ps a bs →
      let at_ := spadSide j k.ds k.db a
      let n := bs.length
      ∃ t, exec .cardBytesArrive s = .next t ∧ t.host = s.host ∧ (j.ov = none → t.ctxs = s.ctxs) ∧
        (∃ j', jobOf t die j.id = some j' ∧ j'.buf = j.buf.filter (fun p => !ps.any fun r => r.pos == p.pos) ∧ j'.read = j.read ∧
          (k.ds ≠ 0 → j'.owed = if k.bar then j.owed + n else j.owed)) ∧
        ((k.ds = 1 ∨ k.ds = 2) → t.mem = s.mem ∧ (j.ov.isSome → t.cores = s.cores)) ∧
        ((k.ds = 1 ∨ k.ds = 2) → j.ov = none → (coreOf s at_.1).spad.wf = true → (∀ i, i ≠ at_.1 → coreOf t i = coreOf s i) ∧
          (∀ i, i < n → (coreOf t at_.1).spad.read (at_.2 + i) = bs.getD i 0) ∧
          (∀ b, b < at_.2 ∨ at_.2 + n ≤ b → (coreOf t at_.1).spad.read b = (coreOf s at_.1).spad.read b) ∧
          (∀ w, NatSet.mem (coreOf t at_.1).empty w = (NatSet.mem (coreOf s at_.1).empty w &&
            !(k.tagf && (doneWords j k ps a at_.2 n).contains w))) ∧
          (k.tagf = true → ps = j.buf → k.len ≤ j.read → ∀ w ∈ tagWords at_.2 n, NatSet.mem (coreOf t at_.1).empty w = false)) ∧
        (k.ds = 0 → j.ov = none → s.migs = [] → s.lags = [] → s.mem.wf = true → ∀ leaf sz u,
          cardPage s die j a.toNat = (.yes leaf sz, u) →
          let key := pageKey leaf sz a.toNat
          t.cores = s.cores ∧ t.mem = Memory.writeBytes u.mem key bs ∧ (∀ i, i < n → seenByte t (j.reader die) (key + i) = bs.getD i 0) ∧
          (∀ r i, i < n → seenByte t r (key + i) = bs.getD i 0 ∨ seenByte t r (key + i) = u.mem.read (key + i)) ∧
          ∃ j', jobOf t die j.id = some j' ∧ j'.owed = if k.bar then j.owed + n else j.owed) ∧
        (k.ds = 3 → (dieOf s die).ws.wf = true → t.mem = s.mem ∧ t.cores = s.cores ∧
          (∀ i, i < n → (dieOf t die).ws.read (a.toNat + i) = bs.getD i 0) ∧
          (∀ b, b < a.toNat ∨ a.toNat + n ≤ b → (dieOf t die).ws.read b = (dieOf s die).ws.read b))

/-- What one step of a card writes, and the writing of it. -/
def Obligations.CardBytesArriveWrites : Prop := writeSteps ∧ cardWrites

/-- R254, R263 to R265, R270, R301: what is left of a card. What it owes its barrier is counted down there, by as many bytes as have
performed since the last time, for every agent of the domain; where they are the last that the phase waits for, and every arrival is
in, the phase of the barrier completes; that a decrement without effect at an entry that the card may not use or reach, or that is
no sound barrier, counts no drop is the model's choice (log entry 69). Once its status stands and it owes nothing the card
completes: its bytes have performed for every agent, its token's asynchronous write gets the status word of R263 (bit 8, the code,
the information), the bitmap of R264 is written where it asked for one, to the core's scratchpad or where its image stands (R280), and the
job is gone. A CPST performs at its home likewise,
once no earlier small transfer of its context to its unit is outstanding; where some agent does not see it yet, it ends with its
token once all do. A write that is not seen by all yet may perform at the next wider scope in between (log entry 27). -/
def Obligations.CopyCompletion : Prop :=
  ∀ (s : State) (die : Nat) (j : Job), s.args.a = die → jobOf s die s.args.b = some j →
    let finish := fun (t : State) (code info : Nat) =>
      Host.Outcome.next (dropJob (asyncValue t j.ctx j.async (tokenWord code info)) die j.id)
    (∀ ws, j.kind = .card ws → j.owed ≠ 0 → j.ov = none →
      exec .barDecrement s =
        .next (barrierDec (modJob (performDomain s j.id) die j.id fun j => { j with owed := 0 }) j.region (cardOf ws).bsem j.owed) ∧
      (let e := entryOf s (cardOf ws).bsem
       e.type = 2 → e.poison = false → semUse s j.region e false = true → NatSet.mem s.unreach (semNode (cardOf ws).bsem) = false →
       e.arrived = e.expect →
       e.pendBytes = BitVec.ofNat 64 j.owed →
       ∃ t, exec .barDecrement s = .next t ∧ entryOf t (cardOf ws).bsem = e.setBarrier (!e.phase) 0 0 ∧
         ∀ b, b ≠ (cardOf ws).bsem → entryOf t b = entryOf s b)) ∧
    (∀ ws, j.kind = .card ws → s.args.c ≠ 0 → exec .cardComplete s = .next (widenLag s j.id s.args.c)) ∧
    (∀ n w, (s.lags.filter fun l => l.job == j.id)[n]? = some w → ∃ t, widenLag s j.id (n + 1) = t ∧ t = { s with lags := t.lags } ∧
      (w.level < 3 → { w with level := w.level + 1 } ∈ t.lags ∧ t.lags.length = s.lags.length) ∧ (3 ≤ w.level → w ∉ t.lags)) ∧
    (∀ ws, j.kind = .card ws → s.args.c = 0 → j.ended = true → j.owed = 0 → ((cardOf ws).rmap = false ∨ j.moving = false) →
      exec .cardComplete s = finish (performWide s j.id) j.status j.info) ∧
    (∀ ws, j.kind = .card ws → s.args.c = 0 → j.ended = true → j.owed = 0 → (cardOf ws).rmap = true → j.moving = true → j.ov = none →
      let k := cardOf ws
      let own := j.spadCore j.core
      ∃ t, exec .cardComplete s = .next t ∧ jobOf t die j.id = none ∧ t.mem = s.mem ∧
        ((coreOf s own).spad.wf = true → ∀ i, i < k.mapBytes →
          (coreOf t own).spad.read (k.rmb + i) = (bitmapBytes k j.absent).getD i 0)) ∧
    (∀ va data, j.kind = .cpst va data → j.ended = true → (s.args.c = 0 → exec .cpstComplete s = finish (performWide s j.id) 0 0) ∧
      (s.args.c ≠ 0 → exec .cpstComplete s = .next (widenLag s j.id s.args.c))) ∧
    (∀ va data, j.kind = .cpst va data → j.ended = false → smallBehind s j va = false →
      ((spaceOf s j.asid).gen ≠ j.gen → exec .cpstComplete s = finish s 0x02 j.gen) ∧
      ((spaceOf s j.asid).gen = j.gen →
        (∀ u, writable s die portChan j.asid va = (.wfault, u) → exec .cpstComplete s = finish u 0x03 0) ∧
        (∀ n l z u, writable s die portChan j.asid va = (.unreach n l z, u) → exec .cpstComplete s = finish u 0x0B n) ∧
        (∀ leaf sz u, writable s die portChan j.asid va = (.yes leaf sz, u) →
          let v := copyStore u die j leaf sz va data
          ((∀ l ∈ v.lags, l.job ≠ j.id) → exec .cpstComplete s = finish v 0 0) ∧
          ((∃ l ∈ v.lags, l.job = j.id) → exec .cpstComplete s = .next (modJob v die j.id fun j => { j with ended := true })) ∧
          (j.ov = none → s.migs = [] → v.mem = Memory.writeBytes u.mem (pageKey leaf sz va) data))))

/-- R271, R272: MIGRATE and paging. A MIGRATE of XN 0 that is dispatched and affords it arms the record of its new frame, with
every line absent; one of XN 1 ends when that record is gone; a background pull copies one absent line of 1 KiB from the old
frame to the new one and takes it off the record. The pager makes a page that is absent resident, and writable where that was
asked, or refuses with a reason that holds: NO_FRAME for a page that is absent, READ_ONLY where a writable page was asked,
HOME_UNREACHABLE where the node of the page is, or the fourth; its answer waits while its services are paused. Without the pager
a page that is as asked completes at once; an address without a page is answered INVALID. -/
def migrationAndPaging : Prop :=
  ∀ (s : State) (die : Nat) (j : Job), s.args.a = die → jobOf s die s.args.b = some j →
    let finish := fun (u : State) (code info : Nat) => exec .pagerDecision s = .next (dropJob (asyncValue u j.ctx j.async (tokenWord code info)) die j.id)
    (∀ ws n, j.kind = .card ws → (cardOf ws).kind = 6 → (cardOf ws).xn = 0 → dispatchChan s die j = some n → j.moving = false →
      (spaceOf s j.asid).gen = j.gen → (cardOf ws).cost ≤ (regionOf s (budgetRegion s j.region 9)).copyb →
      ∃ t, exec .migrateArm s = .next t ∧ t.mem = s.mem ∧
        (∃ j', jobOf t die j.id = some j' ∧ j'.chan = some n ∧ j'.ended = true ∧ j'.status = j.status) ∧
        { new := frameKey (cardOf ws).db, old := frameKey (cardOf ws).sb, absent := List.range 512, asid := j.asid } ∈ t.migs) ∧
    (∀ ws, j.kind = .card ws → (cardOf ws).kind = 6 → (cardOf ws).xn = 1 → j.chan.isSome = true → j.moving = true → j.ended = false →
      (s.migs.any fun m => m.new == frameKey (cardOf ws).db) = false →
      exec .migrateWait s = .next (modJob s die j.id fun j => { j with ended := true })) ∧
    (∀ va write leaf at_ sz u, j.kind = .pagereq va write → walkVa s j.asid va = (.absent leaf at_ sz, u) →
      (s.fw.paused = true → exec .pagerDecision s = .next u) ∧
      (s.fw.paused = false → NatSet.mem s.unreach (pteNode leaf) = false → s.args.c = 0 → s.args.d = 0 →
        ∃ t, exec .pagerDecision s = .next t ∧ jobOf t die j.id = none ∧
        (s.migs = [] → s.mem.wf = true → read64 t.mem (physKey s.node at_) =
          leaf ||| BitVec.ofNat 64 (2 ^ 61) ||| (if write then BitVec.ofNat 64 (2 ^ 60) else 0)) ∧
        (∀ a, a < physKey s.node at_ ∨ physKey s.node at_ + 8 ≤ a → s.migs = [] → s.mem.wf = true → t.mem.read a = s.mem.read a)) ∧
      (s.fw.paused = false → s.args.c = 1 ∨ (s.args.c = 2 ∧ write = true) ∨
        (s.args.c = 3 ∧ NatSet.mem s.unreach (pteNode leaf) = true) ∨ s.args.c = 4 → finish u 0x0A s.args.c) ∧
      ((s.args.c = 2 ∧ write = false) ∨ (s.args.c = 3 ∧ NatSet.mem s.unreach (pteNode leaf) = false) →
        exec .pagerDecision s = .next u)) ∧
    (∀ va write leaf at_ sz u, j.kind = .pagereq va write → walkVa s j.asid va = (.page leaf at_ sz, u) →
      ((leaf.getLsbD 60 = true ∨ write = false) → finish u 0 0) ∧
      (leaf.getLsbD 60 = false → write = true → s.fw.paused = false → NatSet.mem s.unreach (pteNode leaf) = false → s.args.c = 0 →
        ∃ t, exec .pagerDecision s = .next t ∧ jobOf t die j.id = none ∧
          (s.migs = [] → s.mem.wf = true → read64 t.mem (physKey s.node at_) = leaf ||| BitVec.ofNat 64 (2 ^ 61) ||| BitVec.ofNat 64 (2 ^ 60))) ∧
      (leaf.getLsbD 60 = false → write = true → s.fw.paused = false → s.args.c = 2 ∨ s.args.c = 4 → finish u 0x0A s.args.c) ∧
      (leaf.getLsbD 60 = false → write = true → s.args.c = 1 → exec .pagerDecision s = .next u)) ∧
    (∀ va write, j.kind = .pagereq va write → ∀ u, walkVa s j.asid va = (.invalid, u) →
      (s.fw.paused = false → finish u 0x09 0) ∧ (s.fw.paused = true → exec .pagerDecision s = .next u))

/-- R272: a background pull copies the absent line from the old frame and takes it off the record, and nothing else of memory changes;
where the line of the old frame is itself absent under another record, that line is pulled first. -/
def migrationPullsLine : Prop :=
  ∀ (s : State) (m : Migration), s.migs.find? (fun r => r.new == s.args.a && r.active && r.absent.contains s.args.b) = some m →
    s.mem.wf = true →
    let new := m.new + 1024 * s.args.b
    let old := m.old + 1024 * s.args.b
    ∃ t, exec .migrateLinePull s = .next t ∧ t.cores = s.cores ∧ t.ctxs = s.ctxs ∧ (∀ r ∈ t.migs, r.new = m.new → s.args.b ∉ r.absent) ∧
      (absentAt s.migs old = none → (∀ i, i < 1024 → t.mem.read (new + i) = s.mem.read (old + i)) ∧
        ∀ a, a < new ∨ new + 1024 ≤ a → t.mem.read a = s.mem.read a) ∧
      (∀ r, absentAt s.migs old = some r → (old - r.new) % 1024 = 0 → absentAt s.migs (r.old + (old - r.new)) = none →
        (∀ i, i < 1024 → t.mem.read (new + i) = s.mem.read (r.old + (old - r.new) + i)) ∧
        ∀ a, (a < new ∨ new + 1024 ≤ a) → (a < old ∨ old + 1024 ≤ a) → t.mem.read a = s.mem.read a)

/-- R244, R259: the calendars of a die. SLOT_ADVANCE moves its cycle count to the next slot of 64 cycles, and a new slot table
comes into force where slot 0 begins again; WS_REFRESH moves it to the next slot of the weight store's calendar; nothing else
changes. -/
def dieCalendars : Prop :=
  ∀ (s : State), let d := dieOf s s.args.a
    (exec .slotAdvance s = .next (setDie s s.args.a (dieTo d ((d.cycle / 64 + 1) * 64)))) ∧
    (exec .wsRefresh s = .next (setDie s s.args.a (dieTo d ((d.cycle / 512 + 1) * 512)))) ∧
    (∀ t, (t / 16384 ≤ d.cycle / 16384 → dieTo d t = { d with cycle := t }) ∧
      (∀ l, d.cycle / 16384 < t / 16384 → d.newSlots = some l → dieTo d t = { d with cycle := t, slots := l, newSlots := none }))

/-- A copy card: its dispatch with the checks of its words, and its reads. -/
def Obligations.CardDispatchAndReads : Prop := cardDispatch ∧ cardReadsRuns

/-- Migration and paging, and the lines that they move. -/
def Obligations.Migration : Prop := migrationAndPaging ∧ migrationPullsLine

/-! ## Semaphores (R281 to R316) -/

/-- A trigger of `sem`: its form as two bits (acquire, release), whether it is eager, its own checks, and what it does at its
entry. -/
structure SemRow where
  op : Mv → BitVec 2 → Instr
  eager : Bool
  acq : BitVec 2 → Bool
  rel : BitVec 2 → Bool
  check : Check
  kind : State → Nat → Opnds → SemKind

/-- The triggers that deliver a result (R288, R297 to R316). -/
def semReturns : List SemRow := [
  ⟨fun m f => .semSld m (f.setWidth 1), false, (·.getLsbD 0), fun _ => false, semAddrCheck, fun _ _ _ => .sld⟩,
  ⟨.semSadd, true, (·.getLsbD 0), (·.getLsbD 1), semAddrCheck, fun _ _ _ => .sadd⟩,
  ⟨.semSmin, true, (·.getLsbD 0), (·.getLsbD 1), semAddrCheck, fun _ _ _ => .smin⟩,
  ⟨.semSmax, true, (·.getLsbD 0), (·.getLsbD 1), semAddrCheck, fun _ _ _ => .smax⟩,
  ⟨.semScas, true, (·.getLsbD 0), (·.getLsbD 1), semAddrCheck, fun _ _ _ => .scas⟩,
  ⟨.semStx, true, (·.getLsbD 0), (·.getLsbD 1), stxCheck, fun s c o => .stx (stxSlots s c o.a64.toNat).1⟩,
  ⟨fun m _ => .semSwaitge m, false, fun _ => true, fun _ => false, semAddrCheck, fun _ _ _ => .swaitge⟩,
  ⟨fun m _ => .semBwait m, false, fun _ => true, fun _ => false, firstOf [semAddrCheck, phaseCheck], fun _ _ _ => .bwait⟩,
  ⟨fun m _ => .semBtest m, false, fun _ => false, fun _ => false, firstOf [semAddrCheck, phaseCheck], fun _ _ _ => .btest⟩,
  ⟨fun m _ => .semCxferQ m, true, fun _ => false, fun _ => false, firstOf [semAddrCheck, cxferCheck 0], fun _ _ _ => .cxfer 0⟩,
  ⟨fun m _ => .semCxferFRn m, true, fun _ => false, fun _ => false, firstOf [semAddrCheck, cxferCheck 1], fun _ _ _ => .cxfer 1⟩,
  ⟨fun m _ => .semCxferFRz m, true, fun _ => false, fun _ => false, firstOf [semAddrCheck, cxferCheck 2], fun _ _ _ => .cxfer 2⟩,
  ⟨fun m _ => .semCxferFRd m, true, fun _ => false, fun _ => false, firstOf [semAddrCheck, cxferCheck 3], fun _ _ _ => .cxfer 3⟩,
  ⟨fun m _ => .semCbal m, false, fun _ => false, fun _ => false, semAddrCheck, fun _ _ _ => .cbal⟩,
  ⟨fun m _ => .semCtotal m, false, fun _ => false, fun _ => false, ctotalCheck, fun _ _ _ => .ctotal⟩,
  ⟨fun m _ => .semCinfo m, false, fun _ => false, fun _ => false, cinfoCheck, fun _ _ _ => .cinfo⟩]

/-- R123, R288, R290, R292, R294, R295, R320: a `sem` trigger that delivers a result and passes its checks starts a result due
after 12 ticks, which the operation brings, and its operation sets out for its entry. A release form first releases everything
that checkpoint mode withholds, and the context waits until the operation is sent; an acquire form makes it wait until the
result is there. A failing check traps precisely. An eager one traps EAGER_PLACEMENT in checkpoint mode outside a checkpoint bundle, else
PRIVILEGE in a deterministic round (R99, R360); that this comes before its own checks is the model's reading (DEDUCED, log entry 22). -/
def semaphoreReturns : Prop :=
  ∀ p ∈ semReturns, ∀ (m : Mv) (g : BitVec 2) (s : State) (c : Nat) (x : Ctx) (f : Frame), Acts s m c x f →
    let trap := fun (t : Trap) => ∃ n, exec (p.op m g) s = .next (preciseTrap s c { code := t, sock := n, slot := f.cur })
    (p.eager = true → (ckOn x = true → (hdrSpan f.header).toNat < 3 → trap .eagerPlacement) ∧
      ((ckOn x = true → 3 ≤ (hdrSpan f.header).toNat) → inRound s c = true → trap .privilege)) ∧
    ((p.eager = true → EagerOk s c x f) →
    let o := opndsAt x f m .sem
    let s0 := setCtx s c (latched x .sem o.a)
    let s1 := if p.rel g ∧ ckOn x then releaseAll s0 c else s0
    let x1 := ctxOf s1 c
    let k := p.kind s1 c o
    let op : SemOp := { id := s1.count, ctx := c, die := ctxDie c, region := ctxRegion s1 c, kind := k
                        addr := match k with | .stx sl => (sl.headD (0, 0, 0, 0)).2.1 | _ => o.a64.toNat
                        b := o.b64, c := o.c64, result := some x1.seq, rel := p.rel g, relSt := x1.seq }
    (p.check s c o = none → x1.going = [] → exec (p.op m g) s =
      .next { setCtx s1 c { addResult x1 .sem 12 (full64 0) (some 0) 0 [] true with
          waits := x1.waits ++ (if p.rel g then [.semSent s1.count] else []) ++ (if p.acq g then [.semDone x1.seq] else []) } with
        count := s1.count + 1, semOps := s1.semOps ++ [op] }) ∧
    (∀ t, p.check s c o = some t → trap t))

/-- The triggers that deliver no result (R288, R297, R302, R312, R315), and whether checkpoint mode withholds them. -/
def semQuiets : List (SemRow × Bool) := [
  (⟨fun m f => .semSst m (f.setWidth 1), false, fun _ => false, (·.getLsbD 0), semAddrCheck, fun _ _ _ => .sst⟩, true),
  (⟨fun m _ => .semBarr m, false, fun _ => false, fun _ => false, semAddrCheck, fun _ _ _ => .barr⟩, true),
  (⟨fun m _ => .semBexp m, false, fun _ => false, fun _ => false, firstOf [semAddrCheck, bexpCheck], fun _ _ _ => .bexp⟩, true),
  (⟨fun m _ => .semCfloor m, false, fun _ => false, fun _ => false, firstOf [semAddrCheck, cfloorCheck], fun _ _ _ => .cfloor⟩, true),
  (⟨fun m _ => .semCmint m, false, fun _ => false, fun _ => false, firstOf [semAddrCheck, mintCheck], fun _ _ _ => .cmint⟩, true),
  (⟨fun m _ => .semCburn m, false, fun _ => false, fun _ => false, firstOf [semAddrCheck, mintCheck], fun _ _ _ => .cburn⟩, true),
  (⟨fun m _ => .semSinit m, true, fun _ => false, fun _ => false, firstOf [semAddrCheck, sinitCheck], fun _ _ _ => .sinit⟩, false)]

/-- R95, R288, R290, R292, R294, R360: a `sem` trigger that delivers no result and passes its checks delivers `.st` zero after 2
ticks. With checkpoint mode on it is withheld, but for SINIT; else, in a deterministic round, it is held to the merge (SINIT too,
which is log entry 31); outside a round its operation sets out at once. A failing check traps precisely, and SINIT, which is placed as an
eager trigger, in checkpoint mode outside a checkpoint bundle EAGER_PLACEMENT. -/
def semaphoreQuiet : Prop :=
  ∀ p ∈ semQuiets, ∀ (m : Mv) (g : BitVec 2) (s : State) (c : Nat) (x : Ctx) (f : Frame), Acts s m c x f →
    (p.1.eager = true → ckOn x = true → (hdrSpan f.header).toNat < 3 →
      ∃ n, exec (p.1.op m g) s = .next (preciseTrap s c { code := .eagerPlacement, sock := n, slot := f.cur })) ∧
    ((p.1.eager = true → ckOn x = true → 3 ≤ (hdrSpan f.header).toNat) →
    let o := opndsAt x f m .sem
    let y := started x .sem o.a 2 none (some 0)
    let op : SemOp := { id := 0, ctx := c, die := ctxDie c, region := ctxRegion s c, kind := p.1.kind s c o, addr := o.a64.toNat
                        b := o.b64, c := o.c64, rel := p.1.rel g, relSt := x.seq }
    let op' := { op with id := s.count }
    (p.1.check s c o = none →
      (p.2 = true → ckOn x = true → exec (p.1.op m g) s = .next (setCtx s c { y with held := x.held ++ [.sem op] })) ∧
      ((p.2 = false ∨ ckOn x = false) → x.going = [] → inRound s c = false → exec (p.1.op m g) s =
        .next { setCtx s c { y with waits := x.waits ++ (if p.1.rel g then [.semSent s.count] else []) } with
          count := s.count + 1, semOps := s.semOps ++ [op'] }) ∧
      ((p.2 = false ∨ ckOn x = false) → x.going = [] → inRound s c = true → exec (p.1.op m g) s =
        .next { setCtx s c { y with ov := { x.ov with sems := x.ov.sems ++ [op'] } } with count := s.count + 1 })) ∧
    (∀ t, p.1.check s c o = some t → ∃ n, exec (p.1.op m g) s = .next (preciseTrap s c { code := t, sock := n, slot := f.cur })))

/-- Operation `o` is the one that the event names, reaches its entry before no earlier one of its context that goes there, may be
sent (R294), and the entry's node can be reached (R292, R313). -/
structure AtEntry (s : State) (o : SemOp) : Prop where
  found : s.semOps.find? (fun p => p.id == s.args.a) = some o
  first : aheadAt s o (opPlace s o) = false
  sent : o.rel = true → releaseReady s o = true
  near : NatSet.mem s.unreach (opPlace s o / 8) = false

/-- Operation `o` has its result: the value, the status word, and both are there (R289, R296). -/
def Told (t : State) (o : SemOp) (r st : D64) : Prop :=
  ∀ q, o.result = some q → ∀ e ∈ (ctxOf t o.ctx).infl, e.seq = q → e.r = full64 r ∧ e.st = some st ∧ e.arrived = true

/-- One entry holds `e`; every other is as before. -/
def EntryIs (s t : State) (a : Nat) (e : SemEntry) : Prop := entryOf t a = e ∧ ∀ b, b ≠ a → entryOf t b = entryOf s b

/-- A drop of operation `o` is counted for its die and region, and no entry changes (R291). -/
def Dropped (s t : State) (o : SemOp) : Prop :=
  t.sems = s.sems ∧ Tab.get 0 (dieOf t o.die).drops o.region = (Tab.get 0 (dieOf s o.die).drops o.region + 1) % 2 ^ 64

/-- What a counter operation of STX's code makes of a value (R298): 1 SST, 2 SADD, 3 SMIN, 4 SMAX, 5 SCAS. -/
def opValue (op : Nat) (old x : D64) : D64 :=
  if op = 2 then old + x else if op = 3 then (if old.toInt ≤ x.toInt then old else x)
  else if op = 4 then (if x.toInt ≤ old.toInt then old else x) else x

/-- Every operation of an STX that has a code may act: each names another counter of the die of the first, which its region may use, and
an SCAS finds what it expects (R298, R299). -/
def StxActs (s : State) (o : SemOp) (slots : List (Nat × Nat × Nat × Nat)) : Prop :=
  let live := slots.filter fun q => q.1 != 0
  (live.map (·.2.1)).Nodup ∧ ∀ q ∈ live, q.1 ≤ 5 ∧ semPlace q.2.1 = semPlace o.addr ∧ counterBad s o.region q.2.1 false = none ∧
    (q.1 = 5 → (entryOf s q.2.1).value = BitVec.ofNat 64 q.2.2.2)

/-- R282, R289, R297, R360: at a usable counter SLD delivers VALUE, inside a deterministic round the one of the round's start; SST,
SADD, SMIN, SMAX and SCAS change VALUE and no other field, and all but SST deliver what it was; SCAS that does not find the expected
value changes nothing and says FAILED. At an entry that is poisoned, no counter, or not the region's, nothing changes and the status
says why; SST drops instead. -/
def counterPerforms : Prop :=
  ∀ (s : State) (o : SemOp), AtEntry s o →
    let e := entryOf s o.addr
    let seen := opView s o.ctx
    let goes := fun (v r st : D64) => ∃ t, exec .semArrive s = .next t ∧ EntryIs s t o.addr (e.setValue v) ∧ Told t o r st ∧
      t.mem = s.mem ∧ t.xfers = s.xfers
    (inRound s o.ctx = false → seen = s) ∧
    (o.kind = .sld → counterBad seen o.region o.addr true = none →
      ∃ t, exec .semArrive s = .next t ∧ t.sems = s.sems ∧ Told t o (entryOf seen o.addr).value 0) ∧
    (∀ code, o.kind = .sld → o.result.isSome → counterBad seen o.region o.addr true = some code →
      ∃ t, exec .semArrive s = .next t ∧ t.sems = s.sems ∧ Told t o 0 (semStatus code)) ∧
    (counterBad s o.region o.addr false = none →
      (o.kind = .sst → goes o.b e.value 0) ∧ (o.kind = .sadd → goes (e.value + o.b) e.value 0) ∧
      (o.kind = .smin → goes (if e.value.toInt ≤ o.b.toInt then e.value else o.b) e.value 0) ∧
      (o.kind = .smax → goes (if o.b.toInt ≤ e.value.toInt then e.value else o.b) e.value 0) ∧
      (o.kind = .scas → e.value = o.b → goes o.c e.value 0) ∧
      (o.kind = .scas → e.value ≠ o.b → ∃ t, exec .semArrive s = .next t ∧ t.sems = s.sems ∧ Told t o e.value 2)) ∧
    (∀ code, counterBad s o.region o.addr false = some code → o.kind ∈ [SemKind.sst, .sadd, .smin, .smax, .scas] →
      ∃ t, exec .semArrive s = .next t ∧ t.sems = s.sems ∧
        (o.result.isSome → Told t o 0 (semStatus code)) ∧ (o.result = none → Dropped s t o))

/-- R298, R299: STX at its die. Where every operation may act, all of them do in one step: each named counter has its new VALUE, no other
entry changes, and the result is the old VALUE of the first slot. Where an SCAS does not find what it expects nothing changes, and the status
is FAILED with a bit of EXT for each such slot; where an entry is bad, the status of the lowest such slot. -/
def stxPerforms : Prop :=
  ∀ (s : State) (o : SemOp) (slots : List (Nat × Nat × Nat × Nat)), AtEntry s o → o.kind = .stx slots → slots.length = 4 →
    let live := slots.filter fun q => q.1 != 0
    let old := (entryOf s o.addr).value
    let misses := fun (q : Nat × Nat × Nat × Nat) => q.1 == 5 && (entryOf s q.2.1).value != BitVec.ofNat 64 q.2.2.2
    let same := fun (r st : D64) => ∃ t, exec .semArrive s = .next t ∧ t.sems = s.sems ∧ Told t o r st
    (StxActs s o slots → ∃ t, exec .semArrive s = .next t ∧ t.mem = s.mem ∧ Told t o old 0 ∧
      (∀ q ∈ live, entryOf t q.2.1 = (entryOf s q.2.1).setValue (opValue q.1 (entryOf s q.2.1).value (BitVec.ofNat 64 q.2.2.1))) ∧
      ∀ b, (∀ q ∈ live, q.2.1 ≠ b) → entryOf t b = entryOf s b) ∧
    ((∀ q ∈ live, counterBad s o.region q.2.1 false = none) → (∃ q ∈ live, misses q = true) →
      ∃ st : D64, same old st ∧ (st.extractLsb' 0 32).toNat = 2 ∧ ∀ i, i < 32 → st.getLsbD (32 + i) = (slots[i]?.any misses)) ∧
    (∀ pre q post code, live = pre ++ q :: post → (∀ r ∈ pre, counterBad s o.region r.2.1 false = none) →
      counterBad s o.region q.2.1 false = some code → o.result.isSome → same 0 (semStatus code))

/-- Counter operations at their entries. -/
def Obligations.CounterOperations : Prop := counterPerforms ∧ stxPerforms

/-- R282, R289, R301 to R303: at a usable barrier BARR counts an arrival and BEXP adds to the pending bytes; where then as many
have arrived as are expected and no byte is pending, the phase turns and both counts are zero. A BARR beyond EXPECT drops. BTEST
delivers the barrier's word, inside a deterministic round that of the round's start. A card's decrement at a barrier that
its region may use takes its bytes off the pending count, and turns the phase where they are the last and every arrival is in. -/
def Obligations.BarrierOperations : Prop :=
  (∀ (s : State) (o : SemOp), AtEntry s o →
    let e := entryOf s o.addr
    let goes := fun (n : Nat) (v : D64) => ∃ t, exec .semArrive s = .next t ∧
      (n = e.expect ∧ v = 0 → EntryIs s t o.addr (e.setBarrier (!e.phase) 0 0)) ∧
      (¬ (n = e.expect ∧ v = 0) → EntryIs s t o.addr (e.setBarrier e.phase n v))
    (barrierBad s o.region o.addr false = none →
      (o.kind = .barr → e.arrived ≠ e.expect → e.arrived < 2 ^ 16 - 1 → goes (e.arrived + 1) e.pendBytes) ∧
      (o.kind = .barr → e.arrived = e.expect → ∃ t, exec .semArrive s = .next t ∧ Dropped s t o) ∧
      (o.kind = .bexp → goes e.arrived (e.pendBytes + o.b))) ∧
    (let seen := opView s o.ctx; let e := entryOf seen o.addr
     o.kind = .btest → barrierBad seen o.region o.addr true = none → ∃ t, exec .semArrive s = .next t ∧ t.sems = s.sems ∧
      Told t o (BitVec.ofNat 64 (e.expect * 2 ^ 32 + e.arrived * 2 ^ 16 + 2 * e.phase.toNat + (e.phase != o.b.getLsbD 0).toNat)) 0)) ∧
  (∀ (s : State) (region a n : Nat), let e := entryOf s a
    e.type = 2 → e.poison = false → semUse s region e false = true → NatSet.mem s.unreach (semNode a) = false →
    ((e.arrived ≠ e.expect ∨ e.pendBytes ≠ BitVec.ofNat 64 n) →
      EntryIs s (barrierDec s region a n) a (e.setBarrier e.phase e.arrived (e.pendBytes - BitVec.ofNat 64 n))) ∧
    (e.arrived = e.expect → e.pendBytes = BitVec.ofNat 64 n → EntryIs s (barrierDec s region a n) a (e.setBarrier (!e.phase) 0 0))) ∧
  (∀ (s : State) (die : Nat) (j : Job) (ws : List D64), s.args.a = die → jobOf s die s.args.b = some j → j.kind = .card ws →
    j.owed ≠ 0 → j.ov = none →
    ∃ t, exec .barDecrement s = .next t ∧ ∀ a, entryOf t a = entryOf (barrierDec s j.region (cardOf ws).bsem j.owed) a)

/-- R300, R303: SWAITGE at a counter that the region may read completes where VALUE minus the threshold, as a number of 64
bits, has its top bit clear, with VALUE; BWAIT completes where the barrier's phase differs from the operand's; until then the
operation waits at the entry, armed, and changes nothing else. In a deterministic round it is the entry of the round's start that
counts (R328). -/
def watchesArm : Prop :=
  ∀ (s : State) (o : SemOp), AtEntry s o →
    let seen := opView s o.ctx
    let e := entryOf seen o.addr
    let waits := exec .semArrive s = .next { s with semOps := s.semOps.map fun p => if p.id = o.id then { p with armed := true } else p }
    let done := fun (r : D64) => ∃ t, exec .semArrive s = .next t ∧ t.sems = s.sems ∧ Told t o r 0 ∧ ∀ p ∈ t.semOps, p.id ≠ o.id
    (o.kind = .swaitge → e.poison = false → e.type = 1 → semUse s o.region e true = true →
      ((e.value - o.b).msb = true → waits) ∧ ((e.value - o.b).msb = false → done e.value)) ∧
    (o.kind = .bwait → e.poison = false → e.type = 2 → semUse s o.region e true = true →
      (e.phase = o.b.getLsbD 0 → waits) ∧ (e.phase ≠ o.b.getLsbD 0 → done (barrierWord e o.b)))

/-- The watch `p`, of a context in no deterministic round, waits armed at entry `a`; no other operation has its number or its result. -/
structure Watching (s : State) (p : SemOp) (a : Nat) : Prop where
  found : p ∈ s.semOps
  armed : p.armed = true ∧ p.addr = a ∧ inRound s p.ctx = false
  alone : ∀ q ∈ s.semOps, (q.id = p.id → q = p) ∧ (q.ctx = p.ctx → q.result = p.result → q = p)

/-- The instruction ends the watch `p` with a value and a status, or leaves it waiting. -/
def Wakes (i : Instr) (s : State) (p : SemOp) (r st : D64) : Prop := ∃ t, exec i s = .next t ∧ (∀ q ∈ t.semOps, q.id ≠ p.id) ∧ Told t p r st
def StaysArmed (i : Instr) (s : State) (p : SemOp) : Prop := ∃ t, exec i s = .next t ∧ p ∈ t.semOps

/-- SINIT makes an account of the entry, which is none (R315). -/
def BecomesAccount (s : State) (o : SemOp) (e : SemEntry) : Prop :=
  (o.b.extractLsb' 0 4).toNat = 3 ∧ (classOf s (o.b.extractLsb' 8 8).toNat).isSome ∧ accountRoom s e.owner = true

/-- R297, R299, R300: a change of a counter by SST, SADD, SMIN, SMAX, SCAS or STX completes each SWAITGE that waits there and that the
new VALUE satisfies, with that VALUE, and no other, and so does a SINIT that sets it anew; SINIT to another type completes it with
BAD_TYPE. -/
def counterWakes : Prop :=
  ∀ (s : State) (o p : SemOp) (a : Nat), AtEntry s o → Watching s p a → p.id ≠ o.id → p.kind = .swaitge →
    let e := entryOf s a
    let becomes := fun (v : D64) => semUse s p.region e true = true →
      ((v - p.b).msb = false → Wakes .semArrive s p v 0) ∧ ((v - p.b).msb = true → StaysArmed .semArrive s p)
    (a = o.addr → counterBad s o.region a false = none →
      (o.kind = .sst → becomes o.b) ∧ (o.kind = .sadd → becomes (e.value + o.b)) ∧
      (o.kind = .smin → becomes (if e.value.toInt ≤ o.b.toInt then e.value else o.b)) ∧
      (o.kind = .smax → becomes (if o.b.toInt ≤ e.value.toInt then e.value else o.b)) ∧
      (o.kind = .scas → e.value = o.b → becomes o.c)) ∧
    (∀ slots q, o.kind = .stx slots → StxActs s o slots → q ∈ slots → q.1 ≠ 0 → a = q.2.1 →
      becomes (opValue q.1 e.value (BitVec.ofNat 64 q.2.2.1))) ∧
    (o.kind = .sinit → a = o.addr → semUse s o.region e false = true → e.type = 1 → e.poison = false →
      let ty := (o.b.extractLsb' 0 4).toNat
      (ty = 1 → semUse s p.region e false = true →
        ((o.c - p.b).msb = false → Wakes .semArrive s p o.c 0) ∧ ((o.c - p.b).msb = true → StaysArmed .semArrive s p)) ∧
      (ty = 0 ∨ ty = 2 ∨ BecomesAccount s o e → Wakes .semArrive s p 0 5))

/-- R265, R300 to R303: a BARR, a BEXP and a card's decrement that complete the phase of a barrier complete each BWAIT that waits there
for that phase to end, with the barrier's word; those that do not leave it waiting. SINIT to another type completes it with BAD_TYPE. -/
def barrierWakes : Prop :=
  ∀ (s : State) (p : SemOp) (a : Nat), Watching s p a → p.kind = .bwait →
    let e := entryOf s a
    e.type = 2 → e.poison = false → semUse s p.region e true = true → e.phase = p.b.getLsbD 0 →
    let word := BitVec.ofNat 64 (e.expect * 2 ^ 32 + 2 * (!e.phase).toNat + 1)
    (∀ o, AtEntry s o → p.id ≠ o.id → a = o.addr → semUse s o.region e false = true →
      (o.kind = .barr → e.arrived ≠ e.expect → e.arrived < 2 ^ 16 - 1 →
        (e.arrived + 1 = e.expect ∧ e.pendBytes = 0 → Wakes .semArrive s p word 0) ∧
        (¬ (e.arrived + 1 = e.expect ∧ e.pendBytes = 0) → StaysArmed .semArrive s p)) ∧
      (o.kind = .bexp → (e.arrived = e.expect ∧ e.pendBytes + o.b = 0 → Wakes .semArrive s p word 0) ∧
        (¬ (e.arrived = e.expect ∧ e.pendBytes + o.b = 0) → StaysArmed .semArrive s p)) ∧
      (o.kind = .sinit → (o.b.extractLsb' 0 4).toNat ≤ 1 ∨ BecomesAccount s o e → Wakes .semArrive s p 0 5)) ∧
    (∀ die j ws, s.args.a = die → jobOf s die s.args.b = some j → j.kind = .card ws → j.owed ≠ 0 → j.ov = none → (cardOf ws).bsem = a →
      semUse s j.region e false = true → NatSet.mem s.unreach (semNode a) = false →
      (e.arrived = e.expect ∧ e.pendBytes = BitVec.ofNat 64 j.owed → Wakes .barDecrement s p word 0) ∧
      (¬ (e.arrived = e.expect ∧ e.pendBytes = BitVec.ofNat 64 j.owed) → StaysArmed .barDecrement s p))

/-- R320, R321: a SWAITGE and a BWAIT that complete are acquires: of a unit of memory whose writes have all performed at scopes that hold
its context, every read of the context sees all of them from then on (which writes a read without an acquire sees is log entry 27). -/
def watchesAcquire : Prop :=
  ∀ (s : State) (o : SemOp), AtEntry s o → (o.kind = .swaitge ∨ o.kind = .bwait) → staysArmed s o = false →
    ∃ t, exec .semArrive s = .next t ∧ t.mem = s.mem ∧ ∀ (r : Reader) (key : Nat), r.ctx = some o.ctx →
      (∀ l ∈ s.lags, l.unit = key / 64 → l.seen { die := ctxDie o.ctx, core := some (ctxCore o.ctx), ctx := some o.ctx } = true) →
      seenByte t r key = s.mem.read key

/-- Watches: how they arm, what completes them, and what their contexts see then. -/
def Obligations.WatchesWait : Prop := watchesArm ∧ counterWakes ∧ barrierWakes ∧ watchesAcquire

/-- R304, R305, R312: at a usable account CBAL delivers the balance, its upper bits and the FROZEN and OVERDRAWN bits (in a
deterministic round those of its start); CFLOOR sets
the floor and, where asked, FROZEN; CMINT and CBURN change the balance by their amount where the result is in range, and drop
where it is not. OVERDRAWN always says whether the balance is below the floor. -/
def Obligations.AccountOperations : Prop :=
  ∀ (s : State) (o : SemOp), AtEntry s o →
    let e := entryOf s o.addr
    let q := (classOf s e.cls).getD 0
    let shift := fun (d : Int) =>
      (-(2 ^ 95) ≤ e.bal + d → e.bal + d < 2 ^ 95 → ∃ t, exec .semArrive s = .next t ∧ EntryIs s t o.addr (e.setAccount q (e.bal + d) e.floor e.frozen) ∧
        (entryOf t o.addr).bal = e.bal + d ∧ (entryOf t o.addr).floor = e.floor ∧
        (entryOf t o.addr).overdrawn = decide (e.bal + d < e.floor * 2 ^ q)) ∧
      ((e.bal + d < -(2 ^ 95) ∨ 2 ^ 95 ≤ e.bal + d) → ∃ t, exec .semArrive s = .next t ∧ Dropped s t o)
    (let seen := opView s o.ctx; let e := entryOf seen o.addr
     o.kind = .cbal → accountBad seen o.region o.addr true = none → ∃ t, exec .semArrive s = .next t ∧ t.sems = s.sems ∧
      Told t o (e.word.extractLsb' 0 64)
        (BitVec.ofNat 64 ((e.word.extractLsb' 64 32).toNat * 2 ^ 32 + 512 * e.frozen.toNat + 256 * e.overdrawn.toNat))) ∧
    (accountBad s o.region o.addr false = none →
      (o.kind = .cmint → shift o.b.toNat) ∧ (o.kind = .cburn → shift (-(o.b.toNat : Int))) ∧
      (o.kind = .cfloor → let n := (o.b.extractLsb' 0 16).toInt
        ∃ t, exec .semArrive s = .next t ∧ (∀ b, b ≠ o.addr → entryOf t b = entryOf s b) ∧ (entryOf t o.addr).bal = e.bal ∧
          (entryOf t o.addr).floor = n ∧ (entryOf t o.addr).overdrawn = decide (e.bal < n * 2 ^ q) ∧
          (entryOf t o.addr).frozen = if (o.b.extractLsb' 16 2).toNat = 1 then true else if (o.b.extractLsb' 16 2).toNat = 2 then false
            else e.frozen))

/-- R306, R307: CXFER.q between two accounts of one die, where the transfer may happen: the amount that its mode gives leaves the
source and reaches the destination, so that their sum is as before; every other entry is as before; the result is the amount. In
mode 0 it is all or nothing, in mode 1 as much as the floor allows, in mode 2 all. The status follows: FAILED in mode 0 where the
amount exceeds the room (an amount of 0 too, where the room is negative), SHORT in mode 1 where less moved, else OK; with the
OVERDRAWN bit of the source as the operation leaves it. A frozen source says FROZEN. -/
def transferOnDie : Prop :=
  ∀ (s : State) (o : SemOp), AtEntry s o → o.kind = .cxfer 0 →
    let e := entryOf s o.addr
    let to_ := (o.b.extractLsb' 0 30).toNat
    let n := o.c.toNat
    let mode := (o.b.extractLsb' 32 2).toNat
    ∀ q, accountBad s o.region o.addr false = none → classOf s e.cls = some q →
      (e.frozen = true → staysArmed s o = false →
        ∃ t, exec .semArrive s = .next t ∧ t.sems = s.sems ∧ Told t o 0 (semStatus 4 0 false e.overdrawn)) ∧
      (e.frozen = false → to_ ≠ o.addr → semPlace to_ = semPlace o.addr → xferBlocked s o.ctx to_ o.id = false →
      let room := e.bal - e.floor * 2 ^ q
      let amount : Nat := if mode = 0 then (if (n : Int) ≤ room then n else 0) else if mode = 1 then min n room.toNat else n
      0 ≤ e.bal - amount + 2 ^ 95 →
      (amount ≠ 0 → destBad s o.region e.cls to_ amount = none →
        ∃ t, exec .semArrive s = .next t ∧ (entryOf t o.addr).bal = e.bal - amount ∧ (entryOf t to_).bal = (entryOf s to_).bal + amount ∧
          (∀ b, b ≠ o.addr → b ≠ to_ → entryOf t b = entryOf s b) ∧
          Told t o (BitVec.ofNat 64 amount)
            (semStatus (if mode = 1 ∧ amount ≠ n then 1 else 0) 0 false (entryOf t o.addr).overdrawn)) ∧
      (amount ≠ 0 → ∀ code, destBad s o.region e.cls to_ amount = some code → ∃ t, exec .semArrive s = .next t ∧ t.sems = s.sems ∧
        Told t o 0 (semStatus code 0 false e.overdrawn)) ∧
      (amount = 0 → ∃ t, exec .semArrive s = .next t ∧ t.sems = s.sems ∧ Told t o 0
        (semStatus (if mode = 0 ∧ room < n then 2 else if mode = 1 ∧ n ≠ 0 then 1 else 0) 0 false e.overdrawn)))

/-- R306 to R310, R313: a CXFER.q to an account of another die takes its amount from the source and counts it as in transit: in mode 0
what it names, where the source allows that; in mode 1 that or all that the source allows, with SHORT; in mode 2 what it names. Its
credit is on its way, and no result is there yet. A credit that reaches a destination
which takes it adds the amount there, and its acknowledgement is on its way; one that the destination refuses becomes a refund
with the reason. An acknowledgement or a refund that returns takes the amount out of transit and ends the transfer: the refund
gives the source its amount back, and its result is 0, with a status word that holds the reason; the acknowledgement delivers the
amount, with the status word of the debit. Both words say whether the source is then overdrawn. Where the source is no longer an
account of the class, or is poisoned or has no room, of which R309 says nothing, the result comes and the amount stays in transit, with the
refund: the model's choice (log entry 72). -/
def transferBetweenDies : Prop :=
  (∀ (s : State) (o : SemOp), AtEntry s o → o.kind = .cxfer 0 →
    let e := entryOf s o.addr
    let to_ := (o.b.extractLsb' 0 30).toNat
    let n := o.c.toNat
    let mode := (o.b.extractLsb' 32 2).toNat
    ∀ q, accountBad s o.region o.addr false = none → classOf s e.cls = some q → e.frozen = false → semPlace to_ ≠ semPlace o.addr →
      mode ≤ 2 →
      let room : Int := e.bal - e.floor * 2 ^ q
      let m := if mode = 1 then min n room.toNat else n
      (mode = 0 → (n : Int) ≤ room) → m ≠ 0 → 0 ≤ e.bal - m + 2 ^ 95 →
      ∃ t, exec .semArrive s = .next t ∧ (entryOf t o.addr).bal = e.bal - m ∧ (∀ b, b ≠ o.addr → entryOf t b = entryOf s b) ∧
        transitOf t (semPlace o.addr) e.cls = transitOf s (semPlace o.addr) e.cls + m ∧
        t.xfers = s.xfers ++ [{ id := o.id, ctx := o.ctx, region := o.region, result := o.result, src := o.addr, dst := to_, amount := m
                                cls := e.cls, rem := 0, status := if m = n then 0 else 1 }]) ∧
  (∀ (s : State) (x : Xfer), s.xfers.find? (fun y => y.id == s.args.a && y.stage == .credit) = some x → xferCut s x = false →
    xferBlocked s x.ctx x.dst x.id = false →
    (destBad s x.region x.cls x.dst x.amount = none →
      ∃ t, exec .creditArrive s = .next t ∧ (entryOf t x.dst).bal = (entryOf s x.dst).bal + x.amount ∧
        (∀ b, b ≠ x.dst → entryOf t b = entryOf s b) ∧ t.transit = s.transit ∧
        t.xfers = s.xfers.map fun y => if y.id = x.id then { y with stage := .ack } else y) ∧
    (∀ code, destBad s x.region x.cls x.dst x.amount = some code → exec .creditArrive s = .next
      { s with xfers := s.xfers.map fun y => if y.id = x.id then { y with stage := .refund, status := code } else y })) ∧
  (∀ (s : State) (x : Xfer), s.xfers.find? (fun y => y.id == s.args.a && y.stage == .refund) = some x → xferCut s x = false →
    let e := entryOf s x.src
    let told := fun (t : State) => x.told = false → ∀ q, x.result = some q → ∀ r ∈ (ctxOf t x.ctx).infl, r.seq = q →
      r.r = full64 0 ∧ r.st = some (semStatus x.status x.rem.toNat false (entryOf t x.src).overdrawn)
    let takes := e.type = 3 ∧ e.cls = x.cls ∧ e.poison = false ∧ e.bal + x.amount < 2 ^ 95
    x.amount ≤ transitOf s (semPlace x.src) x.cls →
    (takes → ∃ t, exec .refundArrive s = .next t ∧ (entryOf t x.src).bal = e.bal + x.amount ∧
      (∀ b, b ≠ x.src → entryOf t b = entryOf s b) ∧
      transitOf t (semPlace x.src) x.cls + x.amount = transitOf s (semPlace x.src) x.cls ∧
      t.xfers = s.xfers.filter (fun y => y.id != x.id) ∧ told t) ∧
    (¬ takes → ∃ t, exec .refundArrive s = .next t ∧ t.sems = s.sems ∧ t.transit = s.transit ∧ told t ∧
      t.xfers = s.xfers.map fun y => if y.id = x.id then { y with told := true, stage := .refund, status := x.status, dst := x.src }
        else y)) ∧
  (∀ (s : State) (x : Xfer), s.xfers.find? (fun y => y.id == s.args.a && y.stage == .ack) = some x → xferCut s x = false →
    x.amount ≤ transitOf s (semPlace x.src) x.cls →
    ∃ t, exec .ackArrive s = .next t ∧ t.sems = s.sems ∧
      transitOf t (semPlace x.src) x.cls + x.amount = transitOf s (semPlace x.src) x.cls ∧
      t.xfers = s.xfers.filter (fun y => y.id != x.id) ∧
      (x.told = false → ∀ q, x.result = some q → ∀ r ∈ (ctxOf t x.ctx).infl, r.seq = q →
        r.r = some (BitVec.ofNat 4096 x.amount, BitVec.allOnes 4096) ∧
          r.st = some (semStatus x.status x.rem.toNat false (entryOf s x.src).overdrawn)))

/-- R282, R304, R315, R316: SINIT at an entry of the region whose account, if it is one, is empty, and which is not poisoned (or
whose region may mint), makes it UNSET, a counter that holds its value, a barrier that holds what it expects, or an empty account
of a defined class with its floor and its OVERDRAWN bit, each with its OPEN bit; the entry is no longer poisoned. An unusable
entry, an undefined class and an owner without room for one more account drop it. CINFO delivers the exponent of a class, the kind
and owner of an entry, the drops of the region, and what is in transit, with its upper bits; a poisoned entry, one that the region
may not read and an undefined class say so; that it answers inside a deterministic round from the entry as it stands is the model's
reading (log entry 31). None of the queries changes an entry. -/
def setupAndQueries : Prop :=
  ∀ (s : State) (o : SemOp), AtEntry s o →
    let e := entryOf s o.addr
    let b := o.b
    let ty := (b.extractLsb' 0 4).toNat
    let cls := (b.extractLsb' 8 8).toNat
    let tells := fun (r st : D64) => ∃ t, exec .semArrive s = .next t ∧ t.sems = s.sems ∧ Told t o r st
    let sound := e.poison = false ∨ mintPolicy s o.region = true
    let room := (classOf s cls).isSome ∧ (e.type = 3 ∨ accountRoom s e.owner = true)
    (o.kind = .sinit → semUse s o.region e false = true → (e.type ≠ 3 ∨ e.poison = true ∨ e.bal = 0) → sound →
      (ty = 0 → ∃ t, exec .semArrive s = .next t ∧ EntryIs s t o.addr { e with word := 0, poison := false }) ∧
      (ty = 1 → ∃ t n, exec .semArrive s = .next t ∧ EntryIs s t o.addr n ∧ n.type = 1 ∧ n.value = o.c ∧ n.owner = e.owner ∧
        n.openBit = b.getLsbD 4 ∧ n.poison = false) ∧
      (ty = 2 → ∃ t n, exec .semArrive s = .next t ∧ EntryIs s t o.addr n ∧ n.type = 2 ∧ n.expect = (b.extractLsb' 16 16).toNat ∧
        n.arrived = 0 ∧ n.pendBytes = 0 ∧ n.phase = false ∧ n.owner = e.owner ∧ n.openBit = b.getLsbD 4 ∧ n.poison = false) ∧
      (ty = 3 → room → ∃ t n, exec .semArrive s = .next t ∧ EntryIs s t o.addr n ∧ n.type = 3 ∧ n.bal = 0 ∧ n.cls = cls ∧
        n.floor = (b.extractLsb' 32 16).toInt ∧ n.frozen = false ∧ n.owner = e.owner ∧ n.openBit = b.getLsbD 4 ∧ n.poison = false ∧
        ∀ q, classOf s cls = some q → n.overdrawn = decide (0 < (b.extractLsb' 32 16).toInt * 2 ^ q))) ∧
    (o.kind = .sinit → semUse s o.region e false = false ∨ (e.type = 3 ∧ e.poison = false ∧ e.bal ≠ 0) ∨ ¬ sound ∨ (ty = 3 ∧ ¬ room) →
      ∃ t, exec .semArrive s = .next t ∧ Dropped s t o) ∧
    (o.kind = .cinfo → o.addr = 0 → ∀ q, classOf s (b.toNat % 256) = some q → tells (BitVec.ofNat 64 (256 + q)) 0) ∧
    (o.kind = .cinfo → o.addr = 0 → classOf s (b.toNat % 256) = none → tells 0 0) ∧
    (o.kind = .cinfo → o.addr = 1 → let i := entryOf s b.toNat
      (i.poison = false → semUse s o.region i true = true →
        tells (BitVec.ofNat 64 ((if i.type = 3 then i.cls * 2 ^ 32 else 0) + i.owner * 2 ^ 16 + (i.word.extractLsb' 120 4).toNat * 16 + i.type)) 0) ∧
      (i.poison = true → tells 0 0xA) ∧ (i.poison = false → semUse s o.region i true = false → tells 0 6)) ∧
    (o.kind = .cinfo → o.addr = 2 → tells (BitVec.ofNat 64 (Tab.get 0 (dieOf s o.die).drops o.region)) 0) ∧
    (o.kind = .cinfo → o.addr = 3 → let n := transitOf s (ownPlace s o.die) (b.toNat % 256)
      ((classOf s (b.toNat % 256)).isSome → tells (BitVec.ofNat 64 n) (BitVec.ofNat 64 (n / 2 ^ 64 % 2 ^ 32 * 2 ^ 32))) ∧
      (classOf s (b.toNat % 256) = none → tells 0 7))

/-- What one file holds of a class: the balances of its accounts and its in-transit count (R311). -/
def fileTotal (s : State) (cls place : Nat) : Int :=
  ((s.sems.filter fun p => semPlace p.1 == place && p.2.type == 3 && p.2.cls == cls).map fun p => p.2.bal).sum + transitOf s place cls

/-- R311, R313: CTOTAL reads the files of its scope, one in a step: its own die's; its module's; every file of the domain. With no
transfer of its class acknowledged at the time, it adds up what they hold. After the last file it delivers the sum, 96 bits of
two's complement, the upper 32 in the status word; POISONED where an account it read is in error; BAD_CLASS for an undefined
class; UNREACHABLE, at domain scope, while a node cannot be reached. It changes no entry. -/
def totals : Prop :=
  ∀ (s : State) (o : SemOp), s.args.a = o.id → s.semOps = [o] → o.kind = .ctotal → o.die < 5 →
    let seen := opView s o.ctx
    let cls := o.addr % 256
    let scope := o.addr / 256 % 4
    let tells := fun (r st : D64) => ∃ t, exec .semArrive s = .next t ∧ t.sems = s.sems ∧ t.semOps = [] ∧ Told t o r st
    let files := totalPlaces s o
    let cut := scope ≥ 2 ∧ ∃ n ∈ s.nodes, NatSet.mem s.unreach n = true
    (scope = 0 → files = [s.node * 8 + o.die]) ∧ (scope = 1 → files = (List.range 5).map fun d => s.node * 8 + d) ∧
    (NatSet.mem s.unreach s.node = false →
      (classOf s cls = none → tells 0 7) ∧ ((classOf s cls).isSome → cut → tells 0 9) ∧
      ((classOf s cls).isSome → ¬ cut → o.spoilt = false → (∃ p ∈ files, NatSet.mem o.read p = false) →
        (∀ x ∈ seen.xfers, x.stage ≠ .ack) → (∀ e ∈ seen.sems, e.2.poison = false) →
        ∃ p ∈ files, NatSet.mem o.read p = false ∧
          let sum := o.sum + fileTotal seen cls p
          let v := BitVec.ofInt 96 sum
          ((∀ r ∈ files, r = p ∨ NatSet.mem o.read r = true) →
            tells (v.extractLsb' 0 64) (BitVec.ofNat 64 ((v.extractLsb' 64 32).toNat * 2 ^ 32))) ∧
          ((∃ r ∈ files, r ≠ p ∧ NatSet.mem o.read r = false) →
            ∃ t, exec .semArrive s = .next t ∧ t.sems = s.sems ∧ t.ctxs = s.ctxs ∧
              t.semOps = [{ o with read := NatSet.insert o.read p, sum := sum }])) ∧
      ((classOf s cls).isSome → ¬ cut → (∀ r ∈ files, NatSet.mem o.read r = false → files = [r]) → (∃ p ∈ files, NatSet.mem o.read p = false) →
        (∃ e ∈ seen.sems, semPlace e.1 ∈ files ∧ e.2.type = 3 ∧ e.2.cls = cls ∧ e.2.poison = true) → tells 0 0xA))

/-- Setting entries up, and what the queries say, the totals of a class among them. -/
def Obligations.SetupAndQueries : Prop := setupAndQueries ∧ totals

/-- R267, R313, R314: what reaches the semaphore files from outside. A node reported unreachable joins the set of those, returning
operations that wait armed at its entries end with status UNREACHABLE and result 0, and no other operation ends, whether it has
not arrived yet or is armed at another node; a node that can be reached again
leaves the set. An operation that then sets out for an unreachable node says UNREACHABLE and changes no entry. -/
def unreachableNodes : Prop :=
  (∀ (s : State), s.args.a ≠ s.node → s.args.a ∈ s.nodes → ∃ t, exec .nodeUnreachable s = .next t ∧
    NatSet.mem t.unreach s.args.a = true ∧ t.sems = s.sems ∧ t.mem = s.mem ∧
    (∀ o ∈ s.semOps, o.armed = false ∨ opPlace s o / 8 ≠ s.args.a → (∀ p ∈ s.semOps, p.id = o.id → p = o) → o ∈ t.semOps) ∧
    (∀ o ∈ s.semOps, o.armed = true → opPlace s o / 8 = s.args.a → o ∉ t.semOps ∧ Told t o 0 9)) ∧
  (∀ (s : State), exec .nodeReachable s = .next { s with unreach := NatSet.erase s.unreach s.args.a }) ∧
  (∀ (s : State) (o : SemOp), s.semOps.find? (fun p => p.id == s.args.a) = some o →
    aheadAt s o (opPlace s o) = false →
    (o.rel = true → releaseReady s o = true) → o.kind = .sadd → o.result.isSome → NatSet.mem s.unreach (semNode o.addr) = true →
    ∃ t, exec .semArrive s = .next t ∧ t.sems = s.sems ∧ Told t o 0 9)

/-- What there is of a class in all (R311): the balances of its accounts and what is in transit, less what an acknowledgement on
its way has already brought to a destination. -/
def caratTotal (s : State) (cls : Nat) : Int :=
  ((s.sems.filter fun p => p.2.type == 3 && p.2.cls == cls).map fun p => p.2.bal).sum +
  (((s.transit.filter fun p => p.1 % 256 == cls).map (·.2)).sum : Int) -
  (((s.xfers.filter fun x => x.stage == .ack && x.cls == cls).map (·.amount)).sum : Int)

/-- R306 to R311: moving carats keeps their sum. A CXFER at its source die, a credit that arrives, a refund and an acknowledgement
that return leave the total of every class as it was. -/
def Obligations.CaratsAreConserved : Prop :=
  ∀ (s : State) (cls : Nat), (s.sems.map (·.1)).Pairwise (· < ·) → (s.transit.map (·.1)).Pairwise (· < ·) →
    (s.xfers.map (·.id)).Nodup → (∀ x ∈ s.xfers, x.amount ≤ transitOf s (semPlace x.src) x.cls ∧ x.cls < 256) →
    (∀ o ∈ s.semOps, o.id = s.args.a → (∃ form, o.kind = .cxfer form) ∧ xferDst o ≠ o.addr) →
    ∀ i ∈ [Instr.semArrive, .creditArrive, .refundArrive, .ackArrive], ∃ t, exec i s = .next t ∧ caratTotal t cls = caratTotal s cls

/-- Triggers of the semaphore unit: those that answer, and those that do not. -/
def Obligations.SemaphoreTriggers : Prop := semaphoreReturns ∧ semaphoreQuiet

/-- Transfers of carats on one die, and between dies. -/
def Obligations.Transfers : Prop := transferOnDie ∧ transferBetweenDies

/-! ## Tasks (R345 to R362, R369) -/

/-- The context with `k` put behind the span action of its bundle, unless a HALT of the bundle ends it (R129, R353). -/
def endsWith (y : Ctx) (f : Frame) (k : EndKind) : Ctx :=
  if haltHeld f = none then { y with frame := some { f with todo := insertTodo (.endTask k) f.todo } } else y

/-- R353 to R356: TID delivers the task's identifier, and its round as status, after 2 ticks. TDONE and, in a deterministic
region, RNDCMT end the task behind the span action of their bundle; that beside a HALT they have no effect is the model's reading (DEDUCED,
log entry 18). WAITC of a valid condition records a continuation that holds
`g1` to `g5` as they are visible, the position of its operand and the condition, and ends the task. A gang context that executes
TDONE or WAITC traps PRIVILEGE, RNDCMT outside a deterministic region BOUNDS. -/
def taskTriggerResults : Prop :=
  ∀ (m : Mv) (s : State) (c : Nat) (x : Ctx) (f : Frame), Acts s m c x f →
    let o := opndsAt x f m .tsk
    let y := latched x .tsk o.a
    let trap := fun (t : Trap) (k : Nat) => Host.Outcome.next (preciseTrap s c { code := t, sock := k, slot := f.cur })
    exec (.tskTid m) s = .next (setCtx s c
      (started x .tsk o.a 2 (full64 x.task.id) (some (if x.gang then 0 else BitVec.ofNat 64 x.task.round)))) ∧
    (x.gang = false → exec (.tskTdone m) s = .next (setCtx s c (endsWith y f .tdone))) ∧
    (x.gang = true → exec (.tskTdone m) s = trap .privilege 0x44A ∧ exec (.tskWaitc m) s = trap .privilege 0x449) ∧
    (detOf s (ctxRegion s c) = true → exec (.tskRndcmt m) s = .next (setCtx s c (endsWith y f .rndcmt))) ∧
    (detOf s (ctxRegion s c) = false → exec (.tskRndcmt m) s = trap .bounds 0x44C) ∧
    (∀ l, waitcCheck s c o = none → x.launch = some l → haltHeld f = none → ∃ k : Cont,
      exec (.tskWaitc m) s = .next (setCtx s c { y with frame := some { f with
        cont := some k, todo := insertTodo (.endTask .waitc) f.todo } }) ∧
      k.launch = l ∧ k.ctx = c ∧ k.region = ctxRegion s c ∧ k.seed.pos = o.b64.toNat ∧ k.seed.task = x.task.id ∧ k.seed.move = false ∧
      k.seed.live = (List.range 5).map (fun i => (f.regs.read (BitVec.ofNat 12 (i + 1))).setWidth 64) ∧
      (o.a64.toNat / 2 ^ 62 = 0 → k.cond = .counter (o.a64.toNat % 2 ^ 30) o.c64) ∧
      (o.a64.toNat / 2 ^ 62 = 1 → k.cond = .barrier (o.a64.toNat % 2 ^ 30) (o.a64.getLsbD 32)) ∧
      (o.a64.toNat / 2 ^ 62 = 2 → k.cond = .tag (ctxCore c) (o.a64.toNat % 2 ^ 20) ∧ k.seed.only = some (ctxCore c)))

/-- R336, R337, R344, R345, R347 to R349, R352, R369: POST of a record that passes its checks delivers its status after 2 ticks: 1 where SEEDB
has no unit free, 2 and 3 where a moving seed's node cannot be reached or COPYB does not suffice; nothing else happens then. With
status 0 a unit of SEEDB is taken, and the seed of the record stands last in the shard of its key (the poster's own for key 0),
where a core covers its kernel; where none does, that is a dispatch fault, which in a fault domain of LAUNCH ends the launch with the
seed's kernel as the one that failed. A moving seed is on its way to that shard instead, and COPYB has paid for its tiles. A record that fails
a check traps precisely. That FULL comes before UNREACHABLE and that before NO_BUDGET, where several hold, is the model's reading (log
entry 32). -/
def taskPosts : Prop :=
  ∀ (m : Mv) (s : State) (c : Nat) (x : Ctx) (f : Frame) (l : Nat) (y : Launch), Acts s m c x f →
    (ckOn x = true → 3 ≤ (hdrSpan f.header).toNat) → x.launch = some l → launchOf s l = some y →
    let o := opndsAt x f m .tsk
    (∀ t, postCheck s c o = some t → exec (.tskPost m) s = .next (preciseTrap s c { code := t, sock := 0x448, slot := f.cur })) ∧
    (postCheck s c o = none →
    let a := o.a64.toNat
    let r := ctxRegion s c
    let rec_ := seedOf (recordAt s c a 64)
    let d : Seed := { rec_ with round := if y.det then (y.round + 1) % 2 ^ 32 else rec_.round }
    let list := recordAt s c (a + 64) 64
    let cost := ((tilesOf list).1.map fun t => t.2.2).sum
    let br := budgetRegion s r 9
    let sr := budgetRegion s r 10
    let far := moveNode list ∉ s.nodes ∨ NatSet.mem s.unreach (moveNode list) = true
    let told := fun (n : Nat) => setCtx s c (started x .tsk o.a 2 (full64 0) (some (BitVec.ofNat 64 n)))
    (seedRoom s r = false → exec (.tskPost m) s = .next (told 1)) ∧
    (seedRoom s r = true → d.move = true → far → exec (.tskPost m) s = .next (told 2)) ∧
    (seedRoom s r = true → d.move = true → ¬ far → (regionOf s br).copyb < cost → exec (.tskPost m) s = .next (told 3)) ∧
    (seedRoom s r = true → d.move = true → ¬ far → cost ≤ (regionOf s br).copyb → ∃ t n, exec (.tskPost m) s = .next t ∧
      ctxOf t c = ctxOf (told 0) c ∧ t.launches = s.launches ∧ (regionOf t br).copyb = (regionOf s br).copyb - cost ∧
      (regionOf t sr).seeds = (regionOf s sr).seeds + 1 ∧
      t.moves = s.moves ++ [{ id := n, launch := l, region := r, node := moveNode list, seed := d, tiles := (tilesOf list).1
                              gen := (spaceOf s (asidOf s r)).gen, shard := shardOf y d.key (virtualBangle y c), ctx := c
                              ov := if inRound s c then some c else none }]) ∧
    (seedRoom s r = true → d.move = false → covers s.feat (kernelFeat y d.slot) = false → y.stage ≠ .retired → fdomOf s y.region = 1 →
      ∃ t z, exec (.tskPost m) s = .next t ∧ launchOf t l = some z ∧ z.faulted = true ∧ z.kfail = d.slot ∧ z.shards = y.shards ∧
        t.mem = s.mem) ∧
    (seedRoom s r = true → d.move = false → covers s.feat (kernelFeat y d.slot) = true → ∃ t z, exec (.tskPost m) s = .next t ∧
      launchOf t l = some z ∧ z.shards = y.shards.modify (shardOf y d.key (virtualBangle y c)) (· ++ [d]) ∧
      (regionOf t sr).seeds = (regionOf s sr).seeds + 1 ∧ (regionOf t br).copyb = (regionOf s br).copyb ∧
      (ctxOf t c).infl = (ctxOf (told 0) c).infl ∧ t.mem = s.mem))

/-- R129, R133, R343, R347, R349, R353: the end of a task or a context, once its asynchronous writes have landed and its waits are
over, with checkpoint mode off, outside a deterministic round, where other contexts still run the launch's kernels on every core.
HALT leaves its exit value with the launch; a gang context is then HALTED; any other looks for its next seed; TDONE does the same
without an exit value; either frees the seed's unit of SEEDB; WAITC leaves its continuation behind. The results in flight are gone
and the latches are zero; nothing of memory changes. -/
def taskEnds : Prop :=
  ∀ (s : State) (c l : Nat) (x : Ctx) (f : Frame) (y : Launch) (k : EndKind), current s = some (c, x, f) → x.launch = some l →
    launchOf s l = some y → f.todo = [.endTask k] → x.sys.ckmode = 0 → (f.freed = true ∨ endWrites x = true) → endReady s c k = true →
    inRound s c = false → k ≠ .rndcmt → f.slots ≠ [] →
    (∀ n, ∀ q ∈ (coreOf s n).kernels, q.launch = l → ∃ d ∈ kernelCtxs s n q, d ≠ c) →
    ∃ t, step s = .next t ∧ t.active = none ∧ t.mem = s.mem ∧ t.host = s.host ∧
      (let z := ctxOf t c; z.infl = [] ∧ z.lat = Vector.replicate 14 {} ∧ z.link = [] ∧ z.loops = [] ∧ z.frame = none ∧ z.lsc = x.lsc + 1 ∧
        z.task = {} ∧ z.regs = x.regs ∧
        z.status = if x.gang then .halted else .seeking 0 false) ∧
      (k = .halt → ∃ z, launchOf t l = some z ∧ z.exits = (setExit y c f.exit).exits) ∧
      (k ≠ .halt → launchOf t l = some y) ∧
      (k ≠ .waitc → x.task.seed.isSome → (Tab.find s.regions (budgetRegion s (ctxRegion s c) 10)).isSome →
        let b := budgetRegion s (ctxRegion s c) 10
        (regionOf t b).seeds = (regionOf s b).seeds - 1) ∧
      (∀ q, k = .waitc → f.cont = some q → ∃ q', t.conts = s.conts ++ [q'] ∧ q'.cond = q.cond ∧ q'.seed = q.seed ∧ q'.armed = q.armed)

/-- R129, R353: the order of the end. While an asynchronous write has not landed, the end waits, and nothing withheld is released;
then, with checkpoint mode on, what is withheld is released; and while the waits behind the release are not over, the end waits
again, and releases nothing twice. -/
def taskEndWaits : Prop :=
  ∀ (s : State) (c : Nat) (x : Ctx) (f : Frame) (k : EndKind), current s = some (c, x, f) → f.todo = [.endTask k] →
    let waits := ∃ t, step s = .next t ∧ t.active = none ∧ (∀ d, ctxOf t d = ctxOf s d) ∧ t.mem = s.mem ∧ t.semOps = s.semOps ∧
      t.dies = s.dies ∧ t.cores = s.cores
    let u := releaseAll (setCtx s c { x with frame := some { f with todo := [], freed := true } }) c
    (f.freed = false → endWrites x = false → waits) ∧ (f.freed = true → endReady s c k = false → waits) ∧
    (f.freed = false → endWrites x = true → x.sys.ckmode = 1 → endReady u c k = false →
      ∃ t, step s = .next t ∧ t.active = none ∧ t.semOps = u.semOps ∧ t.dies = u.dies ∧ (ctxOf t c).held = [] ∧
        (ctxOf t c).frame = some { f with freed := true })

/-- R72, R196, R340, R361: the last context of a gang's only kernel on a core ends: the kernel's code, the area and the contexts of the
launch there are free, where nothing of the launch is to touch the scratchpad any more and no round of it is still to be merged. -/
def lastContextFreesCore : Prop :=
  ∀ (s : State) (c l : Nat) (x : Ctx) (f : Frame) (y : Launch) (q : Kernel) (cs : List Nat) (n : Nat), current s = some (c, x, f) →
    x.launch = some l → x.gang = true → launchOf s l = some y → y.kind = .gang → y.stage = .placed → y.ctxs = [(ctxCore c, cs)] → c ∈ cs →
    f.todo = [.endTask .halt] → x.sys.ckmode = 0 → endWrites x = true → endReady s c .halt = true → inRound s c = false → x.ls = [] →
    (coreOf s (ctxCore c)).kernels = [q] → q.launch = l → (coreOf s (ctxCore c)).area = some (l, n) → q.demand = [] →
    y.tasks = [] → s.saves = [] → (∀ d, d / 4 = ctxCore c → d ≠ c → (ctxOf s d).status = .halted ∧ (ctxOf s d).ls = []) →
    (∀ d ∈ s.dies, ∀ j ∈ d.2.jobs, j.launch ≠ l) →
    ∃ t, step s = .next t ∧ (coreOf t (ctxCore c)).kernels = [] ∧ (coreOf t (ctxCore c)).area = none ∧ t.mem = s.mem ∧
      ctxOf t c = { seq := x.seq, bundle := x.bundle } ∧ ∃ z, launchOf t l = some z ∧ z.exits = (setExit y c f.exit).exits

/-- R76, R77, R346, R349, R350: a context without work that asks a shard which holds a seed it may take, and before every other
context that asks it, takes the first such seed and starts at its position, in the kernel of its slot, with `g1` to `g5` from
the seed (and `g6` from the watch of a continuation), `k0` to `k31` from the argument block, in both faces, every other register of
all five files, every port, stack, pattern and descriptor slot empty and LSC 0; checkpoint mode is on, with its first checkpoint,
where the seed or the region asks for it. A shard without one makes it ask the next, and after a whole turn it is HALTED. -/
def seedPickupStarts : Prop :=
  ∀ (s : State) (c l : Nat) (y : Launch) (n : Nat) (again : Bool), s.args.a = c → (ctxOf s c).status = .seeking n again →
    (ctxOf s c).launch = some l → launchOf s l = some y → y.stage = .placed → y.faulted = false → (regionOf s (budgetRegion s y.region 8)).heldC = false →
    c < Config.contexts → (coreOf s (ctxCore c)).saving = false → (ctxOf s c).stop = false →
    let j := (virtualBangle y c + n) % max 1 y.shards.length
    firstAsker s y c j = true →
    (∀ i d, (y.shards.getD j []).findIdx? (mayTake s y c (n == 0)) = some i → (y.shards.getD j [])[i]? = some d →
      d.live.length = 5 → (∀ k, k ∈ (coreOf s (ctxCore c)).kernels → k.launch = l → k.resids = []) →
      ∃ t, exec .seedPickup s = .next t ∧ t.mem = s.mem ∧
        (∃ z, launchOf t l = some z ∧ z.shards = y.shards.modify j (·.eraseIdx i)) ∧
        let x := ctxOf t c
        x.status = .running ∧ x.launch = some l ∧ x.kslot = d.slot ∧ x.pc = d.pos ∧ x.lsc = 0 ∧ x.idle = 0 ∧ x.link = [] ∧
        x.loops = [] ∧ x.infl = [] ∧ x.lat = Vector.replicate 14 {} ∧ x.handler = false ∧ x.sys.flg = 0 ∧
        x.sys.ckmode = (if d.ckEn ∨ ckptPolicy s y.region = true then 1 else 0) ∧
        (x.shadow.isSome = true ↔ d.ckEn ∨ ckptPolicy s y.region = true) ∧ x.sys.scb = scbPolicy s y.region ∧
        x.pats = ({} : Ctx).pats ∧ x.desc = ({} : Ctx).desc ∧
        x.task = { seed := some d, id := d.task, round := d.round } ∧
        (∀ i (h : i < 64), let w := if 1 ≤ i ∧ i ≤ 5 then d.live.getD (i - 1) 0 else if i = 6 then d.g6.getD 0 else 0
          x.regs.g[i] = { vis := w, hid := w }) ∧
        (∀ i (h : i < 32), x.regs.k[i] = { vis := word64 y.args i, hid := word64 y.args i }) ∧
        x.regs.p = Vector.replicate 8 {} ∧ x.regs.v = Vector.replicate 32 {} ∧ x.regs.m = Vector.replicate 8 {}) ∧
    ((y.shards.getD j []).findIdx? (mayTake s y c (n == 0)) = none →
      exec .seedPickup s = .next (setCtx s c { ctxOf s c with
        status := if n + 1 < max 1 y.shards.length then .seeking (n + 1) again else if again then .seeking 0 false else .halted }))

/-- R347, R348, R354, R357, R358, R369: where seeds come from. The walker of a placed operator launch makes the seed of its next
step while SEEDB has a unit free, with the step as task and `g1` and the cursors behind it; a continuation whose condition holds
enters the shard of its key (a TAG continuation its context's own) with the status in `g6`, in a deterministic launch for the next
round, and one whose condition does not hold stays armed; a moving seed whose tiles have performed enters its shard of this node, in a
deterministic launch once the round that it waits for has begun. A moving seed that a peer module posts, which comes from outside (log entry
16), enters the shard of its key likewise. A continuation of a launch that a fault has ended enters no more. -/
def seedsEnter : Prop :=
  ∀ (s : State) (l : Nat) (y : Launch), launchOf s l = some y →
    (s.args.a = l → y.stage = .placed → y.faulted = false → y.kind = .operator → seedRoom s y.region = true →
      y.walker.next < y.walker.total → covers s.feat (kernelFeat y y.walker.slot) = true →
      ∃ t z, exec .walkerStep s = .next t ∧ t.mem = s.mem ∧ launchOf t l = some z ∧ z.walker = { y.walker with next := y.walker.next + 1 } ∧
        let d := walkSeed y.walker y.walker.next
        z.shards = y.shards.modify (shardOf y d.key 0) (· ++ [d]) ∧ d.task = BitVec.ofNat 64 y.walker.next ∧
        d.live.head? = some (BitVec.ofNat 64 y.walker.next)) ∧
    (∀ k, s.conts.find? (fun k => k.id == s.args.a) = some k → k.launch = l → k.status = none →
      (y.faulted = true → exec .continuationEnter s = .next s) ∧ (y.faulted = false →
      (y.det = false → contView s l y = s) ∧
      (condTest (contView s l y) k.region k.cond = none → exec .continuationEnter s =
        .next { s with conts := s.conts.map fun q => if q.id = k.id then { q with armed := true } else q }) ∧
      (∀ v, condTest (contView s l y) k.region k.cond = some v → ∃ t z, exec .continuationEnter s = .next t ∧
        launchOf t l = some z ∧ t.conts = s.conts.filter (fun q => q.id != k.id) ∧
        let own := virtualBangle y k.ctx
        z.shards = y.shards.modify (match k.cond with | .tag _ _ => own | _ => shardOf y k.seed.key own)
          (· ++ [{ k.seed with g6 := some v, round := if y.det then (y.round + 1) % 2 ^ 32 else k.seed.round }])))) ∧
    (let bs := leBytes s.args.d s.args.c
     let d := seedOf bs
     let list := (bs.drop 64).take 64
     s.args.a = l → s.args.d ≠ 0 → seedClean bs = true → d.move = true → tilesOf list = ([], true) → moveNode list = s.node →
      d.slot ∈ y.klist → y.stage = .placed → y.faulted = false → covers s.feat (kernelFeat y d.slot) = true →
      ∃ t z, exec .moveSeedArrive s = .next t ∧ t.mem = s.mem ∧ launchOf t l = some z ∧ z.shards = y.shards.modify (shardOf y d.key s.args.b)
        (· ++ [{ d with round := if y.det then (y.round + 1) % 2 ^ 32 else d.round }])) ∧
    (∀ m, s.args.d = 0 → s.moves.find? (fun m => m.id == s.args.a) = some m → m.launch = l → y.faulted = false →
      let lands := m.node = s.node → covers s.feat (kernelFeat y m.seed.slot) = true →
        ∃ t z, exec .moveSeedArrive s = .next t ∧ launchOf t l = some z ∧ t.moves = s.moves.filter (fun k => k.id != m.id) ∧
          z.shards = y.shards.modify m.shard (· ++ [m.seed])
      (m.copied = false → m.tiles = [] → NatSet.mem s.unreach m.node = false → (spaceOf s (asidOf s m.region)).gen = m.gen →
        (m.ov = none → lands) ∧
        (m.ov.isSome = true → exec .moveSeedArrive s =
          .next { s with moves := s.moves.map fun k => if k.id = m.id then { k with copied := true } else k })) ∧
      (m.copied = true → (y.round < m.seed.round → exec .moveSeedArrive s = .next s) ∧ (m.seed.round ≤ y.round → lands)))

/-- R355, R359, R361, R362: a round that is over and whose tasks do not clash merges: their writes are made in the order of their
identifiers, then their held semaphore operations in the same order, the launch is in its next round with no task and no context
left waiting, and every context that waited in RNDCMT goes on in that round, which its `.r` holds. Two tasks of one identifier, or
that touched one word, end the launch with the information of R343. -/
def Obligations.RoundMerges : Prop :=
  ∀ (s : State) (l : Nat) (y : Launch), s.args.a = l → launchOf s l = some y → y.det = true → y.stage = .placed → y.faulted = false →
    roundOver s l y = true → (y.tasks ≠ [] ∨ y.waiting ≠ []) →
    (roundFailure y.tasks = none → ∃ t z, exec .roundMerge s = .next t ∧
      launchOf t l = some z ∧ z.round = y.round + 1 ∧ z.tasks = [] ∧ z.waiting = [] ∧ z.code = y.code ∧
      (let u := (sortTasks y.tasks).foldl (fun u r => applyOverlay u (asidOf s y.region) r.ov) s
       t.mem = u.mem ∧ t.sems = ((sortTasks y.tasks).foldl (fun u r => r.ov.sems.foldl semPerform u) u).sems) ∧
      (∀ k, (coreOf t k).spad = (coreOf ((sortTasks y.tasks).foldl (fun u r => applyOverlay u (asidOf s y.region) r.ov) s) k).spad) ∧
      (∀ c ∈ y.waiting, ckOn (ctxOf s c) = false → (ctxOf t c).task.round = y.round + 1 ∧
        (latchOf (ctxOf t c).lat .tsk).r = BitVec.ofNat 4096 (y.round + 1) ∧ (latchOf (ctxOf t c).lat .tsk).st = 0)) ∧
    (∀ info, roundFailure y.tasks = some info → fdomOf s y.region = 1 → ∃ t z, exec .roundMerge s = .next t ∧ launchOf t l = some z ∧
      z.code = 0x0D ∧ z.faulted = true ∧ z.info = info ++ [0, 0] ∧ z.tasks = [] ∧ t.mem = s.mem)

/-! ## Links (R363 to R367) -/

/-- R95, R123, R364 to R367: SEND of a valid length delivers `.st` zero after 2 ticks, and `.r` with a free value that the spec does
not state (log entry 61), and, where the receive queue has room and checkpoint
mode is off, its message is on its way; withheld with checkpoint mode on. RECV takes the oldest message of its pipe, where that has
arrived; where it is on its way RECV waits; where there is none RECV is UNREACHABLE if the peer's node cannot be reached, CLOSED if the peer
context has halted, and else waits. RECV is eager: it traps EAGER_PLACEMENT in checkpoint mode outside a checkpoint bundle, else PRIVILEGE
in a deterministic round (R99, R360; before its own check, log entry 22). LSTAT delivers the state of the pipe's end, and `.st` with a free
value. -/
def linkTriggers : Prop :=
  ∀ (m : Mv) (s : State) (c : Nat) (x : Ctx) (f : Frame), Acts s m c x f →
    let o := opndsAt x f m .lnk
    let pipe := o.a64.toNat
    let place := pipePlace s c pipe
    let data := leBytes o.c64.toNat o.b.toNat
    let y := started x .lnk o.a 2 (some (Config.freeVal s.free, BitVec.allOnes 4096)) (some 0)
    (sendCheck s c o = none →
      (ckOn x = true → exec (.lnkSend m) s =
        .next { setCtx s c { y with held := x.held ++ [.send pipe data] } with free := s.free + 1 }) ∧
      (ckOn x = false → x.going = [] → sendRoom s c pipe data.length = true → exec (.lnkSend m) s =
        .next { setCtx s c y with count := s.count + 1, msgs := s.msgs ++ [{ id := s.count, place := place, data := data }]
                                  free := s.free + 1 }) ∧
      (ckOn x = false → x.going = [] → sendRoom s c pipe data.length = false → exec (.lnkSend m) s =
        .next { setCtx s c { y with going := [.send pipe data] } with free := s.free + 1 })) ∧
    (let trap := fun (t : Trap) => exec (.lnkRecv m) s = .next (preciseTrap s c { code := t, sock := 0x489, slot := f.cur })
     (ckOn x = true → (hdrSpan f.header).toNat < 3 → trap .eagerPlacement) ∧
     ((ckOn x = true → 3 ≤ (hdrSpan f.header).toNat) → inRound s c = true → trap .privilege) ∧
     (∀ t, EagerOk s c x f → pipeCheck false true s c o = some t → trap t)) ∧
    (EagerOk s c x f → pipeCheck false true s c o = none → x.recvs = [] →
      let z := started x .lnk o.a 4 (full64 0) (some 0) 0 [] true
      let gets := fun (t : State) (bytes : List Byte) (st : D64) => exec (.lnkRecv m) s = .next t ∧ (ctxOf t c).recvs = [] ∧
        ∀ e ∈ (ctxOf t c).infl, e.seq = x.seq → e.r = some (BitVec.ofNat 4096 (leNat bytes), BitVec.allOnes 4096) ∧
          e.st = some st ∧ e.arrived = true
      let waits := exec (.lnkRecv m) s = .next (setCtx s c { z with recvs := [(x.seq, pipe)] })
      (∀ pre g post, s.msgs = pre ++ g :: post → (∀ k ∈ pre, k.place ≠ place) → g.place = place →
        (g.here = false → waits) ∧
        (g.here = true → ∃ t, gets t g.data (BitVec.ofNat 64 (g.data.length * 2 ^ 16)) ∧ t.msgs = s.msgs.filter fun k => k.id != g.id)) ∧
      ((∀ k ∈ s.msgs, k.place ≠ place) → ∀ p, pipeOf s c pipe = some p →
        (peerGone s p = true → ∃ t, gets t [] 0x0B ∧ t.msgs = s.msgs) ∧
        (peerGone s p = false → peerHalted s c p false = true → ∃ t, gets t [] 1 ∧ t.msgs = s.msgs) ∧
        (peerGone s p = false → peerHalted s c p false = false → waits))) ∧
    (pipeCheck true true s c o = none → ∀ p, pipeOf s c pipe = some p →
      let send := decide (p.sender = some x.kslot)
      let room := if send then (Config.recvFlits - flitsAt s place) * 2 ^ 16
        else ((s.msgs.filter fun m => m.place == place && m.here).map fun m => flitsOf m.data.length).sum
      let v := (if peerGone s p then 2 ^ 33 else 0) + (if peerHalted s c p send then 2 ^ 32 else 0) + room
      exec (.lnkLstat m) s = .next { setCtx s c (started x .lnk o.a 2 (some (BitVec.ofNat 4096 v, BitVec.allOnes 4096))
        (some ((Config.freeVal s.free).setWidth 64))) with free := s.free + 1 })

/-- R365: a message that no earlier one of its pipe precedes on its way arrives in the receive queue, in its place there; one whose
receiver is on another module leaves this one. A message from another module, which comes from outside (log entry 16), stands last in the
receive queue of its pipe, where that has room. That the peer context of a link has halted comes from outside too: the RECV that waits there
with its queue empty completes CLOSED (R366). -/
def messagesArrive : Prop :=
  (∀ (s : State) (y : Launch) (p : Pipe), let l := s.args.a; let n := s.args.d; let place := (l, s.args.b / 256, s.args.b % 256)
    n ≠ 0 → n ≤ 512 → launchOf s l = some y →
    y.image.pipes.find? (fun p => p.number == place.2.2 && p.receiver.isSome && p.peer.isSome) = some p → peerGone s p = false →
    flitsAt s place + flitsOf n ≤ Config.recvFlits →
    exec .messageArrive s = .next { s with count := s.count + 1, msgs :=
      s.msgs ++ [{ id := s.count, place := place, data := leBytes n s.args.c, here := true }] }) ∧
  (∀ (s : State) (y : Launch) (p : Pipe) (k c q : Nat) (cs : List Nat), let l := s.args.a; let v := s.args.b / 256; let n := s.args.b % 256
    s.args.d = 513 → launchOf s l = some y → y.ctxs[v]? = some (k, cs) → c ∈ cs → (ctxOf s c).launch = some l → gridCore s c = v →
    (ctxOf s c).recvs = [(q, n)] → pipeOf s c n = some p → p.number = n → p.peer.isSome → peerGone s p = false →
    (∀ m ∈ s.msgs, m.place ≠ (l, v, n)) →
    ∃ t z, exec .messageArrive s = .next t ∧ launchOf t l = some z ∧ (v, n) ∈ z.closed ∧ (ctxOf t c).recvs = [] ∧
      ∀ e ∈ (ctxOf t c).infl, e.seq = q → e.r = full64 0 ∧ e.st = some 1 ∧ e.arrived = true) ∧
  (∀ (s : State) (m : Message), s.args.d = 0 → s.msgs.find? (fun m => m.id == s.args.a && !m.here) = some m →
    ((s.msgs.takeWhile fun k => k.id != m.id).any fun k => k.place == m.place && !k.here) = false →
    (launchOf s m.place.1 = none → exec .messageArrive s =
      .next { s with msgs := s.msgs.map fun k => if k.id = m.id then { k with here := true } else k }) ∧
    (∀ y, launchOf s m.place.1 = some y → (∀ p ∈ y.image.pipes, p.peer = none) → exec .messageArrive s =
      .next { s with msgs := s.msgs.map fun k => if k.id = m.id then { k with here := true } else k }) ∧
    (∀ y p n q, launchOf s m.place.1 = some y → p ∈ y.image.pipes → p.number = m.place.2.2 → p.peer = some (n, q) → n ≠ s.node →
      p.receiver = none → exec .messageArrive s = .next { s with msgs := s.msgs.filter fun k => k.id != m.id }))

/-- Triggers of the task unit: the ends of tasks, the queries and watches, and the posts of seeds. -/
def Obligations.TaskTriggers : Prop := taskTriggerResults ∧ taskPosts

/-- The end of a task or a context: its order, what it leaves, and what the last one frees. -/
def Obligations.TaskEnds : Prop := taskEnds ∧ taskEndWaits ∧ lastContextFreesCore

/-- Seeds: how they enter their pools, and how a context starts from one. -/
def Obligations.SeedsStart : Prop := seedPickupStarts ∧ seedsEnter

/-- Links: sends and receives, and the messages that move. -/
def Obligations.Links : Prop := linkTriggers ∧ messagesArrive

/-! ## Issue, ticks and results (R50, R62 to R71, R112 to R120, R191) -/

/-- R50, R61 to R63, R92, R112 to R114, R116: a core whose contexts owe nothing, of which its holder is the only one that runs, in
order, at a position whose index word names a dictionary entry, issues that bundle: its context becomes the one whose bundle is
carried out, with its guards, sources, triggers, span action read from the words of the entry, and goes on one index word later;
its registers are as before but for reads that promote. Left out are bundles that may have to wait for the limits of R90, R91,
R227 and R253, for earlier scratchpad operations (PATSET), or, in a deterministic round, for the task's own copies and seed tiles;
`copyOverLimit` says what comes of those limits. The order of a bundle's
parts (the checks of all triggers, the triggers in ascending socket order, the SEG mark, landings, the span action, TRAP and TRET) is the
model's reading (log entry 17). -/
def bundleIssues : Prop :=
  ∀ (s : State) (k c : Nat) (x : Ctx) (y : Kernel) (ws : List Word), Alone s k c x y → x.late = [] → fetchAt y c x.pc = .dict ws →
    MayIssue s c x ws → x.sys.scb = false → (ckOn x = true → 3 ≤ (hdrSpan (ws.headD 0)).toNat) →
    let acting := actingSlots x.regs ws
    (∀ p, p ∈ acting → joinsArray (slotDst p.2) = false ∧ (∀ o, unitOf (slotDst p.2) ≠ some (.cpy, o)) ∧
      ((∀ u, unitOf (slotDst p.2) ≠ some (u, 0x1B)) ∨ (x.ls = [] ∧ ∀ q ∈ acting,
        unitOf (slotDst q.2) ≠ some (.ls0, 0x15) ∧ unitOf (slotDst q.2) ≠ some (.ls0, 0x16)))) → roundOwes s c = false →
    let plain := acting.filter fun p => !isTrigger p.2
    let trig := triggerOrder acting
    ∃ t, exec .bundleIssue s = .next t ∧ t.active = some c ∧ t.mem = s.mem ∧ (ctxOf t c).lsc = x.lsc ∧
      (ctxOf t c).regs = (acting.flatMap slotReads).foldl RegFile.promote x.regs ∧
      ∃ f, (ctxOf t c).frame = some f ∧ f.pos = x.pc ∧ f.next = x.pc + 1 ∧ f.header = ws.headD 0 ∧ f.slots = ws.drop 1 ∧
        f.regs = x.regs ∧ f.lat = x.lat ∧ f.brSet = false ∧
        f.brR = (makeFrame x ws 1 []).brR ∧ f.brSt = (makeFrame x ws 1 []).brSt ∧
        f.todo = plain.map (fun p => Todo.slot p.1) ++ trig.map (fun p => Todo.check p.1) ++
          (trig.filter fun p => !isLast p.2).map (fun p => Todo.slot p.1) ++ (if hdrSeg (ws.headD 0) = 1 then [.seg] else []) ++
          (if hdrSpan (ws.headD 0) ≠ 0 then [.land, .span] else []) ++ (trig.filter fun p => isLast p.2).map (fun p => Todo.last p.1)

/-- R58, R62, R64, R71, R92, R99, R121, R160, R228, R391: the traps that a context takes in place of issuing the bundle at its
position, none of whose moves acts. ILLEGAL_INDEX and SEGMENT_FAULT by the index word or the position; a literal bundle that
breaks R58, ILLEGAL_SOCKET where a socket is at fault and else ILLEGAL_BUNDLE; PENDING_DEADLOCK with the register and the slot;
with SCB on UNDERSIZED_COUNT for a port that is read early, a second result of a unit at one tick, and an early ASWAP;
EAGER_PLACEMENT for the first eager trigger outside a checkpoint bundle; FP_TRAP where one was recorded at a tick before. -/
def bundleTraps : Prop :=
  ∀ (s : State) (k c : Nat) (x : Ctx) (y : Kernel), Alone s k c x y → x.handler = false → (∀ b ∈ x.banks.toList, b ≠ .lost) →
    let traps := fun (u : State) (i : TrapInfo) => (handlerOf s c i.code).isSome →
      ∃ t, exec .bundleIssue s = .next t ∧ ctxOf t c = ctxOf (enterTrap u c i x.pc) c ∧ t.mem = s.mem ∧ t.semOps = (enterTrap u c i x.pc).semOps
    (∀ i, x.late = [i] → i.code = .fpTrap → traps (setCtx s c { x with late := [] }) i) ∧
    (x.late = [] →
      (∀ i, fetchAt y c x.pc = .trap i → traps s i) ∧
      (∀ ws e, fetchAt y c x.pc = .literal ws → x.fetched = true → literalError (BitVec.ofNat 64 s.feat) x.regs ws = some e →
        (∀ n d, e = .sourceSocket n d ∨ e = .destSocket n d ∨ e = .gated n d →
          traps s { code := .illegalSocket, sock := d.toNat, slot := n }) ∧
        (∀ n, e = .sourceForm n ∨ e = .emptyBits n → traps s { code := .illegalBundle, slot := n }) ∧
        ((∀ n d, e ≠ .sourceSocket n d ∧ e ≠ .destSocket n d ∧ e ≠ .gated n d ∧ e ≠ .sourceForm n ∧ e ≠ .emptyBits n) →
          traps s { code := .illegalBundle })) ∧
      (∀ ws, fetchAt y c x.pc = .dict ws → writeInProgress s c = false →
        let acting := actingSlots x.regs ws
        pendingRead x acting = false →
        (∀ n d, deadlock x acting = some (n, d) → traps s { code := .pendingDeadlock, sock := d.toNat, slot := n }) ∧
        (deadlock x acting = none → x.sys.scb = true →
          let early := acting.find? fun p => match slotPort p with
            | some u => x.infl.any fun e => e.unit == u
            | none => false
          (∀ p, early = some p → traps s { code := .undersizedCount, slot := p.1 }) ∧
          (∀ p e u o l, early = none → triggerOrder acting = [p] → e ∈ x.infl → unitOf (slotDst p.2) = some (u, o) → e.unit = u →
            latencyOf (slotDst p.2) x.sys.ltb = some l → e.due = x.lsc + l →
            traps s { code := .undersizedCount, sock := (slotDst p.2).toNat, slot := p.1 }) ∧
          (∀ p, early = none → triggerOrder acting = [p] → slotDst p.2 = 0x38D#12 →
            (aswapCheck s c (operandsOf x (makeFrame x ws 1 (bundleTodo (ws.headD 0) acting)) acting p)).isSome = true →
            traps s { code := .undersizedCount, sock := 0x38D, slot := p.1 })) ∧
        (deadlock x acting = none → x.sys.scb = false → ckOn x = true → (hdrSpan (ws.headD 0)).toNat < 3 →
          ∀ p, (triggerOrder acting).find? (fun p => isEager (slotDst p.2)) = some p →
            traps s { code := .eagerPlacement, sock := (slotDst p.2).toNat, slot := p.1 })))

/-- R62, R64, R71: where the index word at a position traps: a word that names no dictionary entry of the kernel and is not the
escape word, or an unfilled entry; a position within the body of a literal bundle; a position in no segment. -/
def indexTraps : Prop :=
  ∀ (k : Kernel) (c pos : Nat), residualAt k pos = none →
    (segOf k pos = none → fetchAt k c pos = .trap { code := .segmentFault }) ∧
    (∀ g i, segOf k pos = some g → k.faulted.contains c = false → frameOf k g = some i →
      let words := (k.frames[i]?.getD {}).words
      let off := pos - ((k.segs[g]?).getD ⟨0, 0, 0⟩).start
      let w := ((words[off]?).getD 0xFFFE).toNat
      (bodyAt off 0 words = true → fetchAt k c pos = .trap { code := .illegalIndex }) ∧
      (k.allow ≤ w → w ≠ 0xFFFF → fetchAt k c pos = .trap { code := .illegalIndex }) ∧
      (w < k.allow → (k.dict[w]?).getD none = none → fetchAt k c pos = .trap { code := .illegalIndex })) ∧
    (∀ g, segOf k pos = some g → k.faulted.contains c = true → fetchAt k c pos = .trap { code := .segmentFault, arg := 1 })

/-- R112, R115, R116, R118 to R120, R159, R160, R191: IDLE_TICK takes one of a context's idle ticks, which is a cycle in which the
holder does not issue. RESULT_DUE, where every result that is due has arrived, delivers them to their ports in trigger order, of two
of one unit at one tick only the later, takes them out of flight and merges their flags into FLG; an enabled flag of a
floating-point operation is recorded as FP_TRAP with its element. A due result that has not arrived keeps those of its group of
units back, and no others. HOLDER_LIMIT makes the selector pass over a holder that has issued 1,024 times with a rival (that an idle tick starts its
count anew and ends its YIELD is the model's reading and choice: log entries 15 and 66); BANK_REFRESH moves the calendar of the banks to its
next window. -/
def ticksAndResults : Prop :=
  ∀ (s : State), let c := s.args.a; let x := ctxOf s c
    (x.idle ≠ 0 → x.frame = none → x.status = .running → (coreOf s (ctxCore c)).saving = false → x.stop = false →
      (∀ e ∈ x.infl, x.lsc < e.due) → (∀ e ∈ x.aticks, x.lsc < e.tick) →
      ∃ t, exec .idleTick s = .next t ∧ ctxOf t c = { x with idle := x.idle - 1, lsc := x.lsc + 1 } ∧ t.mem = s.mem ∧
        (∀ d, d ≠ c → ctxOf t d = ctxOf s d) ∧
        ∀ k, coreOf t k = if k = ctxCore c ∧ k * 4 + (coreOf s k).holder = c then { coreOf s k with issued := 0, yielded := false } else coreOf s k) ∧
    (x.idle = 0 → exec .idleTick s = .next s) ∧
    (∀ e, x.frame = none → x.infl = [e] → e.due ≤ x.lsc → e.arrived = true → e.late = none → x.aticks = [] →
      (e.flags &&& enabledFlags (mergeFlags x.sys.flg e.flags) = 0 → exec .resultDue s = .next (setCtx s c { x with
        lat := deliver x.lat e, infl := [], sys := { x.sys with flg := mergeFlags x.sys.flg e.flags } })) ∧
      (e.flags &&& enabledFlags (mergeFlags x.sys.flg e.flags) ≠ 0 → ∀ n,
        (e.unit = .al0 ∨ e.unit = .al1 ∨ e.unit = .mul) ∧ n = 0 ∨
        e.unit = .vec ∧ lowestLane (enabledFlags (mergeFlags x.sys.flg e.flags)) e.lanes = some n →
        exec .resultDue s = .next (setCtx s c { x with lat := deliver x.lat e, infl := []
                                                       sys := { x.sys with flg := mergeFlags x.sys.flg e.flags }
                                                       late := x.late ++ [{ code := .fpTrap, elem := some n }] }))) ∧
    (∀ e d, x.frame = none → x.infl = [e, d] → e.due = x.lsc → d.due = x.lsc → e.seq < d.seq → e.arrived = true → x.aticks = [] →
      (d.arrived = true → ∃ t, exec .resultDue s = .next t ∧
        (ctxOf t c).lat = if e.unit = d.unit then deliver x.lat d else deliver (deliver x.lat e) d) ∧
      (d.arrived = false → unitGroup e.unit ≠ unitGroup d.unit → ∃ t, exec .resultDue s = .next t ∧
        (ctxOf t c).lat = deliver x.lat e ∧ (ctxOf t c).infl = [d]) ∧
      (d.arrived = false → unitGroup e.unit = unitGroup d.unit → ∃ t, exec .resultDue s = .next t ∧ ctxOf t c = x)) ∧
    (let k := coreOf s c; (1024 ≤ k.issued → exec .holderLimit s = .next (setCore s c { k with yielded := true })) ∧
      (k.issued < 1024 → exec .holderLimit s = .next s) ∧
      exec .bankRefresh s = .next (setCore s c { k with cycle := (k.cycle / 64 + 1) * 64 }))

/-- The issue of a bundle, the traps in its place, the waits for the limits of copy work, the ticks of a context, and the results
that fall due at them. -/
def Obligations.IssueAndTicks : Prop := bundleIssues ∧ bundleTraps ∧ indexTraps ∧ ticksAndResults

/-- R84, R91, R119, R198, R199, R201 to R203: RESULT_ARRIVAL of a load that has its turn takes its bytes as the context sees them at
that moment, sign-extended where the operation says so, and the operation is done; an LDFW also leaves the tags of its words
EMPTY, behind an STFF of its own bundle that stands next to it, which performs with it, and leaves an earlier STFF that is yet to perform its
data only (log entry 59); a result of a pipeline unit is simply there, a late fault of an array operation is then left for the next boundary (log
entry 23), and that of a withheld store carries SOFT_ERROR where the store would write a part of a bank word that holds an uncorrectable error. -/
def resultsArrive : Prop :=
  ∀ (s : State) (x : Ctx), let c := s.args.a; let q := s.args.b
    ctxOf s c = x →
    let here := fun (t : State) (v : Val) (st : D64) => ∀ e ∈ (ctxOf t c).infl, e.seq = q →
      e.arrived = true ∧ e.r = some (v, BitVec.allOnes 4096) ∧ e.st = some st
    (∀ o, x.ls.find? (fun o => o.seq == q) = some o → feProceeds s c o = true →
      (∀ e ∈ x.infl, e.seq = q → e.r.isSome = true) →
      let v := leNat (viewBytes s c o.bundle o.addr 8)
      (∀ n sx, o.kind = .load n sx → n ∈ [1, 2, 4, 8] → ∃ t, exec .resultArrival s = .next t ∧ t.cores = s.cores ∧ t.mem = s.mem ∧
        (ctxOf t c).ls = x.ls.filter (fun p => p.seq != q) ∧ ∃ w : BitVec 64, here t (w.setWidth 4096) 0 ∧
          w = if sx then (BitVec.ofNat (8 * n) (leNat (viewBytes s c o.bundle o.addr n))).signExtend 64
            else BitVec.ofNat 64 (leNat (viewBytes s c o.bundle o.addr n))) ∧
      (o.kind = .load 512 false → ∃ t, exec .resultArrival s = .next t ∧ t.cores = s.cores ∧ t.mem = s.mem ∧
        here t (BitVec.ofNat 4096 (leNat (viewBytes s c o.bundle o.addr 512))) 0) ∧
      (o.kind = .ldfk → ∃ t, exec .resultArrival s = .next t ∧ t.cores = s.cores ∧ here t (BitVec.ofNat 4096 v) 0) ∧
      (∀ p rest d, o.kind = .ldfw → inRound s c = false → x.ls = o :: p :: rest → p.bundle = o.bundle → p.seq < o.seq → p.addr = o.addr →
        p.kind = .stff d → (∀ r ∈ rest, r.seq ≠ p.seq) → (coreOf s (ctxCore c)).spad.wf = true →
        ∃ t, exec .resultArrival s = .next t ∧ here t (BitVec.ofNat 4096 v) 0 ∧
        (∀ w ∈ tagWords o.addr 8, NatSet.mem (coreOf t (ctxCore c)).empty w = true) ∧
        (∀ i (h : i < d.length), (coreOf t (ctxCore c)).spad.read (o.addr + i) = d[i]) ∧ ∀ r ∈ (ctxOf t c).ls, r.seq ≠ p.seq) ∧
      (o.kind = .ldfw → inRound s c = false →
        (∀ p ∈ x.ls, p.bundle = o.bundle → p.seq < o.seq → p.addr = o.addr → ∀ d, p.kind ≠ .stff d) →
        ∃ t, exec .resultArrival s = .next t ∧ here t (BitVec.ofNat 4096 v) 0 ∧
        (coreOf t (ctxCore c)).spad = (coreOf s (ctxCore c)).spad ∧ (∀ w, NatSet.mem (coreOf t (ctxCore c)).empty w =
          (NatSet.mem (coreOf s (ctxCore c)).empty w || (tagWords o.addr 8).contains w)) ∧
        ∀ p d, p.kind = .stff d → p.seq < o.seq → p.addr = o.addr →
          (p ∈ x.ls → { p with kind := .store d } ∈ (ctxOf t c).ls) ∧
          (.store p ∈ x.held → .store { p with kind := .store d } ∈ (ctxOf t c).held) ∧
          (.store p ∈ x.going → .store { p with kind := .store d } ∈ (ctxOf t c).going))) ∧
    (∀ e, x.ls.all (fun o => o.seq != q) = true → x.recvs.all (fun r => r.1 != q) = true → x.infl.find? (fun e => e.seq == q) = some e →
      e.engine = false → e.arrived = false → e.need = none →
      (e.unit = .mat → x.aside = none → (∀ o, .store o ∈ x.held ++ x.going → o.seq ≠ q) → ∃ t, exec .resultArrival s = .next t ∧
        t.mem = s.mem ∧ t.cores = s.cores ∧ (ctxOf t c).late = x.late ++ e.late.toList ∧
        ∀ d ∈ (ctxOf t c).infl, d.seq = q → d.arrived = true ∧ d.late = none) ∧
      (e.unit ≠ .mat → (∀ o, .store o ∈ x.held ++ x.going → o.seq ≠ q) →
        exec .resultArrival s = .next (setCtx s c (fillResult x q fun e => { e with arrived := true }))) ∧
      (∀ o w, e.unit ≠ .mat → inRound s c = false → x.going = [] → x.held = [.store o] → o.seq = q → w ∈ bankWords o.addr o.writes.length →
        NatSet.mem (coreOf s (ctxCore c)).poison w = true → (16 * w < o.addr ∨ o.addr + o.writes.length < 16 * w + 16) →
        exec .resultArrival s = .next (setCtx s c (fillResult x q fun e =>
          { e with arrived := true, late := some { code := .softError } }))))

/-- What an asynchronous write that lands makes of a register (R80, R86, R91): its value is in the hidden face, but for a CORE-written
register under CORE_WINS; the register is written, its writer is asynchronous too; the conflict mark is set where an asynchronous write
had reached it before in its span, or a bundle under TRAP; where the write is free and the register pending, it has landed. -/
def landsOn {w : Nat} (dwp : D64) (free : Bool) (v : BitVec w) (f : Face w) : Face w :=
  { f with
    hid := if f.core = true ∧ f.asyn = false ∧ dwp = 1 then f.hid else v
    wr := f.wr || f.asyn || !f.core
    asyn := true
    conf := f.conf || f.asyn || (f.core && dwp == 0)
    land := f.land || (free && f.pend) }

/-- `q` is the register file `r` after a landing of value `v` on the `g`, `v` or `m` socket `d`. -/
def LandsAt (dwp : D64) (free : Bool) (d : BitVec 12) (v : Val) (r q : RegFile) : Prop :=
  (∀ n (h : n < 64), 0 < n → d = BitVec.ofNat 12 n → q = { r with g := r.g.set n (landsOn dwp free (v.setWidth 64) r.g[n]) }) ∧
  (∀ n (h : n < 32), d = BitVec.ofNat 12 (0x80 + n) → q = { r with v := r.v.set n (landsOn dwp free v r.v[n]) }) ∧
  (∀ n (h : n < 8), d = BitVec.ofNat 12 (0xA0 + n) → q = { r with m := r.m.set n (landsOn dwp free (v.setWidth 512) r.m[n]) })

/-- R84, R86, R89 to R91, R100: ASYNC_LANDING of a write whose engine has brought its value writes its register, and ends the write; the
residency mask of a CPLD lands with its value, after it, on the same register or another. A late fault that the write brought is recorded. The
visible face waits for promotion or the flip; every other register, port and result in flight is as before. -/
def asyncLands : Prop :=
  ∀ (s : State) (x : Ctx) (w : AsyncW) (v : Val), let c := s.args.a
    ctxOf s c = x → w.id = s.args.b → w.twin = none → w.value = some v →
    (∀ d ∈ s.dies, ∀ j ∈ d.2.jobs, j.ctx = c → j.async ≠ some w.id) → x.aside = none →
    let lands := fun (t : State) (l : List TrapInfo) => OnlyCtx s t c ∧ (ctxOf t c).async = [] ∧ (ctxOf t c).late = x.late ++ l ∧
      (ctxOf t c).lat = x.lat ∧ (ctxOf t c).infl = x.infl
    (x.async = [w] → ∃ t, exec .asyncLanding s = .next t ∧ lands t w.fault.toList ∧
      LandsAt x.sys.dwp (!w.sb) w.dst v x.regs (ctxOf t c).regs) ∧
    (∀ y u, x.async = [w, y] → y.twin = some w.id → y.id ≠ w.id → y.value = some u →
      ∃ t mid, exec .asyncLanding s = .next t ∧ lands t (w.fault.toList ++ y.fault.toList) ∧
        LandsAt x.sys.dwp (!w.sb) w.dst v x.regs mid ∧ LandsAt x.sys.dwp (!y.sb) y.dst u mid (ctxOf t c).regs)

/-- The arrival of results and the landing of asynchronous writes. -/
def Obligations.ResultsAndLandings : Prop := resultsArrive ∧ asyncLands

/-- R65, R69, R71, R397: LITERAL_BUNDLE_FETCH brings the body of the literal bundle at a context's position; FRAME_LOAD_COMPLETE ends
the load of a kernel's frame: the frame then holds the segment with its index words, and the contexts that demanded it are served,
where every byte could be read and the generation is the one of the load's start; where not, the contexts that demanded it fault,
and take SOFT_ERROR with ARG 3 where a unit was uncorrectable. That a load reads its segment at the one instant at which it ends, and
that SOFT_ERROR comes before SEGMENT_FAULT, are the model's choice (log entry 56). -/
def codeStoreLoads : Prop :=
  (∀ (s : State) (k : Kernel) (ws : List Word), let c := s.args.a
    kernelOf s c = some k → fetchAt k c (ctxOf s c).pc = .literal ws →
    exec .literalBundleFetch s = .next (setCtx s c { ctxOf s c with fetched := true })) ∧
  (∀ (s : State) (k : Kernel) (g : Nat) (y : Launch), let core := s.args.a
    (coreOf s core).kernels[s.args.b]? = some k → (coreOf s core).kernels = [k] → loadingSeg k = some g → (∀ d ∈ k.demand, d.2 = g) →
    launchOf s k.launch = some y →
    let seg := (k.segs[g]?).getD ⟨0, 0, 0⟩
    let asid := asidOf s y.region
    let bs := (readMems s none { die := coreDie core, core := some core } portChan asid seg.addr (2 * seg.len)).1
    let fails := fun (t : State) => ∃ k', (coreOf t core).kernels = [k'] ∧ k'.demand = [] ∧ k'.dict = k.dict ∧ k'.segs = k.segs ∧
      k'.faulted = k.faulted ++ k.demand.map (·.1) ∧
      k'.frames = k.frames.map fun f => if f.loading = some g then { f with loading := none } else f
    ((∀ f ∈ k.frames, f.loading = some g → f.gen = (spaceOf s asid).gen) →
      ((∀ b ∈ bs, b.absent = false ∧ b.bad = false ∧ b.unreach = none) →
        ∃ t k', exec .frameLoadComplete s = .next t ∧ (coreOf t core).kernels = [k'] ∧ k'.demand = [] ∧ k'.faulted = k.faulted ∧
          k'.dict = k.dict ∧ k'.segs = k.segs ∧ k'.frames = k.frames.map fun f =>
            if f.loading = some g then { f with seg := some g, words := idxOfBytes (bs.map (·.val)), loading := none } else f) ∧
      (∀ b ∈ bs, b.absent = true ∨ b.unreach.isSome = true → ∃ t, exec .frameLoadComplete s = .next t ∧ fails t) ∧
      (∀ b ∈ bs, b.bad = true → ∃ t, exec .frameLoadComplete s = .next t ∧ fails t ∧
        ∀ d ∈ k.demand, ({ code := .softError, arg := 3 } : TrapInfo) ∈ (ctxOf t d.1).late)) ∧
    (∀ f ∈ k.frames, f.loading = some g → f.gen ≠ (spaceOf s asid).gen → ∃ t, exec .frameLoadComplete s = .next t ∧ fails t ∧
      t.ctxs = s.ctxs))

/-- R212, R213: the ring of a bangle, of however many cores. Until every core of the ring is armed, no byte moves. Where every one is
armed for the same rotation with one size, ROTATION writes each core's source bytes, as they were, into the next core's
destination, whose tags become FULL, and every RROT has status 0; with differing sizes it has status 1 and no scratchpad and no tag
changes; TIMEOUT gives every armed one status 2 and moves nothing. -/
def ringRotates : Prop :=
  ∀ (s : State), let ring := ringOf s s.args.a
    (∀ k ∈ ring, armedAt s k = none → exec .rrotRotation s = .next s) ∧
    ∀ arm : Nat → RrotArm, ring ≠ [] →
      (∀ k ∈ ring, (coreOf s k).rrot = [arm k] ∧ armedAt s k = some (arm k) ∧ ctxCore (arm k).ctx = k ∧
        (coreOf s k).spad.wf = true ∧ (coreOf s k).rrots = (coreOf s (ring.headD 0)).rrots) →
      let told := fun (t : State) (st : D64) => t.mem = s.mem ∧ ∀ k ∈ ring, (coreOf t k).rrot = [] ∧
        (coreOf t k).rrots = (coreOf s k).rrots + 1 ∧
        ∀ e ∈ (ctxOf t (arm k).ctx).infl, e.seq = (arm k).seq → e.st = some st ∧ e.arrived = true
      let still := fun (t : State) => ∀ k ∈ ring, (coreOf t k).spad = (coreOf s k).spad ∧ (coreOf t k).empty = (coreOf s k).empty
      ((∀ k ∈ ring, (arm k).size = (arm (ring.headD 0)).size) → ∃ t, exec .rrotRotation s = .next t ∧ told t 0 ∧
        ∀ p, p < ring.length → let k := ring.getD p 0; let j := ring.getD ((p + 1) % ring.length) 0
          (∀ i, i < (arm k).size → (coreOf t j).spad.read ((arm j).dst + i) = (coreOf s k).spad.read ((arm k).src + i)) ∧
          (∀ i, i < (arm j).dst ∨ (arm j).dst + (arm j).size ≤ i → (coreOf t j).spad.read i = (coreOf s j).spad.read i) ∧
          ∀ w, NatSet.mem (coreOf t j).empty w =
            (NatSet.mem (coreOf s j).empty w && !(tagWords (arm j).dst (arm j).size).contains w)) ∧
      (∀ k ∈ ring, (arm k).size ≠ (arm (ring.headD 0)).size → ∃ t, exec .rrotRotation s = .next t ∧ told t 1 ∧ still t) ∧
      (s.args.b ∈ ring → s.args.b / 8 = s.args.a → ∃ t, exec .rrotTimeout s = .next t ∧ told t 2 ∧ still t)

/-- The code store: what the SEG mark asks for, and what the loads bring. -/
def Obligations.CodeLoads : Prop := segmentRequest ∧ codeStoreLoads

/-- The clocks of a ring and of a die: rotations of a ring, and the steps of a die's calendars. -/
def Obligations.RingsAndCalendars : Prop := ringRotates ∧ dieCalendars

/-! ## Launches (R337 to R343, R416, R430) -/

/-- Packet `p` stands at the head of the queue that the event names, well formed; `u` is the state once its unit is fetched
(R413, R417, R418). -/
structure AtHead (s u : State) (q : Nat) (p : Packet) : Prop where
  queue : s.args.a = q
  fetched : pinUnit s q = u
  head : headPacket u q = some p
  clean : p.clean = true

/-- R414, R416: a LAUNCH packet of a region that the queue may act on, with no malformed field, submits the launch that it names,
which then waits, last in the order of submission; the packet stays open. A malformed one completes BAD_PACKET, one of a region
that does not exist or is not the queue's is refused with reason 8. -/
def launchSubmits : Prop :=
  ∀ (s u : State) (q : Nat) (p : Packet), AtHead s u q p → p.op = 1 →
    let r := (p.word 3).toNat / 2 ^ 48
    let l := launchOfPacket u q p
    (launchClean p = false → exec .launch s = .next (badPacket u q p)) ∧
    (launchClean p = true → ((Tab.find u.regions r).isNone ∨ mayActOn u q (partOf u r) = false) → exec .launch s = .next (refuse u q p 8)) ∧
    (launchClean p = true → (Tab.find u.regions r).isSome → mayActOn u q (partOf u r) = true →
      exec .launch s = .next (keepOpen (setLaunch { l.2 with nlaunch := l.2.nlaunch + 1 } l.2.nlaunch l.1) q p (some l.2.nlaunch) none) ∧
      l.1.stage = .waiting ∧ l.1.region = r ∧ l.1.order = u.nlaunch ∧ l.1.queue = q ∧ l.1.tag = p.tag ∧ l.1.args.length = 256)

/-- R343: the bytes of a launch status block. The header has CODE, DONE, DETAIL, KSLOT and DIE in its first word, INFO1 to INFO5
behind it, and zeros; the rest has a report for each die, zeros, a bit of HALTMAP for each context of the grid that has an exit
value, and at byte 512 on the exit values, 0 where there is none. -/
def statusBlock : Prop :=
  ∀ (y : Launch) (code : Nat) (done : Bool), code < 256 →
    let h := statusHeader y code done
    let d0 := word64 h 0
    let b := statusBody y
    let n := 4 * (gridOf y).1 * (gridOf y).2
    h.length = 64 ∧ (d0.extractLsb' 0 8).toNat = code ∧ d0.getLsbD 8 = done ∧ d0.extractLsb' 9 7 = 0 ∧
      (d0.extractLsb' 16 16).toNat = y.detail % 2 ^ 16 ∧ (d0.extractLsb' 32 8).toNat = y.kfail % 256 ∧
      (d0.extractLsb' 40 8).toNat = y.die % 256 ∧ d0.extractLsb' 48 16 = 0 ∧
      (∀ i, i < 5 → word64 h (i + 1) = y.info.getD i 0) ∧ word64 h 6 = 0 ∧ word64 h 7 = 0 ∧
      b.length = 448 + 4 * n ∧ (∀ d, d < 4 → word64 b d = y.spec.getD d 0) ∧ (∀ i, 32 ≤ i → i < 192 → b.getD i 0 = 0) ∧
      (∀ i, i < 2048 → (b.getD (256 - 64 + i / 8) 0).getLsbD (i % 8) = (decide (i < n) && (Tab.find y.exits i).isSome)) ∧
      ∀ i, i < n → leNat ((b.drop (512 - 64 + 4 * i)).take 4) = (Tab.get 0 y.exits i).toNat

/-- The host's memory after a launch has ended as `z`: the bytes `bs` in its status block, if it names one, and then the
completion record (R343, R415). -/
def EndsWith (s t : State) (l : Nat) (z : Launch) (bs : List Byte) : Prop :=
  t.host = (finishLaunch { s with host := if z.status = 0 then s.host else Memory.writeBytes s.host z.status bs } l z).host

/-- R29, R338 to R341, R343, R371, R430: a launch that waits and fails a check that does not depend on a core, for which a core has
no room, or which the specialiser fails, ends with the code of its first failure, which the header of its status block says, with
contexts, cores and memory untouched. One that is the first of its partition, whose CYCB is not spent, and for which bangles are
free and every core has room, is placed on them: the contexts of a gang start, one for each kernel of the list, at its entry point,
those of an operator or task launch look for seeds. Where its memory objects cannot be written it is faulted, and no context of it
starts (log entry 56: the model's choice). Where no bangles are free, a launch of lower priority is stopped for it. While the hub's
services are paused nothing of this happens. -/
def launchPlaces : Prop :=
  ∀ (s : State) (l : Nat) (y : Launch), s.args.a = l → launchOf s l = some y → y.stage = .waiting → y.faulted = false → y.ctxs = [] →
    (s.fw.paused = true → exec .launchPlace s = .next s) ∧ (s.fw.paused = false →
    let fails := fun (f : Failure) => ∃ t z, exec .launchPlace s = .next t ∧ launchOf t l = some z ∧ z.stage = .retired ∧
      z.code = f.code ∧ z.die = f.die ∧ z.kfail = f.kslot ∧ z.detail = f.detail ∧ (f.code = 6 → z.info = [f.info, 0, 0, 0, 0]) ∧
      t.ctxs = s.ctxs ∧ t.cores = s.cores ∧ t.mem = s.mem ∧ EndsWith s t l z (statusHeader z f.code true)
    (∀ f, earlyFailure s y = some f → fails f) ∧
    (∀ bs, earlyFailure s y = none → firstWaiting s l y = true → cycbHeld s y.region = false → placeFor s y = some bs →
      let pol := y.policy / 4 * 4 + y.policy % 2 + (if scbPolicy s y.region then 2 else 0)
      let y1 := { y with policy := pol }
      let cores := bs.flatMap (bangleCores y)
      (∀ f, installAll s l y1 cores = .error f → fails f) ∧
      (∀ s1 f, installAll s l y1 cores = .ok s1 → specAll s1 l y1 cores = .error f → fails f) ∧
      (∀ s1 s2 reps, installAll s l y1 cores = .ok s1 → specAll s1 l y1 cores = .ok (reps, s2) →
        let written := loadObjects s2 y1 (coreDie (cores.headD 0))
        let placed := fun (t : State) (z : Launch) => exec .launchPlace s = .next t ∧ launchOf t l = some z ∧ z.stage = .placed ∧
          z.bangles = bs ∧ z.spec = reps
        (written = none → ∃ t z, exec .launchPlace s = .next t ∧ launchOf t l = some z ∧ z.stage = .waiting ∧ z.faulted = true ∧
          t.mem = s.mem ∧ ((domainPath s (s.regions.length + 1) y.region).2 ≤ 1 → t.ctxs = s.ctxs ∧ t.cores = s.cores)) ∧
        (written.isSome → y.kind ≠ .gang → ∃ t z, placed t z ∧ z.ctxs = cores.map (fun c => (c, freeCtxs s c)) ∧
          ∀ c ∈ heldCtxs z, (ctxOf t c).status = .seeking 0 false ∧ (ctxOf t c).launch = some l) ∧
        (written.isSome → y.kind = .gang → ∃ t z, placed t z ∧
          z.ctxs = cores.map (fun c => (c, (freeCtxs s c).take y.klist.length)) ∧
          ∀ p ∈ z.ctxs, ∀ i c, p.2[i]? = some c → let n := y.klist.getD i 0; let x := ctxOf t c
            x.status = .running ∧ x.launch = some l ∧ x.kslot = n ∧ x.gang = true ∧ x.lsc = 0 ∧
            x.regs = startRegs y.args [0, 0, 0, 0, 0, 0] ∧
            x.pc = startPos ((coreOf t p.1).kernels.find? fun k => k.launch == l && k.kslot == n) 0 true))) ∧
    (earlyFailure s y = none → firstWaiting s l y = false ∨ cycbHeld s y.region = true → exec .launchPlace s = .next s) ∧
    (earlyFailure s y = none → firstWaiting s l y = true → cycbHeld s y.region = false → placeFor s y = none →
      (∀ p ∈ s.launches, p.2.stage = .preempted → allSaved p.2 = true) →
      (victimFor s y = none → exec .launchPlace s = .next s) ∧
      (∀ v x, victimFor s y = some v → launchOf s v = some x → ∃ t, exec .launchPlace s = .next t ∧
        launchOf t v = some { x with stage := .preempted } ∧ t.mem = s.mem ∧
        ∀ p ∈ x.ctxs, p.1 < 512 → p.2 ≠ [] → (coreOf t p.1).saving = true)))

/-- R72, R113, R196, R336, R337, R342, R343, R349: a launch that may retire ends: its record and its whole status block say so and
with which code, none of its kernels, areas and continuations is left, and memory is as before; one that may not stays, and a core
loses those of its kernels that nothing needs any more (log entry 62); while the hub's services are paused none ends. A spent CYCB
holds its region: the region is marked, the status of its launch, a pre-empted one too, says BUDGET_HELD, and every started context of it on a core is stopped,
alone or with its core. A core that is stopped issues nothing, and a context of a held region takes no seed. -/
def launchEnds : Prop :=
  (∀ (s : State) (l : Nat) (y : Launch), s.args.a = l → launchOf s l = some y →
    (mayRetire s l y = false →
      (y.stage ≠ .placed ∨ (∀ q ∈ y.ctxs, ∀ k ∈ (coreOf s q.1).kernels, k.launch = l → kernelNeeded s q.1 y k = true) →
        exec .launchRetire s = .next s) ∧
      (∀ core cs, y.stage = .placed → y.ctxs = [(core, cs)] →
        let own := (coreOf s core).kernels.filter fun k => k.launch == l
        (own.map (·.kslot)).Nodup → (∃ k ∈ own, kernelNeeded s core y k = true) →
        ∃ t, exec .launchRetire s = .next t ∧ t.launches = s.launches ∧ t.ctxs = s.ctxs ∧ t.mem = s.mem ∧
          (coreOf t core).kernels = (coreOf s core).kernels.filter fun k => !(k.launch == l && !kernelNeeded s core y k))) ∧
    (s.fw.paused = true → ∃ t, exec .launchRetire s = .next t ∧ t.host = s.host ∧ t.mem = s.mem) ∧
    (mayRetire s l y = true → s.fw.paused = false → (s.cores.map (·.1)).Pairwise (· < ·) → ∃ t z, exec .launchRetire s = .next t ∧ launchOf t l = some z ∧ z.stage = .retired ∧
      z.code = (if y.faulted = true ∧ y.code ≠ 0x0D then 0x0E else y.code) ∧ z.shards = [] ∧ t.mem = s.mem ∧
      z.exits = y.exits ∧ z.info = y.info ∧ z.status = y.status ∧
      EndsWith s t l z (statusHeader z z.code true ++ statusBody z) ∧
      (∀ k ∈ t.conts, k.launch ≠ l) ∧ (∀ m ∈ t.moves, m.launch ≠ l) ∧
      (∀ p ∈ t.cores, (∀ k ∈ p.2.kernels, k.launch ≠ l) ∧ ∀ a, p.2.area = some a → a.1 ≠ l))) ∧
  (∀ (s : State) (x : Region), let b := s.args.a
    Tab.find s.regions b = some x → rcbWord s b 8 ≠ BitVec.allOnes 64 → x.heldC = false →
    (s.ctxs.any fun p => decide (p.1 < 2048) && spender s b p.1) = true →
    ∃ t y, exec .cycbExhausted s = .next t ∧ Tab.find t.regions b = some y ∧ y.heldC = true ∧ y.cycb = 0 ∧ y.rcb = x.rcb ∧
      t.mem = s.mem ∧ (∀ d, (ctxOf t d).regs = (ctxOf s d).regs ∧ (ctxOf t d).pc = (ctxOf s d).pc) ∧
      (∀ c, c < 2048 → ctxCore c ∈ s.cores.map (·.1) → spender s b c = true →
        (coreOf t (ctxCore c)).saving = true ∨ (ctxOf t c).stop = true) ∧
      ∀ l z, (s.launches.filter fun p => (p.2.stage == .placed || p.2.stage == .preempted) && budgetRegion s p.2.region 8 == b) = [(l, z)] →
        z.status ≠ 0 →
        t.host = Memory.writeBytes s.host z.status (statusHeader z 0x0C false)) ∧
  (∀ s : State, (coreOf s s.args.a).saving = true → exec .bundleIssue s = .next s) ∧
  (∀ (s : State) (t l : Nat) (again : Bool) (y : Launch), let x := ctxOf s s.args.a
    x.status = .seeking t again → x.launch = some l → launchOf s l = some y → cycbHeld s y.region = true → exec .seedPickup s = .next s)

/-- The life of a launch: its submission, its placement or refusal, and its end. -/
def Obligations.Launches : Prop := launchSubmits ∧ statusBlock ∧ launchPlaces ∧ launchEnds

/-! ## Saves and restores (R401 to R407) -/

/-- R406: the header of an image: VERSION 1 of an image that a save writes, KIND, the contexts present, the region, the core at which
it was saved, the size and the required features; every other bit is zero. -/
def imageHeader : Prop :=
  ∀ i : Saved, i.ctxs.Nodup → (∀ c ∈ i.ctxs, c < 4) → i.kind < 2 → i.version = 1 → i.core < 512 → i.bytes < 2 ^ 64 →
    ∃ d0 d1 d2 : D64, i.header = [d0, d1, d2, 0, 0, 0, 0, 0] ∧ d0.extractLsb' 48 16 = 1 ∧ (d0.extractLsb' 40 8).toNat = i.kind ∧
      (∀ c, c < 8 → d0.getLsbD (32 + c) = i.ctxs.contains c) ∧ (d0.extractLsb' 16 16).toNat = i.region % 2 ^ 16 ∧
      d0.extractLsb' 9 7 = 0 ∧ (d0.extractLsb' 0 9).toNat = i.core ∧ d1.toNat = i.bytes ∧ d2.toNat = i.feat % 2 ^ 32

/-- R401 to R403, R405 to R407: CORE_SAVE of a core that is not stopped stops it, and a trap that a context takes where it stops is
entered; results that are due there are delivered. Once everything on it stands, its contexts of the one launch there go into a core
image with their registers, stacks, position, tick and latches, a running one as saved; the core runs again. CONTEXT_SAVE of a stopped
context whose operations stand does so for that context alone. -/
def savesRun : Prop :=
  ∀ (s : State) (l : Nat) (y : Launch), launchOf s l = some y → (s.ctxs.map (·.1)).Pairwise (· < ·) →
    let kept := fun (x z : Ctx) => z.regs = x.regs ∧ z.lat = x.lat ∧ z.link = x.link ∧ z.loops = x.loops ∧ z.pc = x.pc ∧ z.lsc = x.lsc ∧
      z.idle = x.idle ∧ z.sys = x.sys ∧ z.shadow = x.shadow ∧ z.status = if x.status = .running then .saved else x.status
    (∀ core, s.args.a = core → core < 512 → (coreOf s core).saving = false → s.args.b = 0 →
      ∃ t, exec .coreSave s = .next t ∧ coreOf t core = { coreOf s core with saving := true } ∧
        (∀ k, k ≠ core → coreOf t k = coreOf s k) ∧ t.mem = s.mem ∧
        ∀ c, let x := ctxOf s c; let z := ctxOf t c
          z.regs = x.regs ∧ z.lat = x.lat ∧ z.pc = x.pc ∧ z.lsc = x.lsc ∧ z.sys = x.sys ∧ z.status = x.status ∧ z.late = x.late) ∧
    (∀ core i t, s.args.a = core → core < 512 → s.args.b = i + 1 → i < 4 → let c := core * 4 + i
      tryIssue (setCtx s c { ctxOf s c with stop := false }) c = .trap t →
      exec .coreSave s = .next (setCtx t c { ctxOf t c with stop := (ctxOf s c).stop })) ∧
    (∀ core c, s.args.a = core → core < 512 → (coreOf s core).saving = true → s.args.b = 0 →
      (∀ d ∈ natsFrom (core * 4) 4, (ctxOf s d).going = [] ∧ (deliverable s d = true ↔ d = c)) → c ∈ natsFrom (core * 4) 4 →
      exec .coreSave s = .next { s with sched := { what := .resultDue, args := { a := c } } :: s.sched }) ∧
    (∀ core cs, s.args.a = core → core < 512 → (coreOf s core).saving = true → s.args.b = 0 → launchesToSave s core = [l] →
      (∀ d ∈ natsFrom (core * 4) 4, (ctxOf s d).going = [] ∧ deliverable s d = false) →
      y.ctxs = [(core, cs)] → (∀ c, c ∈ cs → c / 4 = core) → cs.Nodup →
      ((natsFrom (core * 4) 4).all fun c => !faultFirst s c) = true → coreSaveReady s core = true →
      ∃ t n img, exec .coreSave s = .next t ∧ Tab.find t.saves n = some img ∧ Tab.find s.saves n = none ∧ img.kind = 0 ∧
        img.core = core ∧ img.launch = l ∧ img.region = y.region ∧ img.ctxs = cs.map (· % 4) ∧ img.version = 1 ∧
        img.bytes = 1904 * 1024 + (cs.map fun c => withheldBytes (ctxOf s c)).sum ∧ (coreOf t core).saving = false ∧
        t.mem = s.mem ∧ ∀ c ∈ cs, kept (ctxOf s c) (ctxOf t (4 * (512 + n) + c % 4))) ∧
    (let c := s.args.a; c < 2048 → (ctxOf s c).launch = some l → (ctxOf s c).stop = true → (ctxOf s c).status = .running → s.active ≠ some c →
      s.args.b = 0 → deliverable s c = false → faultFirst s c = false → banksIdle (ctxOf s c) = true →
      ((coreOf s (c / 4)).aq.any fun o => o.ctx == c) = false →
      ∃ t n img, exec .contextSave s = .next t ∧ Tab.find t.saves n = some img ∧ Tab.find s.saves n = none ∧ img.kind = 1 ∧
        img.core = c / 4 ∧ img.home = c / 4 ∧ img.ctxs = [c % 4] ∧ img.launch = l ∧ img.version = 1 ∧
        img.bytes = 80 * 1024 + withheldBytes (ctxOf s c) ∧ t.mem = s.mem ∧
        (∀ k, (coreOf t k).spad = (coreOf s k).spad) ∧ kept (ctxOf s c) (ctxOf t (4 * (512 + n) + c % 4)))

/-- R75, R404, R405: an image whose core and launch are ready is written back, and is gone; one that cannot be restored stays as it is.
The context of a context image runs on the core that holds its launch's area again, with what the image holds. The contexts of a core
image, where the core is free, run in their places there, with what the image holds; the core has the scratchpad, tags, accumulators and
area of the image, and every kernel of it with the code that its contexts ran. -/
def restoresRun : Prop :=
  ∀ (s : State) (n : Nat) (img : Saved) (y : Launch), s.args.a = n → Tab.find s.saves n = some img → launchOf s img.launch = some y →
    (canRestore s n s.args.b img y = false → exec .restore s = .next s) ∧
    (canRestore s n s.args.b img y = true → img.kind = 1 → ∀ i, img.ctxs = [i] → i < 4 → img.home < 512 →
      (s.ctxs.map (·.1)).Pairwise (· < ·) → (∀ p ∈ s.ctxs, p.1 / 4 = 512 + n → p.1 = 4 * (512 + n) + i) →
      let x := ctxOf s (4 * (512 + n) + i)
      (Tab.find s.ctxs (4 * (512 + n) + i)).isSome → x.ls = [] →
      ∃ t, exec .restore s = .next t ∧ (∀ p ∈ t.saves, p.1 ≠ n) ∧ t.mem = s.mem ∧
        let z := ctxOf t (4 * img.home + i)
        z.regs = x.regs ∧ z.lat = x.lat ∧ z.link = x.link ∧ z.loops = x.loops ∧ z.pc = x.pc ∧ z.lsc = x.lsc ∧ z.sys = x.sys ∧
        z.status = if x.status = .saved then .running else x.status) ∧
    (let core := s.args.b; let k := 512 + n; let l := img.launch
     ∀ cs, canRestore s n core img y = true → img.kind = 0 → (s.ctxs.map (·.1)).Pairwise (· < ·) → y.ctxs = [(k, cs)] → cs.Nodup →
      (∀ c ∈ cs, c / 4 = k ∧ (Tab.find s.ctxs c).isSome) → freeCtxs { s with saves := s.saves.filter fun p => p.2.launch != l } core =
        natsFrom (core * 4) 4 → (img.code.map (·.kslot)).Nodup → (∀ q ∈ img.code, (kernelImage y q.kslot).isSome) →
      ∃ t, exec .restore s = .next t ∧ (∀ p ∈ t.saves, p.1 ≠ n) ∧
        (∃ z, launchOf t l = some z ∧ z.ctxs = [(core, cs.map fun c => core * 4 + c % 4)]) ∧
        (∀ c ∈ cs, let x := ctxOf s c; let z := ctxOf t (core * 4 + c % 4)
          z.regs = x.regs ∧ z.lat = x.lat ∧ z.link = x.link ∧ z.loops = x.loops ∧ z.pc = x.pc ∧ z.lsc = x.lsc ∧ z.sys = x.sys ∧
          z.status = if x.status = .saved then .running else x.status) ∧
        ((coreOf s k).area.isSome → (coreOf t core).spad = (coreOf s k).spad ∧ (coreOf t core).empty = (coreOf s k).empty ∧
          (coreOf t core).accs = (coreOf s k).accs ∧ (coreOf t core).area = (coreOf s k).area) ∧
        ∀ q ∈ img.code, ∃ z ∈ (coreOf t core).kernels, z.launch = l ∧ z.kslot = q.kslot ∧ sameCode z q = true)

/-! ## Command queues (R412 to R419) -/

/-- The state after packet `p` at the head of the ring of queue `q`, now `x`, has completed with a status (R413, R415, R419): its
record, where it asked for one, stands in the completion ring, the head is behind it, and the head index is written back. -/
def recorded (s : State) (q : Nat) (x : Queue) (p : Packet) (status info : Nat) : State :=
  let head := (x.head + 64 * p.size) % ringBytes x
  let h1 := if p.tag = 0 then s.host else Memory.writeBytes s.host (x.ring + 16 * x.ringAt) (record p.tag p.op status info)
  let h2 := Memory.writeBytes h1 x.headAt (leBytes 4 (head / 256))
  let y : Queue := if p.tag = 0 then { x with head := head }
    else { x with head := head, ringAt := (x.ringAt + 1) % max 1 x.ringLen, held := x.held + 1 }
  let msi : Event := { what := .msiXInterrupt, args := { a := q } }
  { s with host := h2, queues := Tab.put s.queues q y
           sched := if p.tag ≠ 0 ∧ (x.count ≤ x.held + 1 ∨ x.timeout = 0) then s.sched ++ [msi] else s.sched }

/-- R413, R415, R417 to R419: what the hub does with every packet of the ring. A packet that completes has its record in the
completion ring, with its tag, kind, status and information; a refused one the status 80 and the reason; the head moves on, and
the interrupt is due where COUNT completions are held. BAD_PACKET stops the queue at the packet. Look-ahead, which follows,
changes nothing but what the queue has fetched of called buffers. -/
def packetRecords : Prop :=
  ∀ (s : State) (q : Nat) (x : Queue) (p : Packet), Tab.find s.queues q = some x → queueOf s q = x → x.calls = [] →
    (s.queues.map (·.1)).Pairwise (· < ·) →
    complete s q p = lookAhead (recorded s q x p 0 0) q ∧
    (∀ n, refuse s q p n = lookAhead (recorded s q x p 0x80 n) q) ∧
    (Tab.find (badPacket s q p).queues q).map (fun y => (y.stopped, y.head, y.tail)) = some (true, x.head, x.tail) ∧
    (p.tag ≠ 0 → (badPacket s q p).host = Memory.writeBytes s.host (x.ring + 16 * x.ringAt) (record p.tag p.op 0x81 p.off)) ∧
    (∃ l n, lookAhead s q = { s with queues := Tab.put s.queues q { x with pre := l }, free := n })

/-- R412 to R414, R417 to R419: a doorbell sets the queue's tail; a reset empties a queue that BAD_PACKET has stopped; a queue that
holds no open packet takes the settings that the host writes, where its function exists and holds no more than 16 queues, the ring
is aligned to 4 KiB and has 2^4 to 2^16 units, COUNT is 1 to 256 and TIMEOUT at most 65, and else nothing changes (where the host
writes them is log entry 14: the model's choice); an interrupt is sent for the completions that are held. NOP completes at its
issue; SIGNAL where nothing is open before it; JOIN once every earlier packet has completed, and not before; CALL of a buffer
enters it at its start, where fewer than four are nested. Look-ahead may go on at any time. That a reset takes head and tail to 0 and drops
open CALLs, that JOIN does not wait for open CALL and SIGNAL, and that look-ahead goes on as the event CALL with b not 0 are the model's
readings (log entry 39). -/
def queueOperations : Prop :=
  (∀ (s : State) (x : Queue), let q := s.args.a
    Tab.find s.queues q = some x → queueOf s q = x →
    (let t := { s with queues := Tab.put s.queues q { x with tail := 256 * s.args.b % ringBytes x } }; exec .doorbellWrite s = .next (if x.stopped then t else lookAhead t q)) ∧
    (x.stopped = true → s.args.b = 0 →
      let y := { x with stopped := false, head := 0, tail := 0, calls := [], pre := [], open_ := x.open_.filter fun p => p.op != 7 }
      exec .queueReset s = .next { s with queues := Tab.put s.queues q y }) ∧
    (s.args.b ≠ 0 → (x.open_ ≠ [] → exec .queueReset s = .next s) ∧
      (x.open_ = [] → let y := queueAt s s.args.c s.args.b
        let good := (Tab.find s.funcs y.func).isSome ∧ (s.queues.filter fun p => p.1 != q && p.2.func == y.func).length < 16 ∧
          y.base % 4096 = 0 ∧ 4 ≤ y.log ∧ y.log ≤ 16 ∧ 1 ≤ y.count ∧ y.count ≤ 256 ∧ y.timeout ≤ 65
        (good → exec .queueReset s = .next { s with queues := Tab.put s.queues q y }) ∧ (¬ good → exec .queueReset s = .next s))) ∧
    (s.args.b ≠ 0 → exec .call s = .next (if x.stopped then s else lookAhead s q)) ∧
    (x.held = 0 → exec .msiXInterrupt s = .next s) ∧
    (x.held ≠ 0 → exec .msiXInterrupt s = .next { s with queues := Tab.put s.queues q { x with held := 0, vectors := x.vectors + 1 } })) ∧
  (∀ (s u : State) (q : Nat) (p : Packet), AtHead s u q p →
    (p.op = 0 → exec .nop s = .next (complete u q p)) ∧
    (0x0B < p.op ∨ (p.op = 2 ∧ 2 < (p.word 2).toNat) → exec .nop s = .next (badPacket u q p)) ∧
    (p.op = 8 → ((queueOf u q).open_.all fun o => o.op == 7 || o.op == 9) = true → exec .join s = .next (complete u q p)) ∧
    (p.op = 8 → ((queueOf u q).open_.all fun o => o.op == 7 || o.op == 9) = false → exec .join s = .next u) ∧
    (p.op = 9 → exec .signal s =
      .next (settleSignals q (queueOf (keepOpen u q p none none) q).open_.length (keepOpen u q p none none))) ∧
    (∀ x, p.op = 7 → callClean p = true → s.args.b = 0 → Tab.find u.queues q = some x → queueOf u q = x → x.calls = [] →
      (p.word 2).toNat ≠ 0 →
      let f : CallFrame := { addr := (p.word 1).toNat, path := [p.off], at_ := 0, len := 256 * (p.word 2).toNat, tag := p.tag }
      let y := { x with open_ := x.open_ ++ [{ tag := p.tag, op := 7 }], calls := [f], head := (x.head + 64 * p.size) % ringBytes x }
      let host := Memory.writeBytes u.host x.headAt (leBytes 4 (y.head / 256))
      exec .call s = .next (lookAhead { u with queues := Tab.put u.queues q y, host := host } q)) ∧
    (p.op = 7 → s.args.b = 0 → (callClean p = false ∨ 4 ≤ (queueOf u q).calls.length) → exec .call s = .next (badPacket u q p)))

/-- What a command queue does with every packet, and the packets and events of the queue itself. -/
def Obligations.CommandQueues : Prop := packetRecords ∧ queueOperations

/-! ## Regions (R285, R332 to R335, R337) -/

/-- R285, R332 to R335, R337, R343: the three REGION packets. CREATE of a block that passes its checks adds the region, with its budgets
full; UPDATE changes its words but for REGION, PARENT and PART, and its budgets by as much as their words change, and a CYCB that it raises ends
the hold, which the header of the launch's status then says; DESTROY of a
region without children, launches and carats takes it away, makes its entries UNSET, and with the last region of an address space
the space's images count as not written (R29). The refusals, each with its reason: 8 a region or partition that is not there or
not the queue's, 10 a region that exists or the number of the hub's power region (log entry 44: the model's choice), 1 a block that
fails, 2 a fixed field that changes under a launch, 3 carats left, 9 children or launches left. The order in which the reasons are judged,
and that UPDATE keeps PARENT and PART and adds to its budgets what their words grow by, are the model's readings (log entry 40). -/
def Obligations.RegionPackets : Prop :=
  ∀ (s u : State) (q : Nat) (p : Packet), AtHead s u q p → p.op = 2 → (p.word 1).toNat % 256 = 0 →
    let b := readRcb u (p.word 1).toNat
    let n := rcbRegion b
    let cmd := (p.word 2).toNat
    let near := fun (part : Nat) => mayActOn u q part = true
    let parents := rcbParent b = 0xFFFF ∨ (Tab.find u.regions (rcbParent b)).isSome
    let parts := (Tab.find u.parts (rcbPart b)).isSome ∧ near (rcbPart b)
    (cmd = 0 → ¬ (parents ∧ parts) → exec .regionCreate s = .next (refuse u q p 8)) ∧
    let taken := (Tab.find u.regions n).isSome ∨ n = Config.powerRegion
    (cmd = 0 → parents → parts → taken → exec .regionCreate s = .next (refuse u q p 10)) ∧
    (cmd = 0 → parents → parts → ¬ taken → rcbFails u b (rcbParent b) (rcbPart b) = true →
      exec .regionCreate s = .next (refuse u q p 1)) ∧
    (cmd = 0 → parents → parts → ¬ taken → rcbFails u b (rcbParent b) (rcbPart b) = false →
      let r : Region := { rcb := b.take 13, cycb := (b.getD 8 0).toNat, copyb := (b.getD 9 0).toNat }
      exec .regionCreate s = .next (complete { u with regions := Tab.put u.regions n r } q p)) ∧
    (Tab.find u.regions n = none ∨ ¬ near (partOf u n) → (cmd = 1 → exec .regionUpdate s = .next (refuse u q p 8)) ∧
      (cmd = 2 → exec .regionDestroy s = .next (refuse u q p 8))) ∧
    (∀ r, Tab.find u.regions n = some r → near (partOf u n) →
      let bad := rcbPart b ≠ partOf u n ∨ rcbFails u b (parentOf u n) (partOf u n) = true
      let fixed := fixedDiffers r.rcb b = true ∧ launchLeft u n = true
      (cmd = 1 → bad → exec .regionUpdate s = .next (refuse u q p 1)) ∧
      (cmd = 1 → ¬ bad → fixed → exec .regionUpdate s = .next (refuse u q p 2)) ∧
      (cmd = 1 → ¬ bad → ¬ fixed → ∃ d0 : D64, d0.extractLsb' 24 40 = (rcbWord u n 0).extractLsb' 24 40 ∧
        d0.extractLsb' 8 16 = (b.getD 0 0).extractLsb' 8 16 ∧
        let c := r.cycb + (b.getD 8 0).toNat - (rcbWord u n 8).toNat
        let d := r.copyb + (b.getD 9 0).toNat - (rcbWord u n 9).toNat
        let new := { r with rcb := d0 :: (b.take 13).drop 1, cycb := c, copyb := d }
        let raised := r.heldC = true ∧ (rcbWord u n 8).toNat < (b.getD 8 0).toNat
        let v := { u with regions := Tab.put u.regions n { new with heldC := false } }
        (¬ raised → exec .regionUpdate s = .next (complete { u with regions := Tab.put u.regions n new } q p)) ∧
        ∀ l z, raised → (u.launches.filter fun p => (p.2.stage == .placed || p.2.stage == .preempted) && budgetRegion v p.2.region 8 == n) = [(l, z)] →
          z.status ≠ 0 → exec .regionUpdate s =
            .next (complete { v with host := Memory.writeBytes u.host z.status (statusHeader z 0 false) } q p)) ∧
      let rich := (ownedBy u n).any (fun a => ((entryOf u a).type == 3 && (entryOf u a).bal != 0) ||
        u.xfers.any fun x => x.src == a || x.dst == a) = true
      let used := (u.regions.any fun k => k.1 != n && parentOf u k.1 == n) = true ∨ launchLeft u n = true
      (cmd = 2 → rich → exec .regionDestroy s = .next (refuse u q p 3)) ∧
      (cmd = 2 → ¬ rich → used → exec .regionDestroy s = .next (refuse u q p 9)) ∧
      (cmd = 2 → ¬ rich → ¬ used → ∃ v, exec .regionDestroy s = .next (complete v q p) ∧ Tab.find v.regions n = none ∧
        (∀ k ∈ u.regions, k.1 ≠ n → k ∈ v.regions) ∧ v.mem = u.mem ∧
        ((∀ k ∈ u.regions, k.1 ≠ n → asidOf u k.1 ≠ asidOf u n) → ∀ e ∈ v.loaded, e.1 ≠ asidOf u n) ∧
        ((u.sems.map (·.1)).Pairwise (· < ·) → ∀ a, (entryOf u a).owner = n → (entryOf v a).word = 0 ∧ (entryOf v a).owner = 0xFFFF)))

/-! ## The other packets (R259, R276, R284, R287, R427, R428) -/

/-- R259, R276, R284, R286, R287, R309, R414, R427, R428: GRANT makes a region the owner of a run of entries that no region owns;
SLOTTAB leaves a die's next slot table; CLASSDEF defines the exponent of a class; CAPSET sets a partition's cap; RECONCILE of
another node refunds a transfer toward it to its source, with the status UNREACHABLE (where the source cannot take it, log entry 72), and
takes the node's entries out of the domain; GENADV begins the advance of an address space and stays open, and waits while another is in progress or a request two
generations old is in flight, and the generation is current once no card of the space holds a channel. A virtual function's GENADV
of a space that its partition does not use completes and does nothing, and RECONCILE of the own node is refused (log entries 41
and 44: the model's choices). That GRANT judges reason 8 before the others, and says 5 where no entry of the die is free and else 4, is
the model's reading (log entry 40). The kinds that only a physical function may use are refused with reason 7 elsewhere, and every other
refusal has its own reason. -/
def Obligations.AdministrativePackets : Prop :=
  (∀ (s u : State) (q : Nat) (p : Packet), AtHead s u q p →
    let a := (p.word 1).toNat
    let n := (p.word 2).toNat
    let r := (p.word 3).toNat
    let pf := (funcOf u q).pf = true
    let ok3 := semAddrOk u a = true ∧ (Tab.find u.regions r).isSome ∧ mayActOn u q (partOf u r) = true
    (p.op = 3 → ¬ ok3 → exec .grant s = .next (refuse u q p 8)) ∧
    (p.op = 3 → ok3 → (n = 0 ∨ 16384 < a % 16384 + n) → exec .grant s = .next (refuse u q p 1)) ∧
    (p.op = 3 → ok3 → 0 < n → a % 16384 + n ≤ 16384 → (∀ i, i < n → (entryOf u (a + i)).owner = 0xFFFF) →
      ∃ v, exec .grant s = .next (complete v q p) ∧ (∀ i, i < n → entryOf v (a + i) = { entryOf u (a + i) with owner := r }) ∧
        (∀ b, b < a ∨ a + n ≤ b → entryOf v b = entryOf u b)) ∧
    (p.op = 3 → ok3 → 0 < n → a % 16384 + n ≤ 16384 → (∃ i, i < n ∧ (entryOf u (a + i)).owner ≠ 0xFFFF) →
      ((∃ i, i < 16384 ∧ (entryOf u (a / 16384 * 16384 + i)).owner = 0xFFFF) → exec .grant s = .next (refuse u q p 4)) ∧
      ((∀ i, i < 16384 → (entryOf u (a / 16384 * 16384 + i)).owner ≠ 0xFFFF) → exec .grant s = .next (refuse u q p 5))) ∧
    (¬ pf → (p.op = 4 → exec .slottab s = .next (refuse u q p 7)) ∧ (p.op = 6 → exec .classdef s = .next (refuse u q p 7)) ∧
      (p.op = 0x0B → exec .reconcile s = .next (refuse u q p 7))) ∧
    (p.op = 4 → pf → 4 ≤ n → exec .slottab s = .next (refuse u q p 8)) ∧
    (p.op = 4 → pf → n < 4 → (∃ v ∈ Memory.readBytes u.host a 16384, 63 < v.toNat ∧ v ≠ 0x7F) →
      exec .slottab s = .next (refuse u q p 1)) ∧
    (p.op = 4 → pf → n < 4 → ((Memory.readBytes u.host a 16384).any fun v => decide (v.toNat > 63) && v != 0x7F) = false →
      ∃ l, exec .slottab s = .next (complete (setDie u n { dieOf u n with newSlots := some l }) q p) ∧
        ∀ i, i < 16384 → Sparse.get (0x7F : Byte) l i = u.host.read (a + i)) ∧
    (p.op = 6 → pf → a ≤ 255 → n ≤ 64 → (classOf u a = none ∨ (u.sems.any fun e => e.2.type == 3 && e.2.cls == a) = false) →
      exec .classdef s = .next (complete { u with classes := Tab.put u.classes a n } q p)) ∧
    (p.op = 6 → pf → a ≤ 255 → n ≤ 64 → (classOf u a).isSome → (∃ e ∈ u.sems, e.2.type = 3 ∧ e.2.cls = a) →
      exec .classdef s = .next (refuse u q p 6)) ∧
    (p.op = 6 → pf → (255 < a ∨ 64 < n) → exec .classdef s = .next (refuse u q p 1)) ∧
    (∀ x, p.op = 0x0A → Tab.find u.parts a = some x → mayActOn u q a = true →
      ∃ v y, exec .capset s = .next (complete v q p) ∧ (v.parts.find? fun z => z.1 == a) = some (a, y) ∧ y.cap = n ∧ y.bangles = x.bangles ∧
        y.watts = x.watts ∧ ((n = 0 ∨ x.watts ≤ n) → y.partClk = none) ∧ (n ≠ 0 → n < x.watts → y.partClk.isSome)) ∧
    (p.op = 0x0A → (Tab.find u.parts a = none ∨ mayActOn u q a = false) → exec .capset s = .next (refuse u q p 8)) ∧
    (p.op = 0x0B → pf → a ∉ u.nodes → exec .reconcile s = .next (refuse u q p 8)) ∧
    (p.op = 0x0B → pf → a ∈ u.nodes → a = u.node → exec .reconcile s = .next (refuse u q p 1)) ∧
    (p.op = 0x0B → pf → a ∈ u.nodes → a ≠ u.node → ∃ v, exec .reconcile s = .next (complete v q p) ∧
      (∀ x ∈ v.xfers, semNode x.dst ≠ a) ∧ v.nodes = u.nodes.filter (· != a) ∧ (∀ e ∈ v.sems, semNode e.1 ≠ a) ∧
      ((∀ x ∈ u.xfers, semNode x.dst ≠ a) → ∀ b, semNode b ≠ a → entryOf v b = entryOf u b) ∧
      ∀ x, (u.xfers.filter fun x => semNode x.dst == a) = [x] → semNode x.src ≠ a → x.cls < 256 →
        x.amount ≤ transitOf u (semPlace x.src) x.cls →
        let e := entryOf u x.src
        let takes := e.type = 3 ∧ e.cls = x.cls ∧ e.poison = false ∧ e.bal + x.amount < 2 ^ 95
        (takes → (entryOf v x.src).bal = e.bal + x.amount ∧
          (∀ b, semNode b ≠ a → b ≠ x.src → entryOf v b = entryOf u b) ∧
          transitOf v (semPlace x.src) x.cls + x.amount = transitOf u (semPlace x.src) x.cls) ∧
        (¬ takes → (∀ b, semNode b ≠ a → entryOf v b = entryOf u b) ∧
          { x with told := true, stage := .refund, status := 9, dst := x.src } ∈ v.xfers) ∧
        (x.told = false → ∀ k, x.result = some k → ∀ r ∈ (ctxOf v x.ctx).infl, r.seq = k →
          r.r = full64 0 ∧ r.arrived = true ∧ ∃ st, r.st = some st ∧ st.extractLsb' 0 8 = 9)) ∧
    (p.op = 5 → a < 2 ^ 16 → ¬ pf → (∀ r ∈ u.regions, asidOf u r.1 = a → mayActOn u q (partOf u r.1) = false) →
      exec .genadv s = .next (complete u q p)) ∧
    (p.op = 5 → a < 2 ^ 16 → foreignSpace u q a = false → ((spaceOf u a).advance.isSome ∨ oldInFlight u a (spaceOf u a).gen = true) →
      exec .genadv s = .next u) ∧
    (p.op = 5 → a < 2 ^ 16 → foreignSpace u q a = false → (spaceOf u a).advance = none → oldInFlight u a (spaceOf u a).gen = false →
      exec .genadv s = .next (keepOpen { u with spaces := Tab.put u.spaces a { spaceOf u a with advance := some (q, p.tag) } } q p none (some a)))) ∧
  (∀ (s : State), let a := s.args.a; let sp := spaceOf s a
    (sp.advance = none → exec .generationCurrent s = .next s) ∧
    (∀ q, sp.advance = some q → (cardsMoving s a = true ∨ s.fw.paused = true) → exec .generationCurrent s = .next s) ∧
    (∀ q, sp.advance = some q → cardsMoving s a = false → s.fw.paused = false → ∃ t, exec .generationCurrent s = .next t ∧
      spaceOf t a = { sp with gen := (sp.gen + 1) % 65536, advance := none } ∧ (∀ b, b ≠ a → spaceOf t b = spaceOf s b) ∧ t.mem = s.mem ∧
      (sp.gen = 65535 → ∀ d ∈ t.dies, d.2.tlb = [])))

/-! ## Firmware, identity, power and failures (R5, R400, R421 to R429) -/

/-- R421, R422, R424, R425, R428: a heartbeat clears its core's misses; the fourth miss in a row pauses the services at once, no
heartbeat counts then, and the reset that follows ends the pause. A heartbeat of running firmware gives every partition that has no
account an empty one of class 255, OPEN, owned by the power region, on the hub die (its place and its time are log entry 44: the
model's choice). A staged image that verifies takes over, with no packet starting before its first heartbeat, which a booting image
that knows the handover gives; until then a rollback runs the old slot again. An image that does not verify changes nothing. That a
beat missed is an argument of the event, that the pause comes at once with the fourth, and that heartbeats do not count until
FIRMWARE_RESET, are the model's readings (log entry 43). -/
def firmwareEvents : Prop :=
  ∀ (s : State), let fw := s.fw
    (s.args.b ≠ 0 → let missed := fw.missed.modify s.args.a (· + 1)
      exec .heartbeat s = .next { s with fw := { fw with missed := missed, paused := fw.paused || missed.any fun n => decide (4 ≤ n) } }) ∧
    (s.args.b = 0 → fw.paused = true → exec .heartbeat s = .next s) ∧
    (s.args.b = 0 → fw.paused = false → fw.first = true → (∀ p ∈ s.parts, p.2.account ≠ 0) →
      exec .heartbeat s = .next { s with fw := { fw with missed := fw.missed.set s.args.a 0, beats := fw.beats + 1 } }) ∧
    (∀ n p, s.args.b = 0 → fw.paused = false → fw.first = true → (n, p) ∈ s.parts → p.account = 0 → (∀ z ∈ s.parts, z.1 < 64) →
      (s.parts.map (·.1)).Pairwise (· < ·) → ∃ t z, exec .heartbeat s = .next t ∧ t.mem = s.mem ∧ t.ctxs = s.ctxs ∧ (n, z) ∈ t.parts ∧
        let e := entryOf t z.account
        semPlace z.account = s.node * 8 + 4 ∧ e.type = 3 ∧ e.cls = 255 ∧ e.bal = 0 ∧ e.floor = 0 ∧ e.openBit = true ∧
        e.frozen = false ∧ e.owner = Config.powerRegion ∧
        ∀ b, (∀ m, m < 64 → b ≠ allowanceAt s m) → entryOf t b = entryOf s b) ∧
    (s.args.b = 0 → fw.paused = false → fw.first = false → (fwImage s).boots = true → knowsHandover s = true → exec .heartbeat s =
      .next { s with fw := { fw with missed := fw.missed.set s.args.a 0, beats := fw.beats + 1, first := true, quiesced := false, handover := none } }) ∧
    (fw.paused = false → exec .firmwareReset s = .next s) ∧
    (fw.paused = true → exec .firmwareReset s =
      .next { s with fw := { fw with paused := false, missed := [0, 0, 0, 0], resets := fw.resets + 1 } }) ∧
    (∀ i, fw.staged[s.args.a]? = some i → fw.first = true → fw.paused = false → imageVerifies s i = true →
      exec .liveUpdate s = .next { s with fw := { fw with
        slots := fw.slots.set (1 - fw.cur) i, cur := 1 - fw.cur, quiesced := true, handover := some (fwImage s).handover
        measured := i.digest, first := false, missed := [0, 0, 0, 0], staged := fw.staged.eraseIdx s.args.a } }) ∧
    (∀ i, fw.staged[s.args.a]? = some i → imageVerifies s i = false → exec .liveUpdate s = .next s) ∧
    (fw.first = false → ∃ d, exec .liveUpdateRollback s = .next { s with fw := { fw with
      cur := 1 - fw.cur, quiesced := false, first := true, handover := none, measured := d, missed := [0, 0, 0, 0] } })

/-- R423: the SPDM responder, where the hub's services run. Version, capabilities and algorithms are negotiated in this order;
what needs them says ERROR before. Digests, the portions of the certificate chain, a challenge and the measurements are answered
after; a challenge's and the measurements' values that the spec leaves to its algorithms are free. -/
def spdmResponses : Prop :=
  ∀ (s : State), s.fw.paused = false →
    let told := fun (i : Instr) (l : List Nat) => exec i s = .next { s with spdm := { s.spdm with reply := l } }
    (exec .getVersion s = .next { s with spdm := { s.spdm with version := true, caps := false, algs := 0, reply := [0x04, 0x13] } }) ∧
    (s.spdm.version = true → exec .getCapabilities s = .next { s with spdm := { s.spdm with caps := true, reply := [0x61, 0x16] } }) ∧
    (s.spdm.version = false → told .getCapabilities [0x7F, 4]) ∧
    (s.spdm.caps = true → s.args.a / 4 % 2 = 1 → s.args.a / 2 ^ 33 % 2 = 1 →
      exec .negotiateAlgorithms s = .next { s with spdm := { s.spdm with algs := 2 ^ 33 + 4, reply := [0x63, 4, 2] } }) ∧
    (s.spdm.caps = true → s.args.a / 4 % 2 ≠ 1 → told .negotiateAlgorithms [0x7F, 1]) ∧
    (s.spdm.algs = 0 → ∀ i ∈ [Instr.getDigests, .getCertificate, .challenge, .getMeasurements], told i [0x7F, 4]) ∧
    (s.spdm.algs ≠ 0 → ∃ d, told .getDigests [0x01, 1, d]) ∧
    (s.spdm.algs ≠ 0 → s.args.a = 0 → s.args.b ≤ s.spdm.chain.length →
      let part := (s.spdm.chain.drop s.args.b).take s.args.c
      told .getCertificate ([0x02, 0, part.length, s.spdm.chain.length - s.args.b - part.length] ++ part.map (·.toNat))) ∧
    (s.spdm.algs ≠ 0 → s.args.a = 0 → ∃ d n g, exec .challenge s =
      .next { s with free := s.free + 1, spdm := { s.spdm with reply := [0x03, 0, d, n, g] } }) ∧
    (s.spdm.algs ≠ 0 → s.args.a = 2 → ∃ n g, exec .getMeasurements s =
      .next { s with free := s.free + 1, spdm := { s.spdm with reply := [0x60, 1, (fwImage s).version, n, g] } }) ∧
    (s.spdm.algs ≠ 0 → s.args.a = 1 → ∃ n g, exec .getMeasurements s =
      .next { s with free := s.free + 1, spdm := { s.spdm with reply := [0x60, 1, s.fw.measured, n, g] } })

/-- The sticky bits of every partition hold the bits of the limits that demand its clock now (R429). -/
def Latched (t : State) : Prop := ∀ p ∈ t.parts, p.2.sticky ||| BitVec.ofNat 5 (capCurrent t p.1) = p.2.sticky

/-- R426 to R429: the limits on clocks. A hall cap frame whose level, tag and sequence number are good brings its level; any other
is counted. A millisecond's energy is taken from the partition's allowance. A supply sag and a hot die demand their clock until they
end. The clock in force is the lowest demand, at most the nominal one; in a shed partition a bangle with no started context, a
HALTED one that a launch holds counted, is gated; on a bangle of no partition the demands of its die and of the module count. Each of these events leaves the sticky bit of
every limit that demands a clock. None of them touches a core or memory, nor a context but for the watches on an allowance. -/
def powerDemands : Prop :=
  (∀ (s : State) (i : Instr), i ∈ [Instr.hallCapFrame, .energyBurn, .supplySag, .thermalLimit, .supplySagEnds, .thermalLimitEnds] →
    ∃ t, exec i s = .next t ∧ t.cores = s.cores ∧ t.mem = s.mem ∧ t.launches = s.launches ∧ t.queues = s.queues ∧
      (i ≠ .energyBurn ∨ s.semOps = [] → t.ctxs = s.ctxs)) ∧
  (∀ (s : State) (d : Nat), s.args.a = d →
    let goes := fun (i : Instr) (sag th : Option Nat) => ∃ t, exec i s = .next t ∧ (dieOf t d).sag = sag ∧ (dieOf t d).thermal = th ∧
      Latched t ∧ (∀ p ∈ s.parts, ∃ z, (p.1, z) ∈ t.parts ∧ z.sticky &&& p.2.sticky = p.2.sticky ∧ z.cap = p.2.cap)
    goes .supplySag (some s.args.b) (dieOf s d).thermal ∧ goes .supplySagEnds none (dieOf s d).thermal ∧
    goes .thermalLimit (dieOf s d).sag (some s.args.b) ∧ goes .thermalLimitEnds (dieOf s d).sag none) ∧
  (∀ (s : State), let l := s.args.a; let n := s.args.b
    let good := l < 16 ∧ Config.verifies 3 (s.args.c * 2 ^ 72 + n * 2 ^ 4 + l) = true ∧ (s.power.accepted = false ∨ s.power.sequence < n)
    (good → ∃ t, exec .hallCapFrame s = .next t ∧ t.power = { s.power with level := l, sequence := n, accepted := true } ∧ Latched t) ∧
    (¬ good → exec .hallCapFrame s = .next { s with power := { s.power with dropped := s.power.dropped + 1 } })) ∧
  (∀ (s : State) (p : Partition), Tab.find s.parts s.args.a = some p → p.account ≠ 0 →
    let e := entryOf s p.account
    e.type = 3 → e.poison = false → -(2 ^ 95) ≤ e.bal - s.args.b →
    ∃ t, exec .energyBurn s = .next t ∧ (entryOf t p.account).bal = e.bal - s.args.b ∧ (∀ b, b ≠ p.account → entryOf t b = entryOf s b) ∧
      Latched t) ∧
  (∀ (s : State) (part die : Nat), clockOf s part die ≤ 1800000 ∧
    (∀ k, some k ∈ demands s part die → clockOf s part die ≤ k) ∧
    (clockOf s part die < 1800000 → some (clockOf s part die) ∈ demands s part die)) ∧
  (∀ (s : State) (b part : Nat) (p : Partition), (s.parts.find? fun p => p.2.bangles.contains b) = some (part, p) →
    let started := ∃ c, c / 32 = b ∧ (ctxOf s c).launch.isSome
    (16 ≤ partRank s part + s.power.level → ¬ started → bangleClock s b = 0) ∧
    (started ∨ partRank s part + s.power.level < 16 → bangleClock s b = clockOf s part (b / 16))) ∧
  (∀ (s : State) (b : Nat), (∀ p ∈ s.parts, b ∉ p.2.bangles) → bangleClock s b ≤ 1800000 ∧
    ∀ k, some k ∈ [s.power.module, (dieOf s (b / 16)).sag, (dieOf s (b / 16)).thermal] → bangleClock s b ≤ k)

/-- R5, R201, R240, R246, R259, R267, R282, R314, R400: failures of the part. An uncorrectable error poisons its unit: a bank word,
a weight-store unit, a unit of memory, an accumulator bank, an array, a semaphore entry, a tag, and changes no value. A reset of a
compute die or of the hub die makes the die's entries UNSET; a compute die's slot table is FREE then and its cycles count from 0. A
retired bangle, stack or port stays retired. -/
def failuresAndResets : Prop :=
  (∀ (s : State), let b := s.args.b; let c := s.args.c
    (s.args.a = 0 → b < 512 → c < 65536 → exec .uncorrectableError s =
      .next (setCore s b { coreOf s b with poison := NatSet.insert (coreOf s b).poison c })) ∧
    (s.args.a = 1 → b < 4 → c < 2 ^ 24 → exec .uncorrectableError s =
      .next (setDie s b { dieOf s b with wsBad := NatSet.insert (dieOf s b).wsBad c })) ∧
    (s.args.a = 2 → exec .uncorrectableError s = .next { s with memBad := NatSet.insert s.memBad c }) ∧
    (s.args.a = 3 → b < 512 → c < 8 → exec .uncorrectableError s =
      .next (setCore s b { coreOf s b with accBad := NatSet.insert (coreOf s b).accBad c })) ∧
    (s.args.a = 4 → b < 512 → exec .uncorrectableError s = .next (setCore s b { coreOf s b with arrayBad := true })) ∧
    (s.args.a = 6 → b < 512 → c < 2 ^ 18 → exec .uncorrectableError s =
      .next (setCore s b { coreOf s b with tagBad := NatSet.insert (coreOf s b).tagBad c })) ∧
    (s.args.a = 5 → semAddrOk s b = true → ∃ t, exec .uncorrectableError s = .next t ∧ (entryOf t b).poison = true ∧
      (entryOf t b).word = (entryOf s b).word ∧ (∀ a, a ≠ b → entryOf t a = entryOf s a) ∧ t.mem = s.mem)) ∧
  (∀ (s : State), let d := s.args.a
    d ≤ 4 → ∃ t, exec .dieReset s = .next t ∧ t.mem = s.mem ∧ (∀ a, semPlace a = s.node * 8 + d → entryOf t a = {}) ∧
      ((s.sems.map (·.1)).Pairwise (· < ·) → ∀ a, semPlace a ≠ s.node * 8 + d → entryOf t a = entryOf s a) ∧
      (∀ k, coreOf t k = if k / 128 = d then { coreOf s k with cycle := 0 } else coreOf s k) ∧
      (d < 4 → (dieOf t d).slots = [] ∧ (dieOf t d).newSlots = none ∧ (dieOf t d).cycle = 0 ∧ (dieOf t d).ws = (dieOf s d).ws)) ∧
  (∀ (s : State), let n := s.args.b
    (s.args.a = 0 → exec .bangleRetire s = .next { s with retired := NatSet.insert s.retired n }) ∧
    (s.args.a = 1 → exec .bangleRetire s = .next { s with hbm := NatSet.insert s.hbm n }) ∧
    (s.args.a = 2 → exec .bangleRetire s = .next { s with ports := NatSet.insert s.ports n }))

/-- R429: the bits that CAPCAUSE reads: bit `i` of 4:0 where limit `i` (HALL, MODULE, PARTITION, SAG, THERMAL) demands the clock in
force on a die of the partition, below the nominal clock; the sticky bits in 12:8; the hall level in 19:16; zeros elsewhere. A step
that the machine takes with nothing scheduled leaves every current bit sticky. -/
def capcauseReads : Prop :=
  (∀ (s : State) (part : Nat), s.power.level < 16 → let v := capcause s part
    (∀ i, i < 5 → (v.getLsbD i = true ↔ ∃ d k, d ∈ partDies s part ∧ (demands s part d)[i]? = some (some k) ∧ k = clockOf s part d ∧ k < 1800000)) ∧
    v.extractLsb' 5 3 = 0 ∧ v.extractLsb' 8 5 = (Tab.get {} s.parts part : Partition).sticky ∧ v.extractLsb' 13 3 = 0 ∧
    (v.extractLsb' 16 4).toNat = s.power.level ∧ v.extractLsb' 20 44 = 0) ∧
  (∀ (s : State), s.active = none → s.sched = [] →
    let u := latchSticky s
    Latched u ∧ (∀ p ∈ s.parts, ∃ z, (p.1, z) ∈ u.parts ∧ z.sticky &&& p.2.sticky = p.2.sticky) ∧
    ((enabled u)[Config.freeChoice s.free % ((enabled u).length + 1)]? = none →
      step s = .next { u with free := s.free + 1, cycles := s.cycles + 1 }))

/-- R429: WRSR of CAPCAUSE clears the sticky bits that it names, for the whole partition, where no limit demands the clock. -/
def capcauseClears : Prop :=
  ∀ (s : State), let part := s.args.a
    exec .capcauseW1c s = .next { s with parts := s.parts.map fun p =>
      let left := if p.1 = part then p.2.sticky &&& ~~~ BitVec.ofNat 5 (s.args.b / 2 ^ 8) else p.2.sticky
      (p.1, { p.2 with sticky := left ||| BitVec.ofNat 5 (capCurrent s p.1) }) }

/-- The limits on clocks and CAPCAUSE. -/
def Obligations.PowerLimits : Prop := powerDemands ∧ capcauseReads ∧ capcauseClears

/-- Core saves, context saves and restores. -/
def Obligations.SavesAndRestores : Prop := imageHeader ∧ savesRun ∧ restoresRun

/-- Failures of the part, resets, and nodes that cannot be reached. -/
def Obligations.FailuresAndResets : Prop := failuresAndResets ∧ unreachableNodes

/-- The firmware's events and the SPDM responder's requests. -/
def Obligations.FirmwareAndSpdm : Prop := firmwareEvents ∧ spdmResponses

/-! ## Rules over the whole machine -/

/-- The invariant: host memory, the memory of the domain, every core's scratchpad and every die's weight store are in
canonical form: addresses strictly rising, and no entry equal to what an unlisted address reads as. -/
def Canonical (s : State) : Prop :=
  s.mem.wf = true ∧ s.host.wf = true ∧ (∀ k, (coreOf s k).spad.wf = true) ∧ (∀ d, (dieOf s d).ws.wf = true)

/-- Where the machine goes on from a state in which every memory is in canonical form, every memory is in canonical form: over
all instructions and events, whatever the state. -/
def Obligations.StepKeepsMemoryCanonical : Prop := ∀ s t : State, Canonical s → step s = .next t → Canonical t

/-- The memories are in canonical form at reset. -/
def Obligations.ResetIsCanonical : Prop := Canonical State.reset

/-- R76, R80, R118, R203, R259, R282, R287, R397: what the spec gives for reset: every face of the `g`, `p`, `v` and `m` files
zero and unwritten; the tick counter, FLG, DWP and CKMODE zero; TRAPSTAT with SLOT 0xF and ELEM 0x1FF and its other fields zero;
the trap positions zero; tags full; semaphore entries UNSET with no owner; slot-table cells FREE; class 255
defined with exponent 20 and no other (firmware defines it at boot, R428; that it stands at reset is log entry 44: the model's
choice). That contexts stand halted at reset is the model's value too (log entry 12). No other value that the model chose for reset is
among these. -/
def Obligations.ResetValues : Prop :=
  let s := State.reset
  (∀ c, (ctxOf s c).status = .halted ∧ (ctxOf s c).lsc = 0 ∧
    (∀ n (h : n < 64), (ctxOf s c).regs.g[n] = ({} : Face 64)) ∧ (∀ n (h : n < 8), (ctxOf s c).regs.p[n] = ({} : Face 1)) ∧
    (∀ n (h : n < 32), (ctxOf s c).regs.v[n] = ({} : Face 4096)) ∧ (∀ n (h : n < 8), (ctxOf s c).regs.m[n] = ({} : Face 512)) ∧
    (∀ n (h : n < 32), (ctxOf s c).regs.k[n].wr = false) ∧
    (ctxOf s c).sys.flg = 0 ∧ (ctxOf s c).sys.dwp = 0 ∧ (ctxOf s c).sys.ckmode = 0 ∧
    (ctxOf s c).sys.trapstat = 0x00000FFF80000000#64 ∧ (ctxOf s c).sys.trappc = 0 ∧ (ctxOf s c).sys.trapopc = 0 ∧
    (ctxOf s c).sys.trapiter = 0 ∧ (ctxOf s c).link = [] ∧ (ctxOf s c).loops = []) ∧
  (∀ k, (coreOf s k).empty = []) ∧
  (∀ a, (entryOf s a).word = 0 ∧ (entryOf s a).owner = 0xFFFF ∧ (entryOf s a).poison = false) ∧
  (∀ d slot chan, slotCell (dieOf s d) slot chan = 0x7F) ∧ (∀ d, (dieOf s d).cycle = 0) ∧
  (∀ k, classOf s k = if k = 255 then some 20 else none)

/-- R44, R45, R47, R48, R53, R56: for every instruction with a word, with every operand at every value its encoding admits: a
trigger or a move that is well-formed decodes from its word, in every slot; a span action and a SEG mark from their header. The
other way, what a slot word decodes to is well-formed and encodes to that word again. -/
def Obligations.EncodeDecodeRoundTrip : Prop :=
  (∀ (i : Instr) (w : Word) (n : Nat), i.wellFormed = true → encode i = some w →
    match i with
    | .flip _ _ | .flipW _ _ | .flipC _ _ | .flipCw _ _ | .ckpt _ _ => decodeSpan w = some i
    | .seg _ _ => decodeSeg w = some i
    | _ => decodeSlot w n = .ok i) ∧
  (∀ (i : Instr) (w : Word) (n : Nat), decodeSlot w n = .ok i → i.wellFormed = true ∧ encode i = some w) ∧
  (∀ (i : Instr) (w : Word), decodeSpan w = some i ∨ decodeSeg w = some i → i.wellFormed = true ∧ encode i = some w)

/-- R45 to R49: words of the spec's own examples, and fields written out bit by bit, decode to what they stand for: the slots of
the worked bundle `?!p2 0x1234_5678_9ABC_DEF0 -> g7`, `g7 -> ls0.LD64`, `-5 -> al1.b` and its header FLIP.W; the header
0x0100_0000 of a FLIP and 0xF000_0000 of fifteen idle ticks; and the word of an empty slot, which is no move. -/
def Obligations.DecodeWords : Prop :=
  decodeSlot 0x2801E002#32 = .ok (.move ⟨0#2, 0xA#4, 0x2002#14⟩ 0x007#12) ∧
  decodeSlot 0x00A38007#32 = .ok (.lsLd64 ⟨0#2, 0#4, 0x0007#14⟩ 0) ∧
  decodeSlot 0x00505FFB#32 = .ok (.move ⟨0#2, 0#4, 0x1FFB#14⟩ 0x141#12) ∧
  decodeSpan 0x0200C000#32 = some (.flipW ⟨0#4, 0b00000000110#11, 0#2⟩ 0) ∧
  decodeSpan 0x01000000#32 = some (.flip ⟨0#4, 0#11, 0#2⟩ 0) ∧
  decodeSpan 0xF0000000#32 = none ∧ hdrIdle 0xF0000000#32 = 15 ∧
  decodeSlot 0x20000000#32 = .error (.emptyBits 0) ∧
  decodeSlot (0b01#2 ++ 0b0011#4 ++ 0b000100001000#12 ++ 0b00000000000101#14) = .ok (.alAdd ⟨1#2, 3#4, 5#14⟩ 0) ∧
  decodeSlot (0b00#2 ++ 0b0000#4 ++ 0b001001001001#12 ++ 0b01000000000000#14) = .ok (.sysTret ⟨0#2, 0#4, 0x1000#14⟩) ∧
  decodeSlot (0b00#2 ++ 0b0000#4 ++ 0b010000001101#12 ++ 0b00000000000001#14) = .ok (.semSadd ⟨0#2, 0#4, 1#14⟩ 1)

/-- R50, R163, R391: a step that stands at a part of a bundle runs the instruction that the part's word decodes to, on the state
in which that part is no longer to be done: a slot, the checks of a slot (which act on nothing), TRAP or TRET behind the bundle,
the SEG mark, the span action; and an event of the bundle with its arguments. With no bundle being carried out, a step runs the
event that is scheduled, or else the one of the events that may come next which the free choice names, once the clock limits in
force have set their sticky bits (R429). A word placed for the next step is the one that it decodes and runs. -/
def Obligations.StepRunsDecodedInstruction : Prop :=
  (∀ (s : State) (c : Nat) (f : Frame) (ts : List Todo), s.active = some c → (ctxOf s c).frame = some f →
    (∀ n i, f.todo = .slot n :: ts ∨ f.todo = .last n :: ts → decodeSlot (f.slots.getD n 0) n = .ok i →
      step s = exec i (withFrame s c { f with todo := ts, cur := n, dry := false })) ∧
    (∀ n i, f.todo = .check n :: ts → decodeSlot (f.slots.getD n 0) n = .ok i →
      step s = exec i (withFrame s c { f with todo := ts, cur := n, dry := true })) ∧
    (∀ i, f.todo = .seg :: ts → decodeSeg f.header = some i → step s = exec i (withFrame s c { f with todo := ts })) ∧
    (∀ i, f.todo = .span :: ts → decodeSpan f.header = some i → step s = exec i (withFrame s c { f with todo := ts })) ∧
    (∀ e, f.todo = .event e :: ts →
      step s = exec e.what { withFrame s c { f with todo := ts } with args := e.args })) ∧
  (∀ (s : State) (e : Event) (es : List Event), s.active = none → s.sched = e :: es →
    step s = exec e.what { latchSticky { s with sched := es } with args := e.args }) ∧
  (∀ (s : State) (e : Event), s.active = none → s.sched = [] →
    let u := latchSticky s
    (enabled u)[Config.freeChoice s.free % ((enabled u).length + 1)]? = some e →
    step s = exec e.what { u with free := s.free + 1, args := e.args }) ∧
  (∀ (s : State) (w : Word) (i : Instr), decodeSlot w = .ok i → decodeTableWord 32 w.toNat = some i →
    let c := s.active.getD 0
    let f := { wordFrame (ctxOf s c) w i with todo := [], cur := 0, dry := false }
    let t : State := { modCtx s c (fun x => { x with frame := some (wordFrame (ctxOf s c) w i) }) with active := some c }
    step (s.withFetchWord 32 w.toNat) = exec i (withFrame t c f))

/-- No instruction and no event stops the machine, on any state: exec answers a next state, and so does step. Every trap, fault
and refusal of the spec is an effect on the state. -/
def Obligations.EveryInstructionAnswers : Prop :=
  (∀ (i : Instr) (s : State), ∃ t, exec i s = .next t) ∧ (∀ s : State, ∃ t, step s = .next t)

/-- What a bundle itself never changes: for every move, trigger, span action and mark, in every state: the memory of the domain
and its poisoned units, host memory, every scratchpad and its tags, every weight store, the semaphore entries, the classes and the
counts of quanta in transit, the address spaces, the queues, the regions' control blocks. Stores, copies and semaphore operations
perform by events of their own; only PATSET has the loads of its own bundle that come before it perform first, of which an LDFW changes
tags (R198, R319). A move or trigger whose guard is false changes nothing at all (R50). -/
def Obligations.BundleFrames : Prop :=
  (∀ (i : Instr) (s t : State), (encode i).isSome → exec i s = .next t →
    t.mem = s.mem ∧ t.memBad = s.memBad ∧ t.host = s.host ∧ t.sems = s.sems ∧ t.classes = s.classes ∧ t.transit = s.transit ∧
    t.spaces = s.spaces ∧ t.queues = s.queues ∧ t.funcs = s.funcs ∧ t.images = s.images ∧ t.fw = s.fw ∧ t.power = s.power ∧
    ((∀ m u, i ≠ .lsPatset m u) ∨ (∀ c x f, current s = some (c, x, f) → ∀ o ∈ x.ls, o.bundle ≠ x.bundle) →
      ∀ k, (coreOf t k).spad = (coreOf s k).spad ∧ (coreOf t k).empty = (coreOf s k).empty) ∧
    (∀ d, (dieOf t d).ws = (dieOf s d).ws) ∧
    (∀ r, (Tab.find t.regions r).map (·.rcb) = (Tab.find s.regions r).map (·.rcb))) ∧
  (∀ (i : Instr) (m : Mv) (s : State) (c : Nat) (x : Ctx) (f : Frame), (i.mv? = some m ∨ ∃ d, i = .move m d) →
    current s = some (c, x, f) → guardHolds f.regs m.guard = false → exec i s = .next s)

/-- R81: a write into `g0` is discarded: a move to it leaves the context as it was, and an asynchronous landing and a pending
mark leave the registers as they are; so `g0` carries no written bit, class, pending bit or conflict, and no double-write check
names it. -/
def Obligations.WritesToG0Discarded : Prop :=
  (∀ (m : Mv) (s : State) (c : Nat) (x : Ctx) (f : Frame), Acts s m c x f → ∃ t, exec (.move m 0) s = .next t ∧
    OnlyCtx s t c ∧ ctxOf t c = x) ∧
  (∀ (r : RegFile) (dwp : D64) (free : Bool) (bits mask : Val),
    r.coreWrite dwp 0 bits mask = r ∧ r.asyncWrite dwp free 0 bits = r ∧ r.setPending 0 = r ∧ r.promote 0 = r ∧
    r.read 0 = 0 ∧ r.bits 0 = {} ∧ r.conflict ≠ some 0)

/-- R128: `br.r` and `br.st` have no latency: a move of a bundle reads the loop stack and the link stack as they stood at the
bundle's issue, whatever they have become since: ITER of the innermost loop, or 0; LOOPDEPTH in bits 2:0, LINKDEPTH in bits 13:8
and zero elsewhere. -/
def Obligations.LiveBranchPorts : Prop :=
  ∀ (x : Ctx) (ws : List Word) (len n : Nat) (todo : List Todo), x.loops.length ≤ 4 → x.link.length ≤ 32 →
    ∀ f : Frame, f.brR = (makeFrame x ws len todo).brR → f.brSt = (makeFrame x ws len todo).brSt →
      (sourceVal f 0x203 n).1 = (match x.loops with | e :: _ => BitVec.ofNat 64 e.iter | [] => 0).setWidth 4096 ∧
      ((sourceVal f 0x204 n).1.extractLsb' 0 3).toNat = x.loops.length ∧
      ((sourceVal f 0x204 n).1.extractLsb' 8 6).toNat = x.link.length ∧
      (sourceVal f 0x204 n).1.extractLsb' 3 5 = 0 ∧ (sourceVal f 0x204 n).1.extractLsb' 14 4082 = 0

/-- Two destinations that R51 forbids beside each other: the same socket; two triggers of one unit; a trigger and the `.a` port
of its unit. -/
def Clash (d e : BitVec 12) : Prop :=
  d = e ∨ ∃ u, (triggerUnit d = some u ∧ (triggerUnit e = some u ∨ unitOf e = some (u, 0))) ∨
    (unitOf d = some (u, 0) ∧ triggerUnit e = some u)

/-- R51: a bundle in which two moves make a combination of R51 is illegal, whatever their guards: it decodes to no bundle. A
bundle is refused for that reason only where two of its moves make one. The sockets of `ls0` never clash with those of `ls1`, nor
those of `al0` with those of `al1`. -/
def Obligations.IllegalCombinations : Prop :=
  (∀ (feat : BitVec 64) (h : Word) (slots : List Word) (p q : Nat × Word), p ∈ liveSlots (hdrSurr h) slots →
    q ∈ liveSlots (hdrSurr h) slots → p.1 ≠ q.1 → Clash (slotDst p.2) (slotDst q.2) →
    ∃ e, decodeBundle feat (h :: slots) = .error e) ∧
  (∀ (feat : BitVec 64) (h : Word) (slots : List Word), bundleError feat (h :: slots) = some .twice →
    ∃ p q, p ∈ liveSlots (hdrSurr h) slots ∧ q ∈ liveSlots (hdrSurr h) slots ∧ p.1 ≠ q.1 ∧
      Clash (slotDst p.2) (slotDst q.2)) ∧
  (∀ d e : BitVec 12, (unitOf d).map (·.1) = some .ls0 → (unitOf e).map (·.1) = some .ls1 → ¬ Clash d e) ∧
  (∀ d e : BitVec 12, (unitOf d).map (·.1) = some .al0 → (unitOf e).map (·.1) = some .al1 → ¬ Clash d e)

/-- R410 (with R100, R392, R394): a trap that rolls back to a checkpoint enters its handler, whatever its code, with TRAPSTAT
bit 29 (ROLLED) set and bit 30 (SPANPEND) clear; TRAPPC holds the checkpoint's position, and neither the bundle nor its span
action is kept: what is set aside for TRET holds no span action. -/
def Obligations.RollbackEntersHandler : Prop :=
  ∀ (s : State) (c : Nat) (t : TrapInfo) (pc pos : Nat) (span : SpanCode) (halt : Option D64) (h : Shadow),
    let x := ctxOf s c
    x.handler = false → x.sys.ckmode = 1 → x.shadow = some h → (∀ b ∈ x.banks.toList, b ≠ .lost) →
    t.code ≠ .badStatus → t.code ≠ .notRestartable → t.code ≠ .detConflict → handlerOf s c t.code = some pos →
    let y := ctxOf (enterTrap s c t pc span halt) c
    y.handler = true ∧ y.pc = pos ∧ y.frame = none ∧ y.sys.trapstat.getLsbD 29 = true ∧ y.sys.trapstat.getLsbD 30 = false ∧
    y.sys.trappc = BitVec.ofNat 64 (h.pos % 2 ^ 20) ∧
    ∃ a, y.aside = some a ∧ a.span = .none ∧ a.lat = h.lat ∧ a.link = h.link ∧ a.loops = h.loops ∧ a.tick = h.tick

/-- R330: when `n` SADD operations of addend 1 reach a counter that holds 0, in whatever order and with whatever between them,
and no other operation changes that counter, the one that reaches it after `i` others receives `i`: so their results are 0 to
`n - 1`, each exactly once; and the counter then holds `n`. -/
def Obligations.SaddTickets : Prop :=
  ∀ (n a : Nat) (u t : Nat → State) (o : Nat → SemOp), n < 2 ^ 64 →
    (∀ i, i < n → AtEntry (u i) (o i) ∧ (o i).kind = .sadd ∧ (o i).addr = a ∧ (o i).b = 1 ∧
      semUse (u i) (o i).region (entryOf (u i) a) false = true ∧ exec .semArrive (u i) = .next (t i)) →
    (entryOf (u 0) a).type = 1 → (entryOf (u 0) a).poison = false → (entryOf (u 0) a).value = 0 →
    (∀ i, i + 1 < n → entryOf (u (i + 1)) a = entryOf (t i) a) →
    (∀ i, i < n → Told (t i) (o i) (BitVec.ofNat 64 i) 0) ∧
    (∀ i j, i < n → j < n → BitVec.ofNat 64 i = BitVec.ofNat 64 j → i = j) ∧
    (∀ m, n = m + 1 → (entryOf (t m) a).value = BitVec.ofNat 64 n)
end

