-- ==== Sys2Proof/Laws/Tab.lean ====
section
/-! SUPPORT. The laws of tables, sparse lists and byte memory: read after write, a write leaves every other key alone, and
every memory operation keeps the canonical form. -/

namespace Sys2Proof.Machine

/-! ## Tables -/

@[simp] theorem Tab.get_put_same {α : Type} (d : α) (t : List (Nat × α)) (k : Nat) (v : α) :
    Tab.get d (Tab.put t k v) k = v := by
  induction t with
  | nil => simp [Tab.get, Tab.put, Sparse.get]
  | cons h t ih =>
    obtain ⟨a, w⟩ := h
    simp only [Tab.get] at ih
    simp only [Tab.get, Tab.put]
    split
    · simp [Sparse.get]
    · split
      · simp [Sparse.get]
      · next h1 h2 => simp [Sparse.get, Ne.symm h2, ih]

theorem Tab.get_put_ne {α : Type} (d : α) (t : List (Nat × α)) {j k : Nat} (v : α) (h : j ≠ k) :
    Tab.get d (Tab.put t k v) j = Tab.get d t j := by
  induction t with
  | nil => simp [Tab.get, Tab.put, Sparse.get, Ne.symm h]
  | cons e t ih =>
    obtain ⟨a, w⟩ := e
    simp only [Tab.get] at ih
    simp only [Tab.get, Tab.put]
    split
    · simp [Sparse.get, Ne.symm h]
    · split
      · next h1 h2 => subst h2; simp [Sparse.get, Ne.symm h]
      · simp [Sparse.get, ih]

theorem Tab.get_put {α : Type} (d : α) (t : List (Nat × α)) (j k : Nat) (v : α) :
    Tab.get d (Tab.put t k v) j = if j = k then v else Tab.get d t j := by
  by_cases h : j = k
  · subst h; simp
  · simp [h, Tab.get_put_ne d t v h]

@[simp] theorem Tab.find_put_same {α : Type} (t : List (Nat × α)) (k : Nat) (v : α) :
    Tab.find (Tab.put t k v) k = some v := by
  induction t with
  | nil => simp [Tab.find, Tab.put]
  | cons h t ih =>
    obtain ⟨a, w⟩ := h
    simp only [Tab.put]
    split
    · simp [Tab.find]
    · split
      · simp [Tab.find]
      · next h1 h2 => simp [Tab.find, Ne.symm h2, ih]

theorem Tab.find_put_ne {α : Type} (t : List (Nat × α)) {j k : Nat} (v : α) (h : j ≠ k) :
    Tab.find (Tab.put t k v) j = Tab.find t j := by
  induction t with
  | nil => simp [Tab.find, Tab.put, Ne.symm h]
  | cons e t ih =>
    obtain ⟨a, w⟩ := e
    simp only [Tab.put]
    split
    · simp [Tab.find, Ne.symm h]
    · split
      · next h1 h2 => subst h2; simp [Tab.find, Ne.symm h]
      · simp [Tab.find, ih]

/-- Writing an entry twice is writing it once. -/
@[simp] theorem Tab.put_put {α : Type} (t : List (Nat × α)) (k : Nat) (v w : α) :
    Tab.put (Tab.put t k v) k w = Tab.put t k w := by
  induction t with
  | nil => simp [Tab.put]
  | cons h t ih =>
    obtain ⟨a, x⟩ := h
    simp only [Tab.put]
    split
    · simp [Tab.put]
    · split
      · simp [Tab.put]
      · next h1 h2 => simp [Tab.put, h1, h2, ih]

theorem Tab.get_of_find {α : Type} (d : α) (t : List (Nat × α)) {k : Nat} {v : α} (h : Tab.find t k = some v) :
    Tab.get d t k = v := by
  induction t with
  | nil => simp [Tab.find] at h
  | cons e t ih =>
    obtain ⟨a, w⟩ := e
    simp only [Tab.find] at h
    simp only [Tab.get, Sparse.get]
    split at h
    · next h1 => simp [h1] at h ⊢; exact h
    · next h1 => simp only [h1, if_false]; exact ih h

/-! ## Sparse lists -/

theorem Sparse.get_below {α : Type} [DecidableEq α] (d : α) (l : List (Nat × α)) (k : Nat)
    (h : l.all (fun p => decide (k < p.1)) = true) : Sparse.get d l k = d := by
  induction l with
  | nil => rfl
  | cons e t ih =>
    obtain ⟨a, v⟩ := e
    simp only [List.all_cons, Bool.and_eq_true, decide_eq_true_eq] at h
    have : a ≠ k := by omega
    simp [Sparse.get, this, ih h.2]

theorem Sparse.wf_cons {α : Type} [DecidableEq α] (d : α) (a : Nat) (v : α) (t : List (Nat × α)) :
    Sparse.wf d ((a, v) :: t) = true ↔ v ≠ d ∧ t.all (fun p => decide (a < p.1)) = true ∧ Sparse.wf d t = true := by
  simp [Sparse.wf, Bool.and_eq_true, and_assoc]

theorem all_lt_mono {α : Type} (l : List (Nat × α)) {j k : Nat} (hjk : j ≤ k)
    (h : l.all (fun p => decide (k < p.1)) = true) : l.all (fun p => decide (j < p.1)) = true := by
  simp only [List.all_eq_true, decide_eq_true_eq] at h ⊢
  intro p hp
  have := h p hp
  omega

theorem Sparse.put_above {α : Type} [DecidableEq α] (d : α) (l : List (Nat × α)) (j k : Nat) (v : α) (hjk : j < k)
    (h : l.all (fun p => decide (j < p.1)) = true) : (Sparse.put d l k v).all (fun p => decide (j < p.1)) = true := by
  induction l with
  | nil => by_cases hv : v = d <;> simp [Sparse.put, hv, hjk]
  | cons e t ih =>
    obtain ⟨a, w⟩ := e
    simp only [List.all_cons, Bool.and_eq_true, decide_eq_true_eq] at h
    simp only [Sparse.put]
    split
    · by_cases hv : v = d <;> simp [hv, hjk, h.1, h.2]
    · split
      · by_cases hv : v = d <;> simp [hv, hjk, h.2]
      · simp [h.1, ih h.2]

/-- A write keeps the canonical form. -/
theorem Sparse.wf_put {α : Type} [DecidableEq α] (d : α) (l : List (Nat × α)) (k : Nat) (v : α)
    (h : Sparse.wf d l = true) : Sparse.wf d (Sparse.put d l k v) = true := by
  induction l with
  | nil => by_cases hv : v = d <;> simp [Sparse.put, Sparse.wf, hv]
  | cons e t ih =>
    obtain ⟨a, w⟩ := e
    have h0 := h
    rw [Sparse.wf_cons] at h
    obtain ⟨hw, ha, ht⟩ := h
    simp only [Sparse.put]
    split
    · next hk =>
      by_cases hv : v = d
      · simpa [hv] using h0
      · rw [if_neg hv, Sparse.wf_cons]
        refine ⟨hv, ?_, h0⟩
        simp only [List.all_cons, Bool.and_eq_true, decide_eq_true_eq]
        exact ⟨hk, all_lt_mono t (by omega) ha⟩
    · split
      · next hk =>
        subst hk
        by_cases hv : v = d
        · simpa [hv] using ht
        · rw [if_neg hv, Sparse.wf_cons]
          exact ⟨hv, ha, ht⟩
      · next h1 h2 =>
        rw [Sparse.wf_cons]
        exact ⟨hw, Sparse.put_above d t a k v (by omega) ha, ih ht⟩

theorem Sparse.get_put {α : Type} [DecidableEq α] (d : α) (l : List (Nat × α)) (j k : Nat) (v : α)
    (h : Sparse.wf d l = true) : Sparse.get d (Sparse.put d l k v) j = if j = k then v else Sparse.get d l j := by
  induction l with
  | nil =>
    by_cases hv : v = d
    · simp [Sparse.put, Sparse.get, hv]
    · by_cases hj : j = k
      · simp [Sparse.put, Sparse.get, hv, hj]
      · simp [Sparse.put, Sparse.get, hv, hj, Ne.symm hj]
  | cons e t ih =>
    obtain ⟨a, w⟩ := e
    rw [Sparse.wf_cons] at h
    obtain ⟨hw, ha, ht⟩ := h
    simp only [Sparse.put]
    split
    · next hk =>
      have hb : Sparse.get d ((a, w) :: t) k = d := by
        apply Sparse.get_below
        simp only [List.all_cons, Bool.and_eq_true, decide_eq_true_eq]
        exact ⟨hk, all_lt_mono t (by omega) ha⟩
      by_cases hv : v = d
      · by_cases hj : j = k
        · subst hj; simp [hv, hb]
        · simp [hv, hj]
      · by_cases hj : j = k
        · subst hj; simp [hv, Sparse.get]
        · simp [hv, hj, Sparse.get, Ne.symm hj]
    · split
      · next hk =>
        subst hk
        by_cases hv : v = d
        · by_cases hj : j = k
          · subst hj; simp [hv, Sparse.get_below d t j ha]
          · simp [hv, hj, Sparse.get, Ne.symm hj]
        · by_cases hj : j = k
          · subst hj; simp [hv, Sparse.get]
          · simp [hv, hj, Sparse.get, Ne.symm hj]
      · next h1 h2 =>
        by_cases hj : j = a
        · subst hj; simp [Sparse.get, Ne.symm h2]
        · simp [Sparse.get, Ne.symm hj, ih ht]

/-! ## Byte memory -/

/-- A write of one byte keeps the canonical form. -/
theorem Memory.wf_write (m : Memory) (a : Nat) (v : Byte) (h : m.wf = true) : (m.write a v).wf = true :=
  Sparse.wf_put _ m a v h

/-- A write of bytes keeps the canonical form. -/
theorem Memory.wf_writeBytes (bs : List Byte) : ∀ (m : Memory) (a : Nat), m.wf = true → (m.writeBytes a bs).wf = true := by
  induction bs with
  | nil => intro m a h; exact h
  | cons b bs ih => intro m a h; exact ih _ _ (Memory.wf_write m a b h)

/-- A byte reads as it was last written; every other byte as before. -/
theorem Memory.read_write (m : Memory) (a b : Nat) (v : Byte) (h : m.wf = true) :
    (m.write a v).read b = if b = a then v else m.read b :=
  Sparse.get_put _ m b a v h

theorem Memory.read_writeBytes_outside (bs : List Byte) :
    ∀ (m : Memory) (a b : Nat), m.wf = true → (b < a ∨ a + bs.length ≤ b) → (m.writeBytes a bs).read b = m.read b := by
  induction bs with
  | nil => intro m a b _ _; rfl
  | cons v bs ih =>
    intro m a b h hb
    simp only [List.length_cons] at hb
    simp only [Memory.writeBytes]
    rw [ih _ _ _ (Memory.wf_write m a v h) (by omega), Memory.read_write m a b v h]
    have : b ≠ a := by omega
    simp [this]

theorem Memory.read_writeBytes_inside (bs : List Byte) :
    ∀ (m : Memory) (a i : Nat), m.wf = true → (hi : i < bs.length) → (m.writeBytes a bs).read (a + i) = bs[i] := by
  induction bs with
  | nil => intro m a i _ hi; simp at hi
  | cons v bs ih =>
    intro m a i h hi
    simp only [Memory.writeBytes]
    cases i with
    | zero =>
      rw [Memory.read_writeBytes_outside bs _ _ _ (Memory.wf_write m a v h) (by omega), Nat.add_zero,
        Memory.read_write m a a v h]
      simp
    | succ i =>
      have := ih (m.write a v) (a + 1) i (Memory.wf_write m a v h) (by simpa using hi)
      rw [show a + (i + 1) = a + 1 + i by omega, this]
      simp

theorem Memory.length_readBytes (m : Memory) : ∀ (n a : Nat), (m.readBytes a n).length = n := by
  intro n
  induction n with
  | zero => intro a; rfl
  | succ n ih => intro a; simp [Memory.readBytes, ih]

theorem leBytes_length : ∀ (n v : Nat), (leBytes n v).length = n := by
  intro n
  induction n with
  | zero => intro v; rfl
  | succ n ih => intro v; simp [leBytes, ih]

/-- A number read from its own little-endian bytes, modulo their width (R6). -/
theorem leNat_leBytes : ∀ (n v : Nat), leNat (leBytes n v) = v % 256 ^ n := by
  intro n
  induction n with
  | zero => intro v; simp [leNat, leBytes, Nat.mod_one]
  | succ n ih =>
    intro v
    simp only [leBytes, leNat, ih, BitVec.toNat_ofNat]
    have h : (256 : Nat) ^ (n + 1) = 256 * 256 ^ n := Nat.pow_succ'
    rw [h, Nat.mod_mul]

/-- What a reading of the entries leaves alone, where every entry is changed by `f`. -/
theorem Tab.get_map {α β : Type} (d : α) (f : α → α) (g : α → β) (h : ∀ x, g (f x) = g x) (t : List (Nat × α)) (k : Nat) :
    g (Tab.get d (t.map fun p => (p.1, f p.2)) k) = g (Tab.get d t k) := by
  induction t with
  | nil => rfl
  | cons p t ih =>
    simp only [Tab.get, Sparse.get, List.map_cons] at ih ⊢
    split
    · exact h _
    · exact ih

/-- A number that is put into a set is in it. -/
theorem NatSet.mem_insert_self (l : List Nat) (k : Nat) : k ∈ NatSet.insert l k := by
  induction l with
  | nil => simp [NatSet.insert]
  | cons a t ih =>
    rw [NatSet.insert]
    split
    · simp
    · split
      · rename_i h; simp [h]
      · simp [ih]

end Sys2Proof.Machine
end

