-- ==== Sys2Proof/Laws/State.lean ====
section
/-! SUPPORT. One lemma per field of the state per update of Ops.lean: an update of a context, a core, a die or a launch leaves
every other field alone; and what a table update reads back. -/

namespace Sys2Proof.Machine

/-! ## setCtx -/

@[simp] theorem setCtx_active (s : State) (c : Nat) (x : Ctx) : (setCtx s c x).active = s.active := rfl
@[simp] theorem setCtx_args (s : State) (c : Nat) (x : Ctx) : (setCtx s c x).args = s.args := rfl
@[simp] theorem setCtx_sched (s : State) (c : Nat) (x : Ctx) : (setCtx s c x).sched = s.sched := rfl
@[simp] theorem setCtx_free (s : State) (c : Nat) (x : Ctx) : (setCtx s c x).free = s.free := rfl
@[simp] theorem setCtx_count (s : State) (c : Nat) (x : Ctx) : (setCtx s c x).count = s.count := rfl
@[simp] theorem setCtx_cycles (s : State) (c : Nat) (x : Ctx) : (setCtx s c x).cycles = s.cycles := rfl
@[simp] theorem setCtx_cores (s : State) (c : Nat) (x : Ctx) : (setCtx s c x).cores = s.cores := rfl
@[simp] theorem setCtx_dies (s : State) (c : Nat) (x : Ctx) : (setCtx s c x).dies = s.dies := rfl
@[simp] theorem setCtx_feat (s : State) (c : Nat) (x : Ctx) : (setCtx s c x).feat = s.feat := rfl
@[simp] theorem setCtx_stepB (s : State) (c : Nat) (x : Ctx) : (setCtx s c x).stepB = s.stepB := rfl
@[simp] theorem setCtx_node (s : State) (c : Nat) (x : Ctx) : (setCtx s c x).node = s.node := rfl
@[simp] theorem setCtx_nodes (s : State) (c : Nat) (x : Ctx) : (setCtx s c x).nodes = s.nodes := rfl
@[simp] theorem setCtx_unreach (s : State) (c : Nat) (x : Ctx) : (setCtx s c x).unreach = s.unreach := rfl
@[simp] theorem setCtx_mem (s : State) (c : Nat) (x : Ctx) : (setCtx s c x).mem = s.mem := rfl
@[simp] theorem setCtx_memBad (s : State) (c : Nat) (x : Ctx) : (setCtx s c x).memBad = s.memBad := rfl
@[simp] theorem setCtx_lags (s : State) (c : Nat) (x : Ctx) : (setCtx s c x).lags = s.lags := rfl
@[simp] theorem setCtx_cxl (s : State) (c : Nat) (x : Ctx) : (setCtx s c x).cxl = s.cxl := rfl
@[simp] theorem setCtx_hbm (s : State) (c : Nat) (x : Ctx) : (setCtx s c x).hbm = s.hbm := rfl
@[simp] theorem setCtx_peers (s : State) (c : Nat) (x : Ctx) : (setCtx s c x).peers = s.peers := rfl
@[simp] theorem setCtx_ports (s : State) (c : Nat) (x : Ctx) : (setCtx s c x).ports = s.ports := rfl
@[simp] theorem setCtx_retired (s : State) (c : Nat) (x : Ctx) : (setCtx s c x).retired = s.retired := rfl
@[simp] theorem setCtx_spaces (s : State) (c : Nat) (x : Ctx) : (setCtx s c x).spaces = s.spaces := rfl
@[simp] theorem setCtx_migs (s : State) (c : Nat) (x : Ctx) : (setCtx s c x).migs = s.migs := rfl
@[simp] theorem setCtx_sems (s : State) (c : Nat) (x : Ctx) : (setCtx s c x).sems = s.sems := rfl
@[simp] theorem setCtx_classes (s : State) (c : Nat) (x : Ctx) : (setCtx s c x).classes = s.classes := rfl
@[simp] theorem setCtx_transit (s : State) (c : Nat) (x : Ctx) : (setCtx s c x).transit = s.transit := rfl
@[simp] theorem setCtx_semOps (s : State) (c : Nat) (x : Ctx) : (setCtx s c x).semOps = s.semOps := rfl
@[simp] theorem setCtx_xfers (s : State) (c : Nat) (x : Ctx) : (setCtx s c x).xfers = s.xfers := rfl
@[simp] theorem setCtx_conts (s : State) (c : Nat) (x : Ctx) : (setCtx s c x).conts = s.conts := rfl
@[simp] theorem setCtx_moves (s : State) (c : Nat) (x : Ctx) : (setCtx s c x).moves = s.moves := rfl
@[simp] theorem setCtx_msgs (s : State) (c : Nat) (x : Ctx) : (setCtx s c x).msgs = s.msgs := rfl
@[simp] theorem setCtx_regions (s : State) (c : Nat) (x : Ctx) : (setCtx s c x).regions = s.regions := rfl
@[simp] theorem setCtx_parts (s : State) (c : Nat) (x : Ctx) : (setCtx s c x).parts = s.parts := rfl
@[simp] theorem setCtx_images (s : State) (c : Nat) (x : Ctx) : (setCtx s c x).images = s.images := rfl
@[simp] theorem setCtx_loaded (s : State) (c : Nat) (x : Ctx) : (setCtx s c x).loaded = s.loaded := rfl
@[simp] theorem setCtx_launches (s : State) (c : Nat) (x : Ctx) : (setCtx s c x).launches = s.launches := rfl
@[simp] theorem setCtx_nlaunch (s : State) (c : Nat) (x : Ctx) : (setCtx s c x).nlaunch = s.nlaunch := rfl
@[simp] theorem setCtx_saves (s : State) (c : Nat) (x : Ctx) : (setCtx s c x).saves = s.saves := rfl
@[simp] theorem setCtx_host (s : State) (c : Nat) (x : Ctx) : (setCtx s c x).host = s.host := rfl
@[simp] theorem setCtx_funcs (s : State) (c : Nat) (x : Ctx) : (setCtx s c x).funcs = s.funcs := rfl
@[simp] theorem setCtx_queues (s : State) (c : Nat) (x : Ctx) : (setCtx s c x).queues = s.queues := rfl
@[simp] theorem setCtx_fw (s : State) (c : Nat) (x : Ctx) : (setCtx s c x).fw = s.fw := rfl
@[simp] theorem setCtx_spdm (s : State) (c : Nat) (x : Ctx) : (setCtx s c x).spdm = s.spdm := rfl
@[simp] theorem setCtx_power (s : State) (c : Nat) (x : Ctx) : (setCtx s c x).power = s.power := rfl

/-! ## setCore -/

@[simp] theorem setCore_active (s : State) (k : Nat) (x : Core) : (setCore s k x).active = s.active := rfl
@[simp] theorem setCore_args (s : State) (k : Nat) (x : Core) : (setCore s k x).args = s.args := rfl
@[simp] theorem setCore_sched (s : State) (k : Nat) (x : Core) : (setCore s k x).sched = s.sched := rfl
@[simp] theorem setCore_free (s : State) (k : Nat) (x : Core) : (setCore s k x).free = s.free := rfl
@[simp] theorem setCore_count (s : State) (k : Nat) (x : Core) : (setCore s k x).count = s.count := rfl
@[simp] theorem setCore_cycles (s : State) (k : Nat) (x : Core) : (setCore s k x).cycles = s.cycles := rfl
@[simp] theorem setCore_ctxs (s : State) (k : Nat) (x : Core) : (setCore s k x).ctxs = s.ctxs := rfl
@[simp] theorem setCore_dies (s : State) (k : Nat) (x : Core) : (setCore s k x).dies = s.dies := rfl
@[simp] theorem setCore_feat (s : State) (k : Nat) (x : Core) : (setCore s k x).feat = s.feat := rfl
@[simp] theorem setCore_stepB (s : State) (k : Nat) (x : Core) : (setCore s k x).stepB = s.stepB := rfl
@[simp] theorem setCore_node (s : State) (k : Nat) (x : Core) : (setCore s k x).node = s.node := rfl
@[simp] theorem setCore_nodes (s : State) (k : Nat) (x : Core) : (setCore s k x).nodes = s.nodes := rfl
@[simp] theorem setCore_unreach (s : State) (k : Nat) (x : Core) : (setCore s k x).unreach = s.unreach := rfl
@[simp] theorem setCore_mem (s : State) (k : Nat) (x : Core) : (setCore s k x).mem = s.mem := rfl
@[simp] theorem setCore_memBad (s : State) (k : Nat) (x : Core) : (setCore s k x).memBad = s.memBad := rfl
@[simp] theorem setCore_lags (s : State) (k : Nat) (x : Core) : (setCore s k x).lags = s.lags := rfl
@[simp] theorem setCore_cxl (s : State) (k : Nat) (x : Core) : (setCore s k x).cxl = s.cxl := rfl
@[simp] theorem setCore_hbm (s : State) (k : Nat) (x : Core) : (setCore s k x).hbm = s.hbm := rfl
@[simp] theorem setCore_peers (s : State) (k : Nat) (x : Core) : (setCore s k x).peers = s.peers := rfl
@[simp] theorem setCore_ports (s : State) (k : Nat) (x : Core) : (setCore s k x).ports = s.ports := rfl
@[simp] theorem setCore_retired (s : State) (k : Nat) (x : Core) : (setCore s k x).retired = s.retired := rfl
@[simp] theorem setCore_spaces (s : State) (k : Nat) (x : Core) : (setCore s k x).spaces = s.spaces := rfl
@[simp] theorem setCore_migs (s : State) (k : Nat) (x : Core) : (setCore s k x).migs = s.migs := rfl
@[simp] theorem setCore_sems (s : State) (k : Nat) (x : Core) : (setCore s k x).sems = s.sems := rfl
@[simp] theorem setCore_classes (s : State) (k : Nat) (x : Core) : (setCore s k x).classes = s.classes := rfl
@[simp] theorem setCore_transit (s : State) (k : Nat) (x : Core) : (setCore s k x).transit = s.transit := rfl
@[simp] theorem setCore_semOps (s : State) (k : Nat) (x : Core) : (setCore s k x).semOps = s.semOps := rfl
@[simp] theorem setCore_xfers (s : State) (k : Nat) (x : Core) : (setCore s k x).xfers = s.xfers := rfl
@[simp] theorem setCore_conts (s : State) (k : Nat) (x : Core) : (setCore s k x).conts = s.conts := rfl
@[simp] theorem setCore_moves (s : State) (k : Nat) (x : Core) : (setCore s k x).moves = s.moves := rfl
@[simp] theorem setCore_msgs (s : State) (k : Nat) (x : Core) : (setCore s k x).msgs = s.msgs := rfl
@[simp] theorem setCore_regions (s : State) (k : Nat) (x : Core) : (setCore s k x).regions = s.regions := rfl
@[simp] theorem setCore_parts (s : State) (k : Nat) (x : Core) : (setCore s k x).parts = s.parts := rfl
@[simp] theorem setCore_images (s : State) (k : Nat) (x : Core) : (setCore s k x).images = s.images := rfl
@[simp] theorem setCore_loaded (s : State) (k : Nat) (x : Core) : (setCore s k x).loaded = s.loaded := rfl
@[simp] theorem setCore_launches (s : State) (k : Nat) (x : Core) : (setCore s k x).launches = s.launches := rfl
@[simp] theorem setCore_nlaunch (s : State) (k : Nat) (x : Core) : (setCore s k x).nlaunch = s.nlaunch := rfl
@[simp] theorem setCore_saves (s : State) (k : Nat) (x : Core) : (setCore s k x).saves = s.saves := rfl
@[simp] theorem setCore_host (s : State) (k : Nat) (x : Core) : (setCore s k x).host = s.host := rfl
@[simp] theorem setCore_funcs (s : State) (k : Nat) (x : Core) : (setCore s k x).funcs = s.funcs := rfl
@[simp] theorem setCore_queues (s : State) (k : Nat) (x : Core) : (setCore s k x).queues = s.queues := rfl
@[simp] theorem setCore_fw (s : State) (k : Nat) (x : Core) : (setCore s k x).fw = s.fw := rfl
@[simp] theorem setCore_spdm (s : State) (k : Nat) (x : Core) : (setCore s k x).spdm = s.spdm := rfl
@[simp] theorem setCore_power (s : State) (k : Nat) (x : Core) : (setCore s k x).power = s.power := rfl

/-! ## setDie -/

@[simp] theorem setDie_active (s : State) (d : Nat) (x : Die) : (setDie s d x).active = s.active := rfl
@[simp] theorem setDie_args (s : State) (d : Nat) (x : Die) : (setDie s d x).args = s.args := rfl
@[simp] theorem setDie_sched (s : State) (d : Nat) (x : Die) : (setDie s d x).sched = s.sched := rfl
@[simp] theorem setDie_free (s : State) (d : Nat) (x : Die) : (setDie s d x).free = s.free := rfl
@[simp] theorem setDie_count (s : State) (d : Nat) (x : Die) : (setDie s d x).count = s.count := rfl
@[simp] theorem setDie_cycles (s : State) (d : Nat) (x : Die) : (setDie s d x).cycles = s.cycles := rfl
@[simp] theorem setDie_ctxs (s : State) (d : Nat) (x : Die) : (setDie s d x).ctxs = s.ctxs := rfl
@[simp] theorem setDie_cores (s : State) (d : Nat) (x : Die) : (setDie s d x).cores = s.cores := rfl
@[simp] theorem setDie_feat (s : State) (d : Nat) (x : Die) : (setDie s d x).feat = s.feat := rfl
@[simp] theorem setDie_stepB (s : State) (d : Nat) (x : Die) : (setDie s d x).stepB = s.stepB := rfl
@[simp] theorem setDie_node (s : State) (d : Nat) (x : Die) : (setDie s d x).node = s.node := rfl
@[simp] theorem setDie_nodes (s : State) (d : Nat) (x : Die) : (setDie s d x).nodes = s.nodes := rfl
@[simp] theorem setDie_unreach (s : State) (d : Nat) (x : Die) : (setDie s d x).unreach = s.unreach := rfl
@[simp] theorem setDie_mem (s : State) (d : Nat) (x : Die) : (setDie s d x).mem = s.mem := rfl
@[simp] theorem setDie_memBad (s : State) (d : Nat) (x : Die) : (setDie s d x).memBad = s.memBad := rfl
@[simp] theorem setDie_lags (s : State) (d : Nat) (x : Die) : (setDie s d x).lags = s.lags := rfl
@[simp] theorem setDie_cxl (s : State) (d : Nat) (x : Die) : (setDie s d x).cxl = s.cxl := rfl
@[simp] theorem setDie_hbm (s : State) (d : Nat) (x : Die) : (setDie s d x).hbm = s.hbm := rfl
@[simp] theorem setDie_peers (s : State) (d : Nat) (x : Die) : (setDie s d x).peers = s.peers := rfl
@[simp] theorem setDie_ports (s : State) (d : Nat) (x : Die) : (setDie s d x).ports = s.ports := rfl
@[simp] theorem setDie_retired (s : State) (d : Nat) (x : Die) : (setDie s d x).retired = s.retired := rfl
@[simp] theorem setDie_spaces (s : State) (d : Nat) (x : Die) : (setDie s d x).spaces = s.spaces := rfl
@[simp] theorem setDie_migs (s : State) (d : Nat) (x : Die) : (setDie s d x).migs = s.migs := rfl
@[simp] theorem setDie_sems (s : State) (d : Nat) (x : Die) : (setDie s d x).sems = s.sems := rfl
@[simp] theorem setDie_classes (s : State) (d : Nat) (x : Die) : (setDie s d x).classes = s.classes := rfl
@[simp] theorem setDie_transit (s : State) (d : Nat) (x : Die) : (setDie s d x).transit = s.transit := rfl
@[simp] theorem setDie_semOps (s : State) (d : Nat) (x : Die) : (setDie s d x).semOps = s.semOps := rfl
@[simp] theorem setDie_xfers (s : State) (d : Nat) (x : Die) : (setDie s d x).xfers = s.xfers := rfl
@[simp] theorem setDie_conts (s : State) (d : Nat) (x : Die) : (setDie s d x).conts = s.conts := rfl
@[simp] theorem setDie_moves (s : State) (d : Nat) (x : Die) : (setDie s d x).moves = s.moves := rfl
@[simp] theorem setDie_msgs (s : State) (d : Nat) (x : Die) : (setDie s d x).msgs = s.msgs := rfl
@[simp] theorem setDie_regions (s : State) (d : Nat) (x : Die) : (setDie s d x).regions = s.regions := rfl
@[simp] theorem setDie_parts (s : State) (d : Nat) (x : Die) : (setDie s d x).parts = s.parts := rfl
@[simp] theorem setDie_images (s : State) (d : Nat) (x : Die) : (setDie s d x).images = s.images := rfl
@[simp] theorem setDie_loaded (s : State) (d : Nat) (x : Die) : (setDie s d x).loaded = s.loaded := rfl
@[simp] theorem setDie_launches (s : State) (d : Nat) (x : Die) : (setDie s d x).launches = s.launches := rfl
@[simp] theorem setDie_nlaunch (s : State) (d : Nat) (x : Die) : (setDie s d x).nlaunch = s.nlaunch := rfl
@[simp] theorem setDie_saves (s : State) (d : Nat) (x : Die) : (setDie s d x).saves = s.saves := rfl
@[simp] theorem setDie_host (s : State) (d : Nat) (x : Die) : (setDie s d x).host = s.host := rfl
@[simp] theorem setDie_funcs (s : State) (d : Nat) (x : Die) : (setDie s d x).funcs = s.funcs := rfl
@[simp] theorem setDie_queues (s : State) (d : Nat) (x : Die) : (setDie s d x).queues = s.queues := rfl
@[simp] theorem setDie_fw (s : State) (d : Nat) (x : Die) : (setDie s d x).fw = s.fw := rfl
@[simp] theorem setDie_spdm (s : State) (d : Nat) (x : Die) : (setDie s d x).spdm = s.spdm := rfl
@[simp] theorem setDie_power (s : State) (d : Nat) (x : Die) : (setDie s d x).power = s.power := rfl

/-! ## setLaunch -/

@[simp] theorem setLaunch_active (s : State) (l : Nat) (x : Launch) : (setLaunch s l x).active = s.active := rfl
@[simp] theorem setLaunch_args (s : State) (l : Nat) (x : Launch) : (setLaunch s l x).args = s.args := rfl
@[simp] theorem setLaunch_sched (s : State) (l : Nat) (x : Launch) : (setLaunch s l x).sched = s.sched := rfl
@[simp] theorem setLaunch_free (s : State) (l : Nat) (x : Launch) : (setLaunch s l x).free = s.free := rfl
@[simp] theorem setLaunch_count (s : State) (l : Nat) (x : Launch) : (setLaunch s l x).count = s.count := rfl
@[simp] theorem setLaunch_cycles (s : State) (l : Nat) (x : Launch) : (setLaunch s l x).cycles = s.cycles := rfl
@[simp] theorem setLaunch_ctxs (s : State) (l : Nat) (x : Launch) : (setLaunch s l x).ctxs = s.ctxs := rfl
@[simp] theorem setLaunch_cores (s : State) (l : Nat) (x : Launch) : (setLaunch s l x).cores = s.cores := rfl
@[simp] theorem setLaunch_dies (s : State) (l : Nat) (x : Launch) : (setLaunch s l x).dies = s.dies := rfl
@[simp] theorem setLaunch_feat (s : State) (l : Nat) (x : Launch) : (setLaunch s l x).feat = s.feat := rfl
@[simp] theorem setLaunch_stepB (s : State) (l : Nat) (x : Launch) : (setLaunch s l x).stepB = s.stepB := rfl
@[simp] theorem setLaunch_node (s : State) (l : Nat) (x : Launch) : (setLaunch s l x).node = s.node := rfl
@[simp] theorem setLaunch_nodes (s : State) (l : Nat) (x : Launch) : (setLaunch s l x).nodes = s.nodes := rfl
@[simp] theorem setLaunch_unreach (s : State) (l : Nat) (x : Launch) : (setLaunch s l x).unreach = s.unreach := rfl
@[simp] theorem setLaunch_mem (s : State) (l : Nat) (x : Launch) : (setLaunch s l x).mem = s.mem := rfl
@[simp] theorem setLaunch_memBad (s : State) (l : Nat) (x : Launch) : (setLaunch s l x).memBad = s.memBad := rfl
@[simp] theorem setLaunch_lags (s : State) (l : Nat) (x : Launch) : (setLaunch s l x).lags = s.lags := rfl
@[simp] theorem setLaunch_cxl (s : State) (l : Nat) (x : Launch) : (setLaunch s l x).cxl = s.cxl := rfl
@[simp] theorem setLaunch_hbm (s : State) (l : Nat) (x : Launch) : (setLaunch s l x).hbm = s.hbm := rfl
@[simp] theorem setLaunch_peers (s : State) (l : Nat) (x : Launch) : (setLaunch s l x).peers = s.peers := rfl
@[simp] theorem setLaunch_ports (s : State) (l : Nat) (x : Launch) : (setLaunch s l x).ports = s.ports := rfl
@[simp] theorem setLaunch_retired (s : State) (l : Nat) (x : Launch) : (setLaunch s l x).retired = s.retired := rfl
@[simp] theorem setLaunch_spaces (s : State) (l : Nat) (x : Launch) : (setLaunch s l x).spaces = s.spaces := rfl
@[simp] theorem setLaunch_migs (s : State) (l : Nat) (x : Launch) : (setLaunch s l x).migs = s.migs := rfl
@[simp] theorem setLaunch_sems (s : State) (l : Nat) (x : Launch) : (setLaunch s l x).sems = s.sems := rfl
@[simp] theorem setLaunch_classes (s : State) (l : Nat) (x : Launch) : (setLaunch s l x).classes = s.classes := rfl
@[simp] theorem setLaunch_transit (s : State) (l : Nat) (x : Launch) : (setLaunch s l x).transit = s.transit := rfl
@[simp] theorem setLaunch_semOps (s : State) (l : Nat) (x : Launch) : (setLaunch s l x).semOps = s.semOps := rfl
@[simp] theorem setLaunch_xfers (s : State) (l : Nat) (x : Launch) : (setLaunch s l x).xfers = s.xfers := rfl
@[simp] theorem setLaunch_conts (s : State) (l : Nat) (x : Launch) : (setLaunch s l x).conts = s.conts := rfl
@[simp] theorem setLaunch_moves (s : State) (l : Nat) (x : Launch) : (setLaunch s l x).moves = s.moves := rfl
@[simp] theorem setLaunch_msgs (s : State) (l : Nat) (x : Launch) : (setLaunch s l x).msgs = s.msgs := rfl
@[simp] theorem setLaunch_regions (s : State) (l : Nat) (x : Launch) : (setLaunch s l x).regions = s.regions := rfl
@[simp] theorem setLaunch_parts (s : State) (l : Nat) (x : Launch) : (setLaunch s l x).parts = s.parts := rfl
@[simp] theorem setLaunch_images (s : State) (l : Nat) (x : Launch) : (setLaunch s l x).images = s.images := rfl
@[simp] theorem setLaunch_loaded (s : State) (l : Nat) (x : Launch) : (setLaunch s l x).loaded = s.loaded := rfl
@[simp] theorem setLaunch_nlaunch (s : State) (l : Nat) (x : Launch) : (setLaunch s l x).nlaunch = s.nlaunch := rfl
@[simp] theorem setLaunch_saves (s : State) (l : Nat) (x : Launch) : (setLaunch s l x).saves = s.saves := rfl
@[simp] theorem setLaunch_host (s : State) (l : Nat) (x : Launch) : (setLaunch s l x).host = s.host := rfl
@[simp] theorem setLaunch_funcs (s : State) (l : Nat) (x : Launch) : (setLaunch s l x).funcs = s.funcs := rfl
@[simp] theorem setLaunch_queues (s : State) (l : Nat) (x : Launch) : (setLaunch s l x).queues = s.queues := rfl
@[simp] theorem setLaunch_fw (s : State) (l : Nat) (x : Launch) : (setLaunch s l x).fw = s.fw := rfl
@[simp] theorem setLaunch_spdm (s : State) (l : Nat) (x : Launch) : (setLaunch s l x).spdm = s.spdm := rfl
@[simp] theorem setLaunch_power (s : State) (l : Nat) (x : Launch) : (setLaunch s l x).power = s.power := rfl

/-! ## Updates by a function -/

@[simp] theorem modCtx_eq (s : State) (c : Nat) (f : Ctx → Ctx) : modCtx s c f = setCtx s c (f (ctxOf s c)) := rfl
@[simp] theorem modCore_eq (s : State) (k : Nat) (f : Core → Core) : modCore s k f = setCore s k (f (coreOf s k)) := rfl
@[simp] theorem modDie_eq (s : State) (d : Nat) (f : Die → Die) : modDie s d f = setDie s d (f (dieOf s d)) := rfl

/-! ## modLaunch -/

@[simp] theorem modLaunch_active (s : State) (l : Nat) (f : Launch → Launch) : (modLaunch s l f).active = s.active := by
  unfold modLaunch; split <;> rfl
@[simp] theorem modLaunch_args (s : State) (l : Nat) (f : Launch → Launch) : (modLaunch s l f).args = s.args := by
  unfold modLaunch; split <;> rfl
@[simp] theorem modLaunch_sched (s : State) (l : Nat) (f : Launch → Launch) : (modLaunch s l f).sched = s.sched := by
  unfold modLaunch; split <;> rfl
@[simp] theorem modLaunch_free (s : State) (l : Nat) (f : Launch → Launch) : (modLaunch s l f).free = s.free := by
  unfold modLaunch; split <;> rfl
@[simp] theorem modLaunch_count (s : State) (l : Nat) (f : Launch → Launch) : (modLaunch s l f).count = s.count := by
  unfold modLaunch; split <;> rfl
@[simp] theorem modLaunch_cycles (s : State) (l : Nat) (f : Launch → Launch) : (modLaunch s l f).cycles = s.cycles := by
  unfold modLaunch; split <;> rfl
@[simp] theorem modLaunch_ctxs (s : State) (l : Nat) (f : Launch → Launch) : (modLaunch s l f).ctxs = s.ctxs := by
  unfold modLaunch; split <;> rfl
@[simp] theorem modLaunch_cores (s : State) (l : Nat) (f : Launch → Launch) : (modLaunch s l f).cores = s.cores := by
  unfold modLaunch; split <;> rfl
@[simp] theorem modLaunch_dies (s : State) (l : Nat) (f : Launch → Launch) : (modLaunch s l f).dies = s.dies := by
  unfold modLaunch; split <;> rfl
@[simp] theorem modLaunch_feat (s : State) (l : Nat) (f : Launch → Launch) : (modLaunch s l f).feat = s.feat := by
  unfold modLaunch; split <;> rfl
@[simp] theorem modLaunch_stepB (s : State) (l : Nat) (f : Launch → Launch) : (modLaunch s l f).stepB = s.stepB := by
  unfold modLaunch; split <;> rfl
@[simp] theorem modLaunch_node (s : State) (l : Nat) (f : Launch → Launch) : (modLaunch s l f).node = s.node := by
  unfold modLaunch; split <;> rfl
@[simp] theorem modLaunch_nodes (s : State) (l : Nat) (f : Launch → Launch) : (modLaunch s l f).nodes = s.nodes := by
  unfold modLaunch; split <;> rfl
@[simp] theorem modLaunch_unreach (s : State) (l : Nat) (f : Launch → Launch) : (modLaunch s l f).unreach = s.unreach := by
  unfold modLaunch; split <;> rfl
@[simp] theorem modLaunch_mem (s : State) (l : Nat) (f : Launch → Launch) : (modLaunch s l f).mem = s.mem := by
  unfold modLaunch; split <;> rfl
@[simp] theorem modLaunch_memBad (s : State) (l : Nat) (f : Launch → Launch) : (modLaunch s l f).memBad = s.memBad := by
  unfold modLaunch; split <;> rfl
@[simp] theorem modLaunch_lags (s : State) (l : Nat) (f : Launch → Launch) : (modLaunch s l f).lags = s.lags := by
  unfold modLaunch; split <;> rfl
@[simp] theorem modLaunch_cxl (s : State) (l : Nat) (f : Launch → Launch) : (modLaunch s l f).cxl = s.cxl := by
  unfold modLaunch; split <;> rfl
@[simp] theorem modLaunch_hbm (s : State) (l : Nat) (f : Launch → Launch) : (modLaunch s l f).hbm = s.hbm := by
  unfold modLaunch; split <;> rfl
@[simp] theorem modLaunch_peers (s : State) (l : Nat) (f : Launch → Launch) : (modLaunch s l f).peers = s.peers := by
  unfold modLaunch; split <;> rfl
@[simp] theorem modLaunch_ports (s : State) (l : Nat) (f : Launch → Launch) : (modLaunch s l f).ports = s.ports := by
  unfold modLaunch; split <;> rfl
@[simp] theorem modLaunch_retired (s : State) (l : Nat) (f : Launch → Launch) : (modLaunch s l f).retired = s.retired := by
  unfold modLaunch; split <;> rfl
@[simp] theorem modLaunch_spaces (s : State) (l : Nat) (f : Launch → Launch) : (modLaunch s l f).spaces = s.spaces := by
  unfold modLaunch; split <;> rfl
@[simp] theorem modLaunch_migs (s : State) (l : Nat) (f : Launch → Launch) : (modLaunch s l f).migs = s.migs := by
  unfold modLaunch; split <;> rfl
@[simp] theorem modLaunch_sems (s : State) (l : Nat) (f : Launch → Launch) : (modLaunch s l f).sems = s.sems := by
  unfold modLaunch; split <;> rfl
@[simp] theorem modLaunch_classes (s : State) (l : Nat) (f : Launch → Launch) : (modLaunch s l f).classes = s.classes := by
  unfold modLaunch; split <;> rfl
@[simp] theorem modLaunch_transit (s : State) (l : Nat) (f : Launch → Launch) : (modLaunch s l f).transit = s.transit := by
  unfold modLaunch; split <;> rfl
@[simp] theorem modLaunch_semOps (s : State) (l : Nat) (f : Launch → Launch) : (modLaunch s l f).semOps = s.semOps := by
  unfold modLaunch; split <;> rfl
@[simp] theorem modLaunch_xfers (s : State) (l : Nat) (f : Launch → Launch) : (modLaunch s l f).xfers = s.xfers := by
  unfold modLaunch; split <;> rfl
@[simp] theorem modLaunch_conts (s : State) (l : Nat) (f : Launch → Launch) : (modLaunch s l f).conts = s.conts := by
  unfold modLaunch; split <;> rfl
@[simp] theorem modLaunch_moves (s : State) (l : Nat) (f : Launch → Launch) : (modLaunch s l f).moves = s.moves := by
  unfold modLaunch; split <;> rfl
@[simp] theorem modLaunch_msgs (s : State) (l : Nat) (f : Launch → Launch) : (modLaunch s l f).msgs = s.msgs := by
  unfold modLaunch; split <;> rfl
@[simp] theorem modLaunch_regions (s : State) (l : Nat) (f : Launch → Launch) : (modLaunch s l f).regions = s.regions := by
  unfold modLaunch; split <;> rfl
@[simp] theorem modLaunch_parts (s : State) (l : Nat) (f : Launch → Launch) : (modLaunch s l f).parts = s.parts := by
  unfold modLaunch; split <;> rfl
@[simp] theorem modLaunch_images (s : State) (l : Nat) (f : Launch → Launch) : (modLaunch s l f).images = s.images := by
  unfold modLaunch; split <;> rfl
@[simp] theorem modLaunch_loaded (s : State) (l : Nat) (f : Launch → Launch) : (modLaunch s l f).loaded = s.loaded := by
  unfold modLaunch; split <;> rfl
@[simp] theorem modLaunch_nlaunch (s : State) (l : Nat) (f : Launch → Launch) : (modLaunch s l f).nlaunch = s.nlaunch := by
  unfold modLaunch; split <;> rfl
@[simp] theorem modLaunch_saves (s : State) (l : Nat) (f : Launch → Launch) : (modLaunch s l f).saves = s.saves := by
  unfold modLaunch; split <;> rfl
@[simp] theorem modLaunch_host (s : State) (l : Nat) (f : Launch → Launch) : (modLaunch s l f).host = s.host := by
  unfold modLaunch; split <;> rfl
@[simp] theorem modLaunch_funcs (s : State) (l : Nat) (f : Launch → Launch) : (modLaunch s l f).funcs = s.funcs := by
  unfold modLaunch; split <;> rfl
@[simp] theorem modLaunch_queues (s : State) (l : Nat) (f : Launch → Launch) : (modLaunch s l f).queues = s.queues := by
  unfold modLaunch; split <;> rfl
@[simp] theorem modLaunch_fw (s : State) (l : Nat) (f : Launch → Launch) : (modLaunch s l f).fw = s.fw := by
  unfold modLaunch; split <;> rfl
@[simp] theorem modLaunch_spdm (s : State) (l : Nat) (f : Launch → Launch) : (modLaunch s l f).spdm = s.spdm := by
  unfold modLaunch; split <;> rfl
@[simp] theorem modLaunch_power (s : State) (l : Nat) (f : Launch → Launch) : (modLaunch s l f).power = s.power := by
  unfold modLaunch; split <;> rfl

/-! ## modRegion -/

@[simp] theorem modRegion_active (s : State) (r : Nat) (f : Region → Region) : (modRegion s r f).active = s.active := by
  unfold modRegion; split <;> rfl
@[simp] theorem modRegion_args (s : State) (r : Nat) (f : Region → Region) : (modRegion s r f).args = s.args := by
  unfold modRegion; split <;> rfl
@[simp] theorem modRegion_sched (s : State) (r : Nat) (f : Region → Region) : (modRegion s r f).sched = s.sched := by
  unfold modRegion; split <;> rfl
@[simp] theorem modRegion_free (s : State) (r : Nat) (f : Region → Region) : (modRegion s r f).free = s.free := by
  unfold modRegion; split <;> rfl
@[simp] theorem modRegion_count (s : State) (r : Nat) (f : Region → Region) : (modRegion s r f).count = s.count := by
  unfold modRegion; split <;> rfl
@[simp] theorem modRegion_cycles (s : State) (r : Nat) (f : Region → Region) : (modRegion s r f).cycles = s.cycles := by
  unfold modRegion; split <;> rfl
@[simp] theorem modRegion_ctxs (s : State) (r : Nat) (f : Region → Region) : (modRegion s r f).ctxs = s.ctxs := by
  unfold modRegion; split <;> rfl
@[simp] theorem modRegion_cores (s : State) (r : Nat) (f : Region → Region) : (modRegion s r f).cores = s.cores := by
  unfold modRegion; split <;> rfl
@[simp] theorem modRegion_dies (s : State) (r : Nat) (f : Region → Region) : (modRegion s r f).dies = s.dies := by
  unfold modRegion; split <;> rfl
@[simp] theorem modRegion_feat (s : State) (r : Nat) (f : Region → Region) : (modRegion s r f).feat = s.feat := by
  unfold modRegion; split <;> rfl
@[simp] theorem modRegion_stepB (s : State) (r : Nat) (f : Region → Region) : (modRegion s r f).stepB = s.stepB := by
  unfold modRegion; split <;> rfl
@[simp] theorem modRegion_node (s : State) (r : Nat) (f : Region → Region) : (modRegion s r f).node = s.node := by
  unfold modRegion; split <;> rfl
@[simp] theorem modRegion_nodes (s : State) (r : Nat) (f : Region → Region) : (modRegion s r f).nodes = s.nodes := by
  unfold modRegion; split <;> rfl
@[simp] theorem modRegion_unreach (s : State) (r : Nat) (f : Region → Region) : (modRegion s r f).unreach = s.unreach := by
  unfold modRegion; split <;> rfl
@[simp] theorem modRegion_mem (s : State) (r : Nat) (f : Region → Region) : (modRegion s r f).mem = s.mem := by
  unfold modRegion; split <;> rfl
@[simp] theorem modRegion_memBad (s : State) (r : Nat) (f : Region → Region) : (modRegion s r f).memBad = s.memBad := by
  unfold modRegion; split <;> rfl
@[simp] theorem modRegion_lags (s : State) (r : Nat) (f : Region → Region) : (modRegion s r f).lags = s.lags := by
  unfold modRegion; split <;> rfl
@[simp] theorem modRegion_cxl (s : State) (r : Nat) (f : Region → Region) : (modRegion s r f).cxl = s.cxl := by
  unfold modRegion; split <;> rfl
@[simp] theorem modRegion_hbm (s : State) (r : Nat) (f : Region → Region) : (modRegion s r f).hbm = s.hbm := by
  unfold modRegion; split <;> rfl
@[simp] theorem modRegion_peers (s : State) (r : Nat) (f : Region → Region) : (modRegion s r f).peers = s.peers := by
  unfold modRegion; split <;> rfl
@[simp] theorem modRegion_ports (s : State) (r : Nat) (f : Region → Region) : (modRegion s r f).ports = s.ports := by
  unfold modRegion; split <;> rfl
@[simp] theorem modRegion_retired (s : State) (r : Nat) (f : Region → Region) : (modRegion s r f).retired = s.retired := by
  unfold modRegion; split <;> rfl
@[simp] theorem modRegion_spaces (s : State) (r : Nat) (f : Region → Region) : (modRegion s r f).spaces = s.spaces := by
  unfold modRegion; split <;> rfl
@[simp] theorem modRegion_migs (s : State) (r : Nat) (f : Region → Region) : (modRegion s r f).migs = s.migs := by
  unfold modRegion; split <;> rfl
@[simp] theorem modRegion_sems (s : State) (r : Nat) (f : Region → Region) : (modRegion s r f).sems = s.sems := by
  unfold modRegion; split <;> rfl
@[simp] theorem modRegion_classes (s : State) (r : Nat) (f : Region → Region) : (modRegion s r f).classes = s.classes := by
  unfold modRegion; split <;> rfl
@[simp] theorem modRegion_transit (s : State) (r : Nat) (f : Region → Region) : (modRegion s r f).transit = s.transit := by
  unfold modRegion; split <;> rfl
@[simp] theorem modRegion_semOps (s : State) (r : Nat) (f : Region → Region) : (modRegion s r f).semOps = s.semOps := by
  unfold modRegion; split <;> rfl
@[simp] theorem modRegion_xfers (s : State) (r : Nat) (f : Region → Region) : (modRegion s r f).xfers = s.xfers := by
  unfold modRegion; split <;> rfl
@[simp] theorem modRegion_conts (s : State) (r : Nat) (f : Region → Region) : (modRegion s r f).conts = s.conts := by
  unfold modRegion; split <;> rfl
@[simp] theorem modRegion_moves (s : State) (r : Nat) (f : Region → Region) : (modRegion s r f).moves = s.moves := by
  unfold modRegion; split <;> rfl
@[simp] theorem modRegion_msgs (s : State) (r : Nat) (f : Region → Region) : (modRegion s r f).msgs = s.msgs := by
  unfold modRegion; split <;> rfl
@[simp] theorem modRegion_parts (s : State) (r : Nat) (f : Region → Region) : (modRegion s r f).parts = s.parts := by
  unfold modRegion; split <;> rfl
@[simp] theorem modRegion_images (s : State) (r : Nat) (f : Region → Region) : (modRegion s r f).images = s.images := by
  unfold modRegion; split <;> rfl
@[simp] theorem modRegion_loaded (s : State) (r : Nat) (f : Region → Region) : (modRegion s r f).loaded = s.loaded := by
  unfold modRegion; split <;> rfl
@[simp] theorem modRegion_launches (s : State) (r : Nat) (f : Region → Region) : (modRegion s r f).launches = s.launches := by
  unfold modRegion; split <;> rfl
@[simp] theorem modRegion_nlaunch (s : State) (r : Nat) (f : Region → Region) : (modRegion s r f).nlaunch = s.nlaunch := by
  unfold modRegion; split <;> rfl
@[simp] theorem modRegion_saves (s : State) (r : Nat) (f : Region → Region) : (modRegion s r f).saves = s.saves := by
  unfold modRegion; split <;> rfl
@[simp] theorem modRegion_host (s : State) (r : Nat) (f : Region → Region) : (modRegion s r f).host = s.host := by
  unfold modRegion; split <;> rfl
@[simp] theorem modRegion_funcs (s : State) (r : Nat) (f : Region → Region) : (modRegion s r f).funcs = s.funcs := by
  unfold modRegion; split <;> rfl
@[simp] theorem modRegion_queues (s : State) (r : Nat) (f : Region → Region) : (modRegion s r f).queues = s.queues := by
  unfold modRegion; split <;> rfl
@[simp] theorem modRegion_fw (s : State) (r : Nat) (f : Region → Region) : (modRegion s r f).fw = s.fw := by
  unfold modRegion; split <;> rfl
@[simp] theorem modRegion_spdm (s : State) (r : Nat) (f : Region → Region) : (modRegion s r f).spdm = s.spdm := by
  unfold modRegion; split <;> rfl
@[simp] theorem modRegion_power (s : State) (r : Nat) (f : Region → Region) : (modRegion s r f).power = s.power := by
  unfold modRegion; split <;> rfl

/-! ## Reading back -/

@[simp] theorem ctxOf_setCtx_same (s : State) (c : Nat) (x : Ctx) : ctxOf (setCtx s c x) c = x := Tab.get_put_same _ _ _ _
theorem ctxOf_setCtx_ne (s : State) {c d : Nat} (x : Ctx) (h : d ≠ c) : ctxOf (setCtx s c x) d = ctxOf s d := Tab.get_put_ne _ _ _ h
theorem ctxOf_setCtx (s : State) (c d : Nat) (x : Ctx) : ctxOf (setCtx s c x) d = if d = c then x else ctxOf s d := Tab.get_put _ _ _ _ _
@[simp] theorem ctxOf_setCore (s : State) (k : Nat) (x : Core) (c : Nat) : ctxOf (setCore s k x) c = ctxOf s c := rfl
@[simp] theorem ctxOf_setDie (s : State) (d : Nat) (x : Die) (c : Nat) : ctxOf (setDie s d x) c = ctxOf s c := rfl
@[simp] theorem ctxOf_setLaunch (s : State) (l : Nat) (x : Launch) (c : Nat) : ctxOf (setLaunch s l x) c = ctxOf s c := rfl

@[simp] theorem coreOf_setCore_same (s : State) (k : Nat) (x : Core) : coreOf (setCore s k x) k = x := Tab.get_put_same _ _ _ _
theorem coreOf_setCore_ne (s : State) {k j : Nat} (x : Core) (h : j ≠ k) : coreOf (setCore s k x) j = coreOf s j := Tab.get_put_ne _ _ _ h
theorem coreOf_setCore (s : State) (k j : Nat) (x : Core) : coreOf (setCore s k x) j = if j = k then x else coreOf s j := Tab.get_put _ _ _ _ _
@[simp] theorem coreOf_setCtx (s : State) (c : Nat) (x : Ctx) (k : Nat) : coreOf (setCtx s c x) k = coreOf s k := rfl
@[simp] theorem coreOf_setDie (s : State) (d : Nat) (x : Die) (k : Nat) : coreOf (setDie s d x) k = coreOf s k := rfl
@[simp] theorem coreOf_setLaunch (s : State) (l : Nat) (x : Launch) (k : Nat) : coreOf (setLaunch s l x) k = coreOf s k := rfl

@[simp] theorem dieOf_setDie_same (s : State) (d : Nat) (x : Die) : dieOf (setDie s d x) d = x := Tab.get_put_same _ _ _ _
theorem dieOf_setDie_ne (s : State) {d j : Nat} (x : Die) (h : j ≠ d) : dieOf (setDie s d x) j = dieOf s j := Tab.get_put_ne _ _ _ h
theorem dieOf_setDie (s : State) (d j : Nat) (x : Die) : dieOf (setDie s d x) j = if j = d then x else dieOf s j := Tab.get_put _ _ _ _ _
@[simp] theorem dieOf_setCtx (s : State) (c : Nat) (x : Ctx) (d : Nat) : dieOf (setCtx s c x) d = dieOf s d := rfl
@[simp] theorem dieOf_setCore (s : State) (k : Nat) (x : Core) (d : Nat) : dieOf (setCore s k x) d = dieOf s d := rfl
@[simp] theorem dieOf_setLaunch (s : State) (l : Nat) (x : Launch) (d : Nat) : dieOf (setLaunch s l x) d = dieOf s d := rfl

@[simp] theorem launchOf_setLaunch_same (s : State) (l : Nat) (x : Launch) : launchOf (setLaunch s l x) l = some x := Tab.find_put_same _ _ _
theorem launchOf_setLaunch_ne (s : State) {l j : Nat} (x : Launch) (h : j ≠ l) : launchOf (setLaunch s l x) j = launchOf s j :=
  Tab.find_put_ne _ _ h
@[simp] theorem launchOf_setCtx (s : State) (c : Nat) (x : Ctx) (l : Nat) : launchOf (setCtx s c x) l = launchOf s l := rfl
@[simp] theorem launchOf_setCore (s : State) (k : Nat) (x : Core) (l : Nat) : launchOf (setCore s k x) l = launchOf s l := rfl
@[simp] theorem launchOf_setDie (s : State) (d : Nat) (x : Die) (l : Nat) : launchOf (setDie s d x) l = launchOf s l := rfl

@[simp] theorem setCtx_setCtx (s : State) (c : Nat) (x y : Ctx) : setCtx (setCtx s c x) c y = setCtx s c y := by
  simp [setCtx]
@[simp] theorem setCore_setCore (s : State) (k : Nat) (x y : Core) : setCore (setCore s k x) k y = setCore s k y := by
  simp [setCore]

/-! ## Ports and results -/

@[simp] theorem latchOf_setLatch_same (l : Latches) (u : FU) (x : Latch) : latchOf (setLatch l u x) u = x := by
  simp [latchOf, setLatch]

theorem FU.idx_inj {u v : FU} (h : FU.idx u = FU.idx v) : u = v := by
  cases u <;> cases v <;> first | rfl | (revert h; decide)

theorem latchOf_setLatch_ne (l : Latches) {u v : FU} (x : Latch) (h : v ≠ u) : latchOf (setLatch l u x) v = latchOf l v := by
  have h' : (FU.idx u).val ≠ (FU.idx v).val := fun e => h (FU.idx_inj (Fin.ext e)).symm
  simp [latchOf, setLatch, h']

/-- A fold keeps what each of its steps keeps. -/
theorem foldl_keeps {α β γ : Type} (p : β → γ) (g : β → α → β) (l : List α) (s : β) (h : ∀ b a, p (g b a) = p b) :
    p (l.foldl g s) = p s := by
  induction l generalizing s with
  | nil => rfl
  | cons a l ih => simp only [List.foldl_cons]; rw [ih, h]

/-! ## What the region table alone decides (R332 to R334) -/

theorem rcbWord_congr {s t : State} (h : t.regions = s.regions) (r n : Nat) : rcbWord t r n = rcbWord s r n := by
  simp only [rcbWord, regionOf, h]

theorem parentOf_congr {s t : State} (h : t.regions = s.regions) (r : Nat) : parentOf t r = parentOf s r := by
  simp only [parentOf, rcbWord_congr h]

theorem partOf_congr {s t : State} (h : t.regions = s.regions) (r : Nat) : partOf t r = partOf s r := by
  simp only [partOf, rcbWord_congr h]

theorem lineage_congr {s t : State} (h : t.regions = s.regions) (n r : Nat) : lineage t n r = lineage s n r := by
  induction n generalizing r with
  | zero => rfl
  | succ n ih => simp only [lineage, h, parentOf_congr h, ih]

theorem ancestors_congr {s t : State} (h : t.regions = s.regions) (r : Nat) : ancestors t r = ancestors s r := by
  simp only [ancestors, h, lineage_congr h]

theorem fieldRegion_congr {s t : State} (h : t.regions = s.regions) (r b : Nat) : fieldRegion t r b = fieldRegion s r b := by
  simp only [fieldRegion, ancestors_congr h, rcbWord_congr h]

theorem budgetRegion_congr {s t : State} (h : t.regions = s.regions) (r w : Nat) : budgetRegion t r w = budgetRegion s r w := by
  simp only [budgetRegion, ancestors_congr h, rcbWord_congr h]

theorem capRankOf_congr {s t : State} (h : t.regions = s.regions) (r : Nat) : capRankOf t r = capRankOf s r := by
  simp only [capRankOf, rcbWord_congr h, fieldRegion_congr h]

theorem fdomOf_congr {s t : State} (h : t.regions = s.regions) (r : Nat) : fdomOf t r = fdomOf s r := by
  simp only [fdomOf, rcbWord_congr h, fieldRegion_congr h]

end Sys2Proof.Machine
end

