-- ==== Sys2Proof/Laws/Trigger.lean ====
section
/-! SUPPORT. What the mould of triggers can do, what a step of a bundle runs, and what a precise trap starts from. -/

namespace Sys2Proof.Machine

theorem current_eq {s : State} {c : Nat} {x : Ctx} {f : Frame} (ha : s.active = some c) (hx : ctxOf s c = x)
    (hf : x.frame = some f) : current s = some (c, x, f) := by
  subst hx; simp [current, ha, hf]

/-- Whose bundle is carried out, read back from `current`. -/
theorem current_some {s : State} {c : Nat} {x : Ctx} {f : Frame} (h : current s = some (c, x, f)) :
    s.active = some c ∧ ctxOf s c = x ∧ x.frame = some f := by
  unfold current at h
  split at h
  · cases h
  · next d hd =>
    split at h
    · next g hg => cases h; exact ⟨hd, rfl, hg⟩
    · cases h

/-- A trigger that acts (R50, R162, R163): its guard holds, its checks pass, this is not the pass of the checks. -/
theorem trigger_acts {s : State} {m : Mv} {u : FU} {sock : BitVec 12} {chk : Check} {act : State → Nat → Opnds → State}
    {c : Nat} {x : Ctx} {f : Frame} (hc : current s = some (c, x, f)) (hg : guardHolds f.regs m.guard = true)
    (hd : f.dry = false) (hk : chk s c (opndsAt x f m u) = none) :
    trigger s m u sock chk act = .next (act (latchA s c u (opndsAt x f m u).a) c (opndsAt x f m u)) := by
  simp [trigger, hc, hg, hd, hk]

/-- A trigger whose check fails takes that trap precisely, in the pass of the checks and in the acting pass (R163). -/
theorem trigger_traps {s : State} {m : Mv} {u : FU} {sock : BitVec 12} {chk : Check} {act : State → Nat → Opnds → State}
    {c : Nat} {x : Ctx} {f : Frame} {t : Trap} (hc : current s = some (c, x, f)) (hg : guardHolds f.regs m.guard = true)
    (hk : chk s c (opndsAt x f m u) = some t) :
    trigger s m u sock chk act = .next (preciseTrap s c { code := t, sock := sock.toNat, slot := f.cur }) := by
  simp [trigger, hc, hg, hk]

/-- A trigger whose guard is false changes nothing (R50). -/
theorem trigger_unguarded {s : State} {m : Mv} {u : FU} {sock : BitVec 12} {chk : Check}
    {act : State → Nat → Opnds → State} {c : Nat} {x : Ctx} {f : Frame} (hc : current s = some (c, x, f))
    (hg : guardHolds f.regs m.guard = false) : trigger s m u sock chk act = .next s := by
  simp [trigger, hc, hg]

/-- The pass of the checks changes nothing where they pass. -/
theorem trigger_dry {s : State} {m : Mv} {u : FU} {sock : BitVec 12} {chk : Check} {act : State → Nat → Opnds → State}
    {c : Nat} {x : Ctx} {f : Frame} (hc : current s = some (c, x, f)) (hg : guardHolds f.regs m.guard = true)
    (hd : f.dry = true) (hk : chk s c (opndsAt x f m u) = none) : trigger s m u sock chk act = .next s := by
  simp [trigger, hc, hg, hd, hk]

/-- Everything a trigger can do: it always answers a next state, which is the state unchanged, a precise trap, or the
operation's own effect after the `.a` latch. -/
theorem trigger_cases (s : State) (m : Mv) (u : FU) (sock : BitVec 12) (chk : Check) (act : State → Nat → Opnds → State) :
    trigger s m u sock chk act = .next s ∨
    (∃ c x f t, current s = some (c, x, f) ∧ guardHolds f.regs m.guard = true ∧ chk s c (opndsAt x f m u) = some t ∧
      trigger s m u sock chk act = .next (preciseTrap s c { code := t, sock := sock.toNat, slot := f.cur })) ∨
    (∃ c x f, current s = some (c, x, f) ∧ guardHolds f.regs m.guard = true ∧ f.dry = false ∧
      chk s c (opndsAt x f m u) = none ∧
      trigger s m u sock chk act = .next (act (latchA s c u (opndsAt x f m u).a) c (opndsAt x f m u))) := by
  cases hc : current s with
  | none => left; simp [trigger, hc]
  | some p =>
    obtain ⟨c, x, f⟩ := p
    cases hg : guardHolds f.regs m.guard with
    | false => left; exact trigger_unguarded hc hg
    | true =>
      cases hk : chk s c (opndsAt x f m u) with
      | some t => right; left; exact ⟨c, x, f, t, rfl, hg, hk, trigger_traps hc hg hk⟩
      | none =>
        cases hd : f.dry with
        | true => left; exact trigger_dry hc hg hd hk
        | false => right; right; exact ⟨c, x, f, rfl, hg, hd, hk, trigger_acts hc hg hd hk⟩

@[simp] theorem latchA_active (s : State) (c : Nat) (u : FU) (a : Val) : (latchA s c u a).active = s.active := rfl

@[simp] theorem ctxOf_latchA (s : State) (c : Nat) (u : FU) (a : Val) :
    ctxOf (latchA s c u a) c = { ctxOf s c with lat := setLatch (ctxOf s c).lat u { latchOf (ctxOf s c).lat u with a := a } } := by
  simp [latchA]

theorem ctxOf_latchA_ne (s : State) {c d : Nat} (u : FU) (a : Val) (h : d ≠ c) : ctxOf (latchA s c u a) d = ctxOf s d := by
  simp [latchA, ctxOf_setCtx_ne _ _ h]

/-! ## A step of a bundle -/

/-- A step that acts in a slot runs the instruction decoded from the slot's word. -/
theorem step_slot {s : State} {c n : Nat} {f : Frame} {ts : List Todo} {i : Instr} (ha : s.active = some c)
    (hf : (ctxOf s c).frame = some f) (ht : f.todo = .slot n :: ts) (hd : decodeSlot (f.slots.getD n 0) n = .ok i) :
    step s = exec i (withFrame s c { f with todo := ts, cur := n, dry := false }) := by
  simp only [step, ha, runActive, hf, ht, runTodo, runSlot, hd]

/-- A step of the pass of the checks. -/
theorem step_check {s : State} {c n : Nat} {f : Frame} {ts : List Todo} {i : Instr} (ha : s.active = some c)
    (hf : (ctxOf s c).frame = some f) (ht : f.todo = .check n :: ts) (hd : decodeSlot (f.slots.getD n 0) n = .ok i) :
    step s = exec i (withFrame s c { f with todo := ts, cur := n, dry := true }) := by
  simp only [step, ha, runActive, hf, ht, runTodo, runSlot, hd]

/-- A step at the span action of a bundle. -/
theorem step_span {s : State} {c : Nat} {f : Frame} {ts : List Todo} {i : Instr} (ha : s.active = some c)
    (hf : (ctxOf s c).frame = some f) (ht : f.todo = .span :: ts) (hd : decodeSpan f.header = some i) :
    step s = exec i (withFrame s c { f with todo := ts }) := by
  simp [step, ha, runActive, hf, ht, runTodo, runHeader, hd]

/-- A step at the end of a bundle. -/
theorem step_end {s : State} {c : Nat} {f : Frame} (ha : s.active = some c) (hf : (ctxOf s c).frame = some f)
    (ht : f.todo = []) : step s = .next (endBundle s c) := by
  simp [step, ha, runActive, hf, ht]

/-- A step that runs what is scheduled. -/
theorem step_sched {s : State} {e : Event} {es : List Event} (ha : s.active = none) (hs : s.sched = e :: es) :
    step s = exec e.what { latchSticky { s with sched := es } with args := e.args } := by
  simp [step, ha, hs, runScheduled, runEvent]

/-- A step at the slot of a TRAP or TRET, behind the bundle. -/
theorem step_last {s : State} {c n : Nat} {f : Frame} {ts : List Todo} {i : Instr} (ha : s.active = some c)
    (hf : (ctxOf s c).frame = some f) (ht : f.todo = .last n :: ts) (hd : decodeSlot (f.slots.getD n 0) n = .ok i) :
    step s = exec i (withFrame s c { f with todo := ts, cur := n, dry := false }) := by
  simp only [step, ha, runActive, hf, ht, runTodo, runSlot, hd]

/-- A step at the SEG mark of a bundle. -/
theorem step_seg {s : State} {c : Nat} {f : Frame} {ts : List Todo} {i : Instr} (ha : s.active = some c)
    (hf : (ctxOf s c).frame = some f) (ht : f.todo = .seg :: ts) (hd : decodeSeg f.header = some i) :
    step s = exec i (withFrame s c { f with todo := ts }) := by
  simp [step, ha, runActive, hf, ht, runTodo, runHeader, hd]

/-- A step at an event that the bundle brings. -/
theorem step_event {s : State} {c : Nat} {f : Frame} {ts : List Todo} {e : Event} (ha : s.active = some c)
    (hf : (ctxOf s c).frame = some f) (ht : f.todo = .event e :: ts) :
    step s = exec e.what { withFrame s c { f with todo := ts } with args := e.args } := by
  simp [step, ha, runActive, hf, ht, runTodo, runEvent]

/-- What latching the clock limits leaves: all but the partitions (R429). -/
theorem latchSticky_frame (s : State) : latchSticky s = { s with parts := (latchSticky s).parts } := rfl

/-- A step that runs one of the events that may come next. -/
theorem step_choose {s : State} {e : Event} (ha : s.active = none) (hs : s.sched = [])
    (he : (enabled (latchSticky s))[Config.freeChoice s.free % ((enabled (latchSticky s)).length + 1)]? = some e) :
    step s = exec e.what { latchSticky s with free := s.free + 1, args := e.args } := by
  have hf : (latchSticky s).free = s.free := rfl
  simp only [step, ha, hs, chooseEvent, nextFree, runEvent, hf, he]

end Sys2Proof.Machine
end

