-- ==== Sys2Proof/Laws/Frames.lean ====
section
/-! SUPPORT. What the shared operations keep: the stores of the machine (memories, tags, semaphore entries, spaces, queues,
control blocks), through every change of a context, a core's queues, a launch or a region's budgets, through rollback and through
taking a trap. -/

namespace Sys2Proof.Machine

/-- The stores of `s` and `t` are the same. -/
structure Kept (s t : State) : Prop where
  mem : t.mem = s.mem
  memBad : t.memBad = s.memBad
  host : t.host = s.host
  sems : t.sems = s.sems
  classes : t.classes = s.classes
  transit : t.transit = s.transit
  spaces : t.spaces = s.spaces
  queues : t.queues = s.queues
  funcs : t.funcs = s.funcs
  images : t.images = s.images
  fw : t.fw = s.fw
  power : t.power = s.power
  spad : ∀ k, (coreOf t k).spad = (coreOf s k).spad ∧ (coreOf t k).empty = (coreOf s k).empty
  ws : ∀ d, (dieOf t d).ws = (dieOf s d).ws
  rcb : ∀ r, (Tab.find t.regions r).map (·.rcb) = (Tab.find s.regions r).map (·.rcb)

theorem Kept.refl (s : State) : Kept s s :=
  ⟨rfl, rfl, rfl, rfl, rfl, rfl, rfl, rfl, rfl, rfl, rfl, rfl, fun _ => ⟨rfl, rfl⟩, fun _ => rfl, fun _ => rfl⟩

theorem Kept.trans {s t u : State} (h : Kept s t) (g : Kept t u) : Kept s u :=
  ⟨g.mem.trans h.mem, g.memBad.trans h.memBad, g.host.trans h.host, g.sems.trans h.sems, g.classes.trans h.classes,
   g.transit.trans h.transit, g.spaces.trans h.spaces, g.queues.trans h.queues, g.funcs.trans h.funcs, g.images.trans h.images,
   g.fw.trans h.fw, g.power.trans h.power, fun k => ⟨(g.spad k).1.trans (h.spad k).1, (g.spad k).2.trans (h.spad k).2⟩,
   fun d => (g.ws d).trans (h.ws d), fun r => (g.rcb r).trans (h.rcb r)⟩

theorem Kept.foldl {α : Type} {g : State → α → State} (h : ∀ s a, Kept s (g s a)) (l : List α) (s : State) :
    Kept s (l.foldl g s) := by
  induction l generalizing s with
  | nil => exact Kept.refl s
  | cons a l ih => exact (h s a).trans (ih _)

theorem kept_setCtx (s : State) (c : Nat) (x : Ctx) : Kept s (setCtx s c x) :=
  ⟨rfl, rfl, rfl, rfl, rfl, rfl, rfl, rfl, rfl, rfl, rfl, rfl, fun _ => ⟨rfl, rfl⟩, fun _ => rfl, fun _ => rfl⟩

theorem kept_modCtx (s : State) (c : Nat) (f : Ctx → Ctx) : Kept s (modCtx s c f) := kept_setCtx s c _

theorem kept_setLaunch (s : State) (l : Nat) (x : Launch) : Kept s (setLaunch s l x) :=
  ⟨rfl, rfl, rfl, rfl, rfl, rfl, rfl, rfl, rfl, rfl, rfl, rfl, fun _ => ⟨rfl, rfl⟩, fun _ => rfl, fun _ => rfl⟩

theorem kept_modLaunch (s : State) (l : Nat) (f : Launch → Launch) : Kept s (modLaunch s l f) := by
  unfold modLaunch
  split
  · exact kept_setLaunch s l _
  · exact Kept.refl s

theorem kept_active (s : State) (a : Option Nat) : Kept s { s with active := a } :=
  ⟨rfl, rfl, rfl, rfl, rfl, rfl, rfl, rfl, rfl, rfl, rfl, rfl, fun _ => ⟨rfl, rfl⟩, fun _ => rfl, fun _ => rfl⟩

theorem kept_count (s : State) (n : Nat) : Kept s { s with count := n } :=
  ⟨rfl, rfl, rfl, rfl, rfl, rfl, rfl, rfl, rfl, rfl, rfl, rfl, fun _ => ⟨rfl, rfl⟩, fun _ => rfl, fun _ => rfl⟩

/-- A change of the semaphore operations on their way, and of every die that leaves its weight store. -/
theorem kept_opsDies (s : State) (l : List SemOp) (f : Die → Die) (h : ∀ x, (f x).ws = x.ws) :
    Kept s { s with semOps := l, dies := s.dies.map fun d => (d.1, f d.2) } :=
  ⟨rfl, rfl, rfl, rfl, rfl, rfl, rfl, rfl, rfl, rfl, rfl, rfl, fun _ => ⟨rfl, rfl⟩, fun d => Tab.get_map _ f (·.ws) h s.dies d, fun _ => rfl⟩

/-- A change of a core that leaves its banks and tags. -/
theorem kept_setCore (s : State) (k : Nat) (x : Core) (h1 : x.spad = (coreOf s k).spad) (h2 : x.empty = (coreOf s k).empty) :
    Kept s (setCore s k x) := by
  refine ⟨rfl, rfl, rfl, rfl, rfl, rfl, rfl, rfl, rfl, rfl, rfl, rfl, fun j => ?_, fun _ => rfl, fun _ => rfl⟩
  rw [coreOf_setCore]
  split
  · next h => subst h; exact ⟨h1, h2⟩
  · exact ⟨rfl, rfl⟩

theorem kept_modCore (s : State) (k : Nat) (f : Core → Core) (h1 : ∀ x, (f x).spad = x.spad) (h2 : ∀ x, (f x).empty = x.empty) :
    Kept s (modCore s k f) := kept_setCore s k _ (h1 _) (h2 _)

/-- A change of a die that leaves its weight store. -/
theorem kept_modDie (s : State) (d : Nat) (f : Die → Die) (h : ∀ x, (f x).ws = x.ws) : Kept s (modDie s d f) := by
  refine ⟨rfl, rfl, rfl, rfl, rfl, rfl, rfl, rfl, rfl, rfl, rfl, rfl, fun _ => ⟨rfl, rfl⟩, fun j => ?_, fun _ => rfl⟩
  rw [modDie, dieOf_setDie]
  split
  · next e => subst e; exact h _
  · rfl

/-- A change of a region that leaves its control block. -/
theorem kept_modRegion (s : State) (r : Nat) (f : Region → Region) (h : ∀ x, (f x).rcb = x.rcb) : Kept s (modRegion s r f) := by
  unfold modRegion
  split
  · next x hx =>
    refine ⟨rfl, rfl, rfl, rfl, rfl, rfl, rfl, rfl, rfl, rfl, rfl, rfl, fun _ => ⟨rfl, rfl⟩, fun _ => rfl, fun j => ?_⟩
    by_cases e : j = r
    · subst e; simp [hx, h]
    · simp [Tab.find_put_ne _ _ e]
  · exact Kept.refl s

theorem kept_freeSeed (s : State) (r : Nat) : Kept s (freeSeed s r) := kept_modRegion s _ _ fun _ => rfl

theorem kept_killCtx (s : State) (c : Nat) : Kept s (killCtx s c) := by
  unfold killCtx
  dsimp only
  split
  · exact Kept.refl s
  · split
    · exact Kept.refl s
    · refine Kept.trans ?_ (kept_active _ _)
      refine Kept.trans ?_ (kept_modCore _ _ _ (fun _ => rfl) (fun _ => rfl))
      refine Kept.trans ?_ (kept_modCtx _ _ _)
      split
      · exact (kept_modLaunch _ _ _).trans (kept_freeSeed _ _)
      · exact kept_modLaunch _ _ _

theorem kept_killLaunch (s : State) (l : Nat) : Kept s (killLaunch s l) := by
  unfold killLaunch
  split
  · exact Kept.refl s
  · dsimp only
    split
    · exact Kept.refl s
    · refine (Kept.foldl (fun t c => ?_) _ _).trans (kept_modLaunch _ _ _)
      split
      · exact kept_killCtx t c
      · exact Kept.refl t

theorem kept_faultDomain (s : State) (r l : Nat) (c : Option Nat) : Kept s (faultDomain s r l c) := by
  unfold faultDomain
  dsimp only
  split
  · split
    · refine Kept.trans ?_ (kept_modCtx _ _ _)
      split
      · exact kept_active _ _
      · exact Kept.refl s
    · exact Kept.refl s
  · exact kept_killLaunch s l
  · exact Kept.foldl (fun t (p : Nat × Launch) => kept_killLaunch t p.1) _ _

theorem kept_escalate (s : State) (c : Nat) (t : TrapInfo) (pc : Nat) (rolled late span halt : Bool) (from_ : Option Nat) :
    Kept s (escalate s c t pc rolled late span halt from_) := by
  unfold escalate
  split
  · exact Kept.refl s
  · exact (kept_modLaunch _ _ _).trans (kept_faultDomain _ _ _ _)

theorem kept_undoSwaps (s : State) (c : Nat) (now was : Vector Nat 4) : Kept s (undoSwaps s c now was) := by
  unfold undoSwaps
  refine Kept.foldl (fun t n => ?_) _ _
  dsimp only
  split
  · split
    · exact kept_modCore _ _ _ (fun _ => rfl) (fun _ => rfl)
    · exact kept_modCore _ _ _ (fun _ => rfl) (fun _ => rfl)
  · exact Kept.refl t

/-- A rollback keeps every store (R100). -/
theorem kept_rollback (s : State) (c : Nat) : Kept s (rollback s c) := by
  unfold rollback
  dsimp only
  split
  · exact Kept.refl s
  · refine Kept.trans ?_ (kept_active _ _)
    refine Kept.trans ?_ (kept_setCtx _ _ _)
    refine Kept.trans ?_ (kept_opsDies _ _ (dropJobs c _) fun _ => rfl)
    refine Kept.trans ?_ (kept_undoSwaps _ _ _ _)
    exact kept_modCore _ _ _ (fun _ => rfl) (fun _ => rfl)

theorem kept_rolled (s : State) (c : Nat) (p : Prop) [Decidable p] : Kept s (if p then rollback s c else s) := by
  split
  · exact kept_rollback s c
  · exact Kept.refl s

theorem kept_dropArms (s : State) (c k : Nat) (p : RrotArm → Bool) :
    Kept s (modCore s k fun x => dropDemand c { x with rrot := x.rrot.filter p }) :=
  kept_modCore _ _ _ (fun _ => rfl) (fun _ => rfl)

/-- Taking a trap keeps every store (R394, R399). -/
theorem kept_enterTrap (s : State) (c : Nat) (t : TrapInfo) (pc : Nat) (span : SpanCode) (halt : Option D64) (from_ : Option Nat) :
    Kept s (enterTrap s c t pc span halt from_) := by
  unfold enterTrap
  extract_lets x late
  split
  · exact kept_escalate _ _ _ _ _ _ _ _ _
  · split
    · exact kept_escalate _ _ _ _ _ _ _ _ _
    · split
      · exact kept_escalate _ _ _ _ _ _ _ _ _
      · split
        · exact (kept_rolled s c _).trans (kept_escalate _ _ _ _ _ _ _ _ _)
        · refine Kept.trans ?_ (kept_active _ _)
          refine Kept.trans ?_ (kept_setCtx _ _ _)
          refine Kept.trans ?_ (kept_dropArms _ c _ _)
          exact kept_rolled s c _

theorem kept_preciseTrap (s : State) (c : Nat) (t : TrapInfo) : Kept s (preciseTrap s c t) := by
  unfold preciseTrap
  dsimp only
  split
  · exact kept_enterTrap _ _ _ _ _ _ _
  · exact ((kept_setCtx _ _ _).trans (kept_active _ _)).trans (kept_enterTrap _ _ _ _ _ _ _)

/-- A trigger keeps every store that what it does keeps (R50, R163). -/
theorem kept_trigger {s t : State} {m : Mv} {u : FU} {sock : BitVec 12} {chk : Check} {act : State → Nat → Opnds → State}
    (ha : ∀ s c o, Kept s (act s c o)) (h : trigger s m u sock chk act = .next t) : Kept s t := by
  rcases trigger_cases s m u sock chk act with e | ⟨c, x, f, k, -, -, -, e⟩ | ⟨c, x, f, -, -, -, -, e⟩
  · rw [e] at h; cases h; exact Kept.refl s
  · rw [e] at h; cases h; exact kept_preciseTrap _ _ _
  · rw [e] at h; cases h; exact (kept_modCtx _ _ _).trans (ha _ _ _)

end Sys2Proof.Machine
end

