-- ==== Sys2Proof/Laws/Scalar.lean ====
section
/-! SUPPORT. What the moulds of the scalar units deliver when they act, and the arithmetic of R165 to R172 in exact integers. -/

namespace Sys2Proof.Machine

theorem Acts.current {s : State} {m : Mv} {c : Nat} {x : Ctx} {f : Frame} (h : Acts s m c x f) :
    current s = some (c, x, f) := current_eq h.active h.ctx h.frame

/-- A trigger that acts and passes its checks (R163). -/
theorem Acts.run {s : State} {m : Mv} {c : Nat} {x : Ctx} {f : Frame} (h : Acts s m c x f) {u : FU} {sock : BitVec 12}
    {chk : Check} {act : State → Nat → Opnds → State} (hk : chk s c (opndsAt x f m u) = none) :
    trigger s m u sock chk act = .next (act (setCtx s c (latched x u (opndsAt x f m u).a)) c (opndsAt x f m u)) := by
  rw [trigger_acts h.current h.guard h.acting hk]
  simp [latchA, latched, h.ctx]

/-- A trigger that acts and fails a check (R163). -/
theorem Acts.trap {s : State} {m : Mv} {c : Nat} {x : Ctx} {f : Frame} (h : Acts s m c x f) {u : FU} {sock : BitVec 12}
    {chk : Check} {act : State → Nat → Opnds → State} {t : Trap} (hk : chk s c (opndsAt x f m u) = some t) :
    trigger s m u sock chk act = .next (preciseTrap s c { code := t, sock := sock.toNat, slot := f.cur }) :=
  trigger_traps h.current h.guard hk

/-- A result started from a latched context (R118). -/
theorem addResult_latched (x : Ctx) (u : FU) (a : Val) (n : Nat) (r : Option (Val × Val)) (st : Option D64) (fl : FlagSet)
    (ln : List (Nat × FlagSet)) (e : Bool) :
    addResult (latched x u a) u n r st fl ln e = started x u a n r st fl ln e := rfl

@[simp] theorem latched_sys (x : Ctx) (u : FU) (a : Val) : (latched x u a).sys = x.sys := rfl
@[simp] theorem latched_frame (x : Ctx) (u : FU) (a : Val) : (latched x u a).frame = x.frame := rfl
@[simp] theorem latched_regs (x : Ctx) (u : FU) (a : Val) : (latched x u a).regs = x.regs := rfl
@[simp] theorem latched_link (x : Ctx) (u : FU) (a : Val) : (latched x u a).link = x.link := rfl
@[simp] theorem latched_loops (x : Ctx) (u : FU) (a : Val) : (latched x u a).loops = x.loops := rfl
@[simp] theorem latched_infl (x : Ctx) (u : FU) (a : Val) : (latched x u a).infl = x.infl := rfl
@[simp] theorem latched_seq (x : Ctx) (u : FU) (a : Val) : (latched x u a).seq = x.seq := rfl
@[simp] theorem latched_lsc (x : Ctx) (u : FU) (a : Val) : (latched x u a).lsc = x.lsc := rfl
@[simp] theorem latched_launch (x : Ctx) (u : FU) (a : Val) : (latched x u a).launch = x.launch := rfl
@[simp] theorem latched_ls (x : Ctx) (u : FU) (a : Val) : (latched x u a).ls = x.ls := rfl
@[simp] theorem latched_handler (x : Ctx) (u : FU) (a : Val) : (latched x u a).handler = x.handler := rfl

/-- The status word of the scalar units as a number (R164). -/
theorem aluStatus_eq (v c : Bool) (r : D64) :
    aluStatus v c r = BitVec.ofNat 64 (8 * v.toNat + 4 * c.toNat + 2 * r.msb.toNat + (r == 0).toNat) := by
  unfold aluStatus
  cases v <;> cases c <;> cases r.msb <;> cases (r == 0) <;> rfl

/-- A signed sum or difference wraps exactly where it does not fit (R165). -/
theorem toInt_ofInt_ne (v : Int) : ((BitVec.ofInt 64 v).toInt ≠ v) ↔ (v < -(2 ^ 63) ∨ 2 ^ 63 ≤ v) := by
  rw [BitVec.toInt_ofInt]
  constructor
  · intro h
    by_contra hc
    push Not at hc
    exact h (Int.bmod_eq_of_le (by norm_num; omega) (by norm_num; omega))
  · intro h e
    have h1 := Int.le_bmod (x := v) (m := 2 ^ 64) (by norm_num)
    have h2 := Int.bmod_lt (x := v) (m := 2 ^ 64) (by norm_num)
    rw [e] at h1 h2
    norm_num at h1 h2
    omega

theorem toNat_lt64 (a : D64) : a.toNat < 2 ^ 64 := a.isLt

theorem shamt_eq (b : D64) : shamt b = b.toNat % 64 := by
  simp [shamt, BitVec.extractLsb'_toNat]

end Sys2Proof.Machine
end

