-- ==== Sys2Proof/Laws/Vec.lean ====
section
/-! SUPPORT. Lanes: what a packed value holds in each lane, and what the moulds of the vector unit deliver lane by lane. -/

namespace Sys2Proof.Machine

theorem pack_lt (w : Nat) (l : List Nat) : pack w l < 2 ^ (w * l.length) := by
  induction l with
  | nil => simp [pack]
  | cons x xs ih =>
    simp only [pack, List.length_cons, Nat.mul_succ, Nat.pow_add]
    have h1 : x % 2 ^ w < 2 ^ w := Nat.mod_lt _ (Nat.two_pow_pos w)
    have h2 : 2 ^ w * pack w xs + 2 ^ w ≤ 2 ^ w * 2 ^ (w * xs.length) := by
      rw [← Nat.mul_succ]; exact Nat.mul_le_mul_left _ ih
    rw [Nat.mul_comm (2 ^ (w * xs.length))]
    omega

/-- Lane `i` of packed lanes. -/
theorem lane_pack (w : Nat) (l : List Nat) (i : Nat) : lane w (pack w l) i = l.getD i 0 % 2 ^ w := by
  induction l generalizing i with
  | nil => simp [pack, lane]
  | cons x xs ih =>
    cases i with
    | zero => simp [lane, pack, Nat.add_mul_mod_self_left]
    | succ i =>
      have h1 : x % 2 ^ w < 2 ^ w := Nat.mod_lt _ (Nat.two_pow_pos w)
      have := ih i
      simp only [lane, pack] at this ⊢
      rw [Nat.succ_mul, Nat.pow_add, Nat.mul_comm (2 ^ (i * w)), ← Nat.div_div_eq_div_mul,
        Nat.add_mul_div_left _ _ (Nat.two_pow_pos w), Nat.div_eq_of_lt h1, Nat.zero_add, this]
      simp

/-- A packed value that fits keeps its lanes as a class V value. -/
theorem lane_ofNat_pack (w : Nat) (l : List Nat) (h : w * l.length ≤ 4096) (i : Nat) :
    lane w (BitVec.ofNat 4096 (pack w l)).toNat i = l.getD i 0 % 2 ^ w := by
  rw [BitVec.toNat_ofNat, Nat.mod_eq_of_lt (lt_of_lt_of_le (pack_lt w l) (Nat.pow_le_pow_right Nat.two_pos h)), lane_pack]

theorem lane_lt (w v i : Nat) : lane w v i < 2 ^ w := Nat.mod_lt _ (Nat.two_pow_pos w)

/-- The value and the enabled bits of lanes, lane by lane (R175). -/
theorem lane_vecOut_val (w : Nat) (ls : List LaneOut) (h : w * ls.length ≤ 4096) (i : Nat) (hi : i < ls.length) :
    lane w (vecOut w ls).val.toNat i = (if ls[i].en then ls[i].val else 0) % 2 ^ w := by
  rw [vecOut, lane_ofNat_pack w _ (by simpa using h)]
  simp [List.getD, hi]

theorem lane_vecOut_en (w : Nat) (ls : List LaneOut) (h : w * ls.length ≤ 4096) (i : Nat) (hi : i < ls.length) :
    lane w (vecOut w ls).en.toNat i = if ls[i].en then 2 ^ w - 1 else 0 := by
  rw [vecOut, lane_ofNat_pack w _ (by simpa using h)]
  have : (2 ^ w - 1) % 2 ^ w = 2 ^ w - 1 := Nat.mod_eq_of_lt (Nat.sub_lt (Nat.two_pow_pos w) one_pos)
  simp only [List.getD, List.getElem?_map, List.getElem?_eq_getElem hi, Option.map_some, Option.getD_some]
  split <;> simp [this]

/-- The lanes of a result that raised a flag (R161). -/
theorem mem_vecOut_lanes (w : Nat) (ls : List LaneOut) (i : Nat) (fl : FlagSet) :
    (i, fl) ∈ (vecOut w ls).lanes ↔ ∃ h : i < ls.length, ls[i].en = true ∧ ls[i].flags = fl ∧ fl ≠ 0 := by
  simp only [vecOut, List.mem_map, List.mem_filter, Prod.exists, Bool.and_eq_true, bne_iff_ne]
  constructor
  · rintro ⟨l, j, ⟨hm, he, hf⟩, heq⟩
    cases heq
    rw [List.mem_iff_getElem?] at hm
    obtain ⟨n, hn⟩ := hm
    rw [List.getElem?_zipIdx] at hn
    cases h : ls[n]? with
    | none => simp [h] at hn
    | some a =>
      simp [h] at hn
      obtain ⟨rfl, rfl⟩ := hn
      obtain ⟨hlt, hget⟩ := List.getElem?_eq_some_iff.mp h
      exact ⟨hlt, by rw [hget]; exact ⟨he, rfl, hf⟩⟩
  · rintro ⟨h, he, rfl, hf⟩
    refine ⟨ls[i], i, ⟨?_, he, hf⟩, rfl⟩
    rw [List.mem_iff_getElem?]
    exact ⟨i, by simp [h]⟩

@[simp] theorem length_perLane (n : Nat) (inh : BitVec 512) (f : Nat → Nat × FlagSet) : (perLane n inh f).length = n := by
  simp [perLane]

theorem getElem_perLane (n : Nat) (inh : BitVec 512) (f : Nat → Nat × FlagSet) (i : Nat) (h : i < (perLane n inh f).length) :
    (perLane n inh f)[i] = if inh.getLsbD i then { val := 0, en := false } else { val := (f i).1, flags := (f i).2 } := by
  simp [perLane]

/-- A vector trigger that acts (R176). -/
theorem vecTrigger_says {s : State} {m : Mv} {sock : BitVec 12} {la lb : Nat} {chk : Check}
    {g : BitVec 512 → Nat → Nat → Nat → VecOut} {c : Nat} {x : Ctx} {f : Frame} (h : Acts s m c x f)
    (hk : chk s c (opndsAt x f m .vec) = none) :
    let o := opndsAt x f m .vec
    let v := g (f.regs.m[0]).read o.a.toNat o.b.toNat o.c.toNat
    vecTrigger s m sock la lb chk g =
      .next (setCtx s c (started x .vec o.a (if x.sys.ltb then lb else la) (some (v.val, v.en)) (some (vecStatus v.lanes))
        (lanesFlags v.lanes) v.lanes)) := by
  intro o v
  rw [vecTrigger, h.run hk]
  simp only [modCtx_eq, ctxOf_setCtx_same, setCtx_setCtx, addResult_latched, latency, latched_sys, inhibitMask, latched_frame,
    h.frame]
  rfl

/-- Lanes under the inhibit mask, lane by lane (R174, R175). -/
theorem laneWise_vecOut (w n : Nat) (inh : BitVec 512) (f : Nat → Nat × FlagSet) (hn : w * n ≤ 4096)
    (hf : ∀ i, i < n → (f i).1 < 2 ^ w) : LaneWise w n inh (vecOut w (perLane n inh f)) f := by
  refine ⟨fun i hi => ?_, fun i hi => ?_, fun i fl => ?_⟩
  · rw [lane_vecOut_val w _ (by simpa using hn) i (by simpa using hi), getElem_perLane]
    by_cases h : inh.getLsbD i = true
    · simp [h]
    · simp only [h, Bool.false_eq_true, if_false, if_true]; exact Nat.mod_eq_of_lt (hf i hi)
  · rw [lane_vecOut_en w _ (by simpa using hn) i (by simpa using hi), getElem_perLane]
    by_cases h : inh.getLsbD i = true <;> simp [h]
  · rw [mem_vecOut_lanes]
    constructor
    · rintro ⟨h, he, hfl, h0⟩
      rw [getElem_perLane] at he hfl
      by_cases hi : inh.getLsbD i = true
      · simp [hi] at he
      · simp only [hi, Bool.false_eq_true, if_false] at hfl
        exact ⟨by simpa using h, by simpa using hi, hfl.symm, h0⟩
    · rintro ⟨h, hi, hfl, h0⟩
      refine ⟨by simpa using h, ?_, ?_, h0⟩ <;> rw [getElem_perLane] <;> simp [hi, hfl]

/-- An element-wise operation that acts delivers its lanes (R178). -/
theorem vecMap_says {s : State} {m : Mv} {sock : BitVec 12} {lat w : Nat} {g : Nat → Nat → Nat → Nat × FlagSet} {c : Nat}
    {x : Ctx} {f : Frame} (h : Acts s m c x f) (hw : w * (4096 / w) ≤ 4096)
    (hg : ∀ a b d, a < 2 ^ w → b < 2 ^ w → d < 2 ^ w → (g a b d).1 < 2 ^ w) :
    let o := opndsAt x f m .vec
    ∃ v : VecOut, vecMap s m sock lat w g = .next (setCtx s c (started x .vec o.a lat (some (v.val, v.en))
        (some (vecStatus v.lanes)) (lanesFlags v.lanes) v.lanes)) ∧
      LaneWise w (4096 / w) (f.regs.m[0]).read v fun i => g (lane w o.a.toNat i) (lane w o.b.toNat i) (lane w o.c.toNat i) := by
  intro o
  refine ⟨_, ?_, laneWise_vecOut w _ _ _ hw fun i _ => hg _ _ _ (lane_lt _ _ _) (lane_lt _ _ _) (lane_lt _ _ _)⟩
  have e := vecTrigger_says (sock := sock) (la := lat) (lb := lat) (chk := noCheck)
    (g := fun inh a b c => vecOut w (perLane (4096 / w) inh fun i => g (lane w a i) (lane w b i) (lane w c i))) h rfl
  simpa [vecMap] using e

end Sys2Proof.Machine
end

