-- ==== Sys2Proof/Laws/Lanes.lean ====
section
/-! SUPPORT. Lanes as bit vectors: what the lane functions of `vec` give, in the words of `BitVec` (R174 to R182), and that
what rounding gives fits its format. -/

namespace Sys2Proof.Machine

/-- A lane-wise trigger does what a row of lane functions says that agrees with it on lanes. -/
theorem vecMap_row {s : State} {m : Mv} {sock : BitVec 12} {lat w : Nat} {g g' : Nat → Nat → Nat → Nat × FlagSet} {c : Nat}
    {x : Ctx} {f : Frame} (h : Acts s m c x f) (hw : w * (4096 / w) ≤ 4096)
    (hg : ∀ a b d, a < 2 ^ w → b < 2 ^ w → d < 2 ^ w → g a b d = g' a b d ∧ (g' a b d).1 < 2 ^ w) :
    let o := opndsAt x f m .vec
    ∃ v : VecOut, vecMap s m sock lat w g = .next (setCtx s c (started x .vec o.a lat (some (v.val, v.en))
        (some (vecStatus v.lanes)) (lanesFlags v.lanes) v.lanes)) ∧
      LaneWise w (4096 / w) (f.regs.m[0]).read v fun i => g' (lane w o.a.toNat i) (lane w o.b.toNat i) (lane w o.c.toNat i) := by
  intro o
  obtain ⟨v, h1, h2, h3, h4⟩ := vecMap_says (sock := sock) (lat := lat) h hw (g := g) fun a b d ha hb hd => by
    rw [(hg a b d ha hb hd).1]; exact (hg a b d ha hb hd).2
  have e : ∀ i, g (lane w o.a.toNat i) (lane w o.b.toNat i) (lane w o.c.toNat i) = g' (lane w o.a.toNat i) (lane w o.b.toNat i) (lane w o.c.toNat i) := fun i =>
    (hg _ _ _ (lane_lt _ _ _) (lane_lt _ _ _) (lane_lt _ _ _)).1
  refine ⟨v, h1, ?_, h3, ?_⟩
  · intro i hi; rw [h2 i hi]; simp only [o, e] at *
  · intro i fl; rw [h4 i fl]; simp only [o, e] at *

/-! ## Integer lanes -/

theorem intOf_eq {w a : Nat} (hw : 0 < w) (ha : a < 2^w) : intOf w a = (BitVec.ofNat w a).toInt := by
  rw [intOf, BitVec.toInt_eq_toNat_cond, BitVec.toNat_ofNat, Nat.mod_eq_of_lt ha]
  obtain ⟨k, rfl⟩ : ∃ k, w = k+1 := ⟨w-1, by omega⟩
  simp only [Nat.add_sub_cancel, pow_succ] at *
  split <;> split <;> first | rfl | omega

theorem less_eq {w a b : Nat} (hw : 0 < w) (ha : a < 2^w) (hb : b < 2^w) : intLess w a b = (BitVec.ofNat w a).slt (BitVec.ofNat w b) := by
  rw [intLess, intOf_eq hw ha, intOf_eq hw hb, BitVec.slt_eq_decide]

theorem intCode_eq (w : Nat) (v : Int) : intCode w v = (BitVec.ofInt w v).toNat := by
  rw [intCode, BitVec.toNat_ofInt]; norm_cast


theorem shl_eq {w a n : Nat} : shlLane w a n = (BitVec.ofNat w a <<< n).toNat := by
  rw [shlLane]
  split
  · rename_i h
    simp [BitVec.shiftLeft_eq_zero h]
  · simp [Nat.shiftLeft_eq, Nat.mod_mul_mod]

theorem shr_eq {w a n : Nat} (ha : a < 2^w) : shrLane w a n = (BitVec.ofNat w a >>> n).toNat := by
  rw [shrLane]
  simp only [BitVec.toNat_ushiftRight, BitVec.toNat_ofNat, Nat.mod_eq_of_lt ha, Nat.shiftRight_eq_div_pow]
  split
  · rename_i h
    rw [Nat.div_eq_of_lt]; exact lt_of_lt_of_le ha (Nat.pow_le_pow_right (by norm_num) h)
  · rfl

theorem sar_eq {w a n : Nat} (hw : 0 < w) (ha : a < 2^w) : sarLane w a n = ((BitVec.ofNat w a).sshiftRight n).toNat := by
  rw [sarLane, intCode_eq, intOf_eq hw ha]
  congr 1
  apply BitVec.eq_of_toInt_eq
  rw [BitVec.toInt_sshiftRight, BitVec.toInt_ofInt]
  have hlt := BitVec.toInt_lt (x := BitVec.ofNat w a)
  have hle := BitVec.le_toInt (x := BitVec.ofNat w a)
  generalize (BitVec.ofNat w a).toInt = v at *
  have key : v / 2 ^ min n w = v >>> n := by
    rw [Int.shiftRight_eq_div_pow]
    rcases le_total n w with h | h
    · rw [min_eq_left h]; norm_cast
    · rw [min_eq_right h]
      have hp : (2:Int)^(w-1) ≤ 2^w := pow_le_pow_right₀ (by norm_num) (by omega)
      have hp2 : (2:Int)^(w) ≤ 2^n := pow_le_pow_right₀ (by norm_num) h
      have hpos : (0:Int) < 2^w := by positivity
      have hpos2 : (0:Int) < 2^n := by positivity
      push_cast
      by_cases h0 : 0 ≤ v
      · rw [Int.ediv_eq_zero_of_lt h0 (by omega), Int.ediv_eq_zero_of_lt h0 (by omega)]
      · rw [Int.ediv_eq_neg_one_of_neg_of_le (by omega) (by omega), Int.ediv_eq_neg_one_of_neg_of_le (by omega) (by omega)]
  rw [key]
  obtain ⟨k, rfl⟩ : ∃ k, w = k+1 := ⟨w-1, by omega⟩
  simp only [Nat.add_sub_cancel] at *
  have hd : (0:Int) < 2 ^ n := by positivity
  rw [Int.shiftRight_eq_div_pow]
  have hk : (0:Int) < 2^k := by positivity
  have hn1 : (1:Int) ≤ 2^n := hd
  apply Int.bmod_eq_of_le
  · push_cast; rw [pow_succ, Int.mul_ediv_cancel _ (by norm_num), Int.le_ediv_iff_mul_le hd]
    have : -(2:Int)^k * 2^n ≤ -(2:Int)^k := by nlinarith
    omega
  · push_cast; rw [pow_succ]
    have : v / 2^n < 2^k := by
      rw [Int.ediv_lt_iff_lt_mul hd]; nlinarith
    omega

theorem iabs_eq {w a : Nat} (hw : 0 < w) (ha : a < 2^w) : intCode w ((intOf w a).natAbs : Int) = (if (BitVec.ofNat w a).msb then (-BitVec.ofNat w a).toNat else a) := by
  rw [intCode_eq, intOf_eq hw ha]
  split
  · rename_i h
    congr 1
    have hn : (BitVec.ofNat w a).toInt < 0 := by rw [BitVec.msb_eq_toInt] at h; simpa using h
    rw [show (((BitVec.ofNat w a).toInt.natAbs : Nat) : Int) = -(BitVec.ofNat w a).toInt by omega]
    rw [BitVec.ofInt_neg, BitVec.ofInt_toInt]
  · rename_i h
    have hn : 0 ≤ (BitVec.ofNat w a).toInt := by rw [BitVec.msb_eq_toInt] at h; simpa using h
    rw [show (((BitVec.ofNat w a).toInt.natAbs : Nat) : Int) = (BitVec.ofNat w a).toInt by omega]
    rw [BitVec.ofInt_toInt]; simp [Nat.mod_eq_of_lt ha]


theorem clamp_int (w : Nat) (v : Int) : clampTo (.int w) v = if v < -(2 ^ (w - 1)) then (intCode w (-(2 ^ (w - 1))), fSAT) else
   if 2 ^ (w - 1) - 1 < v then (intCode w (2 ^ (w - 1) - 1), fSAT) else (intCode w v, 0) := rfl

theorem clamp_nat (w : Nat) (v : Int) : clampTo (.nat w) v = if v < 0 then (intCode w 0, fSAT) else
   if 2 ^ w - 1 < v then (intCode w (2 ^ w - 1), fSAT) else (intCode w v, 0) := rfl

theorem min_eq {w a b : Nat} (hw : 0 < w) (ha : a < 2^w) (hb : b < 2^w) : (if intLess w b a then b else a) = (if (BitVec.ofNat w b).slt (BitVec.ofNat w a) then b else a) := by
  rw [less_eq hw hb ha]

theorem max_eq {w a b : Nat} (hw : 0 < w) (ha : a < 2^w) (hb : b < 2^w) : (if intLess w b a then a else b) = (if (BitVec.ofNat w a).slt (BitVec.ofNat w b) then b else a) := by
  rw [less_eq hw hb ha]
  simp only [BitVec.slt_eq_decide, decide_eq_true_eq]
  split
  · rw [if_neg (by omega)]
  · split
    · rfl
    · have : (BitVec.ofNat w a).toInt = (BitVec.ofNat w b).toInt := by omega
      have := congrArg BitVec.toNat (BitVec.eq_of_toInt_eq this)
      simpa [Nat.mod_eq_of_lt ha, Nat.mod_eq_of_lt hb] using this.symm

/-! ## Formats -/

/-- The codes of a format's values stay below its sign bit. -/
structure Fits (f : Fmt) : Prop where
  max : f.max < f.signBit
  inf : ∀ i, f.inf = some i → i < f.signBit
  nan : f.nan < f.signBit
  w : 2 ^ f.width = 2 * f.signBit

theorem roundMag_lt {f : Fmt} (h : Fits f) (md : Mode) (neg : Bool) (m : Nat) (e : Int) : (f.roundMag md neg m e).1 < 2 ^ f.width := by
  have h1 := h.max; have h2 := h.nan; have h3 := h.w
  have h4 : f.inf.getD f.nan < f.signBit := by
    cases hi : f.inf with
    | none => exact h2
    | some i => exact h.inf i hi
  have hs : (if neg then f.signBit else 0) ≤ f.signBit := by split <;> omega
  have hb : ∀ t : Bool, (if t = true then f.max else f.inf.getD f.nan) < f.signBit := by
    intro t; cases t <;> simp <;> assumption
  unfold Fmt.roundMag
  dsimp only
  generalize (if (_ : Int) ≤ e then _ else _ : Nat × Bool) = r
  split <;> split <;>
    first | omega | exact lt_of_lt_of_le (Nat.add_lt_add_of_le_of_lt hs (hb _)) (by omega)

theorem round_lt {f : Fmt} (h : Fits f) (md : Mode) (v : Fp) : (f.round md v).1 < 2 ^ f.width := by
  have h2 := h.nan; have h3 := h.w
  cases v with
  | nan => show f.nan < _; omega
  | inf neg =>
    simp only [Fmt.round]
    cases hi : f.inf with
    | none => simp only; omega
    | some i => have := h.inf i hi; simp only; split <;> omega
  | fin neg m e =>
    simp only [Fmt.round]
    split
    · simp only; split <;> omega
    · exact roundMag_lt h ..

theorem fits : Fits f32 ∧ Fits f16 ∧ Fits bf16 := by
  refine ⟨⟨by decide, ?_, by decide, by decide⟩, ⟨by decide, ?_, by decide, by decide⟩, ⟨by decide, ?_, by decide, by decide⟩⟩ <;>
   (intro i hi; cases hi; decide)

end Sys2Proof.Machine
end

