-- ==== Sys2Proof/Laws/Memory.lean ====
section
/-! SUPPORT. What an access to the memory of the domain can change: lines that come present, A bits, cached translations and the
free count, and nothing else; and that it keeps the canonical form. Every read and every translation is such an access. -/

namespace Sys2Proof.Machine

/-- What an access to memory may change between `s` and `t`. -/
structure Accessed (s t : State) : Prop where
  rest : t = { s with mem := t.mem, memBad := t.memBad, migs := t.migs, lags := t.lags, free := t.free, dies := t.dies }
  ws : ∀ d, (dieOf t d).ws = (dieOf s d).ws
  wf : s.mem.wf = true → t.mem.wf = true

theorem Accessed.refl (s : State) : Accessed s s := ⟨rfl, fun _ => rfl, id⟩

theorem Accessed.trans {s t u : State} (h : Accessed s t) (g : Accessed t u) : Accessed s u := by
  refine ⟨?_, fun d => (g.ws d).trans (h.ws d), fun w => g.wf (h.wf w)⟩
  have e := g.rest
  rw [h.rest] at e
  exact e

theorem Accessed.cores {s t : State} (h : Accessed s t) : t.cores = s.cores := by rw [h.rest]

theorem Accessed.ctxs {s t : State} (h : Accessed s t) : t.ctxs = s.ctxs := by rw [h.rest]

theorem accessed_free (s : State) : Accessed s (nextFree s).2 := ⟨rfl, fun _ => rfl, id⟩

theorem accessed_pullLine (s : State) (m : Migration) (line : Nat) : Accessed s (pullLine s m line) := by
  have e : ∀ (b : List Nat) (ms : List Migration) (bs : List Byte) (a : Nat), Accessed s
      { s with mem := Memory.writeBytes s.mem a bs, memBad := b, migs := ms } :=
    fun b ms bs a => ⟨rfl, fun _ => rfl, Memory.wf_writeBytes bs s.mem a⟩
  exact e _ _ _ _

theorem accessed_touchLine (n : Nat) (s : State) (key : Nat) : Accessed s (touchLine n s key) := by
  induction n generalizing key with
  | zero => exact .refl s
  | succ n ih =>
    rw [touchLine]
    split
    · exact (ih _).trans (accessed_pullLine _ _ _)
    · exact .refl s

theorem accessed_touchKey (s : State) (key : Nat) : Accessed s (touchKey s key) := accessed_touchLine _ s key

/-- Where no migration is armed no line is pulled. -/
theorem touchKey_plain {s : State} (h : s.migs = []) (key : Nat) : touchKey s key = s := by simp [touchKey, h, touchLine]

theorem accessed_memWrite (s : State) (key : Nat) (bs : List Byte) : Accessed s (memWrite s key bs) :=
  (accessed_touchKey s key).trans ⟨rfl, fun _ => rfl, Memory.wf_writeBytes _ _ _⟩

theorem memWrite_mem (s : State) (key : Nat) (bs : List Byte) :
    (memWrite s key bs).mem = Memory.writeBytes (touchKey s key).mem key bs := rfl

theorem accessed_walk (va : Nat) (l : List (Nat × Nat × Bool × Bool)) (s : State) (table : Nat) : Accessed s (walk s va table l).2 := by
  induction l generalizing s table with
  | nil => exact .refl s
  | cons p l ih =>
    obtain ⟨lo, w, a, b⟩ := p
    rw [walk]
    have h := accessed_touchKey s (physKey s.node (table + 8 * (va / 2 ^ lo % 2 ^ w)))
    generalize touchKey s (physKey s.node (table + 8 * (va / 2 ^ lo % 2 ^ w))) = u at h
    split
    · exact h
    · split
      · split <;> exact h
      · split
        · exact h
        · exact h.trans (ih _ _)

theorem accessed_walkVa (s : State) (asid va : Nat) : Accessed s (walkVa s asid va).2 := by
  rw [walkVa]
  split
  · split
    · exact accessed_walk va _ s _
    · exact .refl s
  · exact .refl s

/-- A walk changes nothing where no migration is armed. -/
theorem walk_plain {s : State} (h : s.migs = []) (va : Nat) (l : List (Nat × Nat × Bool × Bool)) (table : Nat) : (walk s va table l).2 = s := by
  induction l generalizing table with
  | nil => rfl
  | cons p l ih =>
    obtain ⟨lo, w, a, b⟩ := p
    simp only [walk, touchKey_plain h]
    split
    · rfl
    · split
      · split <;> rfl
      · split
        · rfl
        · exact ih _

theorem walkVa_plain {s : State} (h : s.migs = []) (asid va : Nat) : (walkVa s asid va).2 = s := by
  rw [walkVa]
  split
  · split
    · exact walk_plain h va _ _
    · rfl
  · rfl

theorem accessed_setAccessed (s : State) (at_ : Nat) : Accessed s (setAccessed s at_) :=
  (accessed_touchKey s _).trans (accessed_memWrite _ _ _)

theorem accessed_tlb (s : State) (die : Nat) (f : List TlbEnt → List TlbEnt) :
    Accessed s (modDie s die fun d => { d with tlb := f d.tlb }) := by
  refine ⟨rfl, fun d => ?_, id⟩
  unfold modDie
  by_cases h : d = die
  · subst h; simp [dieOf, setDie]
  · simp [dieOf, setDie, Tab.get_put, h]

theorem accessed_useEntry (s : State) (die : Nat) (e : TlbEnt) : Accessed s (useEntry s die e) := by
  unfold useEntry
  split
  · exact (accessed_setAccessed s e.at_).trans (accessed_tlb _ die fun l => cacheEntry (cacheEntry l _) _)
  · exact accessed_tlb s die fun l => cacheEntry (cacheEntry l _) _

theorem accessed_translate (s : State) (die chan asid va : Nat) : Accessed s (translate s die chan asid va).2 := by
  refine (accessed_free s).trans ?_
  rw [translate]
  dsimp only
  split
  · exact accessed_useEntry _ die _
  · have h := accessed_walkVa (nextFree s).2 asid va
    revert h
    split
    · rename_i e; intro h; rw [e] at h; exact h.trans (accessed_useEntry _ die _)
    · exact id

/-- What an agent comes to know of the writes is part of its access. -/
theorem accessed_lags (s : State) (l : List Lag) : Accessed s { s with lags := l } := ⟨rfl, fun _ => rfl, id⟩

theorem accessed_byteFor (s : State) (ov : Option Nat) (r : Reader) (asid : Nat) (t : Trans) (va : Nat) :
    Accessed s (byteFor s ov r asid t va).2 := by
  have h : Accessed s (byteAt s ov r asid t va).2 := by
    unfold byteAt
    split
    · split
      · exact .refl s
      · split
        · exact .refl s
        · dsimp only
          split
          · exact (accessed_touchKey s _).trans (accessed_lags _ _)
          · exact accessed_touchKey s _
    · exact .refl s
  cases ov with
  | none => exact h
  | some c => exact h

theorem accessed_readMem (s : State) (ov : Option Nat) (r : Reader) (chan asid va : Nat) : Accessed s (readMem s ov r chan asid va).2 :=
  (accessed_translate s r.die chan asid va).trans (accessed_byteFor _ ov r asid _ va)

theorem accessed_readUnit (s : State) (ov : Option Nat) (r : Reader) (chan asid va n : Nat) :
    Accessed s (readUnit s ov r chan asid va n).2 := by
  unfold readUnit
  have step : ∀ (t : Trans) (l : List Nat) (p : List ByteIn × State), Accessed p.2
      (l.foldl (fun (p : List ByteIn × State) a => ((p.1 ++ [(byteFor p.2 ov r asid t a).1], (byteFor p.2 ov r asid t a).2) : List ByteIn × State)) p).2 := by
    intro t l
    induction l with
    | nil => exact fun p => .refl _
    | cons a l ih => exact fun p => (accessed_byteFor p.2 ov r asid t a).trans (ih (p.1 ++ [(byteFor p.2 ov r asid t a).1], (byteFor p.2 ov r asid t a).2))
  exact (accessed_translate s r.die chan asid va).trans (step _ _ ([], _))

/-- Reading any number of bytes is an access. -/
theorem accessed_readMems (s : State) (ov : Option Nat) (r : Reader) (chan asid va n : Nat) : Accessed s (readMems s ov r chan asid va n).2 := by
  unfold readMems
  generalize n = k at *
  have all : ∀ (k : Nat) (s : State) (va n : Nat), Accessed s (readUnits ov r chan asid k s va n).2 := by
    intro k
    induction k with
    | zero => exact fun s _ _ => .refl s
    | succ k ih =>
      intro s va n
      rw [readUnits]
      split
      · exact .refl s
      · exact (accessed_readUnit s ov r chan asid va _).trans (ih _ _ _)
  exact all k s va k

theorem accessed_writable (s : State) (die chan asid va : Nat) : Accessed s (writable s die chan asid va).2 := by
  have h := accessed_translate s die chan asid va
  unfold writable
  split
  · rename_i e; rw [e] at h; exact h
  · rename_i e; rw [e] at h; exact h

/-- A copy operation's write changes memory as its bytes say, whoever sees them (R270). -/
theorem copyWrite_mem (s : State) (die : Nat) (j : Job) (key : Nat) (bs : List Byte) (h : s.migs = []) :
    (copyWrite s die j key bs).mem = Memory.writeBytes s.mem key bs := by
  have h1 : touchKey (nextFree s).2 key = (nextFree s).2 := touchKey_plain (s := (nextFree s).2) h key
  rw [copyWrite]
  dsimp only
  split
  · rw [memWrite_mem, h1]; rfl
  · simp only [memWrite_mem, h1]; rfl

theorem accessed_copyWrite (s : State) (die : Nat) (j : Job) (key : Nat) (bs : List Byte) : Accessed s (copyWrite s die j key bs) := by
  refine (accessed_free s).trans ?_
  rw [copyWrite]
  dsimp only
  split
  · exact accessed_memWrite _ key bs
  · have h := (accessed_touchKey (nextFree s).2 key).trans (accessed_memWrite (touchKey (nextFree s).2 key) key bs)
    refine ⟨?_, h.ws, h.wf⟩
    have e := h.rest
    generalize memWrite (touchKey (nextFree s).2 key) key bs = t at e ⊢
    rw [e]

/-- Of the writes of a unit that an agent must see, it sees each. -/
theorem seenLags_must {s : State} (r : Reader) (u : Nat) (h : ∀ l ∈ s.lags, l.unit = u → l.must r = true) :
    (seenLags s r u).all (·.2) = true := by
  have own : ∀ p ∈ (s.lags.zipIdx.filter fun p => p.1.unit == u).map (fun p => (p.1, p.1.picked r p.2)), p.2 = true := by
    intro p hp
    obtain ⟨⟨l, i⟩, hl, rfl⟩ := List.mem_map.mp hp
    obtain ⟨hm, hu⟩ := List.mem_filter.mp hl
    have hs : l ∈ s.lags := List.mem_of_getElem? (List.mem_zipIdx_iff_getElem?.mp hm)
    simp [Lag.picked, h l hs (by simpa using hu)]
  unfold seenLags
  dsimp only
  generalize (s.lags.zipIdx.filter fun p => p.1.unit == u).map (fun p => (p.1, p.1.picked r p.2)) = l at own
  split
  · rw [List.all_eq_true]
    intro p hp
    obtain ⟨⟨x, i⟩, hx, rfl⟩ := List.mem_map.mp hp
    have hi := List.mem_zipIdx_iff_getElem?.mp hx
    have hd : x ∈ l.drop i := List.mem_of_getElem? (i := 0) (by simpa using hi)
    exact List.any_eq_true.mpr ⟨x, hd, own x (List.mem_of_mem_drop hd)⟩
  · exact List.all_eq_true.mpr own

/-- An agent that must see every write of a unit reads the unit as it stands (R270, R321). -/
theorem seenByte_must {s : State} (r : Reader) (key : Nat) (h : ∀ l ∈ s.lags, l.unit = key / 64 → l.must r = true) :
    seenByte s r key = s.mem.read key := by
  simp [seenByte, seenLags_must r (key / 64) h]

/-- Where no write lags in a unit every agent reads it as it stands (R270). -/
theorem seenByte_plain {s : State} (r : Reader) (key : Nat) (h : ∀ l ∈ s.lags, l.unit ≠ key / 64) : seenByte s r key = s.mem.read key :=
  seenByte_must r key fun l hl e => absurd e (h l hl)

/-- After an acquire a context reads, in every unit whose writes have performed for it, the unit as it stands (R321). -/
theorem seenByte_acquire (s : State) (c key : Nat) (r : Reader) (hr : r.ctx = some c)
    (h : ∀ l ∈ s.lags, l.unit = key / 64 → l.seen { die := ctxDie c, core := some (ctxCore c), ctx := some c } = true) :
    seenByte (acquire s c) r key = s.mem.read key := by
  refine seenByte_must (s := acquire s c) r key fun l hl e => ?_
  obtain ⟨m, hm, rfl⟩ := List.mem_map.mp hl
  by_cases hu : m.seen { die := ctxDie c, core := some (ctxCore c), ctx := some c }
  · simp [Lag.must, hr, hu, NatSet.mem_insert_self]
  · rw [if_neg hu] at e
    exact absurd (h m hm e) hu

end Sys2Proof.Machine
end

