-- ==== Sys2Proof/Laws/Moves.lean ====
section
/-! SUPPORT. What a plain move does to its destination (R50, R79 to R86), and the high bits of position operands (R126). -/

namespace Sys2Proof.Machine

/-- Everything a plain move does where it acts. -/
theorem move_eq {m : Mv} {s : State} {c : Nat} {x : Ctx} {f : Frame} (h : Acts s m c x f) (d : BitVec 12) :
    exec (.move m d) s = .next (setCtx s c (writeMove x d (sourceVal f m.src f.cur))) := by
  simp [exec, execMove, h.current, h.guard, h.acting]

/-- A write of some lanes is a write of the whole value that they make with the bits that stay. -/
theorem coreWrite_masked {w : Nat} (dwp : D64) (v mk : BitVec w) (r : Face w) :
    Face.coreWrite dwp v mk r =
      Face.coreWrite dwp (((if r.wr then r.hid else r.vis) &&& ~~~mk) ||| (v &&& mk)) (BitVec.allOnes w) r := by
  unfold Face.coreWrite
  cases ha : r.asyn <;> by_cases hd : dwp = 2 <;> simp [hd]

/-- A move that no asynchronous write met. -/
theorem coreWrite_full {w : Nat} (dwp : D64) (v : BitVec w) (r : Face w) (h : r.asyn = false) :
    Face.coreWrite dwp v (BitVec.allOnes w) r = { r with hid := v, wr := true, core := true } := by
  simp [Face.coreWrite, h]

theorem setIfInBounds_eq {α : Type} {n k : Nat} (v : Vector α n) (h : k < n) (a : α) : v.setIfInBounds k a = v.set k a h := by
  apply Vector.ext; intro i hi
  simp [Vector.getElem_setIfInBounds, Vector.getElem_set]

/-- A register without a landed value reads as its visible face (R79, R92). -/
theorem read_vis {w : Nat} (r : Face w) (h : r.land = false) : r.read = r.vis := by simp [Face.read, Face.promotes, h]

theorem modify_zero (r : RegFile) (fg : Face 64 → Face 64) (fp : Face 1 → Face 1) (fv : Face 4096 → Face 4096)
    (fm : Face 512 → Face 512) : r.modify 0 fg fp fv fm = r := by simp [RegFile.modify]

/-- The high bits of a number below `2 ^ n` are zero. -/
theorem high_zero {a : D64} (n k : Nat) (h : a.toNat < 2 ^ n) : a.extractLsb' n k = 0 := by
  apply BitVec.eq_of_toNat_eq
  rw [BitVec.extractLsb'_toNat, Nat.shiftRight_eq_div_pow, Nat.div_eq_of_lt h]; rfl

/-- The high bits of any other number are not. -/
theorem high_ne {a : D64} (n k : Nat) (hk : n + k = 64) (h : 2 ^ n ≤ a.toNat) : a.extractLsb' n k ≠ 0 := by
  intro e
  have h0 := congrArg BitVec.toNat e
  rw [BitVec.extractLsb'_toNat, Nat.shiftRight_eq_div_pow] at h0
  have hlt : a.toNat / 2 ^ n < 2 ^ k := Nat.div_lt_of_lt_mul (by rw [← Nat.pow_add, hk]; exact a.isLt)
  rw [Nat.mod_eq_of_lt hlt] at h0
  have h1 : 1 ≤ a.toNat / 2 ^ n := (Nat.le_div_iff_mul_le (Nat.two_pow_pos n)).mpr (by omega)
  simp at h0
  omega

/-- The two halves of a 64-bit operand. -/
theorem low32_eq (a : D64) : (a.extractLsb' 0 32).toNat = a.toNat % 2 ^ 32 := by simp [BitVec.extractLsb'_toNat]

end Sys2Proof.Machine
end

