-- ==== Sys2Proof/Laws/Units.lean ====
section
/-! SUPPORT. Everything the moulds of the scalar units, the scratchpad units and RDSR do where they act. -/

namespace Sys2Proof.Machine

/-- `al`: one tick, result and status word (R164, R165). -/
theorem alTrigger_says {s : State} {m : Mv} {u : BitVec 1} {off : BitVec 6} {c : Nat} {x : Ctx} {f : Frame}
    (h : Acts s m c x f) (g : D64 → D64 → D64 → AluOut) :
    let un := alUnit u
    let o := opndsAt x f m un
    let y := g o.a64 o.b64 o.c64
    alTrigger s m u off g = .next (setCtx s c (started x un o.a 1 (full64 y.r) (some (aluStatus y.v y.c y.r)) y.flags
      (if y.flags = 0 then [] else [(0, y.flags)]))) := by
  intro un o y
  rw [alTrigger, h.run (by rfl)]
  simp only [modCtx_eq, ctxOf_setCtx_same, setCtx_setCtx, addResult_latched, full64]
  rfl

/-- `mul`: the latency of the table that governs (R123, R169). -/
theorem mulTrigger_says {s : State} {m : Mv} {sock : BitVec 12} {la lb : Nat} {chk : Check} {c : Nat} {x : Ctx} {f : Frame}
    (h : Acts s m c x f) (g : D64 → D64 → AluOut) (hk : chk s c (opndsAt x f m .mul) = none) :
    let o := opndsAt x f m .mul
    let y := g o.a64 o.b64
    mulTrigger s m sock la lb chk g = .next (setCtx s c (started x .mul o.a (if x.sys.ltb then lb else la) (full64 y.r)
      (some (aluStatus y.v y.c y.r)))) := by
  intro o y
  rw [mulTrigger, h.run hk]
  simp only [modCtx_eq, ctxOf_setCtx_same, setCtx_setCtx, addResult_latched, full64, latency, latched_sys]
  rfl

/-- `agu`: two ticks (R123, R171). -/
theorem aguTrigger_says {s : State} {m : Mv} {sock : BitVec 12} {chk : Check} {c : Nat} {x : Ctx} {f : Frame}
    (h : Acts s m c x f) (g : D64 → D64 → D64 → D64 × D64) (hk : chk s c (opndsAt x f m .agu) = none) :
    let o := opndsAt x f m .agu
    let y := g o.a64 o.b64 o.c64
    aguTrigger s m sock chk g = .next (setCtx s c (started x .agu o.a 2 (full64 y.1) (some y.2))) := by
  intro o y
  rw [aguTrigger, h.run hk]
  simp only [modCtx_eq, ctxOf_setCtx_same, setCtx_setCtx, addResult_latched, full64]
  rfl

/-! ## Scratchpad triggers (R197) -/

theorem lsAccess_ok {s : State} {c n al : Nat} {o : Opnds} (h1 : o.a64.toNat < 2 ^ 20) (h2 : o.a64.toNat + n ≤ areaOf s c)
    (h3 : o.a64.toNat % al = 0) : lsAccess n al s c o = none := by
  simp only [lsAccess]; rw [if_neg (by omega), if_neg (by omega)]

theorem lsAccess_range {s : State} {c n al : Nat} {o : Opnds} (h : 2 ^ 20 ≤ o.a64.toNat ∨ (n ≠ 0 ∧ areaOf s c < o.a64.toNat + n)) :
    lsAccess n al s c o = some .spadRange := by
  simp only [lsAccess]; rw [if_pos (by omega)]

theorem lsAccess_misaligned {s : State} {c n al : Nat} {o : Opnds} (h1 : o.a64.toNat < 2 ^ 20)
    (h2 : o.a64.toNat + n ≤ areaOf s c) (h3 : o.a64.toNat % al ≠ 0) : lsAccess n al s c o = some .misaligned := by
  simp only [lsAccess]; rw [if_neg (by omega), if_pos (by omega)]

/-- An `ls` trigger that passes its checks does what its operation does. -/
theorem lsTrigger_acts {s t : State} {m : Mv} {u : BitVec 1} {c : Nat} {x : Ctx} {f : Frame} (h : Acts s m c x f) {off : BitVec 6}
    {chk : Check} {act : State → Nat → Opnds → State} (hk : chk s c (opndsAt x f m (lsUnit u)) = none)
    (ha : act (setCtx s c (latched x (lsUnit u) (opndsAt x f m (lsUnit u)).a)) c (opndsAt x f m (lsUnit u)) = t) :
    lsTrigger s m u off chk act = .next t := by rw [lsTrigger, h.run hk, ha]

/-- An `ls` trigger whose check fails takes that trap. -/
theorem lsTrigger_traps {s : State} {m : Mv} {u : BitVec 1} {c : Nat} {x : Ctx} {f : Frame} (h : Acts s m c x f) {off : BitVec 6}
    {chk : Check} {act : State → Nat → Opnds → State} {t : Trap} (hk : chk s c (opndsAt x f m (lsUnit u)) = some t) :
    lsTrigger s m u off chk act = .next (preciseTrap s c { code := t, sock := (5#5 ++ u ++ off).toNat, slot := f.cur }) := by
  rw [lsTrigger, h.trap hk]

/-! ## System registers (R105) -/

theorem ctxRegion_set (s : State) (c : Nat) (x : Ctx) (h : x.launch = (ctxOf s c).launch) :
    ctxRegion (setCtx s c x) c = ctxRegion s c := by
  simp [ctxRegion, h]

theorem kernelOf_set (s : State) (c : Nat) (x : Ctx) (h : x.launch = (ctxOf s c).launch) (hk : x.kslot = (ctxOf s c).kslot) :
    kernelOf (setCtx s c x) c = kernelOf s c := by
  simp [kernelOf, h, hk]

/-- An entry may be used by the same regions (R283). -/
theorem semUse_congr {s t : State} (h : t.regions = s.regions) (r : Nat) (e : SemEntry) (rd : Bool) :
    semUse t r e rd = semUse s r e rd := by
  simp only [semUse, ancestors_congr h]

/-- What the limits demand does not depend on a context. -/
theorem demands_setCtx (s : State) (c : Nat) (x : Ctx) (p d : Nat) : demands (setCtx s c x) p d = demands s p d := by
  have h0 : partRank (setCtx s c x) p = partRank s p := by
    have h := setCtx_regions s c x
    simp only [partRank, rootOf, h, parentOf_congr h, partOf_congr h, capRankOf_congr h]
  have h1 : isShed (setCtx s c x) p = isShed s p := by simp only [isShed, h0, setCtx_power]
  have h2 : allowanceOut (setCtx s c x) p = allowanceOut s p := by
    have he : ∀ a, entryOf (setCtx s c x) a = entryOf s a := fun _ => rfl
    simp only [allowanceOut, he, setCtx_parts]
  simp only [demands, h1, h2, dieOf_setCtx, setCtx_parts, setCtx_power]

theorem capcause_setCtx (s : State) (c : Nat) (x : Ctx) (p : Nat) : capcause (setCtx s c x) p = capcause s p := by
  have h : capCurrent (setCtx s c x) p = capCurrent s p := by
    simp only [capCurrent, clockOf, demands_setCtx, partDies, setCtx_parts]
  simp only [capcause, h, setCtx_power, setCtx_parts]

/-- What a system register reads as does not depend on the latches. -/
theorem readSys_latched (s : State) (c : Nat) (u : FU) (a : Val) (n : Nat) :
    readSys (setCtx s c (latched (ctxOf s c) u a)) c n = readSys s c n := by
  have e1 : ctxPart (setCtx s c (latched (ctxOf s c) u a)) c = ctxPart s c := by
    simp only [ctxPart, ctxRegion_set s c (latched (ctxOf s c) u a) rfl]; rfl
  have e2 : codeuse (setCtx s c (latched (ctxOf s c) u a)) c = codeuse s c := by
    simp only [codeuse, kernelOf_set s c (latched (ctxOf s c) u a) rfl rfl, coreOf_setCtx, ctxOf_setCtx_same]; rfl
  have e3 : tckpt (setCtx s c (latched (ctxOf s c) u a)) c = tckpt s c := by
    simp only [tckpt, coreOf_setCtx, ctxOf_setCtx_same]; rfl
  unfold readSys
  simp only [ctxOf_setCtx_same, e1, e2, e3, latched_sys, capcause_setCtx]
  split <;> rfl

end Sys2Proof.Machine
end

