-- ==== Sys2Proof/Tests/Slice0.lean ====
section
/-! SUPPORT. Tests: the well-formedness smoke, decode words written out from the spec's encodings, small results worked by hand
from the spec's rules, and for every statement of Obligations.lean states and operands that meet its hypotheses. -/

open Sys2Proof Sys2Proof.Machine

namespace Sys2Proof.Tests

set_option Elab.async false

/-! ## Small states -/

/-- An unguarded, unmarked move with this source. -/
def mv (src : BitVec 14) : Mv := ⟨0, 0, src⟩

/-- The short immediate `n`. -/
def imm (n : BitVec 12) : Mv := mv (1#2 ++ n)

/-- Region 1: a root region of partition 0 with ASID 5, FDOM CONTEXT, all policies on, every budget finite, and bank 0 of die 0. -/
def region1 : Region :=
  { rcb := [0x0001FFFF00000500#64, 0, 0xF000#64, 1, 0, 0, 0, 0, 1000, 100000, 4, 4, 0], cycb := 1000, copyb := 100000 }

/-- A kernel on core 0 with one bundle of FLIP in its dictionary and one segment in frame 0. -/
def kernel0 : Kernel :=
  { launch := 0, kslot := 0, allow := 1, chunks := [0], dict := [some (0x01000000#32 :: List.replicate 11 emptySlot)]
    segs := [⟨0, 4, 0x1000⟩, ⟨4, 4, 0x2000⟩], frames := [{ seg := some 0, words := [0, 0, 0, 0], used := 1 }, {}], demand := [], feat := 0 }

def image0 : Image :=
  { skenis3 := true, ltb := false, digest := 0, pipes := [⟨0, some 0, some 0, none⟩], objects := []
    kernels := [{ allow := 1, feat := 0, grid := (1, 1), dict := [], segs := [⟨0, 4, 0x1000⟩, ⟨4, 4, 0x2000⟩], stream := 8, part := (0, 65536), data := [] }] }

/-- Launch 0 of region 1: a placed task launch on core 0. -/
def launch0 : Launch :=
  { region := 1, image := image0, kind := .task, klist := [0], args := List.replicate 256 0, policy := 0, status := 0, queue := 0
    tag := 1, order := 0, stage := .placed, bangles := [0], perB := 1, ctxs := [(0, [0, 1])], shards := [[]]
    handlers := [List.replicate 32 0x8000000000000002#64] }

def core0 : Core := { area := some (0, 65536), kernels := [kernel0], chunks := [0], frames := 2 }

/-- Counter, barrier and account entries 0 to 3 of die 0, of region 1; account class 255 holds 5 units of 2^20 quanta. -/
def sems0 : List (Nat × SemEntry) := [
  (0, { word := 0x10000000000000000000000000000007#128, owner := 1 }),
  (1, { word := 0x20000000000000020000000000000000#128, owner := 1 }),
  (2, { word := 0x300000FF000000000000000000500000#128, owner := 1 }),
  (3, { word := 0x300000FF000000000000000000000000#128, owner := 1 })]

/-- A state with region, launch, core and semaphore entries, in which context 0 is `x`. -/
def world (x : Ctx) : State :=
  { ctxs := [(0, x)], cores := [(0, core0)], launches := [(0, launch0)], nlaunch := 1, regions := [(1, region1)]
    parts := [(0, { bangles := [0] })], sems := sems0, spaces := [(5, {})] }

/-- Context 0 of launch 0, running. -/
def run0 : Ctx := { status := .running, launch := some 0 }

/-- A bundle of empty slots. -/
def frame0 : Frame := { makeFrame {} (0 :: List.replicate 11 emptySlot) 1 [] with cur := 0 }

/-- Context 0, changed to `x`, carries out the bundle `f`. -/
def actor (x : Ctx) (f : Frame) : State := { world { x with frame := some f } with active := some 0 }

/-- An unguarded slot of that bundle acts. -/
theorem acts_actor (x : Ctx) (f : Frame) (src : BitVec 14) (h : f.dry = false) :
    Acts (actor x f) (mv src) 0 { x with frame := some f } f :=
  ⟨rfl, rfl, rfl, rfl, h⟩

/-- In the bundle `f` of context `x` the slot `m` acts, and `P` holds of that state, context and bundle. -/
def meets (m : Mv) (x : Ctx) (f : Frame) (P : State → Ctx → Frame → Bool) : Bool :=
  guardHolds f.regs m.guard && !f.dry && P (actor x f) { x with frame := some f } f

/-- What `meets` says: the hypothesis `Acts` of a statement about a trigger holds together with `P`. -/
theorem meets_acts (m : Mv) (x : Ctx) (f : Frame) (P : State → Ctx → Frame → Bool) (h : meets m x f P = true) :
    Acts (actor x f) m 0 { x with frame := some f } f ∧ P (actor x f) { x with frame := some f } f = true := by
  simp only [meets, Bool.and_eq_true, Bool.not_eq_true'] at h
  exact ⟨⟨rfl, rfl, rfl, h.1.1, h.1.2⟩, h.2⟩

/-- Context `x` with operands `b` and `c` of unit `u`. -/
def withOps (x : Ctx) (u : FU) (b c : D64) : Ctx :=
  { x with lat := setLatch x.lat u { b := b.setWidth 4096, c := c.setWidth 4096 } }

/-- The bundle with `v` in `g1`, and a move of `g1`: for operands that no short immediate holds. -/
def frameG (v : D64) : Frame := { frame0 with regs := { frame0.regs with g := frame0.regs.g.set 1 { vis := v } } }
def srcG : Mv := mv 1

/-- With the operands `a` (from `g1`), `b` and `c` of unit `u`, `P` holds of context 0 (which is `x` but for them). -/
def meetsG (x : Ctx) (u : FU) (a b c : D64) (P : State → Ctx → Frame → Opnds → Bool) : Bool :=
  meets srcG (withOps x u b c) (frameG a) fun s y f => P s y f (opndsAt y f srcG u)

/-- The outcome is this next state. -/
def answers (r : Res) (t : State) : Bool :=
  match r with
  | .next u => decide (u = t)
  | _ => false

/-- What the outcome is, where it is a next state. -/
def after (r : Res) : State :=
  match r with
  | .next t => t
  | _ => State.reset


/-! ## Witnesses: moves, branches, system registers, traps -/

/-- Moves: the slot acts, and every source register named holds a value that is not landed. -/
theorem witness_moves : meets (imm 5) run0 frame0 (fun _ _ f =>
    !f.regs.g[1].land && !f.regs.g[63].land && !f.regs.k[31].land && !f.regs.p[7].land && !f.regs.v[31].land &&
    !f.regs.m[7].land && decide (unitOf 0x300 = some (.vec, 0)) && decide (unitOf 0x2C2 = some (.ls1, 2))) = true ∧
    unitOf 0x303 = some (.vec, 3) ∧ unitOf 0x304 = some (.vec, 4) := by
  decide +kernel

/-- SpanActions: the waits of a span action are over, and one is left. -/
theorem witness_span :
    current (actor run0 frame0) = some (0, { run0 with frame := some frame0 }, frame0) ∧
    (∀ k ∈ [SpanCode.flip, .flipW, .flipC, .flipCw, .ckpt], spanReady (actor run0 frame0) 0 k = true) ∧
    (ctxOf (actor run0 frame0) 0).regs.conflict = none ∧
    (let g := run0.regs.g.set 5 { asyn := false, pend := true }
     ∀ k ∈ [SpanCode.flipW, .flipCw], spanReady (actor { run0 with regs := { run0.regs with g := g } } frame0) 0 k = false) ∧
    (let x : Ctx := { run0 with async := [{ id := 7, dst := 5, sb := true }] }
     ∀ k ∈ [SpanCode.flip, .flipW, .flipC, .flipCw], spanReady (actor x frame0) 0 k = false) := by decide +kernel

/-- SpanActions: a flip that finds register 5 conflicted, its waits over; checkpoint mode off and on, no CKMODE nor DWP written. -/
theorem witness_conflict :
    let x := { run0 with regs := { run0.regs with g := run0.regs.g.set 5 { wr := true, conf := true } } }
    let y := { x with sys := { x.sys with ckmode := 1 } }
    x.regs.conflict = some 5 ∧ y.regs.conflict = some 5 ∧ ckOn x = false ∧ ckOn y = true ∧ ckmodeLeft frame0 = none ∧ frame0.dwp = none ∧
    current (actor x frame0) = some (0, { x with frame := some frame0 }, frame0) ∧
    current (actor y frame0) = some (0, { y with frame := some frame0 }, frame0) ∧
    (∀ k ∈ [SpanCode.flip, .flipW, .flipC, .flipCw], spanReady (actor x frame0) 0 k = true ∧ spanReady (actor y frame0) 0 k = true) := by
  decide +kernel

/-- A shadow set as a checkpoint of an idle context records it. -/
def shadow0 : Shadow :=
  { regs := {}, lat := Vector.replicate 14 {}, desc := Vector.replicate 8 none, dcv := 0, infl := [], swaps := Vector.replicate 4 0
    link := [], loops := [], flg := 0, aticks := [], gemm := {}, pos := 3, tick := 7, seq := 0 }

/-- checkpointRecords, rollbackRestores. -/
theorem witness_checkpoint :
    current (actor run0 frame0) = some (0, { run0 with frame := some frame0 }, frame0) ∧ run0.held = [] ∧ run0.going = [] ∧
    (ctxOf (world { run0 with shadow := some shadow0 }) 0).shadow = some shadow0 := by decide +kernel

/-- segmentRequest: a next segment with a frame for it; none left; one resident; one being loaded. -/
theorem witness_segment :
    (let k := { kernel0 with segs := [⟨0, 4, 0x1000⟩, ⟨4, 4, 0x2000⟩] }
     let s := actor run0 frame0
     kernelOf s 0 = some k ∧ residualAt k frame0.pos = none ∧ segOf k frame0.pos = some 0 ∧ frameOf k 1 = none ∧
     loadingSeg k = none ∧ chooseFrame s 0 k = some 1) ∧
    segOf kernel0 5 = some 1 ∧ kernel0.segs.length ≤ 2 ∧
    (frameOf { kernel0 with frames := [{ seg := some 0 }, { seg := some 1 }] } 1).isSome ∧
    (loadingSeg { kernel0 with frames := [{ seg := some 0 }, { loading := some 1 }] }).isSome ∧
    (residualAt { kernel0 with resids := [⟨0, 0, [0, 0], [], []⟩] } frame0.pos).isSome ∧
    (let k := { kernel0 with frames := [{ seg := some 0 }] }
     chooseFrame { actor run0 frame0 with cores := [(0, { core0 with kernels := [k] })] } 0 k = none) := by decide +kernel

def loop1 : LoopEnt := { start := 0, exit := 5, left := 2, iter := 0, depth := 0 }

/-- branchResults and branchTraps: each clause at the bound of its range. -/
theorem witness_branch :
    let o := fun (x : Ctx) (f : Frame) (m : Mv) => opndsAt x f m .br
    let top := withOps run0 .br 0xFFFFF 0
    meets (imm 0x7FF) run0 frame0 (fun _ x f => decide ((o x f (imm 0x7FF)).a64.toNat < 2 ^ 20 ∧ x.link.length < 32 ∧ x.link = [] ∧
      x.loops = [])) = true ∧
    meets (imm 0xFFF) run0 frame0 (fun _ x f => decide (2 ^ 32 ≤ (o x f (imm 0xFFF)).a64.toNat)) = true ∧
    meets (imm 0) { run0 with link := List.replicate 32 0 } frame0 (fun _ x _ => decide (32 ≤ x.link.length)) = true ∧
    meets (imm 0) { run0 with link := [4] } frame0 (fun _ x _ => decide (x.link = 4 :: [])) = true ∧
    meets (imm 0) top frame0 (fun _ x f => let p := o x f (imm 0)
      decide (p.a64 = 0 ∧ p.b64.toNat < 2 ^ 20 ∧ f.next < p.b64.toNat)) = true ∧
    meets (imm 1) top frame0 (fun _ x f => let p := o x f (imm 1)
      decide (p.a64 ≠ 0 ∧ p.a64.toNat < 2 ^ 32 ∧ p.b64.toNat < 2 ^ 20 ∧ f.next < p.b64.toNat ∧ x.loops.length < 4)) = true ∧
    meets (imm 1) { top with loops := List.replicate 4 loop1 } frame0 (fun _ x f =>
      decide ((o x f (imm 1)).a64 ≠ 0 ∧ 4 ≤ x.loops.length)) = true ∧
    meets (imm 1) (withOps run0 .br 0x100000 0) frame0 (fun _ x f => decide (2 ^ 20 ≤ (o x f (imm 1)).b64.toNat)) = true ∧
    meets (imm 1) (withOps run0 .br 1 0) frame0 (fun _ x f => decide ((o x f (imm 1)).b64.toNat ≤ f.next)) = true ∧
    meets (imm 0) { run0 with loops := [loop1] } frame0 (fun _ x _ => decide (x.loops = loop1 :: [])) = true := by
  decide +kernel

/-- BundleEnds: a bundle without further parts; a branch set its position; the loop check, at both of its ends. -/
theorem witness_bundle_ends :
    let at5 := { frame0 with next := 5 }
    current (actor run0 frame0) = some (0, { run0 with frame := some frame0 }, frame0) ∧ frame0.todo = [] ∧ frame0.brSet = false ∧
    run0.loops = [] ∧ { frame0 with brSet := true }.todo = [] ∧
    (let x := { run0 with loops := [loop1] }
     current (actor x at5) = some (0, { x with frame := some at5 }, at5) ∧ at5.todo = [] ∧ at5.brSet = false ∧
     loop1.depth = x.link.length ∧ at5.next = loop1.exit ∧ 1 < loop1.left ∧ { loop1 with left := 1 }.left ≤ 1 ∧
     frame0.next ≠ loop1.exit) := by decide +kernel

/-- readSystemRegister, writeSystemRegister, fenceWaits: each register at the last legal value and at the first that traps. -/
theorem witness_system :
    let o := fun (x : Ctx) (f : Frame) (n : BitVec 12) => opndsAt x f (imm n) .sys
    let wr := fun (n : BitVec 12) (b : D64) (p : D64 → Bool) =>
      meets (imm n) (withOps run0 .sys b 0) frame0 (fun _ x f => decide ((o x f n).a64 = n.setWidth 64) && p (o x f n).b64)
    meets (imm 0xE) run0 frame0 (fun _ x f => decide ((o x f 0xE).a64.toNat ≤ 0xE)) = true ∧
    meets (imm 0xF) run0 frame0 (fun _ x f => decide (0xE < (o x f 0xF).a64.toNat)) = true ∧
    wr 1 0x3F3F (fun b => decide (b &&& ~~~0x3F3F#64 = 0)) = true ∧ wr 1 0x40 (fun b => decide (b &&& ~~~0x3F3F#64 ≠ 0)) = true ∧
    wr 2 2 (fun b => decide (b.toNat ≤ 2)) = true ∧ wr 2 3 (fun b => decide (2 < b.toNat)) = true ∧
    wr 3 0 (fun b => decide (b.toNat ≤ 1 ∧ run0.sys.ckmode = b)) = true ∧
    wr 3 1 (fun b => decide (b.toNat ≤ 1 ∧ run0.sys.ckmode ≠ b)) = true ∧ wr 3 2 (fun b => decide (1 < b.toNat)) = true ∧
    wr 6 0xF1F1F (fun b => decide (b &&& ~~~0xF1F1F#64 = 0)) = true ∧ wr 6 0x20 (fun b => decide (b &&& ~~~0xF1F1F#64 ≠ 0)) = true ∧
    wr 7 0x15 (fun b => decide (b &&& ~~~trapstatMask = 0 ∧ (b.extractLsb' 0 5).toNat < 0x16)) = true ∧
    wr 7 0x16 (fun b => decide (0x16 ≤ (b.extractLsb' 0 5).toNat)) = true ∧
    wr 7 (1 <<< 63) (fun b => decide (b &&& ~~~trapstatMask ≠ 0)) = true ∧
    wr 8 0xFFFFF (fun b => decide (b.toNat < 2 ^ 20)) = true ∧ wr 8 0x100000 (fun b => decide (2 ^ 20 ≤ b.toNat)) = true ∧
    wr 4 0 (fun _ => true) = true ∧ wr 9 0 (fun _ => true) = true ∧
    ([0#12, 1, 2, 3].all fun n => meets (imm n) run0 frame0 fun _ x f => (o x f n).a64 == n.setWidth 64) = true ∧
    meets (imm 4) run0 frame0 (fun _ x f => decide (4 ≤ (o x f 4).a64.toNat)) = true := by decide +kernel

/-- systemRegisterValues: CKMODE off and on, a lost bank, and a context whose kernel is at original code. -/
theorem witness_system_values :
    (ctxOf (world run0) 0).sys.ckmode ≠ 1 ∧
    (let x := { run0 with sys := { run0.sys with ckmode := 1 }, banks := run0.banks.set 0 .lost }
     (ctxOf (world x) 0).sys.ckmode = 1 ∧ BankState.lost ∈ x.banks.toList) ∧
    kernelOf (world run0) 0 = some kernel0 ∧ residualAt kernel0 (ctxOf (world run0) 0).pc = none ∧
    meets (imm 0xC) run0 frame0 (fun _ x f => (opndsAt x f (imm 0xC) .sys).a64 == 0xC) = true := by decide +kernel

/-- trapEntered, trapIsPrecise, escalationRecorded: outside and inside handler state, with and without a record. -/
theorem witness_traps :
    let s := actor run0 frame0
    let t : TrapInfo := { code := .bounds, sock := 0x208, slot := 0 }
    (ctxOf s 0).frame = some frame0 ∧ (ctxOf s 0).handler = false ∧ (ctxOf s 0).sys.ckmode = 0 ∧ t.code ≠ .softError ∧
    t.code ≠ .matrixFault ∧ t.code ≠ .doubleWrite ∧ handlerOf s 0 t.code = some 2 ∧
    (let u := actor { run0 with handler := true } frame0
     (ctxOf u 0).handler = true ∧ (ctxOf u 0).launch = some 0 ∧ launchOf u 0 = some launch0 ∧ fdomOf u (ctxRegion u 0) = 0 ∧
     launch0.tlist = false) ∧
    (let u := { actor { run0 with handler := true } frame0 with launches := [(0, { launch0 with tlist := true })] }
     launchOf u 0 = some { launch0 with tlist := true } ∧ fdomOf u (ctxRegion u 0) = 0) := by decide +kernel

def aside0 : Aside := { regs := {}, lat := Vector.replicate 14 {}, infl := [], link := [], loops := [], idle := 0, tick := 3 }

/-- softwareTrapAndReturn, returnRestores, checkpointModeSwitches. -/
theorem witness_software :
    let inH := { run0 with handler := true, aside := some aside0 }
    let bad := { inH with sys := { inH.sys with trapstat := 1 <<< 63 } }
    let f := { frame0 with todo := [.tret .start] }
    let ck := { run0 with sys := { run0.sys with ckmode := 1 } }
    meets (imm 7) run0 frame0 (fun _ x f => decide (x.sys.ckmode = 0 ∧ haltHeld f = none ∧ x.handler = false)) = true ∧
    meets (imm 7) ck { frame0 with header := 0x04000000 } (fun _ x f => decide (ckOn x = true ∧ 3 ≤ (hdrSpan f.header).toNat)) = true ∧
    meets (imm 0) ck { frame0 with todo := [.endTask .halt] } (fun _ x f => decide (x.handler = false ∧ ckOn x = true ∧ f.ck = false ∧
      (haltHeld f).isSome)) = true ∧
    meets (imm 0) inH { frame0 with todo := [.endTask .halt] } (fun _ x f => decide (x.handler = true ∧
      x.sys.trapstat &&& ~~~trapstatMask = 0 ∧ (haltHeld f).isSome)) = true ∧
    meets (imm 0) bad frame0 (fun _ x _ => decide (x.handler = true ∧ x.sys.trapstat &&& ~~~trapstatMask ≠ 0)) = true ∧
    meets (imm 0) inH frame0 (fun _ x f => decide (x.handler = true ∧ x.sys.trapstat &&& ~~~trapstatMask = 0 ∧
      haltHeld f = none)) = true ∧
    current (actor inH f) = some (0, { inH with frame := some f }, f) ∧ f.todo = [.tret .start] ∧ inH.aside = some aside0 ∧
    inH.async = [] ∧ inH.regs.conflict = none ∧ inH.sys.trapstat.getLsbD 30 = false ∧ inH.sys.trapstat.getLsbD 26 = false ∧
    inH.sys.ckmode = 0 ∧
    (ctxOf (actor run0 frame0) 0).frame = some frame0 ∧ (actor run0 frame0).args.a = 0 ∧
    { run0.sys with ckmode := 1 }.ckmode = 1 ∧ run0.sys.ckmode ≠ 1 := by decide +kernel

/-- multiplyDivideResults, addressResults: both sides of each condition. -/
theorem witness_scalar :
    let o := fun (u : FU) (x : Ctx) (f : Frame) (m : Mv) => opndsAt x f m u
    meets (imm 9) (withOps run0 .mul 2 0) frame0 (fun _ x f => decide ((o .mul x f (imm 9)).b64 ≠ 0)) = true ∧
    meets (imm 9) run0 frame0 (fun _ x f => decide ((o .mul x f (imm 9)).b64 = 0)) = true ∧
    meets (imm 9) (withOps run0 .agu 2 (1 <<< 32)) frame0 (fun _ x f => decide ((o .agu x f (imm 9)).c64.toNat / 2 ^ 32 ≠ 0)) = true ∧
    meets (imm 9) run0 frame0 (fun _ x f => decide ((o .agu x f (imm 9)).c64.toNat / 2 ^ 32 = 0)) = true ∧
    meets (imm 9) (withOps run0 .agu 9 10) frame0 (fun _ x f => let p := o .agu x f (imm 9)
      decide (p.b64.toNat ≤ p.a64.toNat ∧ p.a64.toNat < p.c64.toNat)) = true ∧
    meets (imm 9) (withOps run0 .agu 10 10) frame0 (fun _ x f => let p := o .agu x f (imm 9)
      decide (p.a64.toNat < p.b64.toNat)) = true ∧
    meets (imm 9) (withOps run0 .agu 9 9) frame0 (fun _ x f => let p := o .agu x f (imm 9)
      decide (p.c64.toNat ≤ p.a64.toNat)) = true := by decide +kernel


/-! ## Witnesses: scratchpad, vector unit, matrix engine, copy engines -/

/-- scratchpadOps: the last address of the area, the first beyond it, and a misaligned one, for the widest alignment; the
conditions of an eager one with checkpoint mode off, and on in a bundle that takes a checkpoint. -/
theorem witness_scratchpad :
    (∀ u ∈ [FU.ls0, .ls1], meetsG run0 u (65536 - 512) 0 0 (fun s _ _ o =>
        decide (o.a64.toNat < 2 ^ 20 ∧ o.a64.toNat + 512 ≤ areaOf s 0 ∧ o.a64.toNat % 64 = 0)) = true ∧
      meetsG run0 u (65536 - 511) 0 0 (fun s _ _ o => decide (areaOf s 0 < o.a64.toNat + 512)) = true ∧
      meetsG run0 u 0x100000 0 0 (fun _ _ _ o => decide (2 ^ 20 ≤ o.a64.toNat)) = true ∧
      meetsG run0 u 32 0 0 (fun s _ _ o => decide (o.a64.toNat + 512 ≤ areaOf s 0 ∧ o.a64.toNat % 64 ≠ 0)) = true) ∧
    meetsG run0 .ls0 0 0 0 (fun s x _ _ => decide (ckOn x = false ∧ inRound s 0 = false)) = true ∧
    (let y := { run0 with sys := { run0.sys with ckmode := 1 } }
     meets srcG y { frameG 0 with header := 0x04000000 } (fun s x f => decide (ckOn x = true ∧ 3 ≤ (hdrSpan f.header).toNat ∧
       inRound s 0 = false)) = true) := by decide +kernel

def pat0 : Pattern := { per := 7, fields := [] }

/-- Byte 16 of this descriptor names a field of 9 bits, byte 0 a period of 17 bits. -/
def pat9 : Pattern := { per := 16, fields := [⟨0, 8, false⟩] }

/-- extractorAndRingTraps: for each clause operands at the edge of its range. -/
theorem witness_extractor_traps :
    let ls := fun (a b c : D64) (P : Nat → Nat → Nat → Bool) =>
      meetsG run0 .ls0 a b c fun s x _ o => areaOf s 0 == 65536 && !ckOn x && !inRound s 0 && P o.a64.toNat o.b64.toNat o.c64.toNat
    let slot := fun (p : Option Pattern) (P : Frame → Opnds → Bool) =>
      meets (imm 0) run0 { frame0 with pats := frame0.pats.set 0 p } fun s x f => P f (opndsAt x f (imm 0) .ls0) && areaOf s 0 == 65536
    ls 0 2 0 (fun _ b _ => b % 4 != 0) = true ∧ ls 0 0x100004 0 (fun _ b _ => decide (b % 4 = 0 ∧ 2 ^ 20 < b)) = true ∧
    ls 0x100000 0 0 (fun a b _ => decide (b = 0 ∧ 2 ^ 20 ≤ a)) = true ∧
    ls 65532 8 0 (fun a b _ => decide (b ≠ 0 ∧ b % 4 = 0 ∧ a < 2 ^ 20 ∧ 65536 < a + b)) = true ∧
    ls 2 4 0 (fun a b _ => decide (b % 4 = 0 ∧ a + b ≤ 65536 ∧ a % 4 ≠ 0)) = true ∧
    ls 0 8 0 (fun _ b _ => decide (8 ≤ b)) = true ∧ ls 0x100000 7 0 (fun a b _ => decide (b < 8 ∧ 2 ^ 20 ≤ a)) = true ∧
    ls 65472 7 0 (fun a b _ => decide (b < 8 ∧ a < 2 ^ 20 ∧ 65536 < a + 80)) = true ∧
    ls 8 7 0 (fun a b _ => decide (b < 8 ∧ a + 80 ≤ 65536 ∧ a % 16 ≠ 0)) = true ∧
    (let s := { actor run0 (frameG 0) with cores := [(0, { core0 with spad := [(2, 1)] })] }
     (parsePattern (viewBytes s 0 0 0 80)).2 = false) ∧
    (let p := (parsePattern ([0, 0, 0, 0, 0, 0, 0, 0, 0, 0, 0, 0, 0, 0, 0, 0, 0x80, 0] ++ List.replicate 62 0)).1
     ∃ g ∈ p.fields, p.per + 1 < g.off + g.width + 1) ∧
    fieldsOverlap (parsePattern ([7, 1] ++ List.replicate 78 0)).1.fields = true ∧
    ls 0 64 0 (fun _ b _ => decide (64 ≤ b)) = true ∧ ls 0 8 0 (fun _ b _ => b / 8 % 2 == 1) = true ∧
    ls 0 48 0 (fun _ b _ => b / 16 % 4 == 3) = true ∧
    slot none (fun f o => o.b64.toNat == 0 && f.pats[0]? == some none) = true ∧
    slot (some pat9) (fun f o => o.b64.toNat == 0 && f.pats[0]? == some (some pat9) &&
      decide ((∃ g ∈ pat9.fields, 8 < g.width + 1) ∧ 8192 < patBits pat9 8)) = true ∧
    (let q : Pattern := { per := 7, fields := [⟨0, 7, false⟩] }
     meets srcG run0 { frameG 65536 with pats := (frameG 65536).pats.set 0 (some q) } (fun s x f => let o := opndsAt x f srcG .ls0
       decide (o.b64.toNat = 0 ∧ f.pats[0]? = some (some q) ∧ (∀ g ∈ q.fields, g.width + 1 ≤ 8) ∧ patBits q 8 ≤ 8192 ∧ 0 < patBits q 8 ∧
         areaOf s 0 < o.a64.toNat + (patBits q 8 + 7) / 8)) = true) ∧
    (let ck := { run0 with sys := { run0.sys with ckmode := 1 } }
     meetsG ck .ls0 0 64 64 (fun _ x f _ => ckOn x && decide ((hdrSpan f.header).toNat < 3)) = true) ∧
    (∀ n ∈ [65, 0, 65600], ls 0 64 (BitVec.ofNat 64 n) (fun _ _ c => decide (c % 64 ≠ 0 ∨ c < 64 ∨ 65536 < c)) = true) ∧
    ls 0 64 128 (fun a b n => decide (n % 64 = 0 ∧ a < b + n ∧ b < a + n)) = true ∧
    ls 0 65536 64 (fun a b n => decide (a + n ≤ b ∧ 65536 < b + n)) = true ∧
    ls 1 128 64 (fun a b n => decide (a + n ≤ b ∧ b + n ≤ 65536 ∧ a % 64 ≠ 0)) = true := by decide +kernel

/-- extractorAndRingTraps: an RROT of a context that runs a task of a deterministic round. -/
theorem witness_ring_in_round :
    let det := { region1 with rcb := region1.rcb.set 2 0xF040 }
    let y := { run0 with task := { seed := some { slot := 0 }, round := 1 } }
    inRound { actor y frame0 with regions := [(1, det)], launches := [(0, { launch0 with det := true })] } 0 = true ∧ ckOn y = false := by
  decide +kernel

/-- extractorAndRingOps: the last words of the area, no word at all past it, a pattern slot, and an RROT of one unit next to another. -/
theorem witness_extractor :
    meetsG run0 .ls0 65532 4 0 (fun s _ _ o => decide (o.b64.toNat % 4 = 0 ∧ o.b64.toNat ≤ 2 ^ 20 ∧ o.a64.toNat < 2 ^ 20 ∧
      o.a64.toNat + o.b64.toNat ≤ areaOf s 0 ∧ o.a64.toNat % 4 = 0)) = true ∧
    meetsG run0 .ls0 0xFFFFC 0 0 (fun _ _ _ o => decide (o.b64.toNat = 0 ∧ o.a64.toNat < 2 ^ 20 ∧ o.a64.toNat % 4 = 0)) = true ∧
    meetsG run0 .ls0 0 7 0 (fun s x _ o => decide (patsetCheck s 0 o = none ∧ spadBad s (ctxCore 0) o.a64.toNat 80 = false ∧
      inRound s 0 = false ∧ x.bundle = 0 ∧ x.ls = [])) = true ∧
    meets (imm 0) run0 { frame0 with pats := frame0.pats.set 0 (some pat0) } (fun s x f =>
      let o := opndsAt x f (imm 0) .ls0
      decide (ldpatCheck s 0 o = none ∧ f.pats[o.b64.toNat % 8]? = some (some pat0))) = true ∧
    meetsG run0 .ls1 0 64 64 (fun s _ _ o => let a := o.a64.toNat; let b := o.b64.toNat; let n := o.c64.toNat
      decide (n % 64 = 0 ∧ 64 ≤ n ∧ n ≤ 65536 ∧ a % 64 = 0 ∧ b % 64 = 0 ∧ a < 2 ^ 20 ∧ b < 2 ^ 20 ∧ a + n ≤ areaOf s 0 ∧
        b + n ≤ areaOf s 0 ∧ a + n ≤ b)) = true ∧
    meetsG run0 .ls1 64 0 64 (fun _ _ _ o => decide (o.b64.toNat + o.c64.toNat ≤ o.a64.toNat)) = true := by decide +kernel

/-- Context 0 with this oldest scratchpad operation. -/
def withLs (o : LsOp) : State := { world { run0 with ls := [o] } with args := { a := 0 } }

/-- StorePerforms: each of the kinds that write, the last at the top of the area. -/
theorem witness_store :
    ∀ p ∈ [(LsKind.store [1, 2, 3, 4], 65532), (.stew [1, 2, 3, 4, 5, 6, 7, 8], 0), (.feclr 8, 8)],
      let o : LsOp := { seq := 0, bundle := 0, unit1 := false, kind := p.1, addr := p.2, arrive := 0 }
      let s := withLs o
      (ctxOf s 0).ls = o :: [] ∧ inRound s 0 = false ∧ (coreOf s 0).spad.wf = true ∧
      (p.1 = .stew [1, 2, 3, 4, 5, 6, 7, 8] ∨ feProceeds s 0 o = true) := by decide +kernel

/-- StorePerforms: STEW proceeds where both its words are EMPTY, STFF always. -/
theorem witness_store_tags :
    (let o : LsOp := { seq := 0, bundle := 0, unit1 := false, kind := .stew [1, 2, 3, 4, 5, 6, 7, 8], addr := 8, arrive := 0 }
     feProceeds { withLs o with cores := [(0, { core0 with empty := [2, 3] })] } 0 o = true) ∧
    (let o : LsOp := { seq := 0, bundle := 0, unit1 := false, kind := .stff [1, 2, 3, 4, 5, 6, 7, 8], addr := 8, arrive := 0 }
     feProceeds (withLs o) 0 o = true) := by decide +kernel

/-- Vector operations: a slot acts (every further condition is on FEAT, which is 3 at reset, and may be 0). -/
theorem witness_vector :
    meetsG run0 .vec 5 6 7 (fun s _ _ _ => s.feat.testBit 0 && s.feat.testBit 1) = true ∧
    meets (imm 0) run0 frame0 (fun s _ _ => !({ s with feat := 0 }.feat.testBit 1) && !({ s with feat := 0 }.feat.testBit 0)) = true := by
  decide +kernel

def descA : Desc := { kind := 0, fmt := 0, stride := 4, base := 0 }

/-- Context 0 with descriptor slots 0 (A) and 1 (B) set; the form of each is MDESC's own. -/
def withDesc : Ctx := { run0 with desc := (run0.desc.set 0 (some descA)).set 1 (some { descA with base := 32768 }) }

/-- arrayOperations: K 256 of slots 0 and 1; MZERO and ASWAP of accumulator 3; APUSH of row 127; no area at all. -/
theorem witness_array :
    meetsG withDesc .mat 0x1000100 0 0 (fun s x _ o => decide (areaOf s 0 ≠ 0 ∧ mmaCheck false s 0 o = none ∧
      mmaCheck true s 0 o = none ∧ slotDesc x 0 = some descA ∧ (slotDesc x 1).isSome)) = true ∧
    meetsG run0 .mat 3 0 0 (fun s x _ o => decide (areaOf s 0 ≠ 0 ∧ o.a64.toNat < 4 ∧ x.sys.scb = false)) = true ∧
    meetsG run0 .mat 0x7F03 0 0 (fun _ _ _ o => decide (o.a64.toNat < 2 ^ 15 ∧ o.a64.toNat / 4 % 64 = 0)) = true ∧
    areaOf { actor run0 (frameG 0) with cores := [] } 0 = 0 ∧
    Acts { actor run0 (frameG 0) with cores := [] } srcG 0 { run0 with frame := some (frameG 0) } (frameG 0) :=
  ⟨by decide +kernel, by decide +kernel, by decide +kernel, by decide +kernel, ⟨rfl, rfl, rfl, rfl, rfl⟩⟩

/-- arrayOperations: no condition of R233 fails, for MMA and MGEMM; the second fails (K 0); an operation of the context whose
completion tick is still to come, under the scoreboard; operands out of range. -/
theorem witness_array_traps :
    (∀ g ∈ [false, true], meetsG withDesc .mat 0x1000100 0 0 (fun s x _ o => (mmaRows s 0 x g o.a64).all fun r => !r.1) = true ∧
      meetsG withDesc .mat 0x100 0 0 (fun s x _ o => ((mmaRows s 0 x g o.a64).find? (·.1)).isSome) = true) ∧
    (let x := { run0 with sys := { run0.sys with scb := true }, aticks := [{ id := 1, acc := 3, tick := 9, swap := false }] }
     meetsG x .mat 3 0 0 (fun _ x _ o => x.sys.scb && x.aticks.any fun t => !t.swap && (t.acc == o.a64.toNat % 4 || t.src == some (o.a64.toNat % 4)) &&
       decide (x.lsc < t.tick)) = true) ∧
    meetsG run0 .mat 4 0 0 (fun s x _ o => decide (areaOf s 0 ≠ 0 ∧ 4 ≤ o.a64.toNat ∧ o.a64.toNat / 4 % 64 ≠ 0 ∧ x.sys.scb = false)) = true ∧
    meetsG run0 .mat 0x8000 0 0 (fun _ _ _ o => decide (2 ^ 15 ≤ o.a64.toNat)) = true := by decide +kernel

/-- matrixRegisters: APOP of row 127 of a bank that is not poisoned; valid operands of MDESC and MDCV. -/
theorem witness_matrix_registers :
    meetsG run0 .mat 0x7F03 0 0 (fun s _ _ o => decide (areaOf s 0 ≠ 0 ∧ o.a64.toNat < 2 ^ 15 ∧ o.a64.toNat / 4 % 64 = 0 ∧
      bankBad (coreOf s 0) 3 (1 - workNow (coreOf s 0) 3) = false)) = true ∧
    meetsG run0 .mat 0 0x800000 0 (fun s _ _ o => decide (mdescCheck s 0 o = none)) = true ∧
    meetsG run0 .mat 0 0 0 (fun s _ _ o => decide (mdcvCheck s 0 o = none)) = true ∧
    meetsG run0 .mat 0 8 0 (fun s _ _ o => (mdescCheck s 0 o).isSome) = true ∧
    meetsG run0 .mat 0x8000000000000000 0 0 (fun s _ _ o => (mdcvCheck s 0 o).isSome) = true := by decide +kernel


/-- Core 0 with this head of its array queue. -/
def withArray (x : Ctx) (o : ArrayOp) : State :=
  { world x with cores := [(0, { core0 with aq := [o] })], args := { a := 0 } }

def aop (k : ArrayKind) : ArrayOp := { id := 9, ctx := 0, acc := 3, kind := k, tick := 5, started := true }

/-- ArraySteps: an operation that has not started, and a started head of each kind; the last K-step of a MGEMM. -/
theorem witness_array_steps :
    (let s := withArray run0 { aop .mzero with started := false }
     (coreOf s 0).aq = [] ++ { aop .mzero with started := false } :: [] ∧ (coreOf s 0).saving = false ∧ s.args.b = 0 ∧
     (aop .mzero).kind.isSwap = false) ∧
    (let p := { aop (.mma true true 512 descA descA 0) with ksteps := 1 }
     p.started = true ∧ p.kind.isSwap = false ∧ stepsOf p ≤ p.ksteps + 1) ∧
    (∀ p ∈ [ArrayKind.mzero, .apush 127 0, .mma true false 32 descA { descA with base := 32768 } 0], (coreOf (withArray run0 (aop p)) 0).aq = aop p :: []) ∧
    ctxCore (aop .mzero).ctx = 0 ∧ (aop .mzero).acc < 4 ∧
    Sparse.wf 0 (accBank (coreOf (withArray run0 (aop (.apush 127 0))) 0) 3 (workNow (coreOf (withArray run0 (aop (.apush 127 0))) 0) 3)) = true ∧
    (let o := aop (.mma true false 32 descA { descA with base := 32768 } 0)
     productFault (withArray run0 o) o true 32 descA { descA with base := 32768 } 0 (32 / groupSize descA.fmt) = none) ∧
    (let o := { aop (.mma true true 512 descA { descA with base := 32768 } 0) with ksteps := 1 }
     o.ksteps < 512 / 256 ∧ productFault (withArray run0 o) o (true && o.ksteps == 0) 512 descA { descA with base := 32768 } (o.ksteps * (256 / groupSize descA.fmt)) (256 / groupSize descA.fmt) = none) ∧
    (let o := { aop .aswap with started := false }; (coreOf (withArray run0 o) 0).aq = o :: [] ∧ o.acc < 4) := by decide +kernel


/-- Page tables of address space 5: its first 256 MiB are one resident page, which may be written, of the physical address 0;
`leaf` is the word of that page. -/
def tables (leaf : D64) : Memory :=
  Memory.writeBytes (Memory.writeBytes (Memory.writeBytes [] 0x10000 (leBytes 8 (2 ^ 63 + 0x12000)))
    0x12000 (leBytes 8 (2 ^ 63 + 0x13000))) 0x13000 (leBytes 8 leaf.toNat)
def page0 : D64 := 0xF000000000000000
def space5 : Space := { root := some 0x10000 }

/-- Copy job 9 of context 0, and a state that has this job on die 0. -/
def job0 (k : JobKind) : Job :=
  { id := 9, ctx := 0, core := 0, region := 1, launch := 0, kind := k, asid := 5, gen := 0, token := 0 }
def withJob (j : Job) : State :=
  { world run0 with dies := [(0, { jobs := [j] })], args := { a := 0, b := 9 }, spaces := [(5, space5)], mem := tables page0 }

/-- A card of `kind` from space `ss` to space `ds` that moves one row of 64 bytes. -/
def card (kind ss ds : Nat) : List D64 :=
  [BitVec.ofNat 64 (kind + 2 ^ 8 * ss + 2 ^ 10 * ds), 0, 4096, BitVec.ofNat 64 (64 + 2 ^ 32 + 2 ^ 48),
   if kind = 2 then 64 else 0, if kind = 3 then 64 else 0, 0, 0]

/-- The spaces that each kind of card is given here (R250). -/
def kinds : List (Nat × Nat × Nat) := [(0, 0, 1), (1, 1, 0), (2, 0, 1), (3, 1, 0), (4, 1, 1), (5, 0, 3)]

/-- cardChecks, copyCommands: a card of the scratchpad whose checks pass, and one for each check that fails. -/
theorem witness_card_checks :
    let at_ := fun (ws : List D64) (a : Nat) =>
      let y : Core := { core0 with spad := Memory.writeBytes [] 0 ((ws.map fun w => leBytes 8 w.toNat).flatten) }
      let s := { world run0 with cores := [(0, y)] }
      let o : Opnds := { opndsAt run0 frame0 (imm 0) .cpy with a := BitVec.ofNat 4096 a }
      (cpyCheck s 0 o, (cardOf (cardWords s 0 a)).bad, (cardOf (cardWords s 0 a)).outside (areaOf s 0),
        (cardOf (cardWords s 0 a)).misaligned, decide (a + 64 ≤ areaOf s 0))
    let big := BitVec.ofNat 64 65536
    at_ (card 0 0 1) 0 = (none, false, false, false, true) ∧
    (at_ (card 0 0 1) 65535).1 = some .spadRange ∧ (at_ (card 0 0 1) 32).1 = some .misaligned ∧
    at_ (card 7 0 1) 0 = (some .bounds, true, false, false, true) ∧
    at_ ((card 0 0 1).set 2 big) 0 = (some .spadRange, false, true, false, true) ∧
    at_ ((card 4 1 1).set 2 1) 0 = (some .misaligned, false, false, true, true) ∧
    (at_ [6, 0, 524288, BitVec.ofNat 64 (2 ^ 32 + 2 ^ 48), 0, 0, 0, 0] 0).1 = none := by decide +kernel

/-- copyCommands: each command passes its checks, with room for its job and with none; copyLoadsAndQueries: each operand. -/
theorem witness_copy_commands :
    let ok : State := { actor run0 (frameG 0) with
      cores := [(0, { core0 with spad := Memory.writeBytes [] 0 (((card 0 0 1).map fun w => leBytes 8 w.toNat).flatten) })] }
    ok.active = some 0 ∧ ctxOf ok 0 = { run0 with frame := some (frameG 0) } ∧ guardHolds (frameG 0).regs srcG.guard = true ∧
    (frameG 0).dry = false ∧
    cpyCheck ok 0 (opndsAt run0 (frameG 0) srcG .cpy) = none ∧ ckOn run0 = false ∧ run0.going = [] ∧
    jobFits ok 0 (newJob ok 0 0 (.card (card 0 0 1))) = true ∧
    jobFits { ok with dies := [(0, { jobs := List.replicate 64 (job0 (.card (card 0 0 1))) })] } 0 (newJob ok 0 0 (.card (card 0 0 1))) = false ∧
    meetsG run0 .cpy 0 0 1 (fun s _ _ o => cpstCheck s 0 o == none && pagereqCheck s 0 o == none) = true ∧
    meetsG run0 .cpy 0 0 0 (fun s _ _ o => cpstCheck s 0 o == some .bounds) = true ∧
    meetsG run0 .cpy 63 0x00010001 0 (fun s _ _ o => cpldCheck s 0 o == none) = true ∧
    meetsG run0 .cpy 63 0x08010001 0 (fun s _ _ o => cpldCheck s 0 o == none && o.b64.getLsbD 27) = true ∧
    ([0#64, 1, 2, 4, 63, 511, 512].all fun n => meetsG run0 .cpy n 0 0 fun _ _ _ o => o.a64 == n) = true := by
  decide +kernel

/-- cardDispatch: for each kind a card that the die dispatches, of the current generation and of a budget that suffices or not;
for each later check one that fails it. -/
theorem witness_dispatch :
    (∀ p ∈ kinds, let j := job0 (.card (card p.1 p.2.1 p.2.2))
      let s := { withJob j with ctxs := [(0, { run0 with status := if p.1 = 5 then .halted else .running })] }
      s.args.a = 0 ∧ jobOf s 0 s.args.b = some j ∧ (cardOf (card p.1 p.2.1 p.2.2)).kind = p.1 ∧ j.chan = none ∧ j.ended = false ∧
      j.moving = false ∧ j.held = 0 ∧ (dispatchChan s 0 j).isSome = true ∧
      (spaceOf s j.asid).gen = j.gen ∧ (dispatchChan (withJob { j with gen := 1 }) 0 { j with gen := 1 }).isSome = true ∧
      (cardOf (card p.1 p.2.1 p.2.2)).cost ≤ (regionOf s (budgetRegion s j.region 9)).copyb ∧
      (Tab.find s.regions (budgetRegion s j.region 9)).isSome ∧ badSpace s j (cardOf (card p.1 p.2.1 p.2.2)) = none ∧
      wsCheck s 0 j (cardOf (card p.1 p.2.1 p.2.2)) = none ∧
      badIndex (cardOf (card p.1 p.2.1 p.2.2)) (indexList s j (cardOf (card p.1 p.2.1 p.2.2))) = none ∧
      (let t := { s with regions := [(1, { region1 with copyb := 63 })] }
       (dispatchChan t 0 j).isSome = true ∧ (regionOf t (budgetRegion t j.region 9)).copyb < (cardOf (card p.1 p.2.1 p.2.2)).cost)) ∧
    (let w := (card 4 2 1).set 1 0x100000; let j := job0 (.card w); badSpace (withJob j) j (cardOf w) = some 0 ∧
      (dispatchChan (withJob j) 0 j).isSome = true) ∧
    (let w := (card 5 0 3).set 2 0x1000000; let j := job0 (.card w); wsCheck (withJob j) 0 j (cardOf w) = some (5, 1) ∧ (cardOf w).ds ≠ 0) ∧
    (let w := (card 2 0 1).set 4 63; let j := job0 (.card w)
     badIndex (cardOf w) (indexList (withJob j) j (cardOf w)) = some 0) := by decide +kernel

/-- cardDispatch: a card to MEM whose destination page can be written, and one whose second row begins where there is no page; no
translation is cached. -/
theorem witness_dispatch_to_memory :
    (let k := card 1 1 0; let j := job0 (.card k); let s := withJob j
     badSpace s j (cardOf k) = none ∧ wsCheck s 0 j (cardOf k) = none ∧ (cardOf k).ds = 0 ∧ s.mem.wf = true ∧ (dieOf s 0).tlb = [] ∧
     pageEntries (cardOf k) [] = [0] ∧ streamAddr (cardOf k) [] true 0 = 4096 ∧ (walkVa s 5 4096).1 = .page page0 0x13000 28 ∧
     page0.getLsbD 60 = true ∧ s.migs = [] ∧ (spaceOf s 5).root.all (· % 8 == 0) = true ∧ (spaceOf s 5).root.isSome) ∧
    (let k := [0x101#64, 0, 4096, BitVec.ofNat 64 (64 + 2 * 2 ^ 32 + 2 ^ 48), 0, BitVec.ofNat 64 (2 ^ 28), 0, 0]
     let j := job0 (.card k); let s := withJob j
     (cardOf k).kind = 1 ∧ (cardOf k).ds = 0 ∧ badSpace s j (cardOf k) = none ∧ wsCheck s 0 j (cardOf k) = none ∧
     pageEntries (cardOf k) [] = [0] ++ 64 :: [] ∧ streamAddr (cardOf k) [] true 64 = 4096 + 2 ^ 28 ∧ (walkVa s 5 (4096 + 2 ^ 28)).1 = .invalid) := by
  decide +kernel

/-- writeSteps, cardWrites: a unit that the card writes whole by two rows, of which one has been read, and both; a unit of which it
writes 32 bytes: a run of its own. -/
theorem witness_write_steps :
    let ws := [0x501#64, 0, 4096, BitVec.ofNat 64 (32 + 2 * 2 ^ 32 + 2 ^ 48), 0, 32, 0, 0]
    let k := cardOf ws
    let a : Piece := ⟨0, List.replicate 32 1, false⟩; let b : Piece := ⟨32, List.replicate 32 2, false⟩
    let j := { job0 (.card ws) with chan := some 0, moving := true, read := 64, buf := [a, b] }
    wholeUnit (unitParts k [] (pieceUnit j k a)) = true ∧ stepPieces j k a = some [a, b] ∧
    runsOf j k [a, b] = [(4096, List.replicate 32 1 ++ List.replicate 32 2, false)] ∧ NatSet.mem j.marked (4096 / 64) = false ∧
    (let h := { j with read := 32, buf := [a] }; stepPieces h k a = none ∧ ∃ r ∈ unitParts k h.words (pieceUnit h k a), r.1 = 32 ∧ r.2.2 = 32 ∧ unread h k = [(32, 64)]) ∧
    unread j k = [] ∧
    (let k1 := cardOf (ws.set 3 (BitVec.ofNat 64 (32 + 2 ^ 32 + 2 ^ 48)))
     wholeUnit (unitParts k1 [] (pieceUnit j k1 a)) = false ∧ stepPieces j k1 a = some [a] ∧ runsOf j k1 [a] = [(4096, a.bytes, false)]) := by
  decide +kernel

/-- cardReadsRuns, CardBytesArriveWrites: a card of each kind that moves, in its slot, with a run read and not yet written. -/
theorem witness_card_moves :
    ∀ p ∈ kinds, let ws := card p.1 p.2.1 p.2.2
      let j := { job0 (.card ws) with chan := some 0, moving := true, read := 32, words := [0], buf := [⟨0, [1, 2, 3], false⟩] }
      let s := withJob j
      jobOf s 0 s.args.b = some j ∧ (cardOf ws).kind = p.1 ∧ j.chan.isSome = true ∧ j.moving = true ∧ j.ended = false ∧
      unread j (cardOf ws) = [(32, 64)] ∧ (∀ m ∈ [5, 40], { s with args := { s.args with c := m } }.args.c = m) ∧ slotOpen s 0 j = true ∧ j.buf[s.args.c]? = some ⟨0, [1, 2, 3], false⟩ ∧ j.ov = none ∧
      (coreOf s 0).spad.wf = true ∧ (dieOf s 0).ws.wf = true ∧
      (p.2.2 = 0 → (cardPage s 0 j 4096).1 = .yes page0 28 ∧ s.migs = [] ∧ s.lags = []) := by decide +kernel

/-- CardBytesArriveWrites: a page that the tables let be written no more, which the card found writable at its dispatch. -/
theorem witness_kept_page :
    let j := { job0 (.card (card 1 1 0)) with chan := some 0, moving := true, leaves := [(4096, page0, 28)] }
    (cardPage { withJob j with mem := tables 0xE000000000000000 } 0 j 4096).1 = .yes page0 28 := by decide +kernel

/-- CardBytesArriveWrites: the last run of a card with TAGF. R207: rows of 2 bytes, two of which share a word: the tag comes with
the second of them. -/
theorem witness_tags_on_arrival :
    let ws := [0x1501#64, 0, 4096, 0x0002000200000002, 0, 0x0000000200000004, 0, 0]
    let j := { job0 (.card ws) with chan := some 0, moving := true }
    let l := { j with read := 8, buf := [⟨4, [1, 2], false⟩] }
    let s := withJob l
    jobOf s 0 9 = some l ∧ (cardOf ws).tagf = true ∧ (cardOf ws).len = 8 ∧ slotOpen s 0 l = true ∧ tagWords 4098 2 = [1024] ∧
    doneWords l (cardOf ws) [⟨4, [1, 2], false⟩] 4098 4098 2 = [1024] ∧
    doneWords { j with read := 2, buf := [⟨0, [1, 2], false⟩] } (cardOf ws) [⟨0, [1, 2], false⟩] 4096 4096 2 = [] := by decide +kernel

/-- CopyCompletion: what a card owes; one that has ended, without and with a bitmap; a CPST at a page that can be written, at
none, and of a generation that is gone. -/
theorem witness_completion :
    let ws := card 0 0 1
    let wr := ws.set 0 0x4400
    let j := { job0 (.card ws) with chan := some 0, ended := true }
    let st := job0 (.cpst 64 [1]); let s := withJob st
    (∀ o ∈ [0, 64], jobOf (withJob { j with owed := o }) 0 9 = some { j with owed := o }) ∧
    (cardOf ws).rmap = false ∧ (cardOf wr).rmap = true ∧
    jobOf (withJob { j with kind := .card wr, moving := true }) 0 9 = some { j with kind := .card wr, moving := true } ∧
    (let e : SemEntry := { word := BitVec.ofNat 128 (2 * 2 ^ 124 + 3 * 2 ^ 80 + 3 * 2 ^ 64 + 64), owner := 1 }
     let t := { withJob { j with owed := 64 } with sems := [(0, e)] }
     (cardOf ws).bsem = 0 ∧ (entryOf t 0).type = 2 ∧ (entryOf t 0).arrived = (entryOf t 0).expect ∧ (entryOf t 0).pendBytes = BitVec.ofNat 64 64 ∧
     (entryOf t 0).poison = false ∧ semUse t 1 e false = true ∧ j.region = 1 ∧ NatSet.mem t.unreach (semNode 0) = false) ∧
    (let w : Lag := { job := 9, ctx := 0, core := 0, die := 0, level := 1, unit := 7, old := [] }; ({ withJob j with lags := [w] }.lags.filter fun (l : Lag) => l.job == j.id)[0]? = some w ∧ w.level < 3) ∧
    { withJob j with args := { a := 0, b := 9, c := 1 } }.args.c ≠ 0 ∧ (withJob j).args.c = 0 ∧ j.owed = 0 ∧
    { st with ended := true }.ended = true ∧
    (let far := 0xF000100000000000#64; (writable { s with mem := tables far, nodes := [0, 1], unreach := [1] } 0 portChan 5 64).1 = .unreach 1 far 28) ∧
    jobOf s 0 9 = some st ∧ smallBehind s st 64 = false ∧ (spaceOf s 5).gen = st.gen ∧
    (writable s 0 portChan 5 64).1 = .yes page0 28 ∧
    smallBehind s st (2 ^ 28) = false ∧ (writable s 0 portChan 5 (2 ^ 28)).1 = .wfault ∧ (spaceOf s 5).gen ≠ { st with gen := 3 }.gen := by
  decide +kernel

/-- migrationAndPaging, migrationPullsLine: a MIGRATE that is dispatched, and one that waits for a record that is gone; a page
that is there, one that is absent, and none at all; a record with a line that is absent. -/
theorem witness_migration :
    let mig := fun (n : D64) => [6, 0, 0x100000#64, BitVec.ofNat 64 (2 ^ 32 + 2 ^ 48) + n, 0, 0, 0, 0]
    let j0 := job0 (.card (mig 0)); let j1 := { job0 (.card (mig 1)) with chan := some 0, moving := true }
    let rich := fun (j : Job) => { withJob j with regions := [(1, { region1 with copyb := 524288 })] }
    jobOf (rich j0) 0 9 = some j0 ∧ (cardOf (mig 0)).kind = 6 ∧ (cardOf (mig 0)).xn = 0 ∧ (dispatchChan (rich j0) 0 j0).isSome = true ∧
    (spaceOf (rich j0) 5).gen = j0.gen ∧ (cardOf (mig 0)).cost ≤ (regionOf (rich j0) (budgetRegion (rich j0) 1 9)).copyb ∧
    (cardOf (mig 1)).xn = 1 ∧ ((withJob j1).migs.any fun m => m.new == frameKey (cardOf (mig 1)).db) = false ∧
    (let q := job0 (.pagereq 0 true); let s := withJob q
     jobOf s 0 9 = some q ∧ s.fw.paused = false ∧ (walkVa s 5 0).1 = .page page0 0x13000 28 ∧ page0.getLsbD 60 = true ∧
     (walkVa s 5 (2 ^ 28)).1 = .invalid ∧ s.migs = [] ∧
     (walkVa { s with mem := tables 0xC000000000000000 } 5 0).1 = .absent 0xC000000000000000 0x13000 28 ∧
     (tables 0xC000000000000000).wf = true ∧ s.args.c = 0 ∧ s.args.d = 0 ∧ NatSet.mem s.unreach (pteNode 0xC000000000000000) = false ∧
     NatSet.mem { s with unreach := [0] }.unreach (pteNode 0xC000000000000000) = true ∧ { s with fw := { s.fw with paused := true } }.fw.paused = true ∧
     (walkVa { s with mem := tables 0xE000000000000000 } 5 0).1 = .page 0xE000000000000000 0x13000 28 ∧
     (0xE000000000000000#64).getLsbD 60 = false) ∧
    (let r : Migration := { new := 0x100000, old := 0x180000, absent := [511], active := true, asid := 5 }
     let s := { withJob j0 with migs := [r], args := { a := 0x100000, b := 511 } }
     s.migs.find? (fun r => r.new == s.args.a && r.active && r.absent.contains s.args.b) = some r ∧ s.mem.wf = true ∧ absentAt s.migs 0x1FFC00 = none) ∧
    (let m : Migration := { new := 0x100000, old := 0x180000, absent := [511], active := true, asid := 5 }
     let r : Migration := { new := 0x180000, old := 0x200000, absent := [511], active := true, asid := 5 }
     let at_ := m.old + 1024 * 511
     let s := { withJob j0 with migs := [m, r], args := { a := 0x100000, b := 511 } }
     s.migs.find? (fun r => r.new == s.args.a && r.active && r.absent.contains s.args.b) = some m ∧
     absentAt s.migs at_ = some r ∧ (at_ - r.new) % 1024 = 0 ∧ absentAt s.migs (r.old + (at_ - r.new)) = none) := by
  decide +kernel


/-! ## Witnesses: semaphores and carats -/

/-- semaphoreReturns: operands with which each row passes its checks (STX: a descriptor of one slot at address 0), in the last
and the first form; a failing check; the eager ones with checkpoint mode off. -/
theorem witness_sem_returns :
    let d := leBytes 8 (2 ^ 32)
    let s := { actor run0 (frameG 0) with cores := [(0, { core0 with spad := Memory.writeBytes [] 0 d })] }
    let ops : List (D64 × D64) := List.replicate 5 (0, 0) ++ [(0, 0), (0, 0), (1, 0), (1, 0)] ++ List.replicate 4 (2, 3) ++
      [(2, 0), (255, 0), (0, 0)]
    ops.length = semReturns.length ∧
    ((semReturns.zip ops).all fun p =>
      let o := opndsAt (withOps run0 .sem p.2.2 0) (frameG p.2.1) srcG .sem
      p.1.check s 0 o == none && (p.1.check s 0 (opndsAt run0 (frameG 0x40000000) srcG .sem)).isSome &&
        meetsG run0 .sem p.2.1 p.2.2 0 fun t x _ _ => !ckOn x && !inRound t 0 && x.going == []) = true := by decide +kernel

/-- semaphoreQuiet: likewise; withheld, in a round, and at once. -/
theorem witness_sem_quiet :
    let ops : List (D64 × D64) := [(0, 0), (1, 0), (1, 5), (2, 0x20000), (2, 1), (2, 1), (3, 0)]
    let det := { region1 with rcb := region1.rcb.set 2 0xF040 }
    let y := { run0 with task := { seed := some { slot := 0 }, round := 1 } }
    ops.length = semQuiets.length ∧
    ((semQuiets.zip ops).all fun p =>
      meetsG run0 .sem p.2.1 p.2.2 0 (fun s x _ o => p.1.1.check s 0 o == none && !ckOn x && !inRound s 0 && x.going == []) &&
      (p.1.1.check (actor run0 frame0) 0 (opndsAt run0 (frameG 0x40000000) srcG .sem)).isSome &&
      meetsG { run0 with sys := { run0.sys with ckmode := 1 } } .sem p.2.1 p.2.2 0 fun s x _ o => p.1.1.check s 0 o == none && ckOn x) = true ∧
    inRound { actor y frame0 with regions := [(1, det)], launches := [(0, { launch0 with det := true })] } 0 = true := by decide +kernel

/-- Semaphore operation 9 of context 0 on the world's entries, and a state in which it reaches its entry. -/
def semOp (k : SemKind) (a : Nat) (b c : D64) (r : Option Nat) : SemOp :=
  { id := 9, ctx := 0, die := 0, region := 1, kind := k, addr := a, b := b, c := c, result := r }
def withSem (o : SemOp) : State := { world run0 with semOps := [o], args := { a := 9 } }

/-- The operation reaches its entry. -/
theorem atEntry (o : SemOp) (h : o.id = 9) (hr : o.rel = false) (hn : opPlace (withSem o) o / 8 = 0) : AtEntry (withSem o) o where
  found := by simp [withSem, h]
  first := by simp [withSem, aheadAt]
  sent := by simp [hr]
  near := by simp only [hn]; rfl

/-- The theorem above applies to every operation below. -/
theorem witness_at_entry :
    (∀ k ∈ [SemKind.sld, .sst, .sadd, .smin, .smax, .scas, .swaitge], opPlace (withSem (semOp k 0 7 5 (some 3))) (semOp k 0 7 5 (some 3)) / 8 = 0) ∧
    (∀ k ∈ [SemKind.barr, .bexp, .btest, .bwait], opPlace (withSem (semOp k 1 7 5 (some 3))) (semOp k 1 7 5 (some 3)) / 8 = 0) ∧
    (∀ k ∈ [SemKind.cxfer 0, .cbal, .cfloor, .cmint, .cburn, .ctotal, .sinit, .cinfo],
      opPlace (withSem (semOp k 2 3 5 (some 3))) (semOp k 2 3 5 (some 3)) / 8 = 0) := by decide +kernel

/-- CounterOperations: a usable counter, one that is not, and both sides of SCAS's comparison. -/
theorem witness_counters :
    let s := withSem (semOp .sadd 0 7 0 none)
    counterBad s 1 0 true = none ∧ counterBad s 1 0 false = none ∧ (counterBad s 1 1 true).isSome ∧ (counterBad s 1 1 false).isSome ∧
    (entryOf s 0).value = 7 ∧ (semOp .scas 0 7 0 (some 3)).b = 7 ∧ (entryOf s 0).value ≠ 8 ∧ (semOp .sld 1 0 0 (some 3)).result.isSome := by
  decide +kernel

/-- A barrier word: expects `e`, with `a` arrived. -/
def barrier (e a : Nat) : SemEntry := ({ word := 2 * 2 ^ 124, owner := 1 } : SemEntry) |> fun x =>
  { x with word := x.word ||| BitVec.ofNat 128 (e * 2 ^ 80 + a * 2 ^ 64) }

/-- BarrierOperations: one arrival short of EXPECT, none short, pending bytes; a barrier that a card's decrement completes or not. -/
theorem witness_barriers :
    let s := { withSem (semOp .barr 1 0 0 none) with sems := [(1, barrier 3 2), (4, barrier 3 3)] }
    barrierBad s 1 1 false = none ∧ barrierBad s 1 1 true = none ∧ barrierBad s 1 4 false = none ∧
    semUse s 1 (entryOf s 1) false = true ∧ semUse s 1 (entryOf s 4) false = true ∧ semUse s 1 (entryOf s 9) false = false ∧
    (entryOf s 1).arrived ≠ (entryOf s 1).expect ∧ (entryOf s 1).arrived < 2 ^ 16 - 1 ∧ (entryOf s 4).arrived = (entryOf s 4).expect ∧
    (entryOf s 1).type = 2 ∧ (entryOf s 1).poison = false ∧ NatSet.mem s.unreach (semNode 1) = false ∧
    (entryOf s 4).pendBytes = BitVec.ofNat 64 0 ∧ (entryOf s 4).type = 2 ∧ (entryOf s 4).poison = false ∧ inRound s 0 = false ∧
    (let j := { job0 (.card (card 0 0 1)) with chan := some 0, moving := true, owed := 64 }
     jobOf (withJob j) 0 9 = some j ∧ j.region = 1 ∧ j.owed ≠ 0 ∧ j.ov = none) := by decide +kernel

/-- WatchesWait: thresholds at VALUE and one above, both phases, and a watch that SADD 1 completes. -/
theorem witness_watches :
    let s := withSem (semOp .swaitge 0 7 0 (some 3))
    (entryOf s 0).poison = false ∧ (entryOf s 0).type = 1 ∧ semUse s 1 (entryOf s 0) true = true ∧
    ((entryOf s 0).value - 7).msb = false ∧ ((entryOf s 0).value - 8).msb = true ∧
    (entryOf s 1).type = 2 ∧ semUse s 1 (entryOf s 1) true = true ∧ (entryOf s 1).phase = (0#64).getLsbD 0 ∧
    (entryOf s 1).phase ≠ (1#64).getLsbD 0 ∧
    (let p := { semOp .swaitge 0 8 0 (some 3) with id := 2, armed := true }
     let o := semOp .sadd 0 1 0 (some 4)
     let t := { withSem o with semOps := [p, o] }
     p ∈ t.semOps ∧ p.armed = true ∧ p.addr = o.addr ∧ p.id ≠ o.id ∧ counterBad t 1 0 false = none ∧
     semUse t p.region (entryOf t 0) true = true ∧ ((entryOf t 0).value + o.b - p.b).msb = false) := by decide +kernel

/-- AccountOperations: a usable account, with a change in range and one that leaves it. -/
theorem witness_accounts :
    let s := withSem (semOp .cmint 2 0xFFFFFFFFFFFFFFFF 0 none)
    let full : SemEntry := { word := 0x300000FF7FFFFFFFFFFFFFFFFFFFFFFF#128, owner := 1 }
    accountBad s 1 2 true = none ∧ accountBad s 1 2 false = none ∧ (entryOf s 2).bal + 2 ^ 64 < 2 ^ 95 ∧
    -(2 ^ 95) ≤ (entryOf s 2).bal - 2 ^ 64 ∧ accountBad { s with sems := [(2, full)] } 1 2 false = none ∧
    2 ^ 95 ≤ (entryOf { s with sems := [(2, full)] } 2).bal + 1 ∧
    (let low : SemEntry := { full with word := 0x300000FF800000000000000000000000#128 }
     accountBad { s with sems := [(2, low)] } 1 2 false = none ∧ (entryOf { s with sems := [(2, low)] } 2).bal - 1 < -(2 ^ 95)) := by
  decide +kernel

/-- transferOnDie: each mode; an amount at the floor and one beyond it; a destination that refuses. -/
theorem witness_transfer :
    let s := fun (b c : D64) => withSem (semOp (.cxfer 0) 2 b c (some 3))
    let e := entryOf (s 3 0) 2
    accountBad (s 3 0) 1 2 false = none ∧ classOf (s 3 0) e.cls = some 20 ∧ e.frozen = false ∧ semPlace 3 = semPlace 2 ∧
    xferBlocked (s 3 0) 0 3 9 = false ∧ e.bal - e.floor * 2 ^ 20 = 0x500000 ∧
    (∀ n ∈ [0, 0x500000, 0x500001], 0 ≤ e.bal - n + 2 ^ 95) ∧ 3 ≠ (semOp (.cxfer 0) 2 3 0 (some 3)).addr ∧
    (let f : SemEntry := { word := 0x380000FF000000000000000000500000#128, owner := 1 }
     let t := { withSem (semOp (.cxfer 0) 2 3 0 (some 3)) with sems := [(2, f)] }
     (entryOf t 2).frozen = true ∧ accountBad t 1 2 false = none ∧ classOf t (entryOf t 2).cls = some 20 ∧
     staysArmed t (semOp (.cxfer 0) 2 3 0 (some 3)) = false) ∧
    (let f : SemEntry := { word := 0x340006FF000000000000000000500000#128, owner := 1 }
     f.bal - f.floor * 2 ^ 20 < 0 ∧ f.frozen = false) ∧ destBad (s 3 0) 1 e.cls 3 0x500000 = none ∧
    (destBad (s 1 0) 1 e.cls 1 0x500000).isSome ∧
    ((0x000000003#64).extractLsb' 32 2).toNat = 0 ∧ ((0x100000003#64).extractLsb' 32 2).toNat = 1 ∧
    ((0x200000003#64).extractLsb' 32 2).toNat = 2 := by decide +kernel

/-- A transfer of 5 quanta from account 2 to account 3. -/
def xfer0 : Xfer := { id := 9, ctx := 0, region := 1, result := some 3, src := 2, dst := 3, amount := 5, cls := 255, rem := 0, status := 0 }

/-- transferBetweenDies: a destination on die 1; a credit that is taken, and one that is refused; a refund, an acknowledgement. -/
theorem witness_transfer_far :
    let s := withSem (semOp (.cxfer 0) 2 (2 ^ 14) 5 (some 3))
    accountBad s 1 2 false = none ∧ semPlace (2 ^ 14) ≠ semPlace 2 ∧ (5 : Int) ≤ (entryOf s 2).bal - (entryOf s 2).floor * 2 ^ 20 ∧
    (∀ m ∈ [0, 1, 2], let t := withSem (semOp (.cxfer 0) 2 (BitVec.ofNat 64 (m * 2 ^ 32 + 2 ^ 14)) 5 (some 3))
      (((BitVec.ofNat 64 (m * 2 ^ 32 + 2 ^ 14)).extractLsb' 32 2).toNat = m ∧ semPlace (2 ^ 14) ≠ semPlace 2 ∧ accountBad t 1 2 false = none ∧
       (entryOf t 2).bal - (entryOf t 2).floor * 2 ^ 20 < 0x500001)) ∧
    (let t := { world run0 with xfers := [xfer0], args := { a := 9 }, transit := [(255, 5)] }
     t.xfers.find? (fun y => y.id == t.args.a && y.stage == .credit) = some xfer0 ∧ xferCut t xfer0 = false ∧
     xferBlocked t 0 3 9 = false ∧ destBad t 1 255 3 5 = none ∧ (destBad t 1 255 1 5).isSome ∧
     (entryOf t 2).bal + 5 < 2 ^ 95 ∧ 5 ≤ transitOf t (semPlace 2) 255) ∧
    (∀ st ∈ [XferStage.refund, .ack], let x := { xfer0 with stage := st }
     let t := { world run0 with xfers := [x], args := { a := 9 }, transit := [(255, 5)] }
     t.xfers.find? (fun y => y.id == t.args.a && y.stage == st) = some x ∧ xferCut t x = false) := by decide +kernel

/-- SetupAndQueries: an entry of the region that may be set up, one that may not; a class that is defined, one that is not. -/
theorem witness_setup :
    let s := withSem (semOp .sinit 3 1 0 none)
    semUse s 1 (entryOf s 3) false = true ∧ (entryOf s 3).bal = 0 ∧ (entryOf s 3).poison = false ∧ (entryOf s 0).type ≠ 3 ∧
    semUse s 1 (entryOf s 0) false = true ∧ semUse s 1 (entryOf s 9) false = false ∧ (entryOf s 2).type = 3 ∧ (entryOf s 2).bal ≠ 0 ∧
    ((0x3#64).extractLsb' 0 4).toNat = 3 ∧ (classOf s 255).isSome ∧ classOf s 0 = none ∧ classOf s 255 = some 20 ∧
    semUse s 1 (entryOf s 2) true = true ∧ transitOf s (ownPlace s 0) 255 < 2 ^ 64 := by decide +kernel

/-- SetupAndQueries: a descriptor of each type, with room for an account and with none; entries that may not be set up; the selectors. -/
theorem witness_setups :
    let s := withSem (semOp .sinit 3 1 0 none)
    (∀ t ∈ [0, 1, 2, 3], ((BitVec.ofNat 64 (t + 255 * 2 ^ 8)).extractLsb' 0 4).toNat = t) ∧
    ((BitVec.ofNat 64 (3 + 255 * 2 ^ 8)).extractLsb' 8 8).toNat = 255 ∧ accountRoom s (entryOf s 0).owner = true ∧
    (let t := { s with sems := [(2, { word := 0x300000FF000000000000000000000000#128, owner := 1, poison := true })] }
     semUse t 1 (entryOf t 2) false = true ∧ (entryOf t 2).poison = true ∧ mintPolicy t 1 = true ∧
     mintPolicy { t with regions := [(1, { region1 with rcb := region1.rcb.set 2 0 })] } 1 = false) ∧
    (∀ a ∈ [0, 1, 2, 3], (semOp .cinfo a 255 0 (some 3)).addr = a) ∧ (entryOf s 0).poison = false ∧
    (entryOf { s with sems := [(0, { word := 2 ^ 124, owner := 1, poison := true })] } 0).poison = true ∧
    semUse s 1 (entryOf { s with sems := [(0, { word := 2 ^ 124, owner := 2 })] } 0) true = false := by decide +kernel

/-- totals: a CTOTAL of each scope, at its first file and at its last; a class that is not defined, a poisoned account, a node that
cannot be reached. -/
theorem witness_totals :
    let o := fun (sc : Nat) => semOp .ctotal (255 + 256 * sc) 0 0 (some 3)
    let s := fun (sc : Nat) => withSem (o sc)
    (∀ sc ∈ [0, 1, 2], (s sc).args.a = (o sc).id ∧ (s sc).semOps = [o sc] ∧ (o sc).die < 5 ∧ (o sc).addr / 256 % 4 = sc ∧
      (classOf (s sc) ((o sc).addr % 256)).isSome ∧ (o sc).spoilt = false ∧ NatSet.mem (o sc).read 0 = false ∧ 0 ∈ totalPlaces (s sc) (o sc) ∧
      (opView (s sc) 0).xfers = [] ∧ ((opView (s sc) 0).sems.all fun e => !e.2.poison) = true ∧ NatSet.mem (s sc).unreach (s sc).node = false) ∧
    totalPlaces (s 0) (o 0) = [0] ∧ totalPlaces (s 1) (o 1) = [0, 1, 2, 3, 4] ∧
    (let p := { o 1 with read := [0, 1, 2, 3] }
     NatSet.mem p.read 4 = false ∧ ∀ r ∈ totalPlaces (withSem p) p, r = 4 ∨ NatSet.mem p.read r = true) ∧
    classOf (s 0) 0 = none ∧ (∃ n ∈ { s 2 with nodes := [0, 1], unreach := [1] }.nodes, NatSet.mem [1] n = true) ∧
    (let t := { s 0 with sems := [(2, { word := 0x300000FF000000000000000000000000#128, owner := 1, poison := true })] }
     ∃ e ∈ (opView t 0).sems, semPlace e.1 ∈ totalPlaces t (o 0) ∧ e.2.type = 3 ∧ e.2.cls = 255 ∧ e.2.poison = true) := by decide +kernel

/-- CounterOperations, BarrierOperations, WatchesWait, AccountOperations: outside a round the entries are seen as they are. -/
theorem witness_views :
    inRound (withSem (semOp .sld 0 0 0 (some 3))) 0 = false ∧ opView (withSem (semOp .sld 0 0 0 (some 3))) 0 = withSem (semOp .sld 0 0 0 (some 3)) ∧
    accountBad (withSem (semOp .cbal 2 0 0 (some 3))) 1 2 true = none ∧
    ((0x10000#64).extractLsb' 16 2).toNat = 1 ∧ ((0x20000#64).extractLsb' 16 2).toNat = 2 := by decide +kernel

/-- unreachableNodes: an armed and an unarmed operation of the node that goes, and one that sets out for it afterwards. -/
theorem witness_unreachable :
    let far := 2 ^ 17
    let o := { semOp .swaitge far 0 0 (some 3) with armed := true }
    let p := { semOp .sadd far 0 0 (some 4) with id := 10 }
    let s := { withSem o with semOps := [o, p], nodes := [0, 1], args := { a := 1 } }
    s.args.a ≠ s.node ∧ s.args.a ∈ s.nodes ∧ opPlace s o / 8 = 1 ∧ o ∈ s.semOps ∧ p ∈ s.semOps ∧ p.armed = false ∧
    o.armed = true ∧ opPlace { s with nodes := [0, 1, 2] } { o with addr := 2 ^ 18 } / 8 = 2 ∧
    (∀ r ∈ s.semOps, r.id = p.id → r = p) ∧ aheadAt s p (opPlace s p) = false ∧
    (let t := { withSem p with semOps := [p], nodes := [0, 1], unreach := [1], args := { a := 10 } }
     t.semOps.find? (fun q => q.id == t.args.a) = some p ∧ p.rel = false ∧ p.result.isSome ∧ NatSet.mem t.unreach (semNode far) = true ∧
     (t.semOps.any fun q => q.ctx == p.ctx && decide (q.id < p.id) && !q.armed && opPlace t q == opPlace t p) = false) := by decide +kernel

/-- CaratsAreConserved: a transfer that sets out, and one in each of its stages. -/
theorem witness_conserved :
    let s := { withSem (semOp (.cxfer 0) 2 3 5 (some 3)) with xfers := [{ xfer0 with id := 4, stage := .refund }], transit := [(255, 5)] }
    (s.sems.map (·.1)).Pairwise (· < ·) ∧ (s.transit.map (·.1)).Pairwise (· < ·) ∧ (s.xfers.map (·.id)).Nodup ∧
    (∀ x ∈ s.xfers, x.amount ≤ transitOf s (semPlace x.src) x.cls ∧ x.cls < 256) ∧
    (∀ x ∈ s.xfers, (entryOf s x.src).type = 3 ∧ (entryOf s x.src).cls = x.cls ∧ (entryOf s x.src).bal + x.amount < 2 ^ 95) ∧
    (∀ o ∈ s.semOps, o.kind = .cxfer 0 ∧ xferDst o ≠ o.addr) := by decide +kernel

/-- SaddTickets and SEM_ARRIVE: a counter at 0 at which SADD 1 arrives. -/
theorem witness_tickets :
    let s := { withSem (semOp .sadd 0 1 0 (some 3)) with sems := [(0, { word := 2 ^ 124, owner := 1 })] }
    counterBad s 1 0 false = none ∧ (entryOf s 0).value = 0 := by decide +kernel


/-! ## Witnesses: tasks, rounds, links -/

/-- Context 0 runs a task with a seed. -/
def seed0 : Seed := { slot := 0, pos := 3, key := 0, task := 17, live := [1, 2, 3, 4, 5] }
/-- The context. -/
def task0 : Ctx := { run0 with task := { seed := some seed0, id := 17 } }

/-- Region 1 is deterministic. -/
def detRegion : Region := { region1 with rcb := region1.rcb.set 2 0xF040 }

/-- taskTriggerResults: WAITC of each form; in and out of a gang; region DET and not. -/
theorem witness_task_triggers :
    meetsG task0 .tsk 0 5 7 (fun s x f o => decide (x.gang = false ∧ waitcCheck s 0 o = none ∧ x.launch = some 0 ∧ haltHeld f = none ∧
      o.a64.toNat / 2 ^ 62 = 0 ∧ detOf s (ctxRegion s 0) = false)) = true ∧
    meetsG task0 .tsk 0x4000000100000001 5 0 (fun s _ _ o => decide (waitcCheck s 0 o = none ∧ o.a64.toNat / 2 ^ 62 = 1)) = true ∧
    meetsG task0 .tsk 0x800000000000FFF8 5 0 (fun s _ _ o => decide (waitcCheck s 0 o = none ∧ o.a64.toNat / 2 ^ 62 = 2)) = true ∧
    meetsG { run0 with gang := true } .tsk 0 0 0 (fun _ x _ _ => x.gang) = true ∧
    (let s := { actor task0 frame0 with regions := [(1, detRegion)] }; detOf s (ctxRegion s 0) = true) := by decide +kernel

/-- A scratchpad that holds a seed record of kernel 0 and, in `mv`, a list of one tile of 8 bytes to this node. -/
def seedPad (m : Bool) : Memory :=
  Memory.writeBytes (Memory.writeBytes [] 0 (leBytes 8 (if m then 2 ^ 54 else 0))) 64
    (leBytes 8 (2 ^ 16) ++ leBytes 8 0 ++ leBytes 8 64 ++ leBytes 32 0 ++ leBytes 8 8)
/-- The state. -/
def postState (m : Bool) (x : Ctx) : State :=
  { actor x (frameG 0) with cores := [(0, { core0 with spad := seedPad m })] }

/-- taskPosts: a record that passes, with and without MOVE, with room and none, COPYB that suffices or not, the node gone. -/
theorem witness_posts :
    let o := opndsAt task0 (frameG 0) srcG .tsk
    (∀ m ∈ [true, false], let s := postState m task0
      s.active = some 0 ∧ ctxOf s 0 = { task0 with frame := some (frameG 0) } ∧ task0.launch = some 0 ∧ launchOf s 0 = some launch0 ∧
      ckOn task0 = false ∧ postCheck s 0 o = none ∧ (seedOf (recordAt s 0 0 64)).move = m ∧ seedRoom s 1 = true ∧
      covers s.feat (kernelFeat launch0 0) = true) ∧
    (let s := postState true task0
     let cost := ((tilesOf (recordAt s 0 64 64)).1.map fun t => t.2.2).sum
     cost = 8 ∧ moveNode (recordAt s 0 64 64) ∈ s.nodes ∧ NatSet.mem s.unreach (moveNode (recordAt s 0 64 64)) = false ∧
     cost ≤ (regionOf s (budgetRegion s 1 9)).copyb ∧
     (let t := { s with regions := [(1, { region1 with copyb := 7 })] }; (regionOf t (budgetRegion t 1 9)).copyb < cost) ∧
     NatSet.mem { s with unreach := [0] }.unreach 0 = true ∧ seedRoom { s with regions := [(1, { region1 with seeds := 4 })] } 1 = false) := by
  decide +kernel

/-- taskEnds: each way to end, with its waits over; context 1 runs the kernel as well. -/
theorem witness_task_ends :
    ∀ k ∈ [EndKind.halt, .tdone, .waitc],
      let f := { frame0 with todo := [.endTask k], cont := some { id := 1, launch := 0, ctx := 0, region := 1, cond := .counter 0 9, seed := seed0 } }
      let s := { actor task0 f with ctxs := [(0, { task0 with frame := some f }), (1, run0)] }
      current s = some (0, { task0 with frame := some f }, f) ∧ task0.launch = some 0 ∧ launchOf s 0 = some launch0 ∧
      task0.sys.ckmode = 0 ∧ endWrites task0 = true ∧ endReady s 0 k = true ∧
      (∀ q ∈ (coreOf s 0).kernels, ∃ d ∈ kernelCtxs s 0 q, d ≠ 0) ∧ inRound s 0 = false ∧ k ≠ .rndcmt ∧ f.slots ≠ [] ∧ task0.task.seed.isSome ∧
      (Tab.find s.regions (budgetRegion s (ctxRegion s 0) 10)).isSome := by decide +kernel

/-- taskEndWaits: an asynchronous write that has not landed; an array operation of the context that has not completed, before the
release and after it, with checkpoint mode on. -/
theorem witness_task_end_waits :
    let f := { frame0 with todo := [.endTask .halt] }
    (let s := actor { run0 with async := [{ id := 6, dst := 9, sb := false }] } f
     current s = some (0, ctxOf s 0, f) ∧ f.freed = false ∧ endWrites (ctxOf s 0) = false) ∧
    (let x := { run0 with sys := { run0.sys with ckmode := 1 } }
     let at_ := fun (f : Frame) => { actor x f with cores := [(0, { core0 with aq := [aop .mzero] })] }
     endWrites x = true ∧ x.sys.ckmode = 1 ∧
     endReady (releaseAll (setCtx (at_ f) 0 { x with frame := some { f with todo := [], freed := true } }) 0) 0 .halt = false ∧
     (let g := { f with freed := true }; current (at_ g) = some (0, { x with frame := some g }, g) ∧ endReady (at_ g) 0 .halt = false)) := by
  decide +kernel

/-- lastContextFreesCore: the only context of a gang's only kernel on core 0. -/
theorem witness_last_context :
    let f := { frame0 with todo := [.endTask .halt] }
    let x := { run0 with gang := true }
    let y := { launch0 with kind := .gang, ctxs := [(0, [0])] }
    let s := { actor x f with launches := [(0, y)] }
    current s = some (0, { x with frame := some f }, f) ∧ x.launch = some 0 ∧ launchOf s 0 = some y ∧ y.stage = .placed ∧ y.tasks = [] ∧
    endWrites x = true ∧ endReady s 0 .halt = true ∧ inRound s 0 = false ∧ x.ls = [] ∧ (coreOf s 0).kernels = [kernel0] ∧
    kernel0.launch = 0 ∧ (coreOf s 0).area = some (0, 65536) ∧ kernel0.demand = [] ∧ s.saves = [] ∧ s.dies = [] ∧
    (∀ d ∈ [1, 2, 3], (ctxOf s d).status = .halted ∧ (ctxOf s d).ls = []) := by decide +kernel

/-- seedPickupStarts: a shard that holds a seed, and one that holds none, at the last step of the turn. -/
theorem witness_seed_pickup :
    let x := { run0 with status := .seeking 0 false }
    let s := { world x with launches := [(0, { launch0 with shards := [[seed0]] })], args := { a := 0 } }
    let y := { launch0 with shards := [[seed0]] }
    (ctxOf s 0).status = .seeking 0 false ∧ launchOf s 0 = some y ∧ y.stage = .placed ∧ y.faulted = false ∧ 0 < Config.contexts ∧
    (regionOf s (budgetRegion s y.region 8)).heldC = false ∧ (coreOf s 0).saving = false ∧ (ctxOf s 0).stop = false ∧
    (virtualBangle y 0 + 0) % max 1 y.shards.length = 0 ∧ firstAsker s y 0 0 = true ∧
    (y.shards.getD 0 []).findIdx? (mayTake s y 0 true) = some 0 ∧ (y.shards.getD 0 [])[0]? = some seed0 ∧ seed0.live.length = 5 ∧
    (∀ k ∈ (coreOf s 0).kernels, k.resids = []) ∧ ckptPolicy { s with regions := [(1, { region1 with rcb := region1.rcb.set 2 0xE000 })] } 1 = false ∧
    (launch0.shards.getD 0 []).findIdx? (mayTake s launch0 0 true) = none ∧ launchOf (world x) 0 = some launch0 ∧
    firstAsker (world x) launch0 0 0 = true := by decide +kernel

/-- seedsEnter: the walker's last step; a continuation whose condition holds, and one whose does not; a seed that moved. -/
theorem witness_seeds_enter :
    let y := { launch0 with kind := .operator, walker := { next := 3, total := 4, bases := [0, 0, 0, 0] } }
    let s := { world run0 with launches := [(0, y)] }
    launchOf s 0 = some y ∧ y.stage = .placed ∧ y.faulted = false ∧ { y with faulted := true }.faulted = true ∧ y.det = false ∧ seedRoom s 1 = true ∧ y.walker.next < y.walker.total ∧ covers s.feat (kernelFeat y 0) = true ∧
    (∀ t ∈ [7, 8], let k : Cont := { id := 0, launch := 0, ctx := 0, region := 1, cond := .counter 0 (BitVec.ofNat 64 t), seed := seed0 }
      { s with conts := [k] }.conts.find? (fun k => k.id == s.args.a) = some k ∧ k.status = none) ∧
    (condTest s 1 (.counter 0 7)).isSome ∧ condTest s 1 (.counter 0 8) = none ∧
    (let m : MoveSeed := { id := 0, launch := 0, region := 1, node := 0, seed := seed0, tiles := [] }
     { s with moves := [m] }.moves.find? (fun m => m.id == s.args.a) = some m ∧ m.node = s.node ∧ m.copied = false ∧ m.ov = none ∧
     (spaceOf s (asidOf s 1)).gen = m.gen ∧ NatSet.mem s.unreach m.node = false ∧ y.det = false ∧ y.round < { seed0 with round := 1 }.round ∧
     m.seed.round ≤ y.round) := by decide +kernel

/-- RoundMerges: a round that is over, of two tasks that do not clash, of two that do, of two of one identifier; a context that
waits. -/
theorem witness_rounds :
    let t := fun (id : D64) (a : Nat) => ({ id := id, ov := { bytes := [((2, a), 1)] } } : RoundTask)
    let y := { launch0 with det := true, waiting := [0] }
    let s := fun (l : List RoundTask) => { world run0 with launches := [(0, { y with tasks := l })], args := { a := 0 } }
    roundOver (s [t 1 0, t 2 4]) 0 { y with tasks := [t 1 0, t 2 4] } = true ∧ y.waiting ≠ [] ∧ roundFailure [t 1 0, t 2 4] = none ∧
    (let r : RoundTask := { t 2 4 with ov := { (t 2 4).ov with sems := [semOp .sadd 0 7 0 none] } }
     r.ov.sems ≠ [] ∧ roundFailure [t 1 0, r] = none) ∧ (roundFailure [t 1 0, t 2 0]).isSome ∧ (roundFailure [t 1 0, t 1 4]).isSome ∧
    launchOf (s []) 0 = some { y with tasks := [] } ∧ y.stage = .placed ∧ y.faulted = false ∧ ckOn (ctxOf (s []) 0) = false ∧
    (let r := { region1 with rcb := region1.rcb.set 2 0xF050 }; fdomOf { s [] with regions := [(1, r)] } 1 = 1) := by decide +kernel

/-- Message 4 of pipe 0. -/
def msg0 : Message := { id := 4, place := (0, 0, 0), data := [1, 2, 3] }

/-- linkTriggers: the longest SEND, with room, without, and withheld; a RECV with a message and with none; LSTAT. -/
theorem witness_links :
    meetsG run0 .lnk 0 0 512 (fun s x _ o => decide (sendCheck s 0 o = none ∧ ckOn x = false ∧ x.going = [] ∧
      sendRoom s 0 0 512 = true ∧ pipeCheck false true s 0 o = none ∧ pipeCheck true true s 0 o = none ∧ x.recvs = [] ∧
      inRound s 0 = false ∧ recvOutcome { s with msgs := [msg0] } 0 0 = none ∧ (pipeOf s 0 0).isSome)) = true ∧
    (let s := { actor run0 frame0 with msgs := [{ msg0 with data := List.replicate 512 0 }, { msg0 with data := List.replicate 65000 0 }] }
     sendRoom { s with msgs := (List.range 64).map fun i => { msg0 with id := i, data := List.replicate 512 0 } } 0 0 512 = false) ∧
    (let s := { actor run0 frame0 with msgs := [{ msg0 with here := true }] }
     recvOutcome s 0 0 = some (some { msg0 with here := true }, 0x30000)) ∧
    (ckOn { run0 with sys := { run0.sys with ckmode := 1 } } = true) := by decide +kernel

/-- messagesArrive: to a context of this module, to a launch that is gone, and to another module. -/
theorem witness_messages :
    let s := { world run0 with msgs := [msg0], args := { a := 4 } }
    let p : Pipe := { number := 0, sender := some 0, receiver := none, peer := some (5, 7) }
    let y := { launch0 with image := { image0 with pipes := [p] } }
    let q : Pipe := { number := 7, sender := none, receiver := some 0, peer := some (5, 0) }
    (let z := { launch0 with image := { image0 with pipes := [q] } }
     ∀ n ∈ [1, 512], let u := { world run0 with launches := [(0, z)], args := { a := 0, b := 7, c := 3, d := n } }
       launchOf u 0 = some z ∧ z.image.pipes.find? (fun p => p.number == 7 && p.receiver.isSome && p.peer.isSome) = some q ∧
       peerGone u q = false ∧ flitsAt u (0, 0, 7) + flitsOf n ≤ Config.recvFlits) ∧
    s.args.d = 0 ∧ s.msgs.find? (fun m => m.id == s.args.a && !m.here) = some msg0 ∧
    ((s.msgs.takeWhile fun k => k.id != msg0.id).any fun k => k.place == msg0.place && !k.here) = false ∧
    launchOf s 0 = some launch0 ∧ (∀ p ∈ launch0.image.pipes, p.peer = none) ∧ launchOf { s with launches := [] } 0 = none ∧
    launchOf { s with launches := [(0, y)] } 0 = some y ∧ p ∈ y.image.pipes ∧ p.number = msg0.place.2.2 ∧ p.peer = some (5, 7) ∧ 5 ≠ s.node := by
  decide +kernel


/-! ## Witnesses: issue, results, code, rings -/

/-- Core 0 about to choose, with kernel `y`, whose holder is context 0, changed to `x`. -/
def choosing (x : Ctx) (y : Kernel) (ds : List (Nat × Die) := []) : State :=
  { world x with cores := [(0, { core0 with kernels := [y] })], args := { a := 0 }, dies := ds }

/-- Context `x` owes nothing and its kernel `y` serves it. -/
def owesNothing (x : Ctx) (y : Kernel) : Bool :=
  x.status == .running && x.frame.isNone && !x.stop && x.idle == 0 && x.infl.all (fun e => decide (x.lsc < e.due)) &&
    x.aticks.all (fun e => decide (x.lsc < e.tick)) && x.waits == [] && x.going == [] && x.held == [] && !x.foreign && y.demand == [] &&
    kernelOf (choosing x y) 0 == some y

/-- Such a context is alone on its core. -/
theorem alone (x : Ctx) (y : Kernel) (h : owesNothing x y = true) (ds : List (Nat × Die) := []) :
    Alone (choosing x y ds) 0 0 x y := by
  simp only [owesNothing, Bool.and_eq_true, beq_iff_eq, Bool.not_eq_true', Option.isNone_iff_eq_none, List.all_eq_true,
    decide_eq_true_eq] at h
  obtain ⟨⟨⟨⟨⟨⟨⟨⟨⟨⟨⟨h1, h2⟩, h3⟩, h4⟩, h5⟩, h6⟩, h7⟩, h8⟩, h9⟩, h10⟩, h11⟩, h12⟩ := h
  refine ⟨rfl, ⟨rfl, rfl⟩, ⟨Nat.zero_lt_succ 3, rfl⟩, rfl, ?_, ⟨h1, h2, h3⟩, ⟨h4, h5, h6⟩, ⟨h7, h8, h9⟩, ⟨h12, h10⟩, ?_⟩
  · intro d hd hn
    obtain rfl | rfl | rfl : d = 1 ∨ d = 2 ∨ d = 3 := by omega
    all_goals exact ⟨rfl, rfl, rfl, rfl⟩
  · intro n hm
    obtain rfl : n = y := List.mem_singleton.mp hm
    exact h11

/-- A kernel whose only bundle has these words. -/
def kernelOn (ws : List Word) : Kernel := { kernel0 with dict := [some ws] }

/-- The bundle of words `ws` waits for no register, and no write of a weight store is in progress. -/
theorem may_issue (x : Ctx) (y : Kernel) (ws : List Word) (h : pendingRead x (actingSlots x.regs ws) = false)
    (hd : deadlock x (actingSlots x.regs ws) = none) (ds : List (Nat × Die) := [])
    (hw : writeInProgress (choosing x y ds) 0 = false := by decide +kernel) : MayIssue (choosing x y ds) 0 x ws :=
  ⟨⟨h, hd⟩, hw⟩

/-- The slot word of an unguarded move from `src` to the socket `d`. -/
def slot (d src : Nat) : Word := BitVec.ofNat 32 (d * 2 ^ 14 + src)

/-- The words of a bundle with these slots. -/
def words (h : Word) (l : List Word) : List Word := h :: (l ++ List.replicate (11 - l.length) emptySlot)

/-- bundleIssues: a trigger of `al0`; with checkpoint mode off, and on in a bundle that takes a checkpoint. -/
theorem witness_bundle_issues :
    let ws := words 0x04000000 [slot 0x108 0x1005]
    let on := { run0 with sys := { run0.sys with ckmode := 1 } }
    Alone (choosing run0 (kernelOn ws)) 0 0 run0 (kernelOn ws) ∧ MayIssue (choosing run0 (kernelOn ws)) 0 run0 ws ∧
    Alone (choosing on (kernelOn ws)) 0 0 on (kernelOn ws) ∧
    fetchAt (kernelOn ws) 0 run0.pc = .dict ws ∧ run0.late = [] ∧ run0.sys.scb = false ∧ ckOn run0 = false ∧ ckOn on = true ∧
    3 ≤ (hdrSpan (ws.headD 0)).toNat ∧ (actingSlots run0.regs ws).length = 1 ∧ (∀ p ∈ actingSlots run0.regs ws,
      joinsArray (slotDst p.2) = false ∧ (unitOf (slotDst p.2)).map (·.1) = some .al0) :=
  ⟨alone _ _ (by decide +kernel), may_issue _ _ _ (by decide +kernel) (by decide +kernel), alone _ _ (by decide +kernel),
    by decide +kernel⟩

/-- copyOverLimit: a bundle with CPST, by a context that has 64 copy operations on its die already. -/
theorem witness_copy_over_limit :
    let ws := words 0x01000000 [slot 0x3CB 0x1000]
    let y := kernelOn ws
    let ds := [(0, { jobs := List.replicate 64 (job0 (.cpst 64 [1])) })]
    Alone (choosing run0 y ds) 0 0 run0 y ∧ MayIssue (choosing run0 y ds) 0 run0 ws ∧ run0.late = [] ∧ fetchAt y 0 run0.pc = .dict ws ∧
    ((actingSlots run0.regs ws).map fun p => (slotDst p.2).toNat) = [0x3CB] ∧
    (∀ p ∈ actingSlots run0.regs ws, let u := setCtx (choosing run0 y ds) 0 { run0 with bundle := run0.bundle + 1 }
      jobFits u 0 (newJob u 0 (((operandsOf run0 (makeFrame run0 ws 1 []) (actingSlots run0.regs ws) p).c64.toNat) / 256 % 64)
        (.cpst 0 [])) = false) :=
  ⟨alone _ _ (by decide +kernel) _, may_issue _ _ _ (by decide +kernel) (by decide +kernel) _, by decide +kernel⟩

/-- Context `x` stands at the bundle `ws` of its dictionary; nothing keeps a trap from its handler. -/
def atBundle (x : Ctx) (ws : List Word) : Bool :=
  owesNothing x (kernelOn ws) && fetchAt (kernelOn ws) 0 x.pc == .dict ws && !pendingRead x (actingSlots x.regs ws) && !x.handler &&
    x.banks.all (· != .lost) && (handlerOf (choosing x (kernelOn ws)) 0 .pendingDeadlock).isSome && !writeInProgress (choosing x (kernelOn ws)) 0

/-- bundleTraps: a recorded FP_TRAP, a position in no segment; PENDING_DEADLOCK; under the scoreboard a port read early, a second
result of a unit at one tick, an early ASWAP; an eager trigger outside a checkpoint bundle. -/
theorem witness_bundle_traps :
    let add := words 0x01000000 [slot 0x108 0x1005]
    let scb := { run0 with sys := { run0.sys with scb := true } }
    let fl := fun (u : FU) (d : Nat) => ({ unit := u, seq := 0, bundle := 0, due := d, r := none } : InFlight)
    atBundle { run0 with late := [{ code := .fpTrap, elem := some 3 }] } add = true ∧
    (let x := { run0 with pc := 99 }; owesNothing x (kernelOn add) = true ∧ fetchAt (kernelOn add) 0 x.pc = .trap { code := .segmentFault }) ∧
    (let ws := words 0x01000000 [slot 5 6]
     let x := { run0 with regs := { run0.regs with g := run0.regs.g.set 6 { pend := true, land := true } } }
     atBundle x ws = true ∧ deadlock x (actingSlots x.regs ws) = some (0, 6)) ∧
    (let ws := words 0x01000000 [slot 5 0x103]
     let x := { scb with infl := [fl .al0 4] }
     atBundle x ws = true ∧ deadlock x (actingSlots x.regs ws) = none ∧ (slotPort (0, slot 5 0x103)) = some .al0 ∧ x.sys.scb = true) ∧
    (let x := { scb with infl := [fl .al0 1] }
     atBundle x add = true ∧ triggerOrder (actingSlots x.regs add) = [(0, slot 0x108 0x1005)] ∧ unitOf 0x108 = some (.al0, 8) ∧
     latencyOf 0x108 false = some 1) ∧
    (let ws := words 0x01000000 [slot 0x38D 0x1003]
     let x := { scb with aticks := [{ id := 1, acc := 3, tick := 9, swap := false }] }
     atBundle x ws = true ∧ triggerOrder (actingSlots x.regs ws) = [(0, slot 0x38D 0x1003)] ∧
     (aswapCheck (choosing x (kernelOn ws)) 0 (operandsOf x (makeFrame x ws 1 (bundleTodo (ws.headD 0) (actingSlots x.regs ws)))
       (actingSlots x.regs ws) (0, slot 0x38D 0x1003))).isSome = true) ∧
    (let ws := words 0x01000000 [slot 0x3C9 0x1000]
     let x := { run0 with sys := { run0.sys with ckmode := 1 } }
     atBundle x ws = true ∧ ckOn x = true ∧ (hdrSpan (ws.headD 0)).toNat < 3 ∧ deadlock x (actingSlots x.regs ws) = none ∧
     ((triggerOrder (actingSlots x.regs ws)).find? fun p => isEager (slotDst p.2)) = some (0, slot 0x3C9 0x1000)) := by decide +kernel

/-- The halves of the words of a literal bundle. -/
def halves (ws : List Word) : List Idx := ws.flatMap fun w => [w.extractLsb' 0 16, w.extractLsb' 16 16]

/-- A kernel whose code is one literal bundle of these words. -/
def literal (ws : List Word) : Kernel :=
  { kernel0 with segs := [⟨0, 25, 0x1000⟩], frames := [{ seg := some 0, words := 0xFFFF :: halves ws, used := 1 }] }

/-- bundleTraps: literal bundles that break R58 at a source, a destination, a gate, the form of a source, an empty slot, a header. -/
theorem witness_literal_traps :
    let x := { run0 with fetched := true }
    (∀ p ∈ [(words 0x01000000 [slot 5 0x0FF], 3, DecodeError.sourceSocket 0 0x0FF), (words 0x01000000 [slot 0x0FF 5], 3, .destSocket 0 0x0FF),
        (words 0x01000000 [slot 0x36D 5], 0, .gated 0 0x36D), (words 0x01000000 [slot 5 0x3000], 3, .sourceForm 0),
        (words 0x01000000 [0x20000001], 3, .emptyBits 0), (words 0x01000001 [], 3, .headerBits)],
      fetchAt (literal p.1) 0 0 = .literal p.1 ∧ literalError (BitVec.ofNat 64 p.2.1) x.regs p.1 = some p.2.2 ∧ owesNothing x (literal p.1) = true) ∧
    literalError 0 x.regs (words 0x01000000 [slot 0x36D 5 + 1 <<< 26]) = none ∧
    (bundleError 0 (words 0x01000000 [slot 0x36D 5 + 1 <<< 26])).isSome := by
  decide +kernel

/-- A kernel of these bundles, one after the other. -/
def kernelWith (bs : List (List Word)) : Kernel :=
  { kernel0 with allow := bs.length, dict := bs.map some, segs := [⟨0, bs.length, 0x1000⟩]
                 frames := [{ seg := some 0, words := (List.range bs.length).map (BitVec.ofNat 16 ·), used := 1 }] }

/-- R387: the kernel of spec/16's example, declared LT-A, on a B0 core: refused with 0b11; an LD64 of four ticks that is read at once gets
two ticks more (R123: 6 under LT-B). -/
theorem test_retime :
    (match retime (kernelWith [words 0 [slot 0x201 0x1003, slot 0x20B 0x040], words 0 [slot 0x101 0x203, slot 0x109 0x041],
      words 0 [slot 0x181 0x103, slot 0x18B 0x13E8], words (0xF0000000) [], words 0x20000000 [], words 0x01000000 [slot 4 0x183, slot 0x20D 0x1000]])
      false false true with | .error n => n == 3 | .ok _ => false) = true ∧
    (match retime (kernelWith [words 0x30000000 [slot 0x28E 1], words 0 [slot 4 0x283, slot 0x20D 0x1000]]) false false true with
     | .ok k => k.retimed && ((k.dict.headD none).map (·.headD 0)) == some 0x50000000#32
     | .error _ => false) = true := by decide +kernel

/-- indexTraps: a position in no segment; the body of a literal bundle; an index word at the allowance; an empty entry; a segment
whose demanded load failed. -/
theorem witness_index_traps :
    let lit := literal (words 0x01000000 [])
    let k := fun (w : Idx) => { kernel0 with frames := [{ seg := some 0, words := [w], used := 1 }] }
    segOf kernel0 99 = none ∧ residualAt kernel0 99 = none ∧ segOf lit 3 = some 0 ∧ frameOf lit 0 = some 0 ∧
    bodyAt 3 0 ((lit.frames[0]?).getD {} : IdxFrame).words = true ∧ bodyAt 0 0 ((lit.frames[0]?).getD {} : IdxFrame).words = false ∧
    segOf (k 1) 0 = some 0 ∧ frameOf (k 1) 0 = some 0 ∧ (k 1).faulted.contains 0 = false ∧ (k 1).allow ≤ 1 ∧
    ({ kernel0 with dict := [none] }.dict[0]?).getD none = none ∧ { kernel0 with faulted := [0] }.faulted.contains 0 = true := by decide +kernel

/-- A result that has arrived. -/
def due0 (q : Nat) : InFlight := { unit := .al0, seq := q, bundle := 0, due := 0, r := some (7, 1), arrived := true }

/-- ticksAndResults: idle ticks owed and none; one result due, two due, one that has not arrived; the holder at its limit and not. -/
theorem witness_ticks :
    let s := world { run0 with idle := 1 }
    (ctxOf s 0).idle ≠ 0 ∧ (ctxOf s 0).frame = none ∧ (ctxOf s 0).status = .running ∧ (coreOf s 0).saving = false ∧ (ctxOf s 0).stop = false ∧
    (ctxOf s 0).infl = [] ∧ (ctxOf s 0).aticks = [] ∧ (ctxOf (world run0) 0).idle = 0 ∧
    (let t := world { run0 with infl := [due0 1, due0 2] }
     (ctxOf t 0).infl = [due0 1, due0 2] ∧ (due0 1).due = (ctxOf t 0).lsc ∧ (due0 1).seq < (due0 2).seq ∧ (due0 1).late = none ∧
     (due0 1).flags &&& enabledFlags (mergeFlags (ctxOf t 0).sys.flg (due0 1).flags) = 0) ∧
    (ctxOf (world { run0 with infl := [{ due0 1 with arrived := false }] }) 0).infl.any (fun e => decide (e.due ≤ 0) && !e.arrived) = true ∧
    1024 ≤ { core0 with issued := 1024 }.issued ∧ core0.issued < 1024 := by decide +kernel

/-- ticksAndResults: with results still to come; an enabled flag of an `al0` result, and of a lane of `vec`; two results of one unit,
two of units of two groups of which the later has not arrived, and two of one group. -/
theorem witness_due :
    let y := { run0 with sys := { run0.sys with flg := 0x3F00 } }
    (∀ e ∈ [{ due0 1 with due := 5 }], (run0.lsc : Nat) < e.due) ∧
    (let e := { due0 1 with flags := 1 }; e.flags &&& enabledFlags (mergeFlags y.sys.flg e.flags) ≠ 0 ∧ e.due ≤ y.lsc ∧ e.unit = .al0) ∧
    (let e := { due0 1 with unit := .vec, flags := 1, lanes := [(3, 1)] }
     e.flags &&& enabledFlags (mergeFlags y.sys.flg e.flags) ≠ 0 ∧ lowestLane (enabledFlags (mergeFlags y.sys.flg e.flags)) e.lanes = some 3) ∧
    (due0 1).unit = (due0 2).unit ∧ (due0 1).unit ≠ { due0 2 with unit := .al1 }.unit ∧
    unitGroup .al0 ≠ unitGroup .ls0 ∧ unitGroup .al0 = unitGroup .al1 := by decide +kernel

/-- resultsArrive: the result of a withheld store of a part of a bank word that holds an uncorrectable error, and of one that does not. -/
theorem witness_withheld_result :
    let e := { due0 3 with unit := .ls0, arrived := false }
    let o : LsOp := { seq := 3, bundle := 0, unit1 := false, kind := .store [1, 2, 3, 4], addr := 64, arrive := 0 }
    let x := { run0 with held := [.store o], infl := [e] }
    let s := { world x with cores := [(0, { core0 with poison := [4] })], args := { a := 0, b := 3 } }
    ctxOf s 0 = x ∧ x.held = [.store o] ∧ 4 ∈ bankWords o.addr o.writes.length ∧ NatSet.mem (coreOf s (ctxCore 0)).poison 4 = true ∧
    o.addr + o.writes.length < 16 * 4 + 16 ∧ e.engine = false ∧ e.arrived = false ∧ e.need = none := by decide +kernel

/-- resultsArrive: a load of each size that has its turn, LDFW and LDFK of FULL words, and a result of a pipeline unit. -/
theorem witness_results :
    (∀ k ∈ [LsKind.load 1 true, .load 2 false, .load 4 true, .load 8 false, .load 512 false, .ldfk, .ldfw],
      let o : LsOp := { seq := 3, bundle := 0, unit1 := false, kind := k, addr := 64, arrive := 0 }
      let x := { run0 with ls := [o], infl := [{ due0 3 with unit := .ls0, arrived := false }] }
      let s := { world x with args := { a := 0, b := 3 } }
      ctxOf s 0 = x ∧ x.ls.find? (fun o => o.seq == 3) = some o ∧ feProceeds s 0 o = true ∧ inRound s 0 = false ∧
      (∀ e ∈ x.infl, e.seq = 3 → e.r.isSome = true)) ∧
    (let o : LsOp := { seq := 3, bundle := 0, unit1 := true, kind := .ldfw, addr := 64, arrive := 0 }
     let p : LsOp := { o with seq := 2, unit1 := false, kind := .stff [1, 2, 3, 4, 5, 6, 7, 8] }
     let s := world { run0 with ls := [o, p] }
     p ∈ (ctxOf s 0).ls ∧ p.bundle = o.bundle ∧ p.seq < o.seq ∧ p.addr = o.addr ∧ feProceeds s 0 o = true) ∧
    (let e := { due0 3 with arrived := false }
     let x := { run0 with infl := [e] }
     x.ls.all (fun o => o.seq != 3) = true ∧ x.recvs.all (fun r => r.1 != 3) = true ∧ x.infl.find? (fun e => e.seq == 3) = some e ∧
     e.engine = false ∧ e.arrived = false ∧ e.need = none) := by decide +kernel

/-- asyncLands: a free write to `g63` that has its value. -/
theorem witness_landing :
    let w : AsyncW := { id := 6, dst := 63, sb := false, value := some 9 }
    let x := { run0 with async := [w] }
    let s := { world x with args := { a := 0, b := 6 } }
    ctxOf s 0 = x ∧ x.async = [w] ∧ w.id = s.args.b ∧ w.twin = none ∧ w.fault = none ∧ w.value = some 9 ∧ s.dies = [] ∧ x.aside = none ∧
    w.dst = BitVec.ofNat 12 63 ∧ x.regs.g[63].core = false ∧ x.regs.g[63].wr = false ∧ x.regs.g[63].asyn = false ∧
    { w with dst := 0x9F }.dst = BitVec.ofNat 12 (0x80 + 31) ∧ x.regs.v[31].core = false ∧ x.regs.v[31].asyn = false ∧
    { w with dst := 0xA7 }.dst = BitVec.ofNat 12 (0xA0 + 7) ∧ x.regs.m[7].core = false ∧ x.regs.m[7].asyn = false := by decide +kernel

/-- codeStoreLoads: a literal bundle; a frame whose segment can be read, and one whose segment cannot. -/
theorem witness_code_loads :
    let k := { kernel0 with frames := [{ seg := some 0, words := 0xFFFF :: List.replicate 24 0, used := 1 }, { loading := some 1 }], segs := [⟨0, 25, 0x1000⟩, ⟨25, 4, 0x2000⟩], demand := [(0, 1)] }
    let s := { world run0 with cores := [(0, { core0 with kernels := [k] })], args := { a := 0, b := 0 }, spaces := [(5, space5)], mem := tables page0 }
    kernelOf s 0 = some k ∧ (match fetchAt k 0 0 with | .literal _ => true | _ => false) = true ∧
    (coreOf s 0).kernels[s.args.b]? = some k ∧ (coreOf s 0).kernels = [k] ∧ loadingSeg k = some 1 ∧ (∀ d ∈ k.demand, d.2 = 1) ∧
    launchOf s k.launch = some launch0 ∧
    (let bs := fun (s : State) => (readMems s none { die := 0, core := some 0 } portChan 5 0x2000 8).1
     (∀ b ∈ bs s, b.absent = false ∧ b.bad = false ∧ b.unreach = none) ∧ (∃ b ∈ bs { s with memBad := [128] }, b.bad = true) ∧
     (∃ b ∈ bs { s with mem := [] }, b.absent = true)) ∧
    (∀ f ∈ k.frames, f.loading = some 1 → f.gen = (spaceOf s 5).gen ∧ f.gen ≠ (spaceOf { s with spaces := [(5, { gen := 1 })] } 5).gen) := by
  decide +kernel

/-- ringRotates: a ring of one core, one of three, and one in which a core is not armed. -/
theorem witness_rings :
    let arm := fun (k : Nat) => ({ ctx := 4 * k, seq := 1, src := 0, dst := 64, size := 64 } : RrotArm)
    let x := fun (k : Nat) => ({ run0 with ls := [{ seq := 1, bundle := 0, unit1 := false, kind := .rrot 64 64, addr := 0, arrive := k }] } : Ctx)
    let s := fun (n : Nat) => { world run0 with
      cores := (List.range n).map fun k => (k, { core0 with rrot := [arm k] })
      launches := [(0, { launch0 with perB := n })], ctxs := (List.range n).map fun k => (4 * k, x k), args := { a := 0 } }
    ringOf (s 1) 0 = [0] ∧ ringOf (s 3) 0 = [0, 1, 2] ∧
    (∀ k ∈ [0, 1, 2], (coreOf (s 3) k).rrot = [arm k] ∧ armedAt (s 3) k = some (arm k) ∧ ctxCore (arm k).ctx = k ∧ (coreOf (s 3) k).spad.wf = true ∧
      (coreOf (s 3) k).rrots = (coreOf (s 3) 0).rrots) ∧
    armedAt { s 3 with cores := [(0, { core0 with rrot := [arm 0] })] } 1 = none ∧ (s 3).args.b ∈ ringOf (s 3) 0 ∧ (s 3).args.b / 8 = (s 3).args.a := by decide +kernel

/-- ringRotates: the cores 0 and 1 of one bangle, armed with the size 64, or with two sizes. -/
theorem witness_ring :
    let arm := fun (c n : Nat) => ({ ctx := c, seq := 1, src := 0, dst := 64, size := n } : RrotArm)
    let x := fun (c n : Nat) => ({ run0 with ls := [{ seq := 1, bundle := 0, unit1 := false, kind := .rrot 64 n, addr := 0, arrive := c }] } : Ctx)
    ∀ n ∈ [64, 128],
      let s := { world run0 with
        cores := [(0, { core0 with rrot := [arm 0 64] }), (1, { core0 with rrot := [arm 4 n] })]
        launches := [(0, { launch0 with perB := 2 })], ctxs := [(0, x 0 64), (4, x 4 n)], args := { a := 0 } }
      ringOf s 0 = [0, 1] ∧ (coreOf s 0).rrot = [arm 0 64] ∧ (coreOf s 1).rrot = [arm 4 n] ∧ ctxCore 4 = 1 ∧
      armedAt s 0 = some (arm 0 64) ∧ armedAt s 1 = some (arm 4 n) ∧ (coreOf s 0).spad.wf = true ∧ (coreOf s 1).spad.wf = true := by
  decide +kernel


/-! ## Witnesses: queues, launches, regions, packets -/

/-- The queue 0 with one unit in its ring, and the bytes of a packet: its kind, its tag 7 and the words behind. -/
def queue0 : Queue := { base := 0x1000, tail := 256, ring := 0x8000 }
/-- A state whose queue 0 has this packet at its head. -/
def withPkt (op : Nat) (ws : List Nat) : State :=
  { world run0 with
    host := Memory.writeBytes [] 0x1000 ((((op + 0x100 + 7 * 2 ^ 32) :: ws).map fun w => leBytes 8 w).flatten)
    queues := [(0, queue0)], images := [((5, 0x4000), image0)], args := { a := 0 } }
/-- The packet at the head of queue 0. -/
def headOf (s : State) : Packet := (headPacket (pinUnit s 0) 0).getD ⟨[], 0, 0, 0, 0, false⟩

/-- What atHead asks for, of the state `s`, and `P` of the state and the packet. -/
def heads (s : State) (P : State → Packet → Bool) : Bool :=
  s.args.a == 0 && headPacket (pinUnit s 0) 0 == some (headOf s) && (headOf s).clean && P (pinUnit s 0) (headOf s)

/-- A packet at the head makes AtHead true. -/
theorem atHead (s : State) (h : s.args.a = 0) (hp : headPacket (pinUnit s 0) 0 = some (headOf s)) (hc : (headOf s).clean = true) :
    AtHead s (pinUnit s 0) 0 (headOf s) := ⟨h, rfl, hp, hc⟩

/-- launchSubmits: a task launch of region 1, a malformed one, one of no region. -/
theorem witness_launch_packets :
    let good := [0x4000, 0, 2 ^ 48 + 2, 0, 0x40, 1, 0]
    heads (withPkt 1 good) (fun u p => p.op == 1 && launchClean p && (p.word 3).toNat / 2 ^ 48 == 1 &&
      (Tab.find u.regions 1).isSome && mayActOn u 0 (partOf u 1)) = true ∧
    heads (withPkt 1 [0x4001]) (fun _ p => p.op == 1 && !launchClean p) = true ∧
    heads (withPkt 1 (good.set 2 (9 * 2 ^ 48 + 2))) (fun u p => launchClean p && (Tab.find u.regions 9).isNone) = true := by decide +kernel

/-- launchPlaces: a launch that waits and can be placed; one with a failing check; one for which a core has no room; one that is
not the first. -/
theorem witness_places :
    let y := { launch0 with stage := .waiting, bangles := [], ctxs := [] }
    let at_ := fun (y : Launch) => { world {} with ctxs := [], cores := [], launches := [(0, y)], args := { a := 0 } }
    let big := { y with image := { image0 with kernels := image0.kernels.map fun k => { k with part := (0, 2 ^ 20 + 1) } } }
    let placed := fun (s : State) (y : Launch) => match placeFor s y with
      | some bs =>
        let y1 := { y with policy := y.policy / 4 * 4 + y.policy % 2 + (if scbPolicy s y.region then 2 else 0) }
        match installAll s 0 y1 (bs.flatMap (bangleCores y)) with
        | .error _ => some false
        | .ok s1 => match specAll s1 0 y1 (bs.flatMap (bangleCores y)) with | .ok _ => some true | .error _ => none
      | none => none
    (at_ y).fw.paused = false ∧ { (at_ y).fw with paused := true }.paused = true ∧ launchOf (at_ y) 0 = some y ∧ y.stage = .waiting ∧ y.faulted = false ∧ earlyFailure (at_ y) y = none ∧ firstWaiting (at_ y) 0 y = true ∧
    cycbHeld (at_ y) 1 = false ∧ placed (at_ y) y = some true ∧ y.kind ≠ .gang ∧
    (earlyFailure (at_ y) { y with image := { image0 with skenis3 := false } }).isSome ∧
    earlyFailure (at_ big) big = none ∧ placed (at_ big) big = some false ∧
    firstWaiting { at_ { y with order := 1 } with launches := [(0, { y with order := 1 }), (1, y)] } 0 { y with order := 1 } = false := by
  decide +kernel

/-- A launch that waits, of the state that has none but it. -/
def waiting0 : Launch := { launch0 with stage := .waiting, bangles := [], ctxs := [] }
/-- The state. -/
def waitsIn (y : Launch) (m : Memory) : State :=
  { world {} with ctxs := [], cores := [], launches := [(0, y)], args := { a := 0 }, spaces := [(5, space5)], mem := m }

/-- How the placement of a launch that the bangle 0 can take goes on: 0 no room, 1 the specialiser fails, 2 its memory objects cannot be
written, 3 it is placed. -/
def placement (s : State) (y : Launch) : Option Nat :=
  (placeFor s y).bind fun bs =>
    let y1 := { y with policy := y.policy / 4 * 4 + y.policy % 2 + (if scbPolicy s y.region then 2 else 0) }
    let cores := bs.flatMap (bangleCores y)
    if earlyFailure s y != none || !firstWaiting s 0 y || cycbHeld s y.region || bs != [0] then none
    else match installAll s 0 y1 cores with
    | .error _ => some 0
    | .ok s1 => match specAll s1 0 y1 cores with
      | .error _ => some 1
      | .ok (_, s2) => if (loadObjects s2 y1 (coreDie (cores.headD 0))).isNone then some 2 else some 3

/-- A gang of two kernels; a launch whose code has a move that must fold and does not; one with a memory object. -/
def gang0 : Launch := { waiting0 with kind := .gang, klist := [0, 1], image := { image0 with kernels := image0.kernels ++ image0.kernels } }
/-- The second. -/
def must0 : Launch := { waiting0 with entries := [(0, 0)], image := { image0 with kernels := [{ allow := 1, feat := 0, grid := (1, 1), dict := [words 0x01000C00 [2 ^ 31 + slot 5 6]], segs := [⟨0, 1, 0x1000⟩], stream := 8, part := (0, 65536), data := [] }] } }
/-- The third. -/
def object0 : Launch := { waiting0 with image := { image0 with objects := [(0x1000, [1, 2])] } }

/-- launchPlaces: the gang; the code that the specialiser fails; memory objects in a page that is there, and in none. -/
theorem witness_placements :
    placement (waitsIn gang0 []) gang0 = some 3 ∧ gang0.kind = .gang ∧
    placement (waitsIn must0 (tables page0)) must0 = some 1 ∧
    placement (waitsIn object0 (tables page0)) object0 = some 3 ∧
    placement (waitsIn object0 []) object0 = some 2 := by decide +kernel

/-- A launch of region 2 that waits, one of region 1 that holds every context of core 0, and the two, region 2 of priority `p`. -/
def wants : Launch := { waiting0 with region := 2, image := { image0 with kernels := image0.kernels.map fun k => { k with part := (0, 0) } } }
/-- The second. -/
def holds : Launch := { launch0 with ctxs := [(0, [0, 1, 2, 3])] }
/-- The state. -/
def rivals (p : D64) : State :=
  { waitsIn wants [] with launches := [(0, holds), (1, wants)], args := { a := 1 }
                          regions := [(1, region1), (2, { region1 with rcb := region1.rcb.set 2 (0xF000 + p) })] }

/-- launchPlaces: the bangle is held by a launch of lower priority, or of none lower; a region that is held. -/
theorem witness_victims :
    earlyFailure (rivals 1) wants = none ∧ firstWaiting (rivals 1) 1 wants = true ∧ cycbHeld (rivals 1) 2 = false ∧
    placeFor (rivals 1) wants = none ∧ placeFor (rivals 0) wants = none ∧ launchOf (rivals 1) 1 = some wants ∧ wants.ctxs = [] ∧
    victimFor (rivals 1) wants = some 0 ∧ launchOf (rivals 1) 0 = some holds ∧ victimFor (rivals 0) wants = none ∧
    cycbHeld { rivals 1 with regions := [(2, { region1 with heldC := true })] } 2 = true := by decide +kernel

/-- launchEnds: a launch whose context looks for a seed and finds none may retire, one whose context runs may not; a region with
a finite CYCB that a running context spends. -/
theorem witness_retires :
    let s := { world { run0 with status := .seeking 0 false } with args := { a := 0 } }
    s.fw.paused = false ∧ { s.fw with paused := true }.paused = true ∧ launchOf s 0 = some launch0 ∧ mayRetire s 0 launch0 = true ∧ mayRetire (world run0) 0 launch0 = false ∧
    (∀ k ∈ (coreOf (world run0) 0).kernels, kernelNeeded (world run0) 0 launch0 k = true) ∧
    (let q := { launch0 with kind := .gang, ctxs := [(0, [0])], klist := [0, 1] }
     let t := { world run0 with cores := [(0, { core0 with kernels := [kernel0, { kernel0 with kslot := 1 }] })], launches := [(0, q)] }
     mayRetire t 0 q = false ∧ kernelNeeded t 0 q kernel0 = true ∧ kernelNeeded t 0 q { kernel0 with kslot := 1 } = false) ∧
    (coreOf { s with cores := [(0, { core0 with saving := true })] } 0).saving = true ∧
    cycbHeld { s with regions := [(1, { region1 with heldC := true })] } 1 = true ∧
    (s.cores.map (·.1)).Pairwise (· < ·) ∧
    (let t := { world run0 with args := { a := 1 } }
     Tab.find t.regions 1 = some region1 ∧ rcbWord t 1 8 ≠ BitVec.allOnes 64 ∧ region1.heldC = false ∧
     (t.ctxs.any fun p => decide (p.1 < 2048) && spender t 1 p.1) = true) := by decide +kernel

/-- savesRun, restoresRun: a core that is not stopped, one that is and stands, a context that is; an image of a context that can
be restored, and one that cannot. -/
theorem witness_saves :
    let y := { launch0 with ctxs := [(0, [0])] }
    let s := { world run0 with launches := [(0, y)], cores := [(0, { core0 with saving := true })], args := { a := 0 } }
    launchOf s 0 = some y ∧ (s.ctxs.map (·.1)).Pairwise (· < ·) ∧ (coreOf (world run0) 0).saving = false ∧
    (coreOf s 0).saving = true ∧ launchesToSave s 0 = [0] ∧ y.ctxs = [(0, [0])] ∧
    ((natsFrom 0 4).all fun c => !faultFirst s c) = true ∧ coreSaveReady s 0 = true ∧ [0].Nodup ∧
    (∀ d ∈ natsFrom 0 4, (ctxOf s d).going = [] ∧ deliverable s d = false) ∧
    (let t := { s with ctxs := [(0, { run0 with infl := [due0 1] })] }
     ∀ d ∈ natsFrom 0 4, (ctxOf t d).going = [] ∧ (deliverable t d = true ↔ d = 0)) ∧
    (let x := { run0 with stop := true }; let t := world x
     (ctxOf t 0).launch = some 0 ∧ (ctxOf t 0).stop = true ∧ (ctxOf t 0).status = .running ∧ t.active = none ∧
     faultFirst t 0 = false ∧ deliverable t 0 = false ∧ banksIdle (ctxOf t 0) = true ∧ ((coreOf t 0).aq.any fun o => o.ctx == 0) = false) ∧
    (let img : Saved := { kind := 1, ctxs := [2], region := 1, core := 0, feat := 0, bytes := 0, launch := 0, home := 0 }
     let t := { world run0 with saves := [(3, img)], ctxs := [(2062, { run0 with status := .saved })], args := { a := 3, b := 0 } }
     Tab.find t.saves 3 = some img ∧ launchOf t img.launch = some launch0 ∧ canRestore t 3 t.args.b img launch0 = true ∧ img.core < 512 ∧
     (t.ctxs.map (·.1)).Pairwise (· < ·) ∧ (∀ p ∈ t.ctxs, p.1 / 4 = 512 + 3 → p.1 = 4 * (512 + 3) + 2) ∧
     (Tab.find t.ctxs 2062).isSome ∧ (ctxOf t 2062).ls = [] ∧ canRestore t 3 1 img launch0 = false) := by decide +kernel

/-- restoresRun: the image of core 0 with its area and one context, on a core where all four contexts are free. -/
theorem witness_core_restore :
    let k := 512 + 3
    let y := { launch0 with ctxs := [(k, [4 * k])] }
    let img : Saved := { kind := 0, ctxs := [0], region := 1, core := 0, feat := 0, bytes := 0, launch := 0, home := 0, code := [kernel0] }
    let t := { world run0 with saves := [(3, img)], ctxs := [(4 * k, { run0 with status := .saved })], launches := [(0, y)]
                               cores := [(0, {}), (k, { core0 with kernels := [] })], args := { a := 3, b := 0 } }
    Tab.find t.saves 3 = some img ∧ launchOf t 0 = some y ∧ canRestore t 3 0 img y = true ∧ (t.ctxs.map (·.1)).Pairwise (· < ·) ∧
    (∀ c ∈ [4 * k], c / 4 = k ∧ (Tab.find t.ctxs c).isSome) ∧ [4 * k].Nodup ∧ (coreOf t k).area.isSome ∧
    freeCtxs { t with saves := t.saves.filter fun p => p.2.launch != 0 } 0 = natsFrom 0 4 ∧ (img.code.map (·.kslot)).Nodup ∧
    (∀ q ∈ img.code, (kernelImage y q.kslot).isSome) := by decide +kernel

/-- imageHeader: an image of four contexts, one byte short of 2^64. savesRun: a context that stops at a position in no segment. -/
theorem witness_image_header :
    (let i : Saved := { kind := 1, ctxs := [0, 1, 2, 3], region := 1, core := 511, feat := 3, bytes := 2 ^ 64 - 1, launch := 0, home := 511 }
     i.ctxs.Nodup ∧ (∀ c ∈ i.ctxs, c < 4) ∧ i.kind < 2 ∧ i.version = 1 ∧ i.core < 512 ∧ i.bytes < 2 ^ 64) ∧
    (let s := choosing { run0 with pc := 99 } kernel0
     let u := setCtx s 0 { ctxOf s 0 with stop := false }
     (match tryIssue u 0 with | .trap _ => true | _ => false) = true) := by decide +kernel

/-- packetRecords, queueOperations: a queue with nothing called; stopped and not; interrupts due and none; every packet kind. -/
theorem witness_queues :
    let s := withPkt 0 []
    Tab.find s.queues 0 = some queue0 ∧ queueOf s 0 = queue0 ∧ queue0.calls = [] ∧ (s.queues.map (·.1)).Pairwise (· < ·) ∧
    queue0.stopped = false ∧ queue0.held = 0 ∧
    (let t := { s with queues := [(0, { queue0 with stopped := true, held := 1 })] }
     Tab.find t.queues 0 = some { queue0 with stopped := true, held := 1 } ∧ queueOf t 0 = { queue0 with stopped := true, held := 1 }) ∧
    heads s (fun _ p => p.op == 0) = true ∧ heads (withPkt 0x0C []) (fun _ p => decide (0x0B < p.op)) = true ∧
    heads (withPkt 2 [0, 3]) (fun _ p => p.op == 2 && decide (2 < (p.word 2).toNat)) = true ∧
    heads (withPkt 8 []) (fun u p => p.op == 8 && (queueOf u 0).open_.all fun o => o.op == 7 || o.op == 9) = true ∧
    heads { withPkt 8 [] with queues := [(0, { queue0 with open_ := [⟨1, 1, some 0, none⟩] })] } (fun u _ =>
      !(queueOf u 0).open_.all fun o => o.op == 7 || o.op == 9) = true ∧
    heads (withPkt 9 []) (fun _ p => p.op == 9) = true ∧
    heads (withPkt 7 [0x2000, 1]) (fun u p => p.op == 7 && callClean p && (queueOf u 0).headAt == 0 && (p.word 2).toNat != 0) = true ∧
    heads (withPkt 7 [0x2001, 1]) (fun _ p => !callClean p) = true ∧
    heads (withPkt 7 [0x2000, 1]) (fun u p => p.op == 7 && decide ((queueOf { u with queues := [(0, { queue0 with
      calls := List.replicate 4 ⟨0, [], 0, 0, 0⟩ })] } 0).calls.length = 4)) = true ∧
    (let ws := fun (l : Nat) => { withPkt 0 [] with host := Memory.writeBytes [] 0x3000 (([0x10000, l, 0, 0, 4096, 256, 65].map (leBytes 8)).flatten) }
     let ok := fun (s : State) => let y := queueAt s 0 0x3000
       decide ((Tab.find s.funcs y.func).isSome ∧ (s.queues.filter fun p => p.1 != 0 && p.2.func == y.func).length < 16 ∧ y.base % 4096 = 0 ∧
         4 ≤ y.log ∧ y.log ≤ 16 ∧ 1 ≤ y.count ∧ y.count ≤ 256 ∧ y.timeout ≤ 65)
     ok (ws 4) = true ∧ ok (ws 16) = true ∧ ok (ws 17) = false ∧ queue0.open_ = []) := by decide +kernel

/-- A REGION packet of command `cmd` whose block at host address 0x3000 has these words. -/
def regionPkt (cmd : Nat) (b : List D64) (s : State → State := id) : State :=
  let t := withPkt 2 [0x3000, cmd]
  s { t with host := Memory.writeBytes t.host 0x3000 ((b.map fun w => leBytes 8 w.toNat).flatten) }

/-- RegionPackets: for each command a block that passes and one for each refusal. -/
theorem witness_regions :
    let root := fun (n : Nat) => region1.rcb.set 0 (BitVec.ofNat 64 (n * 2 ^ 48 + 0xFFFF * 2 ^ 32 + 5 * 2 ^ 8))
    let b := (root 2).set 3 0
    let ok := fun (u : State) (p : Packet) => p.op == 2 && (p.word 1).toNat % 256 == 0 &&
      rcbParent (readRcb u 0x3000) == 0xFFFF && (Tab.find u.parts (rcbPart (readRcb u 0x3000))).isSome &&
      mayActOn u 0 (rcbPart (readRcb u 0x3000))
    let fails := fun (u : State) => rcbFails u (readRcb u 0x3000) 0xFFFF (rcbPart (readRcb u 0x3000))
    heads (regionPkt 0 b) (fun u p => ok u p && (Tab.find u.regions 2).isNone && !fails u) = true ∧
    heads (regionPkt 0 (b.set 2 0xF030)) (fun u p => ok u p && (Tab.find u.regions 2).isNone && fails u) = true ∧
    heads (regionPkt 0 region1.rcb) (fun u p => ok u p && (Tab.find u.regions 1).isSome) = true ∧
    heads (regionPkt 0 ((root 0xFFFE).set 3 0)) (fun u p => ok u p && rcbRegion (readRcb u 0x3000) == Config.powerRegion) = true ∧
    heads (regionPkt 0 (b.set 0 (BitVec.ofNat 64 (2 * 2 ^ 48 + 7 * 2 ^ 32)))) (fun u _ => (Tab.find u.regions 7).isNone) = true ∧
    heads (regionPkt 1 b) (fun u p => (p.word 2).toNat == 1 && (Tab.find u.regions (rcbRegion (readRcb u 0x3000))).isNone) = true ∧
    heads (regionPkt 1 region1.rcb) (fun u p => ok u p && Tab.find u.regions 1 == some region1 && rcbPart (readRcb u 0x3000) == partOf u 1 &&
      !rcbFails u (readRcb u 0x3000) (parentOf u 1) (partOf u 1) && !fixedDiffers region1.rcb (readRcb u 0x3000)) = true ∧
    heads (regionPkt 1 (region1.rcb.set 3 0)) (fun u _ => fixedDiffers region1.rcb (readRcb u 0x3000) && launchLeft u 1 &&
      !rcbFails u (readRcb u 0x3000) (parentOf u 1) (partOf u 1)) = true ∧
    heads (regionPkt 1 (region1.rcb.set 2 0xF080)) (fun u _ => rcbFails u (readRcb u 0x3000) (parentOf u 1) (partOf u 1)) = true ∧
    heads (regionPkt 2 region1.rcb) (fun u _ => (ownedBy u 1).any fun a => (entryOf u a).type == 3 && (entryOf u a).bal != 0) = true ∧
    heads (regionPkt 2 region1.rcb fun t => { t with sems := [] }) (fun u _ => !(ownedBy u 1).any (fun _ => true) && launchLeft u 1) = true ∧
    heads (regionPkt 2 region1.rcb fun t => { t with sems := [], launches := [], loaded := [(5, 0)] }) (fun u _ =>
      u.regions.all fun k => k.1 == 1 || asidOf u k.1 != 5) = true ∧
    heads (regionPkt 2 region1.rcb fun t => { t with sems := [], launches := [] }) (fun u _ => !(ownedBy u 1).any (fun _ => true) &&
      !launchLeft u 1 && !u.regions.any fun k => k.1 != 1 && parentOf u k.1 == 1) = true := by decide +kernel

/-- AdministrativePackets: each packet as a physical and as another function sends it, with operands at their bounds. -/
theorem witness_packets :
    let vf := fun (s : State) => { s with funcs := [(0, { pf := false, part := some 0 })] }
    heads (withPkt 3 [16383, 1, 1]) (fun u p => p.op == 3 && semAddrOk u 16383 && (Tab.find u.regions 1).isSome && mayActOn u 0 (partOf u 1) &&
      (entryOf u 16383).owner == 0xFFFF) = true ∧
    heads (withPkt 3 [0, 16384, 1]) (fun u _ => (entryOf u 0).owner != 0xFFFF && (entryOf u 5).owner == 0xFFFF) = true ∧
    heads (withPkt 3 [16383, 2, 1]) (fun _ p => decide (16384 < (p.word 1).toNat % 16384 + (p.word 2).toNat)) = true ∧
    heads (withPkt 3 [0, 1, 9]) (fun u _ => (Tab.find u.regions 9).isNone) = true ∧
    ([4, 6, 0x0B].all fun op => heads (vf (withPkt op [0, 3])) fun u p => p.op == op && !(funcOf u 0).pf) = true ∧
    ([4, 6, 0x0B].all fun op => heads (withPkt op [0, 3]) fun u p => p.op == op && (funcOf u 0).pf && u.nodes.contains 0 && classOf u 0 == none) = true ∧
    heads (withPkt 6 [255, 65]) (fun _ p => decide (64 < (p.word 2).toNat)) = true ∧
    heads (withPkt 0x0A [0, 100]) (fun u p => p.op == 0x0A && (Tab.find u.parts 0).isSome && mayActOn u 0 0 && decide ((p.word 2).toNat = 100)) = true ∧
    heads (withPkt 0x0A [1, 0]) (fun u _ => (Tab.find u.parts 1).isNone) = true ∧
    heads (withPkt 5 [0xFFFF]) (fun u p => p.op == 5 && decide ((p.word 1).toNat < 2 ^ 16) && !foreignSpace u 0 0xFFFF &&
      (spaceOf u 0xFFFF).advance == none && !oldInFlight u 0xFFFF (spaceOf u 0xFFFF).gen) = true ∧
    (let s := { world run0 with spaces := [(5, { gen := 65535, advance := some (0, 7) })], args := { a := 5 } }
     (spaceOf s 5).advance = some (0, 7) ∧ cardsMoving s 5 = false ∧ s.fw.paused = false ∧ (spaceOf s 5).gen = 65535 ∧
     (spaceOf s 6).advance = none) := by decide +kernel

/-- Memory beyond its last entry reads as blank. -/
theorem read_beyond (m : Memory) (a : Nat) (h : ∀ p ∈ m, p.1 < a) : m.read a = 0 := by
  unfold Memory.read
  induction m with
  | nil => rfl
  | cons p m ih =>
    have hp := h p (by simp)
    simp only [Sparse.get, show ¬ p.1 = a by omega, if_false]
    exact ih fun q hq => h q (by simp [hq])

theorem readBytes_beyond (m : Memory) (a n : Nat) (h : ∀ p ∈ m, p.1 < a) : ∀ v ∈ m.readBytes a n, v = 0 := by
  induction n generalizing a with
  | zero => simp [Memory.readBytes]
  | succ n ih =>
    simp only [Memory.readBytes, List.mem_cons]
    rintro v (rfl | hv)
    · exact read_beyond m a h
    · exact ih (a + 1) (fun p hp => by have := h p hp; omega) v hv

/-- AdministrativePackets: a slot table of host memory, where nothing stands: every cell is 0. -/
theorem witness_slot_table : ((Memory.readBytes (withPkt 4 [0x10000, 3]).host 0x10000 16384).any fun v =>
    decide (v.toNat > 63) && v != 0x7F) = false := by
  rw [List.any_eq_false]
  intro v hv
  rw [readBytes_beyond _ _ _ (by decide +kernel) v hv]
  decide

/-- A file of `n` entries from `a` on, each of region 1. -/
def ownedFrom (n a : Nat) : List (Nat × SemEntry) :=
  match n with
  | 0 => []
  | n + 1 => (a, { word := 0, owner := 1 }) :: ownedFrom n (a + 1)

theorem owned (n a b : Nat) (h : a ≤ b) (hb : b < a + n) : (Tab.get {} (ownedFrom n a) b : SemEntry).owner ≠ 0xFFFF := by
  induction n generalizing a with
  | zero => omega
  | succ n ih =>
    by_cases e : a = b
    · simp [ownedFrom, Tab.get, Sparse.get, e]
    · have := ih (a + 1) (by omega) (by omega)
      simpa [ownedFrom, Tab.get, Sparse.get, e] using this

/-- AdministrativePackets: GRANT in a die's file with no free entry left. -/
theorem witness_grant_full : let s := { withPkt 3 [0, 1, 1] with sems := ownedFrom 16384 0 }
    (∀ i, i < 16384 → (entryOf s (0 / 16384 * 16384 + i)).owner ≠ 0xFFFF) ∧ (0 : Nat) < 1 ∧
    s.args.a = 0 ∧ ((headPacket (pinUnit (withPkt 3 [0, 1, 1]) 0) 0).map fun p => (p.op, p.word 1, p.word 2, p.word 3)) = some (3, 0, 1, 1) :=
  ⟨fun i h => owned 16384 0 _ (by omega) (by omega), by decide, rfl, by decide +kernel⟩

/-- AdministrativePackets: SLOTTAB of a die that is not there, and of a table with a cell of 64; CLASSDEF of a class in use; RECONCILE of
this node, of another, and of one that is not there, with a transfer on its way; GENADV of a space that the function's partition does
not use, and with an advance in progress or a request two generations old. -/
theorem witness_refused_packets :
    heads (withPkt 4 [0, 4]) (fun u p => p.op == 4 && (funcOf u 0).pf && decide ((p.word 2).toNat = 4)) = true ∧
    heads { withPkt 4 [0x3000, 3] with host := Memory.writeBytes (withPkt 4 [0x3000, 3]).host 0x3000 [64] } (fun u p => p.op == 4 &&
      (Memory.readBytes u.host 0x3000 16384).any fun v => decide (63 < v.toNat) && v != 0x7F) = true ∧
    heads (withPkt 6 [255, 64]) (fun u p => p.op == 6 && (classOf u 255).isSome && u.sems.any fun e => e.2.type == 3 && e.2.cls == 255) = true ∧
    heads (withPkt 0x0B [0]) (fun u p => p.op == 0x0B && u.nodes.contains 0 && u.node == 0) = true ∧
    heads (withPkt 0x0B [1]) (fun u _ => !u.nodes.contains 1) = true ∧
    (let x := { xfer0 with dst := 2 ^ 17 }
     heads { withPkt 0x0B [1] with nodes := [0, 1], xfers := [x], transit := [(255, 5)] } (fun u p => p.op == 0x0B && u.nodes.contains 1 && u.node != 1 &&
      (u.xfers.filter fun x => semNode x.dst == 1) == [x] && semNode x.src != 1 && decide (x.cls < 256 ∧ -(2 ^ 95) ≤ (entryOf u x.src).bal + x.amount ∧
      (entryOf u x.src).bal + x.amount < 2 ^ 95 ∧ x.amount ≤ transitOf u (semPlace x.src) x.cls ∧ x.told = false ∧ x.result = some 3)) = true) ∧
    (let vf := fun (s : State) => { s with funcs := [(0, { pf := false, part := some 0 })] }
     heads (vf (withPkt 5 [6])) (fun u p => p.op == 5 && !(funcOf u 0).pf && u.regions.all fun r => asidOf u r.1 != 6) = true ∧
     heads (vf (withPkt 5 [5])) (fun u _ => !foreignSpace u 0 5) = true) ∧
    heads { withPkt 5 [5] with spaces := [(5, { advance := some (0, 7) })] } (fun u _ => !foreignSpace u 0 5 && (spaceOf u 5).advance.isSome) = true ∧
    heads { withPkt 5 [5] with spaces := [(5, { gen := 2 })], dies := [(0, { jobs := [job0 (.pagereq 0 false)] })] } (fun u _ =>
      oldInFlight u 5 (spaceOf u 5).gen) = true ∧
    (let s := { world run0 with args := { a := 5 } }; let sp : Space := { advance := some (0, 7) }
     (spaceOf { s with spaces := [(5, sp)], fw := { s.fw with paused := true } } 5).advance = some (0, 7) ∧
     cardsMoving { s with spaces := [(5, sp)], dies := [(0, { jobs := [{ job0 (.card (card 0 0 1)) with chan := some 0, moving := true }] })] } 5 = true) := by
  decide +kernel

/-- firmwareEvents, spdmResponses: the states of an update and of a negotiation. Whether an image or a frame verifies is a free
value of Config (log entry 5): the other conditions are met below. -/
theorem witness_firmware :
    let s := State.reset
    let i : FwImage := ⟨1, 2, 3, 4, 5, 1, true⟩
    let booting := { s with fw := { s.fw with first := false, handover := some 1 } }
    s.fw.first = true ∧ s.fw.paused = false ∧ { s.fw with missed := [0, 4, 0, 0] }.missed = [0, 4, 0, 0] ∧ (4 : Nat) ∈ [0, 4, 0, 0] ∧
    { s.fw with staged := [i] }.staged[0]? = some i ∧ (fwImage booting).boots = true ∧ knowsHandover booting = true ∧
    booting.fw.first = false ∧ { s.fw with paused := true }.paused = true ∧ s.spdm.version = false ∧ s.spdm.algs = 0 ∧
    s.args.b = 0 ∧ (∀ p ∈ s.parts, p.2.account ≠ 0) ∧ { s with args := { a := 0, b := 1 } }.args.b ≠ 0 ∧
    (let t := { s with parts := [(63, { bangles := [0] })] }
     (∀ z ∈ t.parts, z.1 < 64) ∧ (t.parts.map (·.1)).Pairwise (· < ·) ∧ (63, ({ bangles := [0] } : Partition)) ∈ t.parts) ∧
    (2 ^ 33 + 4) / 4 % 2 = 1 ∧ (2 ^ 33 + 4) / 2 ^ 33 % 2 = 1 ∧ 0 / 4 % 2 ≠ 1 := by decide +kernel

/-- powerDemands: a partition with an account; failuresAndResets: the last units of each kind, an address of an entry. -/
theorem witness_power :
    let s := { world run0 with parts := [(0, { bangles := [0], account := 2 })], args := { a := 0, b := 0x500001 } }
    Tab.find s.parts s.args.a = some { bangles := [0], account := 2 } ∧ (entryOf s 2).type = 3 ∧ (entryOf s 2).poison = false ∧
    -(2 ^ 95) ≤ (entryOf s 2).bal - s.args.b ∧ s.power.accepted = false ∧ semAddrOk s 16383 = true ∧
    (s.sems.map (·.1)).Pairwise (· < ·) ∧ semPlace 0 = s.node * 8 + 0 ∧ semPlace (2 ^ 14) ≠ s.node * 8 + 0 ∧
    semPlace (4 * 2 ^ 14) = s.node * 8 + 4 := by decide +kernel

/-- powerDemands: a partition that is shed at level 15, with a bangle that has a started context and one that has none; capcauseReads:
a limit that demands the clock in force on a die, levels below 16; a step at which no event comes. -/
theorem witness_clocks :
    let s := { world run0 with parts := [(0, { bangles := [0, 1] })], power := { (world run0).power with level := 15 } }
    (s.parts.find? fun p => p.2.bangles.contains 0) = some (0, { bangles := [0, 1] }) ∧
    (s.parts.find? fun p => p.2.bangles.contains 1) = some (0, { bangles := [0, 1] }) ∧
    partRank s 0 + s.power.level < 16 ∧
    16 ≤ partRank { s with regions := [(1, { region1 with rcb := region1.rcb.set 2 0xF100 })] } 0 + s.power.level ∧
    (ctxOf s 0).launch.isSome ∧ (ctxOf s 0).status ≠ .halted ∧ s.ctxs.all (fun p => p.1 / 32 != 1) = true ∧ s.power.level < 16 ∧
    (let t := { s with regions := [], dies := [(0, { sag := some 900000 })] }
     0 ∈ partDies t 0 ∧ (∀ p ∈ s.parts, 2 ∉ p.2.bangles) ∧ (demands t 0 0)[3]? = some (some 900000)) ∧ s.active = none ∧ s.sched = [] := by decide +kernel


/-! ## Decoding: every trigger's word, from its sockets (R54 to R56) and the slot fields of R47: BIND 1, GUARD 3, the unit bit
and the form bits all ones, SRC `g5` -/

/-- The slot fields of the words below. -/
def dm : Mv := ⟨1, 3, 5⟩

/-- The word decodes to the instruction; to the refusal. -/
def reads (w : Word) (i : Instr) : Bool := match decodeSlot w with | .ok j => decide (j = i) | .error _ => false
def refuses (w : Word) (e : DecodeError) : Bool := match decodeSlot w with | .ok _ => false | .error d => decide (d = e)

/-- What `reads` says. -/
theorem reads_iff (w : Word) (i : Instr) (h : reads w i = true) : decodeSlot w = .ok i := by
  unfold reads at h
  split at h
  · simp_all
  · simp at h

/-- Words of every trigger of `al0 and al1`. -/
def wordsAl : List (Word × Instr) := [
  (0x4C520005#32, .alAdd dm 1), (0x4C524005#32, .alSub dm 1), (0x4C528005#32, .alAdds dm 1),
  (0x4C52C005#32, .alSubs dm 1), (0x4C530005#32, .alAnd dm 1), (0x4C534005#32, .alOr dm 1),
  (0x4C538005#32, .alXor dm 1), (0x4C53C005#32, .alAndn dm 1), (0x4C540005#32, .alShl dm 1),
  (0x4C544005#32, .alShr dm 1), (0x4C548005#32, .alSar dm 1), (0x4C54C005#32, .alRor dm 1),
  (0x4C550005#32, .alMin dm 1), (0x4C554005#32, .alMax dm 1), (0x4C558005#32, .alMinu dm 1),
  (0x4C55C005#32, .alMaxu dm 1), (0x4C560005#32, .alCmpeq dm 1), (0x4C564005#32, .alCmplt dm 1),
  (0x4C568005#32, .alCmpltu dm 1), (0x4C56C005#32, .alSel dm 1), (0x4C570005#32, .alClz dm 1),
  (0x4C574005#32, .alPopc dm 1)]
theorem decode_al : (wordsAl.all fun p => reads p.1 p.2) = true := by decide +kernel

/-- Words of every trigger of `mul`. -/
def wordsMul : List (Word × Instr) := [
  (0x4C620005#32, .mulMul dm), (0x4C624005#32, .mulMulhs dm), (0x4C628005#32, .mulMulhu dm),
  (0x4C62C005#32, .mulDivs dm), (0x4C630005#32, .mulDivu dm), (0x4C634005#32, .mulRems dm),
  (0x4C638005#32, .mulRemu dm)]
theorem decode_mul : (wordsMul.all fun p => reads p.1 p.2) = true := by decide +kernel

/-- Words of every trigger of `agu`. -/
def wordsAgu : List (Word × Instr) := [
  (0x4C720005#32, .aguAinc dm), (0x4C724005#32, .aguAmod dm), (0x4C728005#32, .aguAxy dm),
  (0x4C72C005#32, .aguAbnd dm)]
theorem decode_agu : (wordsAgu.all fun p => reads p.1 p.2) = true := by decide +kernel

/-- Words of every trigger of `br`. -/
def wordsBr : List (Word × Instr) := [
  (0x4C820005#32, .brJmp dm), (0x4C824005#32, .brCall dm), (0x4C828005#32, .brRet dm), (0x4C82C005#32, .brLoop dm),
  (0x4C830005#32, .brBreakl dm), (0x4C834005#32, .brHalt dm), (0x4C838005#32, .brYield dm)]
theorem decode_br : (wordsBr.all fun p => reads p.1 p.2) = true := by decide +kernel

/-- Words of every trigger of `sys`. -/
def wordsSys : List (Word × Instr) := [
  (0x4C920005#32, .sysTrap dm), (0x4C924005#32, .sysTret dm), (0x4C928005#32, .sysRdsr dm),
  (0x4C92C005#32, .sysWrsr dm), (0x4C930005#32, .sysFence dm)]
theorem decode_sys : (wordsSys.all fun p => reads p.1 p.2) = true := by decide +kernel

/-- Words of every trigger of `ls0 and ls1`. -/
def wordsLs : List (Word × Instr) := [
  (0x4CB20005#32, .lsLd8 dm 1), (0x4CB24005#32, .lsLd8Sx dm 1), (0x4CB28005#32, .lsLd16 dm 1),
  (0x4CB2C005#32, .lsLd16Sx dm 1), (0x4CB30005#32, .lsLd32 dm 1), (0x4CB34005#32, .lsLd32Sx dm 1),
  (0x4CB38005#32, .lsLd64 dm 1), (0x4CB3C005#32, .lsSt8 dm 1), (0x4CB40005#32, .lsSt16 dm 1),
  (0x4CB44005#32, .lsSt32 dm 1), (0x4CB48005#32, .lsSt64 dm 1), (0x4CB4C005#32, .lsVld dm 1),
  (0x4CB50005#32, .lsVst dm 1), (0x4CB54005#32, .lsLdfw dm 1), (0x4CB58005#32, .lsLdfk dm 1),
  (0x4CB5C005#32, .lsStew dm 1), (0x4CB60005#32, .lsStff dm 1), (0x4CB64005#32, .lsFeclr dm 1),
  (0x4CB68005#32, .lsFeq dm 1), (0x4CB6C005#32, .lsPatset dm 1), (0x4CB70005#32, .lsLdpat dm 1),
  (0x4CB74005#32, .lsRrot dm 1)]
theorem decode_ls : (wordsLs.all fun p => reads p.1 p.2) = true := by decide +kernel

/-- Words of every trigger of `vec`. -/
def wordsVec : List (Word × Instr) := [
  (0x4CC20005#32, .vecAddF32 dm), (0x4CC24005#32, .vecAddF16 dm), (0x4CC28005#32, .vecAddBf16 dm),
  (0x4CC2C005#32, .vecAddI32 dm), (0x4CC30005#32, .vecAddI16 dm), (0x4CC34005#32, .vecAddI8 dm),
  (0x4CC38005#32, .vecSubF32 dm), (0x4CC3C005#32, .vecSubF16 dm), (0x4CC40005#32, .vecSubBf16 dm),
  (0x4CC44005#32, .vecSubI32 dm), (0x4CC48005#32, .vecSubI16 dm), (0x4CC4C005#32, .vecSubI8 dm),
  (0x4CC50005#32, .vecMulF32 dm), (0x4CC54005#32, .vecMulF16 dm), (0x4CC58005#32, .vecMulBf16 dm),
  (0x4CC5C005#32, .vecMulI32 dm), (0x4CC60005#32, .vecMulI16 dm), (0x4CC64005#32, .vecMulI8 dm),
  (0x4CC68005#32, .vecFmaF32 dm), (0x4CC6C005#32, .vecFmaF16 dm), (0x4CC70005#32, .vecFmaBf16 dm),
  (0x4CC74005#32, .vecMinF32 dm), (0x4CC78005#32, .vecMinF16 dm), (0x4CC7C005#32, .vecMinBf16 dm),
  (0x4CC80005#32, .vecMinI32 dm), (0x4CC84005#32, .vecMinI16 dm), (0x4CC88005#32, .vecMinI8 dm),
  (0x4CC8C005#32, .vecMinN32 dm), (0x4CC90005#32, .vecMinN16 dm), (0x4CC94005#32, .vecMinN8 dm)] ++ [
  (0x4CC98005#32, .vecMaxF32 dm), (0x4CC9C005#32, .vecMaxF16 dm), (0x4CCA0005#32, .vecMaxBf16 dm),
  (0x4CCA4005#32, .vecMaxI32 dm), (0x4CCA8005#32, .vecMaxI16 dm), (0x4CCAC005#32, .vecMaxI8 dm),
  (0x4CCB0005#32, .vecMaxN32 dm), (0x4CCB4005#32, .vecMaxN16 dm), (0x4CCB8005#32, .vecMaxN8 dm),
  (0x4CCBC005#32, .vecAddsI32 dm), (0x4CCC0005#32, .vecAddsI16 dm), (0x4CCC4005#32, .vecAddsI8 dm),
  (0x4CCC8005#32, .vecAddsN32 dm), (0x4CCCC005#32, .vecAddsN16 dm), (0x4CCD0005#32, .vecAddsN8 dm),
  (0x4CCD4005#32, .vecCmpeqF32 dm), (0x4CCD8005#32, .vecCmpeqF16 dm), (0x4CCDC005#32, .vecCmpeqBf16 dm),
  (0x4CCE0005#32, .vecCmpeqI32 dm), (0x4CCE4005#32, .vecCmpeqI16 dm), (0x4CCE8005#32, .vecCmpeqI8 dm),
  (0x4CCEC005#32, .vecCmpltF32 dm), (0x4CCF0005#32, .vecCmpltF16 dm), (0x4CCF4005#32, .vecCmpltBf16 dm),
  (0x4CCF8005#32, .vecCmpltI32 dm), (0x4CCFC005#32, .vecCmpltI16 dm), (0x4CD00005#32, .vecCmpltI8 dm),
  (0x4CD04005#32, .vecCmpltN32 dm), (0x4CD08005#32, .vecCmpltN16 dm), (0x4CD0C005#32, .vecCmpltN8 dm)] ++ [
  (0x4CD10005#32, .vecSelI32 dm), (0x4CD14005#32, .vecSelI16 dm), (0x4CD18005#32, .vecSelI8 dm),
  (0x4CD1C005#32, .vecAnd dm), (0x4CD20005#32, .vecOr dm), (0x4CD24005#32, .vecXor dm), (0x4CD28005#32, .vecShlI32 dm),
  (0x4CD2C005#32, .vecShlI16 dm), (0x4CD30005#32, .vecShlI8 dm), (0x4CD34005#32, .vecShrI32 dm),
  (0x4CD38005#32, .vecShrI16 dm), (0x4CD3C005#32, .vecShrI8 dm), (0x4CD40005#32, .vecSarI32 dm),
  (0x4CD44005#32, .vecSarI16 dm), (0x4CD48005#32, .vecSarI8 dm), (0x4CD4C005#32, .vecCvtF32 dm),
  (0x4CD50005#32, .vecCvtF16 dm), (0x4CD54005#32, .vecCvtBf16 dm), (0x4CD58005#32, .vecCvtI32 dm),
  (0x4CD5C005#32, .vecCvtI16 dm), (0x4CD60005#32, .vecCvtI8 dm), (0x4CD64005#32, .vecCvtE4m3Sat dm),
  (0x4CD68005#32, .vecCvtE4m3Nsat dm), (0x4CD6C005#32, .vecCvtE5m2Sat dm), (0x4CD70005#32, .vecCvtE5m2Nsat dm),
  (0x4CD74005#32, .vecVdot16E4m3 dm), (0x4CD78005#32, .vecVdot16E5m2 dm), (0x4CD7C005#32, .vecVdot8Bf16 dm),
  (0x4CD80005#32, .vecRsumF32 dm), (0x4CD84005#32, .vecRsumI32 dm)] ++ [
  (0x4CD88005#32, .vecRmaxF32 dm), (0x4CD8C005#32, .vecRmaxI32 dm), (0x4CD90005#32, .vecExp2F32 dm),
  (0x4CD94005#32, .vecRcpF32 dm), (0x4CD98005#32, .vecRsqF32 dm), (0x4CD9C005#32, .vecShufI32 dm),
  (0x4CDA0005#32, .vecShufI16 dm), (0x4CDA4005#32, .vecShufI8 dm), (0x4CDA8005#32, .vecBcastI32 dm),
  (0x4CDAC005#32, .vecBcastI16 dm), (0x4CDB0005#32, .vecBcastI8 dm), (0x4CDB4005#32, .vecVqntD8 dm),
  (0x4CDB8005#32, .vecAbsF32 dm), (0x4CDBC005#32, .vecAbsF16 dm), (0x4CDC0005#32, .vecAbsBf16 dm),
  (0x4CDC4005#32, .vecAbsI32 dm), (0x4CDC8005#32, .vecAbsI16 dm), (0x4CDCC005#32, .vecAbsI8 dm)]
theorem decode_vec : (wordsVec.all fun p => reads p.1 p.2) = true := by decide +kernel

/-- Words of every trigger of `mat`. -/
def wordsMat : List (Word × Instr) := [
  (0x4CE20005#32, .matMmaOv dm), (0x4CE24005#32, .matMmaAc dm), (0x4CE28005#32, .matMgemmOv dm),
  (0x4CE2C005#32, .matMgemmAc dm), (0x4CE30005#32, .matMzero dm), (0x4CE34005#32, .matAswap dm),
  (0x4CE38005#32, .matApop dm), (0x4CE3C005#32, .matApush dm), (0x4CE40005#32, .matMdesc dm),
  (0x4CE44005#32, .matMdcv dm), (0x4CE48005#32, .matMstat dm), (0x4CE4C005#32, .matMfence dm)]
theorem decode_mat : (wordsMat.all fun p => reads p.1 p.2) = true := by decide +kernel

/-- Words of every trigger of `cpy`. -/
def wordsCpy : List (Word × Instr) := [
  (0x4CF20005#32, .cpyCpy dm), (0x4CF24005#32, .cpyCpld dm), (0x4CF28005#32, .cpyCpldSb dm),
  (0x4CF2C005#32, .cpyCpst dm), (0x4CF30005#32, .cpyDrain dm), (0x4CF34005#32, .cpyPagereq dm),
  (0x4CF38005#32, .cpyJobq dm), (0x4CF3C005#32, .cpyCpqry dm), (0x4CF40005#32, .cpySlotq dm)]
theorem decode_cpy : (wordsCpy.all fun p => reads p.1 p.2) = true := by decide +kernel

/-- Words of every trigger of `sem`. -/
def wordsSem : List (Word × Instr) := [
  (0x4D024005#32, .semSld dm 1), (0x4D02C005#32, .semSst dm 1), (0x4D03C005#32, .semSadd dm 3),
  (0x4D04C005#32, .semSmin dm 3), (0x4D05C005#32, .semSmax dm 3), (0x4D06C005#32, .semScas dm 3),
  (0x4D07C005#32, .semStx dm 3), (0x4D080005#32, .semSwaitge dm), (0x4D084005#32, .semBarr dm),
  (0x4D088005#32, .semBexp dm), (0x4D08C005#32, .semBwait dm), (0x4D090005#32, .semBtest dm),
  (0x4D094005#32, .semCxferQ dm), (0x4D098005#32, .semCxferFRn dm), (0x4D09C005#32, .semCxferFRz dm),
  (0x4D0A0005#32, .semCxferFRd dm), (0x4D0A4005#32, .semCbal dm), (0x4D0A8005#32, .semCtotal dm),
  (0x4D0AC005#32, .semCfloor dm), (0x4D0B0005#32, .semCmint dm), (0x4D0B4005#32, .semCburn dm),
  (0x4D0B8005#32, .semSinit dm), (0x4D0BC005#32, .semCinfo dm)]
theorem decode_sem : (wordsSem.all fun p => reads p.1 p.2) = true := by decide +kernel

/-- Words of every trigger of `tsk`. -/
def wordsTsk : List (Word × Instr) := [
  (0x4D120005#32, .tskPost dm), (0x4D124005#32, .tskWaitc dm), (0x4D128005#32, .tskTdone dm),
  (0x4D12C005#32, .tskTid dm), (0x4D130005#32, .tskRndcmt dm)]
theorem decode_tsk : (wordsTsk.all fun p => reads p.1 p.2) = true := by decide +kernel

/-- Words of every trigger of `lnk`. -/
def wordsLnk : List (Word × Instr) := [
  (0x4D220005#32, .lnkSend dm), (0x4D224005#32, .lnkRecv dm), (0x4D228005#32, .lnkLstat dm)]
theorem decode_lnk : (wordsLnk.all fun p => reads p.1 p.2) = true := by decide +kernel

/-- The header words of R45: IDLE 9, SPAN 1 to 5, SURR 0x401, SEG 1, BSUM 3; and the SEG mark alone. -/
theorem decode_headers :
    decodeSpan (0x9#4 ++ 1#4 ++ 0x401#11 ++ 1#1 ++ 3#2 ++ 0#10) = some (.flip ⟨9, 0x401, 3⟩ 1) ∧
    decodeSpan (0x9#4 ++ 2#4 ++ 0x401#11 ++ 1#1 ++ 3#2 ++ 0#10) = some (.flipW ⟨9, 0x401, 3⟩ 1) ∧
    decodeSpan (0x9#4 ++ 3#4 ++ 0x401#11 ++ 0#1 ++ 3#2 ++ 0#10) = some (.flipC ⟨9, 0x401, 3⟩ 0) ∧
    decodeSpan (0x9#4 ++ 4#4 ++ 0x401#11 ++ 0#1 ++ 3#2 ++ 0#10) = some (.flipCw ⟨9, 0x401, 3⟩ 0) ∧
    decodeSpan (0x9#4 ++ 5#4 ++ 0x401#11 ++ 0#1 ++ 3#2 ++ 0#10) = some (.ckpt ⟨9, 0x401, 3⟩ 0) ∧
    decodeSeg (0x9#4 ++ 0#4 ++ 0x401#11 ++ 1#1 ++ 3#2 ++ 0#10) = some (.seg ⟨9, 0x401, 3⟩ 0) ∧
    decodeSpan (0#4 ++ 6#4 ++ 0#24) = none ∧ decodeSpan (0#4 ++ 1#4 ++ 0#14 ++ 1#10) = none := by decide

/-- Plain moves to both ends of every register file and to operand ports (R53, R54). -/
theorem decode_moves :
    ([0x000, 0x03F, 0x040, 0x05F, 0x061, 0x067, 0x080, 0x09F, 0x0A0, 0x0A7, 0x100, 0x142, 0x301, 0x482].all fun (d : BitVec 12) =>
      reads (1#2 ++ 3#4 ++ d ++ 5#14) (.move dm d)) = true ∧
    ([0x060, 0x068, 0x0A8, 0x0FF, 0x103, 0x104, 0x4C0, 0xFFF].all fun (d : BitVec 12) =>
      refuses (1#2 ++ 3#4 ++ d ++ 5#14) (.destSocket 0 d)) = true := by decide +kernel

/-! ## Ill-formed terms are refused -/

/-- Each check of the well-formedness of one instruction: GUARD 8 (R47), the reserved source form, a long form with bits 11:2, a
source that is no readable socket (R48, R53), a destination that is none (R53, R54), a SEG mark of a reserved span code (R45). -/
theorem illformed_instructions :
    (Instr.alAdd ⟨0, 8, 5⟩ 0).wellFormed = false ∧ (Instr.alAdd ⟨0, 0, 0x3000⟩ 0).wellFormed = false ∧
    (Instr.alAdd ⟨0, 0, 0x2004⟩ 0).wellFormed = false ∧ (Instr.alAdd ⟨0, 0, 0x0060⟩ 0).wellFormed = false ∧
    (Instr.alAdd ⟨0, 0, 0x0100⟩ 0).wellFormed = false ∧ (Instr.move ⟨0, 0, 5⟩ 0x103).wellFormed = false ∧
    (Instr.move ⟨0, 0, 5⟩ 0x060).wellFormed = false ∧ (Instr.move ⟨0, 0, 5⟩ 0x108).wellFormed = false ∧
    (Instr.seg ⟨0, 0, 0⟩ 6).wellFormed = false ∧
    (Instr.alAdd dm 1).wellFormed = true ∧ (Instr.move dm 0x067).wellFormed = true ∧ (Instr.seg ⟨0, 0, 0⟩ 5).wellFormed = true := by
  decide

/-- A bundle whose first slots are `l` and whose others are empty. -/
def bundle (h : Word) (l : List Word) : List Word := h :: l ++ List.replicate (11 - l.length) emptySlot

/-- Each row of R58, and a legal bundle: header bits, span code, BSUM, source form, surrender mask, an empty slot's bits, R51
(a socket twice, two triggers of `al0`, a trigger beside a move to its `.a`), a source and a destination socket, a gated trigger
without its FEAT bit, and a wrong length. -/
theorem illformed_bundles :
    bundleError 3 (bundle 0x01000000 [0x0001C005]) = none ∧
    bundleError 3 (bundle 0x01000001 []) = some .headerBits ∧ bundleError 3 (bundle 0x06000000 []) = some .reservedSpan ∧
    bundleError 3 (bundle 0x01000000 [0x4001C005]) = some .bsum ∧ bundleError 3 (bundle 0x01000000 [0x0001F000]) = some (.sourceForm 0) ∧
    bundleError 3 (bundle 0x01000000 [0x0001E000]) = some .surrender ∧ bundleError 3 (bundle 0x01000000 [0x20000001]) = some (.emptyBits 0) ∧
    bundleError 3 (bundle 0x01000000 [0x0001C005, 0x0001C006]) = some .twice ∧
    bundleError 3 (bundle 0x01000000 [0x00420005, 0x00424006]) = some .twice ∧
    bundleError 3 (bundle 0x01000000 [0x00420005, 0x00400006]) = some .twice ∧
    bundleError 3 (bundle 0x01000000 [0x00420005, 0x00520006]) = none ∧
    bundleError 3 (bundle 0x01000000 [0x0001C060]) = some (.sourceSocket 0 0x060) ∧
    bundleError 3 (bundle 0x01000000 [0x00180005]) = some (.destSocket 0 0x060) ∧
    bundleError 2 (bundle 0x01000000 [0x00DB4005]) = some (.gated 0 0x36D) ∧ bundleError 1 (bundle 0x01000000 [0x00DB4005]) = none ∧
    bundleError 3 [0x01000000] = some .length := by decide +kernel

/-! ## Results worked by hand from the spec's rules -/

/-- The last result that a trigger has put in flight: value, status word, ticks. -/
def result (x : Ctx) (u : FU) (a b c : D64) (i : Mv → Instr) : Option (Nat × Option Nat × Nat) :=
  ((ctxOf (after (exec (i srcG) (actor (withOps x u b c) (frameG a)))) 0).infl.getLast?).map fun e =>
    ((e.r.map (·.1.toNat)).getD 0, e.st.map (·.toNat), e.due)

/-- R165, R166: carry out of the top, a clamped sum, a borrow, a shift by 64 (which is by 0), an arithmetic shift, leading zeros
of 0, a selection by bit 0 alone. -/
theorem test_al :
    result run0 .al0 0xFFFFFFFFFFFFFFFF 1 0 (.alAdd · 0) = some (0, some 5, 1) ∧
    result run0 .al1 0x7FFFFFFFFFFFFFFF 1 0 (.alAdds · 1) = some (0x7FFFFFFFFFFFFFFF, some 8, 1) ∧
    result run0 .al0 0 1 0 (.alSub · 0) = some (0xFFFFFFFFFFFFFFFF, some 6, 1) ∧
    result run0 .al0 3 64 0 (.alShl · 0) = some (3, some 0, 1) ∧
    result run0 .al0 0xFFFFFFFFFFFFFFF8 1 0 (.alSar · 0) = some (0xFFFFFFFFFFFFFFFC, some 2, 1) ∧
    result run0 .al0 0 0 0 (.alClz · 0) = some (64, some 0, 1) ∧
    result run0 .al0 7 9 2 (.alSel · 0) = some (9, some 0, 1) := by decide +kernel

/-- R169: the high half of -1 times -1 is 0; the least number over -1 wraps; a remainder has the dividend's sign; LT-A and LT-B. -/
theorem test_mul :
    result run0 .mul 0xFFFFFFFFFFFFFFFF 0xFFFFFFFFFFFFFFFF 0 .mulMulhs = some (0, some 1, 4) ∧
    result run0 .mul 0x8000000000000000 0xFFFFFFFFFFFFFFFF 0 .mulDivs = some (0x8000000000000000, some 2, 20) ∧
    result { run0 with sys := { run0.sys with ltb := true } } .mul 0xFFFFFFFFFFFFFFF9 2 0 .mulRems = some (0xFFFFFFFFFFFFFFFF, some 2, 18) := by
  decide +kernel

/-- R171: the ring of 8 bytes at 16 turns from 23 to 16; an address beyond 56 bits sets W. -/
theorem test_agu :
    result run0 .agu 23 1 0x0000000800000010 .aguAmod = some (16, some 0, 2) ∧
    result run0 .agu 0xFFFFFFFFFFFFFF 1 0 .aguAinc = some (0x100000000000000, some 1, 2) := by decide +kernel

/-- R178, R179, R183: lane 0 of a saturating unsigned byte sum, of 1.0 + 1.0 in FP32, of 1.0 in E4M3; lane 1 of a lane-wise sum
takes no carry from lane 0. -/
theorem test_vec :
    (result run0 .vec 250 10 0 .vecAddsN8).map (fun p => lane 8 p.1 0) = some 255 ∧
    (result run0 .vec 0x3F800000 0x3F800000 0 .vecAddF32).map (fun p => lane 32 p.1 0) = some 0x40000000 ∧
    (result run0 .vec 0x3F800000 0 0 .vecCvtE4m3Sat).map (fun p => lane 8 p.1 0) = some 0x38 ∧
    (result run0 .vec 0x00FF 0x0001 0 .vecAddI8).map (fun p => lane 8 p.1 1) = some 0 := by decide +kernel

/-- R83, R84: FLIP shows the hidden value and takes the written bit away; a register that was not written keeps its face. -/
theorem test_flip :
    let x := { run0 with regs := { run0.regs with g := (run0.regs.g.set 1 { hid := 9, wr := true, core := true }).set 2 { vis := 4, hid := 8 } } }
    let t := ctxOf (after (exec (.flip ⟨0, 0, 0⟩ 0) (actor x frame0))) 0
    t.regs.g[1] = { vis := 9 } ∧ t.regs.g[2] = { vis := 4, hid := 8 } := by decide +kernel

/-- R202, R203, R6: a 4-byte store lands little-endian; STEW marks its two words FULL. -/
theorem test_store :
    let o : LsOp := { seq := 0, bundle := 0, unit1 := false, kind := .store (leBytes 4 0x0A0B0C0D), addr := 8, arrive := 0 }
    let t := after (exec .storePerform (withLs o))
    (coreOf t 0).spad = [(8, 0x0D), (9, 0x0C), (10, 0x0B), (11, 0x0A)] ∧
    (coreOf (after (exec .storePerform { withLs { o with kind := .stew (leBytes 8 1) } with cores := [(0, { core0 with empty := [2, 3, 4] })] })) 0).empty = [4] := by
  decide +kernel

/-- R297, R307: SADD of 5 to a counter of 7 leaves 12 and answers 7; a transfer of 3 from one account to the other. -/
theorem test_sem :
    let x := { run0 with infl := [{ due0 3 with unit := .sem, arrived := false, engine := true }] }
    let at_ := fun (o : SemOp) => after (exec .semArrive { withSem o with ctxs := [(0, x)] })
    (entryOf (at_ (semOp .sadd 0 5 0 (some 3))) 0).value = 12 ∧
    (ctxOf (at_ (semOp .sadd 0 5 0 (some 3))) 0).infl.map (fun e => (e.r.map (·.1.toNat), e.arrived)) = [(some 7, true)] ∧
    (entryOf (at_ (semOp (.cxfer 0) 2 3 3 (some 3))) 2).bal = 0x4FFFFD ∧ (entryOf (at_ (semOp (.cxfer 0) 2 3 3 (some 3))) 3).bal = 3 := by
  decide +kernel

/-- R126, R133, R394: a jump; TRAP enters the handler of its code at position 2, with the position after the bundle kept. -/
theorem test_control :
    ((ctxOf (after (exec (.brJmp srcG) (actor run0 (frameG 77)))) 0).frame.map fun f => (f.next, f.brSet)) = some (77, true) ∧
    (let t := ctxOf (after (exec (.sysTrap srcG) (actor run0 (frameG 5)))) 0
     (t.handler, t.pc, t.sys.trappc) = (true, 2, 1)) := by decide +kernel

/-- R92, R174: a vector trigger reads `m0`: it waits for a write that has not landed, traps where only a flip could clear it, and
promotes one that has landed. -/
theorem test_m0_read :
    let x := fun (f : Face 512) => { run0 with regs := { run0.regs with m := run0.regs.m.set 0 f } }
    let add := [(0, 0b00#2 ++ 0b0000#4 ++ 0x308#12 ++ 0x000#14)]
    pendingRead (x { pend := true }) add = true ∧ pendingRead (x { pend := true }) [(0, 0b00#2 ++ 0b0000#4 ++ 0x300#12 ++ 0x000#14)] = false ∧
    deadlock (x { pend := true, land := true, core := true }) add = some (0, 0xA0) ∧
    ((add.flatMap slotReads).foldl RegFile.promote (x { hid := 7, pend := true, land := true, asyn := true }).regs).m[0].vis = 7 := by
  decide +kernel

/-! ## Witnesses: the whole machine -/

/-- StepRunsDecodedInstruction: each kind of part stands first; an event scheduled, and one chosen; a word placed. -/
theorem witness_steps :
    let w := 0x4C520005#32
    let f := fun (l : List Todo) => { frame0 with todo := l, slots := [w], header := 0x01001000 }
    (∀ p ∈ [Todo.slot 0, .last 0, .check 0, .seg, .span, .event { what := .idleTick }],
      (actor run0 (f [p])).active = some 0 ∧ (ctxOf (actor run0 (f [p])) 0).frame = some (f [p]) ∧ (f [p]).todo = p :: []) ∧
    reads ((f []).slots.getD 0 0) (.alAdd dm 1) = true ∧ (decodeSeg (f []).header).isSome ∧ (decodeSpan (f []).header).isSome ∧
    (world run0).active = none ∧ (world run0).sched = [] ∧ { world run0 with sched := [{ what := .idleTick }] }.sched = { what := .idleTick } :: [] ∧
    reads w (.alAdd dm 1) = true ∧ decodeTableWord 32 w.toNat = some (.alAdd dm 1) := by decide +kernel

/-- StepRunsDecodedInstruction: where one event more may come next, some value of the free choice names it. -/
theorem witness_choice (s : State) (e : Event) (h : e ∈ enabled s) : ∃ n : Nat, (enabled s)[n % ((enabled s).length + 1)]? = some e := by
  obtain ⟨n, hn, he⟩ := List.getElem_of_mem h
  exact ⟨n, by rw [Nat.mod_eq_of_lt (by omega), List.getElem?_eq_getElem hn, he]⟩

/-- StepRunsDecodedInstruction: some event may come next. -/
theorem witness_enabled : enabled { world { run0 with idle := 1 } with dies := [], sems := [] } ≠ [] := by decide +kernel

/-- BundleFrames: an instruction with a word, and a slot whose guard is false (`p1` is 0). -/
theorem witness_frames :
    (encode (.alAdd dm 1)).isSome ∧ guardHolds frame0.regs 1 = false ∧ (Instr.alAdd ⟨0, 1, 5⟩ 0).mv? = some ⟨0, 1, 5⟩ ∧
    current (actor run0 frame0) = some (0, { run0 with frame := some frame0 }, frame0) := by decide +kernel

/-- EncodeDecodeRoundTrip: a word for each family's last trigger, the ends of every field. -/
theorem witness_encodings :
    ([Instr.alPopc ⟨3, 15, 0x17FF⟩ 1, .semStx ⟨2, 9, 0x2003⟩ 3, .lnkLstat ⟨0, 0, 0⟩, .vecVqntD8 dm, .move dm 0x0A7].all fun i =>
      i.wellFormed && (encode i).isSome) = true ∧ (encode (.ckpt ⟨15, 0x7FF, 3⟩ 1)).isSome ∧ (encode (.seg ⟨15, 0x7FF, 3⟩ 5)).isSome := by
  decide +kernel

/-- IllegalCombinations: each kind of clash, in a bundle. -/
theorem witness_clash : Clash 7 7 ∧ Clash 0x108 0x109 ∧ Clash 0x108 0x100 ∧ Clash 0x100 0x108 :=
  ⟨.inl rfl, .inr ⟨.al0, .inl ⟨by decide, .inl (by decide)⟩⟩, .inr ⟨.al0, .inl ⟨by decide, .inr (by decide)⟩⟩,
    .inr ⟨.al0, .inr ⟨by decide, by decide⟩⟩⟩

/-- IllegalCombinations: two moves to `g7`. -/
theorem witness_clash_slots :
    liveSlots 0 [0x0001C005, 0x0001C006] = [(0, 0x0001C005), (1, 0x0001C006)] ∧ slotDst 0x0001C005 = 7 ∧ slotDst 0x0001C006 = 7 := by
  decide +kernel

/-- RollbackEntersHandler: checkpoint mode on, outside handler state, with a shadow set and a handler. -/
theorem witness_rollback :
    let x := { run0 with sys := { run0.sys with ckmode := 1 }, shadow := some shadow0 }
    (ctxOf (world x) 0).handler = false ∧ (ctxOf (world x) 0).sys.ckmode = 1 ∧ (ctxOf (world x) 0).shadow = some shadow0 ∧
    (∀ b ∈ (ctxOf (world x) 0).banks.toList, b ≠ .lost) ∧ handlerOf (world x) 0 .bounds = some 2 := by decide +kernel

/-- StepKeepsMemoryCanonical: a state with memories that list something, which steps. -/
theorem witness_canonical : (world run0).mem.wf = true ∧ (tables page0).wf = true ∧ (withPkt 0 []).host.wf = true := by decide +kernel


/-! ## Witnesses: further clauses -/

/-- SpanActions: a flip that finds a conflict in a bundle that has CKMODE still to write. -/
theorem witness_ckmode_left :
    let x := { run0 with regs := { run0.regs with g := run0.regs.g.set 5 { wr := true, conf := true } } }
    let f := { frame0 with todo := [.event { what := .ckmodeEnable }] }
    ckmodeLeft f = some true ∧ ckOn x = false ∧ x.regs.conflict = some 5 ∧ spanReady (actor x f) 0 .flip = true ∧
    current (actor x f) = some (0, { x with frame := some f }, f) := by decide +kernel

/-- BundleEnds: two loops that share an exit, the inner one in its last iteration, the outer one with iterations left or none. -/
theorem witness_shared_exit :
    let at5 := { frame0 with next := 5 }
    let last := { loop1 with left := 1 }
    ∀ l ∈ [loop1, last], let x := { run0 with loops := [last, l] }
      current (actor x at5) = some (0, { x with frame := some at5 }, at5) ∧ x.loops = [last] ++ [l] ∧ at5.brSet = false ∧
      (last.depth = x.link.length ∧ at5.next = last.exit ∧ last.left ≤ 1) ∧ l.depth = x.link.length ∧ at5.next = l.exit := by decide +kernel

/-- A bundle outside a checkpoint, one with a checkpoint, and the state of a task in a deterministic round. -/
def ckRun : Ctx := { run0 with sys := { run0.sys with ckmode := 1 } }
/-- The second. -/
def frameCk : Frame := { frame0 with header := 0x03000000 }
/-- The third. -/
def inDet (x : Ctx) (f : Frame) : State :=
  { actor { x with task := { seed := some { slot := 0 }, round := 1 } } f with
    regions := [(1, { region1 with rcb := region1.rcb.set 2 0xF040 })]
    launches := [(0, { launch0 with det := true })] }

/-- scratchpadOps, semaphoreReturns, semaphoreQuiet, linkTriggers: an eager trigger out of its place, in its place, and in a round. -/
theorem witness_eager :
    ckOn ckRun = true ∧ (hdrSpan frame0.header).toNat < 3 ∧ 3 ≤ (hdrSpan frameCk.header).toNat ∧ inRound (inDet run0 frame0) 0 = true ∧
    inRound (actor run0 frame0) 0 = false ∧ (lsRows.any (·.eager)) = true ∧ (semReturns.any (·.eager)) = true ∧
    (semQuiets.any fun p => p.1.eager) = true := by decide +kernel

/-- extractorAndRingOps: a PATSET whose checks pass. storePerforms and the rest of O12 stand in the witnesses of the scratchpad. -/
theorem witness_patset :
    let s := { actor run0 frame0 with cores := [(0, { core0 with spad := Memory.writeBytes [] 0 (leBytes 2 7) })] }
    patsetCheck s 0 (opndsAt run0 frame0 (imm 0) .ls0) = none ∧ run0.ls = [] := by decide +kernel

/-- stxPerforms: a sum at one counter; an SCAS that does not find its value; an entry that is no counter. -/
theorem witness_stx :
    let sl := fun (op a v e : Nat) => ([(op, a, v, e), (0, 0, 0, 0), (0, 0, 0, 0), (0, 0, 0, 0)] : List (Nat × Nat × Nat × Nat))
    let s := fun (op a e : Nat) => withSem (semOp (.stx (sl op a 1 e)) a 0 0 (some 3))
    let live := fun (op a e : Nat) => (sl op a 1 e).filter fun q => q.1 != 0
    ((live 2 0 0).map (·.2.1)).Nodup ∧ (∀ q ∈ live 2 0 0, q.1 ≤ 5 ∧ semPlace q.2.1 = semPlace 0 ∧ counterBad (s 2 0 0) 1 q.2.1 false = none) ∧
    (∀ q ∈ live 5 0 7, (entryOf (s 5 0 7) q.2.1).value = BitVec.ofNat 64 q.2.2.2) ∧
    (∀ q ∈ live 5 0 8, (entryOf (s 5 0 8) q.2.1).value ≠ BitVec.ofNat 64 q.2.2.2 ∧ counterBad (s 5 0 8) 1 q.2.1 false = none) ∧
    (live 2 1 0 = [] ++ (2, 1, 1, 0) :: [] ∧ (counterBad (s 2 1 0) 1 1 false).isSome) := by decide +kernel

/-- The watch 2 of context 1 at an entry, beside the operation 9 of context 0 or a card of it. -/
def watch (k : SemKind) (a : Nat) (b : D64) : SemOp := { semOp k a b 0 (some 5) with id := 2, ctx := 1, armed := true }
/-- The watch beside the operation. -/
def watched (o p : SemOp) : State := { withSem o with semOps := [p, o] }

/-- counterWakes: a threshold that each operation's value meets, and one that it does not; SINIT to each type. -/
theorem witness_counter_wakes :
    let p := watch .swaitge 0 8
    let o := semOp .sadd 0 1 0 (some 4)
    let s := watched o p
    s.semOps.find? (fun p => p.id == s.args.a) = some o ∧ aheadAt s o (opPlace s o) = false ∧ o.rel = false ∧
    NatSet.mem s.unreach (opPlace s o / 8) = false ∧ p ∈ s.semOps ∧ p.armed = true ∧ p.addr = 0 ∧ inRound s p.ctx = false ∧
    (∀ q ∈ s.semOps, (q.id = p.id → q = p) ∧ (q.ctx = p.ctx → q.result = p.result → q = p)) ∧ p.id ≠ o.id ∧
    counterBad s 1 0 false = none ∧ semUse s 1 (entryOf s 0) true = true ∧ semUse s 1 (entryOf s 0) false = true ∧
    (entryOf s 0).type = 1 ∧ (entryOf s 0).poison = false ∧ (entryOf s 0).value = 7 ∧
    ((7 + 1 : D64) - p.b).msb = false ∧ ((7 : D64) - p.b).msb = true ∧ ((9 : D64) - p.b).msb = false ∧
    (∀ ty ∈ [0, 1, 2], ((BitVec.ofNat 64 ty).extractLsb' 0 4).toNat = ty) ∧
    (let b : D64 := 0xFF03; (b.extractLsb' 0 4).toNat = 3 ∧ (classOf s (b.extractLsb' 8 8).toNat).isSome ∧ accountRoom s (entryOf s 0).owner = true) := by
  decide +kernel

/-- barrierWakes: the last arrival and one before it, the last pending bytes and not, a card's decrement likewise. -/
theorem witness_barrier_wakes :
    let p := watch .bwait 1 0
    let s := fun (e a : Nat) => { watched (semOp .barr 1 0 0 none) p with sems := [(1, barrier e a)] }
    (∀ a ∈ [1, 2], let e := entryOf (s 3 a) 1
      e.type = 2 ∧ e.poison = false ∧ semUse (s 3 a) 1 e true = true ∧ semUse (s 3 a) 1 e false = true ∧ e.phase = p.b.getLsbD 0 ∧
      e.arrived ≠ e.expect ∧ e.arrived < 2 ^ 16 - 1 ∧ e.pendBytes = 0 ∧ e.arrived = a ∧ e.expect = 3) ∧
    (∀ a ∈ [2, 3], (entryOf (s 3 a) 1).pendBytes + 0 = 0 ∧ (entryOf (s 3 a) 1).pendBytes + 5 ≠ 0) ∧
    (let ws := card 0 0 1
     let j := { job0 (.card (ws.set 0 0x100004400)) with chan := some 0, moving := true, owed := 64 }
     let t := { withJob j with semOps := [{ p with addr := 0 }], sems := [(0, { barrier 3 3 with word := (barrier 3 3).word ||| 64 })] }
     jobOf t 0 9 = some j ∧ j.owed ≠ 0 ∧ j.ov = none ∧ semUse t j.region (entryOf t 0) false = true ∧
     (entryOf t 0).arrived = (entryOf t 0).expect ∧ (entryOf t 0).pendBytes = BitVec.ofNat 64 64) := by decide +kernel

/-- watchesAcquire: a SWAITGE that completes; a write that has performed at its context's die. -/
theorem witness_acquire :
    let o := semOp .swaitge 0 7 0 (some 3)
    let l : Lag := { job := 9, ctx := 4, core := 1, die := 0, level := 2, unit := 1, old := [] }
    staysArmed (withSem o) o = false ∧ staysArmed (withSem (semOp .bwait 1 1 0 (some 3))) (semOp .bwait 1 1 0 (some 3)) = false ∧
    l.seen { die := 0, core := some 0, ctx := some 0 } = true ∧ { l with level := 0 }.seen { die := 0, core := some 0, ctx := some 0 } = false := by
  decide +kernel

/-- taskPosts: no core covers the kernel; the launch's fault domain is LAUNCH. -/
theorem witness_post_uncovered :
    let y := { launch0 with image := { image0 with kernels := image0.kernels.map fun k => { k with feat := 8 } } }
    let s := { postState false task0 with launches := [(0, y)], regions := [(1, { region1 with rcb := region1.rcb.set 2 0xF010 })] }
    launchOf s 0 = some y ∧ covers s.feat (kernelFeat y 0) = false ∧ y.stage ≠ .retired ∧ fdomOf s y.region = 1 ∧ seedRoom s 1 = true ∧
    postCheck s 0 (opndsAt task0 (frameG 0) srcG .tsk) = none ∧ (seedOf (recordAt s 0 0 64)).move = false ∧
    (postCheck (postState false task0) 0 (opndsAt task0 (frameG 1) srcG .tsk)).isSome := by decide +kernel

/-- seedsEnter: a moving seed of a peer, with no tile and for this node. -/
theorem witness_peer_seed :
    let bs : List Byte := leBytes 8 (2 ^ 54) ++ List.replicate 56 0 ++ leBytes 8 0 ++ List.replicate 56 0
    let s := { world run0 with args := { a := 0, b := 0, c := leNat bs, d := bs.length } }
    bs.length = 128 ∧ leBytes s.args.d s.args.c = bs ∧ seedClean bs = true ∧ (seedOf bs).move = true ∧ tilesOf ((bs.drop 64).take 64) = ([], true) ∧
    moveNode ((bs.drop 64).take 64) = s.node ∧ (seedOf bs).slot ∈ launch0.klist ∧ launch0.stage = .placed ∧ launch0.faulted = false ∧
    covers s.feat (kernelFeat launch0 (seedOf bs).slot) = true := by decide +kernel

/-- linkTriggers, messagesArrive: a RECV with no message whose peer is there, has halted, or is gone; the halt of a peer context. -/
theorem witness_recv_ends :
    let p : Pipe := { number := 0, sender := none, receiver := some 0, peer := some (5, 7) }
    let y := { launch0 with image := { image0 with pipes := [p] } }
    let s := { actor run0 frame0 with launches := [(0, y)], nodes := [0, 5] }
    let o := opndsAt run0 frame0 (imm 0) .lnk
    pipeCheck false true s 0 o = none ∧ pipeOf s 0 0 = some p ∧ peerGone s p = false ∧ peerHalted s 0 p false = false ∧
    peerGone { s with unreach := [5] } p = true ∧
    (let t := { s with launches := [(0, { y with closed := [(0, 0)] })] }
     pipeCheck false true t 0 o = none ∧ pipeOf t 0 0 = some p ∧ peerGone t p = false ∧ peerHalted t 0 p false = true) ∧
    (let t := { world { run0 with recvs := [(3, 0)] } with launches := [(0, y)], nodes := [0, 5], args := { a := 0, b := 0, d := 513 } }
     launchOf t 0 = some y ∧ y.ctxs[0]? = some (0, [0, 1]) ∧ (ctxOf t 0).launch = some 0 ∧ gridCore t 0 = 0 ∧ (ctxOf t 0).recvs = [(3, 0)] ∧
     pipeOf t 0 0 = some p ∧ peerGone t p = false ∧ t.msgs = []) ∧
    (pipeCheck false true s 0 (opndsAt run0 (frameG 9) srcG .lnk)).isSome := by decide +kernel

/-- resultsArrive: an LDFW behind an STFF of its bundle, and of an earlier bundle; a late fault of the array. -/
theorem witness_ldfw_and_array :
    let o : LsOp := { seq := 3, bundle := 1, unit1 := true, kind := .ldfw, addr := 64, arrive := 0 }
    let p : LsOp := { o with seq := 2, unit1 := false, kind := .stff [1, 2, 3, 4, 5, 6, 7, 8] }
    (let s := world { run0 with ls := [o, p] }
     (ctxOf s 0).ls = o :: p :: [] ∧ p.bundle = o.bundle ∧ feProceeds s 0 o = true ∧ inRound s 0 = false ∧ (coreOf s 0).spad.wf = true) ∧
    (let s := world { run0 with ls := [o], held := [.store { p with bundle := 0 }] }
     (∀ q ∈ (ctxOf s 0).ls, q.bundle = o.bundle → q.seq < o.seq → q.addr = o.addr → False) ∧ feProceeds s 0 o = true ∧
     .store { p with bundle := 0 } ∈ (ctxOf s 0).held) ∧
    (let e := { due0 3 with unit := .mat, arrived := false, late := some { code := .matrixFault } }
     let x := { run0 with infl := [e] }
     x.infl.find? (fun e => e.seq == 3) = some e ∧ e.engine = false ∧ e.arrived = false ∧ e.need = none ∧ x.aside = none ∧ x.held ++ x.going = []) := by
  decide +kernel

/-- asyncLands: a value and its mask on one register that a bundle of the span has written. -/
theorem witness_two_landings :
    let w : AsyncW := { id := 6, dst := 9, sb := true, value := some 9, fault := some { code := .softError } }
    let y : AsyncW := { id := 7, dst := 9, sb := true, value := some 1, twin := some 6 }
    let x := { run0 with async := [w, y], regs := { run0.regs with g := run0.regs.g.set 9 { wr := true, core := true } } }
    let s := { world x with args := { a := 0, b := 6 } }
    ctxOf s 0 = x ∧ x.async = [w, y] ∧ w.id = s.args.b ∧ w.twin = none ∧ y.twin = some w.id ∧ y.id ≠ w.id ∧ w.value = some 9 ∧
    y.value = some 1 ∧ s.dies = [] ∧ x.aside = none ∧ w.dst = BitVec.ofNat 12 9 := by decide +kernel

/-- transferBetweenDies, AdministrativePackets: a refund that its source takes, and sources that are none, of another class, or full. -/
theorem witness_refunds :
    let t := { world run0 with xfers := [{ xfer0 with stage := .refund }], transit := [(255, 5)] }
    let e := entryOf t 2
    (e.type = 3 ∧ e.cls = xfer0.cls ∧ e.poison = false ∧ e.bal + 5 < 2 ^ 95 ∧ 5 ≤ transitOf t (semPlace 2) 255) ∧
    (entryOf t 0).type ≠ 3 ∧
    (let f : SemEntry := { word := 0x300000FF7FFFFFFFFFFFFFFFFFFFFFFF#128, owner := 1 }; ¬ f.bal + 5 < 2 ^ 95) ∧
    (let x := { xfer0 with dst := 5 * 2 ^ 17 }
     ({ t with xfers := [x] }.xfers.filter fun x => semNode x.dst == semNode (5 * 2 ^ 17)) = [x] ∧ semNode x.src ≠ semNode (5 * 2 ^ 17)) := by
  decide +kernel

/-- RegionPackets, powerDemands: a CYCB that an UPDATE raises while it holds its launch; a bangle whose started contexts are HALTED. -/
theorem witness_held_and_halted :
    heads (regionPkt 1 (region1.rcb.set 8 2000) fun t => { t with regions := [(1, { region1 with heldC := true })] }) (fun u p =>
      (p.word 2).toNat == 1 && decide ((rcbWord u 1 8).toNat < ((readRcb u 0x3000).getD 8 0).toNat) &&
      !rcbFails u (readRcb u 0x3000) (parentOf u 1) (partOf u 1)) = true ∧
    (∃ c, c / 32 = 0 ∧ (ctxOf (world { run0 with status := .halted }) c).launch.isSome) := by
  refine ⟨by decide +kernel, 0, by decide +kernel⟩

/-- VectorFunctionValues: a code of each class, both classes of integer argument, and the products of a group. -/
theorem witness_functions :
    (∀ c ∈ [0, 1, 0x3F800000, 0x7F800000, 0x7FC00000, 0xBF800000, 0xFF800000], c < 2 ^ 32) ∧
    0x7F800000 < 0x7FC00000 % 2 ^ 31 ∧ 0 < 0x3F800000 % 2 ^ 31 ∧ 0x3F800000 % 2 ^ 31 < 0x7F800000 ∧
    groupE4m3.sig 0x38 * groupE4m3.sig 0x38 ≠ 0 ∧ groupE4m3.exp 0x38 + groupE4m3.exp 0x38 = -6 ∧ groupE4m3.nanAt ≤ groupE4m3.mag 0xFF ∧
    groupE5m2.infAt = some (groupE5m2.mag 0xFC) ∧ groupE5m2.neg 0xFC = true ∧ groupE5m2.mag 0x80 = 0 ∧ groupBf16.exp 0x3F80 = -7 := by
  decide +kernel

end Sys2Proof.Tests
end

section
/-! PROOFS for O46. What results and drops leave alone, what a write of a semaphore entry changes, errors of the part, a reset of a
die, and a node that cannot be reached. -/

namespace Sys2Proof.Machine

/-! ## Tables with entries taken out or changed by key -/

/-- A table of which only the keys that satisfy `p` are kept. -/
theorem Tab.get_filter_key {α : Type} (d : α) (p : Nat → Bool) (t : List (Nat × α)) (k : Nat) :
    Tab.get d (t.filter fun e => p e.1) k = if p k then Tab.get d t k else d := by
  simp only [Tab.get]
  induction t with
  | nil => simp [Sparse.get]
  | cons e t ih =>
    obtain ⟨a, v⟩ := e
    by_cases hp : p a
    · by_cases hk : a = k
      · subst hk; simp [Sparse.get, hp]
      · simp [Sparse.get, hp, hk, ih]
    · by_cases hk : a = k
      · subst hk; simp [hp, ih]
      · simp [Sparse.get, hp, hk, ih]

/-- A table whose entry at every key `k` is changed by `f k`, which leaves the default. -/
theorem Tab.get_map_key {α : Type} (d : α) (f : Nat → α → α) (h : ∀ k, f k d = d) (t : List (Nat × α)) (k : Nat) :
    Tab.get d (t.map fun e => (e.1, f e.1 e.2)) k = f k (Tab.get d t k) := by
  simp only [Tab.get]
  induction t with
  | nil => exact (h k).symm
  | cons e t ih =>
    obtain ⟨a, v⟩ := e
    by_cases hk : a = k
    · subst hk; simp [Sparse.get]
    · simp [Sparse.get, hk, ih]

/-- A number is in a set after it is put in. -/
theorem NatSet.mem_insert (l : List Nat) (k : Nat) : NatSet.mem (NatSet.insert l k) k = true := by
  simpa [NatSet.mem] using NatSet.mem_insert_self l k

/-! ## What a result and a drop leave alone (R289, R291, R296) -/

theorem semStatus_unreach : semStatus sUNREACH = 9 := by decide

/-- The machine without what answers and drops change: contexts, and the dies' counts of drops. -/
def sansAnswers (s : State) : State := { s with ctxs := [], dies := [] }

theorem semFail_sansAnswers (s : State) (o : SemOp) (code : Nat) (r : D64) : sansAnswers (semFail s o code r) = sansAnswers s := by
  unfold semFail
  split
  · unfold semDeliver; split <;> rfl
  · split <;> rfl

/-- The result of one operation in flight (R118, R296). -/
def answered (r st : D64) (e : InFlight) : InFlight := { e with r := full64 r, st := some st, arrived := true }

/-- Where a result goes: to the entry of its trigger in its context. -/
theorem infl_semDeliver {o : SemOp} {q : Nat} (hq : o.result = some q) (s : State) (r st : D64) (c : Nat) :
    (ctxOf (semDeliver s o r st) c).infl =
      if c = o.ctx then fillList (ctxOf s c).infl q (answered r st) else (ctxOf s c).infl := by
  simp only [semDeliver, hq, modCtx, ctxOf_setCtx]
  split
  · next h => subst h; rfl
  · rfl

theorem told_congr {s t : State} (h : t.ctxs = s.ctxs) (o : SemOp) (r st : D64) : Told t o r st ↔ Told s o r st := by
  simp only [Told, ctxOf, h]

/-- An operation that delivers its result has it. -/
theorem told_semDeliver (s : State) (o : SemOp) (r st : D64) : Told (semDeliver s o r st) o r st := by
  intro q hq e he hs
  rw [infl_semDeliver hq, if_pos rfl, fillList, List.mem_map] at he
  obtain ⟨d, -, rfl⟩ := he
  by_cases hd : d.seq = q
  · simp [hd, answered]
  · simp [hd] at hs

/-- Another operation's delivery of the same result keeps what an operation has been told. -/
theorem told_deliver {s : State} {p : SemOp} {r st : D64} (h : Told s p r st) (o : SemOp) :
    Told (semDeliver s o r st) p r st := by
  cases hr : o.result with
  | none => simpa [semDeliver, hr] using h
  | some n =>
    intro q hq e he hs
    rw [infl_semDeliver hr] at he
    split at he
    · rw [fillList, List.mem_map] at he
      obtain ⟨d, hd, rfl⟩ := he
      by_cases hn : d.seq = n
      · simp [hn, answered]
      · rw [if_neg hn] at hs ⊢
        exact h q hq d hd hs
    · exact h q hq e he hs

/-- An operation that fails is told so. -/
theorem told_semFail (s : State) (o : SemOp) (code : Nat) (r : D64) : Told (semFail s o code r) o r (semStatus code) := by
  cases hr : o.result with
  | none => intro q hq; simp [hr] at hq
  | some q => simpa [semFail, hr] using told_semDeliver s o r (semStatus code)

/-- Another operation's failure with the same status keeps what an operation has been told. -/
theorem told_fail {s : State} {p : SemOp} {code : Nat} {r : D64} (h : Told s p r (semStatus code)) (o : SemOp) :
    Told (semFail s o code r) p r (semStatus code) := by
  unfold semFail
  split
  · exact told_deliver h o
  · split
    · exact h
    · exact (told_congr rfl p r _).mpr h

theorem told_foldl_keeps {p : SemOp} {code : Nat} (l : List SemOp) {s : State} (h : Told s p 0 (semStatus code)) :
    Told (l.foldl (fun s o => semFail s o code) s) p 0 (semStatus code) := by
  induction l generalizing s with
  | nil => exact h
  | cons o l ih => exact ih (told_fail h o)

/-- Operations that all fail with one status are all told so. -/
theorem told_foldl_semFail {l : List SemOp} {p : SemOp} (code : Nat) (hp : p ∈ l) (s : State) :
    Told (l.foldl (fun s o => semFail s o code) s) p 0 (semStatus code) := by
  obtain ⟨before, behind, rfl⟩ := List.append_of_mem hp
  rw [List.foldl_append, List.foldl_cons]
  exact told_foldl_keeps behind (told_semFail _ p code 0)

/-! ## What a write of an entry changes (R282, R297, R300, R303) -/

/-- The machine without what woken watches change: contexts, what their acquires have seen, and the operations and continuations
that wait. -/
def sansWatches (s : State) : State := { s with ctxs := [], lags := [], semOps := [], conts := [] }

theorem semDeliver_sansWatches (s : State) (o : SemOp) (r st : D64) : sansWatches (semDeliver s o r st) = sansWatches s := by
  unfold semDeliver; split <;> rfl

theorem semWake_sansWatches (s : State) (a : Nat) : sansWatches (semWake s a) = sansWatches s := by
  unfold semWake
  extract_lets hits u
  show sansWatches u = sansWatches s
  refine foldl_keeps sansWatches _ hits s fun t o => ?_
  split
  · exact semDeliver_sansWatches t o _ _
  · rfl

theorem semWrite_sansWatches (s : State) (a : Nat) (e : SemEntry) : sansWatches (semWrite s a e) = sansWatches (setEntry s a e) :=
  semWake_sansWatches _ a

@[simp] theorem semWrite_mem (s : State) (a : Nat) (e : SemEntry) : (semWrite s a e).mem = s.mem :=
  (congrArg State.mem (semWrite_sansWatches s a e) :)

@[simp] theorem semWrite_sems (s : State) (a : Nat) (e : SemEntry) : (semWrite s a e).sems = Tab.put s.sems a e :=
  (congrArg State.sems (semWrite_sansWatches s a e) :)

theorem entryOf_semWrite (s : State) (a b : Nat) (e : SemEntry) :
    entryOf (semWrite s a e) b = if b = a then e else entryOf s b := by
  simp only [entryOf, semWrite_sems, Tab.get_put]

/-- What writes of the same value at a list of entries change, as seen at an entry that is not in the list. -/
theorem entryOf_foldl_semWrite {l : List Nat} {b : Nat} (hb : b ∉ l) (e : SemEntry) (s : State) :
    entryOf (l.foldl (fun s a => semWrite s a e) s) b = entryOf s b := by
  induction l generalizing s with
  | nil => rfl
  | cons a l ih =>
    obtain ⟨hba, hbl⟩ := List.ne_and_not_mem_of_not_mem_cons hb
    rw [List.foldl_cons, ih hbl, entryOf_semWrite, if_neg hba]

/-! ## Failures of the part and resets (R5, R259, R282, R314, R400) -/

/-- R314: an uncorrectable error in a semaphore entry poisons the entry, whose fields stand, and touches no other. -/
theorem uncorrectableError_entry (s : State) (ha : s.args.a = 5) (hb : semAddrOk s s.args.b = true) :
    ∃ t, exec .uncorrectableError s = .next t ∧ (entryOf t s.args.b).poison = true ∧
      (entryOf t s.args.b).word = (entryOf s s.args.b).word ∧
      (∀ a, a ≠ s.args.b → entryOf t a = entryOf s a) ∧ t.mem = s.mem := by
  refine ⟨semWrite s s.args.b { entryOf s s.args.b with poison := true }, ?_, ?_, ?_, ?_, semWrite_mem _ _ _⟩
  · show execUncorrectableError s = _
    simp [execUncorrectableError, ha, hb]
  · simp [entryOf_semWrite]
  · simp [entryOf_semWrite]
  · intro a h
    rw [entryOf_semWrite, if_neg h]

/-- The machine once the entries at `l` have been written UNSET (R282). -/
def unsetAt (s : State) (l : List Nat) : State := l.foldl (fun s a => semWrite s a {}) s

/-- The machine without its semaphore files and what woken watches change. -/
def sansFiles (s : State) : State := { sansWatches s with sems := [] }

theorem unsetAt_sansFiles (s : State) (l : List Nat) : sansFiles (unsetAt s l) = sansFiles s :=
  foldl_keeps sansFiles _ l s fun t a => congrArg (fun u : State => { u with sems := [] }) (semWrite_sansWatches t a {})

/-- The addresses of the entries of a die that the table lists (R281). -/
def entriesAt (s : State) (d : Nat) : List Nat := (s.sems.filter fun p => semPlace p.1 == ownPlace s d).map (·.1)

/-- The cycles of a reset die's cores count from 0 (R259). -/
def resetCore (d k : Nat) (x : Core) : Core := if coreDie k = d then { x with cycle := 0 } else x

/-- A reset of a die: its entries UNSET and no longer listed, its cores' cycles 0. -/
def dieCleared (s : State) (d : Nat) : State :=
  let u := unsetAt s (entriesAt s d)
  { u with sems := u.sems.filter fun p => semPlace p.1 != ownPlace u d
           cores := u.cores.map fun p => (p.1, resetCore d p.1 p.2) }

theorem exec_dieReset {s : State} (h : s.args.a ≤ 4) : exec .dieReset s = .next
    (if s.args.a < 4 then modDie (dieCleared s s.args.a) s.args.a fun x => { x with slots := [], newSlots := none, cycle := 0 }
     else dieCleared s s.args.a) := by
  show execDieReset s = _
  rw [execDieReset, if_neg (show ¬ s.args.a > Config.dies from Nat.not_lt.mpr h)]
  rfl

theorem entryOf_dieCleared (s : State) (d a : Nat) :
    entryOf (dieCleared s d) a = if semPlace a = s.node * 8 + d then {} else entryOf s a := by
  have hplace : ownPlace (unsetAt s (entriesAt s d)) d = s.node * 8 + d :=
    (congrArg (fun t => ownPlace t d) (unsetAt_sansFiles s (entriesAt s d)) :)
  refine (Tab.get_filter_key ({} : SemEntry) (fun k => semPlace k != ownPlace (unsetAt s (entriesAt s d)) d) _ a).trans ?_
  rw [hplace]
  by_cases h : semPlace a = s.node * 8 + d
  · simp [h]
  · have ha : a ∉ entriesAt s d := by
      simp only [entriesAt, List.mem_map, List.mem_filter]
      rintro ⟨p, ⟨-, hd⟩, rfl⟩
      exact h (beq_iff_eq.mp hd)
    rw [if_pos (bne_iff_ne.mpr h), if_neg h]
    exact entryOf_foldl_semWrite ha {} s

theorem coreOf_dieCleared (s : State) (d k : Nat) : coreOf (dieCleared s d) k = resetCore d k (coreOf s k) := by
  have hc : (unsetAt s (entriesAt s d)).cores = s.cores := (congrArg State.cores (unsetAt_sansFiles s _) :)
  have h0 : ∀ k, resetCore d k {} = {} := fun k => by unfold resetCore; split <;> rfl
  refine (Tab.get_map_key ({} : Core) (resetCore d) h0 _ k).trans ?_
  rw [hc]; rfl

theorem dieOf_dieCleared (s : State) (d j : Nat) : dieOf (dieCleared s d) j = dieOf s j :=
  congrArg (fun l => Tab.get ({} : Die) l j) (congrArg State.dies (unsetAt_sansFiles s (entriesAt s d)) :)

theorem dieCleared_mem (s : State) (d : Nat) : (dieCleared s d).mem = s.mem :=
  (congrArg State.mem (unsetAt_sansFiles s (entriesAt s d)) :)

/-- R259, R282: a reset of a compute die or of the hub die. -/
theorem dieReset_resets (s : State) (h : s.args.a ≤ 4) : ∃ t, exec .dieReset s = .next t ∧ t.mem = s.mem ∧
    (∀ a, entryOf t a = if semPlace a = s.node * 8 + s.args.a then {} else entryOf s a) ∧
    (∀ k, coreOf t k = resetCore s.args.a k (coreOf s k)) ∧
    (s.args.a < 4 → dieOf t s.args.a = { dieOf s s.args.a with slots := [], newSlots := none, cycle := 0 }) := by
  refine ⟨_, exec_dieReset h, ?_⟩
  split
  · refine ⟨dieCleared_mem s _, entryOf_dieCleared s _, coreOf_dieCleared s _, fun _ => ?_⟩
    rw [modDie_eq, dieOf_setDie_same, dieOf_dieCleared]
  · next hd => exact ⟨dieCleared_mem s _, entryOf_dieCleared s _, coreOf_dieCleared s _, fun hl => absurd hl hd⟩

/-- Each kind of error marks its own unit and nothing else, each kind of retirement its own set. -/
theorem failuresAndResets_hold : failuresAndResets := by
  refine ⟨fun s => ⟨?word, ?store, ?mem, ?acc, ?array, ?tag, uncorrectableError_entry s⟩, fun s hd => ?reset,
    fun s => ⟨?bangle, ?stack, ?port⟩⟩
  case word | store | acc | tag =>
    intro ha hb hc
    show execUncorrectableError s = _
    simp only [execUncorrectableError, ha]
    exact if_pos ⟨hb, hc⟩
  case mem =>
    intro ha
    show execUncorrectableError s = _
    simp only [execUncorrectableError, ha]
  case array =>
    intro ha hb
    show execUncorrectableError s = _
    simp only [execUncorrectableError, ha]
    exact if_pos hb
  case reset =>
    obtain ⟨t, ht, hmem, hentry, hcore, hdie⟩ := dieReset_resets s hd
    refine ⟨t, ht, hmem, fun a ha => ?_, fun _ a ha => ?_, hcore, fun hl => ?_⟩
    · rw [hentry, if_pos ha]
    · rw [hentry, if_neg ha]
    · simp [hdie hl]
  case bangle | stack | port =>
    intro ha
    show execBangleRetire s = _
    simp only [execBangleRetire, ha]

/-! ## Nodes that cannot be reached (R267, R313) -/

/-- The operations that wait armed at the entries of a node. -/
def waitingAt (s : State) (n : Nat) : List SemOp := s.semOps.filter fun o => o.armed && opPlace s o / 8 == n

/-- The machine once the operations of `l` have ended UNREACHABLE (R313). -/
def cutOff (s : State) (l : List SemOp) : State := l.foldl (fun s o => semFail s o sUNREACH) s

theorem cutOff_sansAnswers (s : State) (l : List SemOp) : sansAnswers (cutOff s l) = sansAnswers s :=
  foldl_keeps sansAnswers _ l s fun t o => semFail_sansAnswers t o sUNREACH 0

theorem mem_waitingAt {s : State} {n : Nat} {o : SemOp} :
    o ∈ waitingAt s n ↔ o ∈ s.semOps ∧ o.armed = true ∧ opPlace s o / 8 = n := by
  simp [waitingAt]

/-- R313: what a report of an unreachable node makes of the machine. -/
theorem exec_nodeUnreachable {s : State} (h0 : s.args.a ≠ s.node) (h1 : s.args.a ∈ s.nodes) :
    ∃ t, exec .nodeUnreachable s = .next t ∧ t.unreach = NatSet.insert s.unreach s.args.a ∧ t.sems = s.sems ∧ t.mem = s.mem ∧
      t.semOps = (s.semOps.filter fun o => !((waitingAt s s.args.a).any fun g => g.id == o.id)) ∧
      t.ctxs = (cutOff { s with unreach := NatSet.insert s.unreach s.args.a } (waitingAt s s.args.a)).ctxs := by
  let u : State := { s with unreach := NatSet.insert s.unreach s.args.a }
  have hu : sansAnswers (cutOff u (waitingAt s s.args.a)) = sansAnswers u := cutOff_sansAnswers u _
  have hx : ¬ (s.args.a = s.node ∨ (!s.nodes.contains s.args.a) = true) := by simp [h0, h1]
  refine ⟨_, if_neg hx, (congrArg State.unreach hu :), (congrArg State.sems hu :), (congrArg State.mem hu :), ?_, rfl⟩
  exact (congrArg (fun t : State => t.semOps.filter fun o => !((waitingAt s s.args.a).any fun g => g.id == o.id)) hu :)

/-- R267, R313: a node reported unreachable, and what waits at its entries. -/
theorem nodeUnreachable_ends (s : State) (h0 : s.args.a ≠ s.node) (h1 : s.args.a ∈ s.nodes) :
    ∃ t, exec .nodeUnreachable s = .next t ∧
    NatSet.mem t.unreach s.args.a = true ∧ t.sems = s.sems ∧ t.mem = s.mem ∧
    (∀ o ∈ s.semOps, o.armed = false ∨ opPlace s o / 8 ≠ s.args.a → (∀ p ∈ s.semOps, p.id = o.id → p = o) → o ∈ t.semOps) ∧
    (∀ o ∈ s.semOps, o.armed = true → opPlace s o / 8 = s.args.a → o ∉ t.semOps ∧ Told t o 0 9) := by
  obtain ⟨t, ht, hun, hs, hm, hops, hctxs⟩ := exec_nodeUnreachable h0 h1
  refine ⟨t, ht, hun ▸ NatSet.mem_insert _ _, hs, hm, fun o ho hne hid => ?_, fun o ho har hat => ?_⟩
  · have hstay : ∀ g ∈ waitingAt s s.args.a, g.id ≠ o.id := by
      intro g hg hgo
      obtain ⟨hg, harm, hat⟩ := mem_waitingAt.mp hg
      obtain rfl := hid g hg hgo
      rcases hne with hne | hne
      · simp [hne] at harm
      · exact hne hat
    rw [hops]
    simpa [ho] using hstay
  · have hw : o ∈ waitingAt s s.args.a := mem_waitingAt.mpr ⟨ho, har, hat⟩
    refine ⟨?_, (told_congr hctxs o 0 9).mpr (semStatus_unreach ▸ told_foldl_semFail sUNREACH hw _)⟩
    rw [hops]
    simp only [List.mem_filter, Bool.not_eq_true', List.any_eq_false, not_and, not_forall]
    exact fun _ => ⟨o, hw, by simp⟩

/-- What an operation does at its entry, seen before the acquire that it may be (R321). -/
theorem semPerform_ctxs_sems (s : State) (o : SemOp) :
    (semPerform s o).ctxs = (semAct s o).ctxs ∧ (semPerform s o).sems = (semAct s o).sems := by
  unfold semPerform; split <;> exact ⟨rfl, rfl⟩

theorem semAct_unreachable {s : State} {o : SemOp} (h : NatSet.mem s.unreach (opPlace s o / 8) = true) :
    semAct s o = semFail s o sUNREACH := if_pos h

theorem opPlace_counter {o : SemOp} (h : o.kind = .sadd) (s : State) : opPlace s o / 8 = semNode o.addr := by
  simp only [opPlace, h, semPlace, semNode]; omega

/-- An addition that may perform does so when it arrives (R292, R294). -/
theorem exec_semArrive_sadd {s : State} {o : SemOp} (hf : s.semOps.find? (fun p => p.id == s.args.a) = some o)
    (hfirst : aheadAt s o (opPlace s o) = false) (hsent : o.rel = true → releaseReady s o = true) (hk : o.kind = .sadd) :
    exec .semArrive s = .next (semPerform { s with semOps := s.semOps.filter fun p => p.id != o.id } o) := by
  have hgo : (!o.armed && (aheadAt s o (opPlace s o) || (o.rel && !releaseReady s o))) = false := by
    cases hr : o.rel
    · simp [hfirst]
    · simp [hfirst, hsent hr]
  show execSemArrive s = _
  simp [execSemArrive, hf, hk, hgo, staysArmed]

/-- R313: an addition that sets out for a node that cannot be reached. -/
theorem semArrive_unreachable (s : State) (o : SemOp) (hf : s.semOps.find? (fun p => p.id == s.args.a) = some o)
    (hfirst : aheadAt s o (opPlace s o) = false) (hsent : o.rel = true → releaseReady s o = true) (hk : o.kind = .sadd)
    (hcut : NatSet.mem s.unreach (semNode o.addr) = true) :
    ∃ t, exec .semArrive s = .next t ∧ t.sems = s.sems ∧ Told t o 0 9 := by
  let u : State := { s with semOps := s.semOps.filter fun p => p.id != o.id }
  have hact : semAct u o = semFail u o sUNREACH := semAct_unreachable (by rw [opPlace_counter hk]; exact hcut)
  obtain ⟨hctxs, hsems⟩ := semPerform_ctxs_sems u o
  rw [hact] at hctxs hsems
  refine ⟨_, exec_semArrive_sadd hf hfirst hsent hk, hsems.trans (congrArg State.sems (semFail_sansAnswers u o _ _) :), ?_⟩
  exact (told_congr hctxs o 0 9).mpr (semStatus_unreach ▸ told_semFail u o sUNREACH 0)

theorem unreachableNodes_hold : unreachableNodes :=
  ⟨nodeUnreachable_ends, fun _ => rfl, fun s o hf hfirst hsent hk _ hcut => semArrive_unreachable s o hf hfirst hsent hk hcut⟩

/-- Settles O46: errors and retirements by the event's own branches, resets by what clearing a die's entries leaves alone, and
unreachable nodes by what operations that fail there are told. -/
theorem failuresAndResets : Obligations.FailuresAndResets := ⟨failuresAndResets_hold, unreachableNodes_hold⟩

end Sys2Proof.Machine
end

section
/-! PROOFS for O40. What the exit words of a launch status block hold (R343), and a launch whose exit value does not fit its word. -/

namespace Sys2Proof.Machine

/-! ## The exit words of a status block (R343) -/

/-- Field `i` of `n` fields of `w` entries each, one behind the other. -/
theorem take_drop_flatMap_range {α : Type} {f : Nat → List α} {w : Nat} (hw : ∀ i, (f i).length = w) {n i : Nat} (hi : i < n) :
    (((List.range n).flatMap f).drop (w * i)).take w = f i := by
  induction n with
  | zero => omega
  | succ n ih =>
    have hlen : ((List.range n).flatMap f).length = w * n := by simp [List.length_flatMap, hw, Nat.mul_comm]
    rw [List.range_succ, List.flatMap_append, List.flatMap_singleton]
    rcases Nat.lt_succ_iff_lt_or_eq.mp hi with hlt | rfl
    · have hle : w * i + w ≤ w * n := Nat.mul_succ w i ▸ Nat.mul_le_mul_left w hlt
      rw [List.drop_append_of_le_length (by omega), List.take_append_of_le_length (by rw [List.length_drop]; omega), ih hlt]
    · rw [List.drop_left' hlen, List.take_of_length_le (hw i).le]

/-- Behind its 448 bytes of reports, zeros and HALTMAP the body holds the exit values, each cut to its four bytes. -/
theorem statusBody_exit (y : Launch) {i : Nat} (hi : i < 4 * (gridOf y).1 * (gridOf y).2) :
    leNat (((statusBody y).drop (448 + 4 * i)).take 4) = (Tab.get 0 y.exits i).toNat % 2 ^ 32 := by
  have hn : i < (gridOf y).1 * (gridOf y).2 * 4 := by rw [Nat.mul_comm _ 4, ← Nat.mul_assoc]; exact hi
  unfold statusBody
  rw [← List.drop_drop, List.drop_left' (by simp [List.length_flatMap, leBytes_length]),
    take_drop_flatMap_range (fun _ => leBytes_length 4 _) hn, leNat_leBytes, show 256 ^ 4 = 2 ^ 32 by decide]

/-! ## An exit value of more than 32 bits -/

/-- A launch of one core whose context of place 0 has the exit value 2^32. No step of the machine records such a value: `setExit`
keeps 32 bits. -/
def wideExit : Launch :=
  { region := 0, image := noImage, kind := .gang, klist := [], args := [], policy := 0, status := 0, queue := 0, tag := 0, order := 0
    exits := [(0, 2 ^ 32)] }

/-- R343: `statusBlock` asks of every launch, whatever its exit values, that an exit word hold the whole of one. -/
theorem not_statusBlock : ¬ statusBlock := by
  intro h
  obtain ⟨-, -, -, -, -, -, -, -, -, -, -, -, -, -, -, hexits⟩ := h wideExit 0 false (by decide)
  have hin : 0 < 4 * (gridOf wideExit).1 * (gridOf wideExit).2 := by decide
  have hblock : leNat (((statusBody wideExit).drop 448).take 4) = 0 := statusBody_exit wideExit hin
  have hclaim : leNat (((statusBody wideExit).drop 448).take 4) = 2 ^ 32 := hexits 0 hin
  omega

/-- Refutes O40: its clause on the status block (R343) takes exit values of 64 bits, whose words in the block have 32. For the launch
`wideExit` the block holds 0 where the statement asks for 2^32. -/
theorem not_launches : ¬ Obligations.Launches := by
  unfold Obligations.Launches
  rintro ⟨-, hblock, -, -⟩
  exact not_statusBlock hblock

end Sys2Proof.Machine
end

section
/-! PROOFS for O51. The words of slots and headers and their fields, the tables of the units and their sockets, and the decoder and
the encoder both ways (R44, R45, R47, R48, R53, R54, R56). -/

namespace Sys2Proof

/-! ## Fields of a word -/

theorem slotWord_fields (m : Mv) (d : BitVec 12) : slotMv (slotWord m d) = m ∧ slotDst (slotWord m d) = d := by
  obtain ⟨b, g, r⟩ := m
  simp only [slotMv, slotBind, slotGuard, slotSrc, slotDst, slotWord, Mv.mk.injEq]
  refine ⟨⟨?_, ?_, ?_⟩, ?_⟩ <;> ext i hi <;> simp <;> grind

theorem slotWord_of_fields (w : Word) : slotWord (slotMv w) (slotDst w) = w := by
  ext i hi
  simp [slotMv, slotBind, slotGuard, slotSrc, slotDst, slotWord]
  grind

theorem headerWord_fields (h : Hd) (p : BitVec 4) (e : BitVec 1) :
    hdrHd (headerWord h p e) = h ∧ hdrSpan (headerWord h p e) = p ∧ hdrSeg (headerWord h p e) = e ∧ hdrZero (headerWord h p e) = 0 := by
  obtain ⟨i, s, b⟩ := h
  simp only [hdrHd, hdrIdle, hdrSurr, hdrBsum, hdrSpan, hdrSeg, hdrZero, headerWord, Hd.mk.injEq]
  refine ⟨⟨?_, ?_, ?_⟩, ?_, ?_, ?_⟩ <;> ext i hi <;> simp <;> grind

theorem headerWord_of_fields {w : Word} (hz : hdrZero w = 0) : headerWord (hdrHd w) (hdrSpan w) (hdrSeg w) = w := by
  have hz : ∀ i, i < 10 → w.getLsbD i = false := fun i hi => by
    have := congrArg (·.getLsbD i) hz
    simpa [hdrZero, hi] using this
  ext i hi
  simp [hdrHd, hdrIdle, hdrSurr, hdrBsum, hdrSpan, hdrSeg, headerWord]
  grind

/-! ## Blocks of units (R54) -/

/-- The first socket of a unit's block. -/
def FU.base : FU → Nat
  | .al0 => 0x100 | .al1 => 0x140 | .mul => 0x180 | .agu => 0x1C0 | .br => 0x200 | .sys => 0x240 | .ls0 => 0x280
  | .ls1 => 0x2C0 | .vec => 0x300 | .mat => 0x380 | .cpy => 0x3C0 | .sem => 0x400 | .tsk => 0x440 | .lnk => 0x480

/-- The number of sockets of a unit's block. -/
def FU.size (u : FU) : Nat := if u = .vec then 128 else 64

theorem unitBlocks_mem (u : FU) : (u, u.base, u.size) ∈ unitBlocks := by cases u <;> decide

theorem unitBlocks_apart : ∀ b ∈ unitBlocks, ∀ c ∈ unitBlocks, b ≠ c → b.2.1 + b.2.2 ≤ c.2.1 ∨ c.2.1 + c.2.2 ≤ b.2.1 := by decide

theorem unitOf_eq_some {d : BitVec 12} {u : FU} {o : Nat} : unitOf d = some (u, o) ↔ d.toNat = u.base + o ∧ o < u.size := by
  constructor
  · intro h
    obtain ⟨b, hb, ho⟩ := Option.map_eq_some_iff.mp h
    have hin := List.find?_some hb
    have hmem := List.mem_of_find?_eq_some hb
    simp only [Bool.and_eq_true, decide_eq_true_eq] at hin
    have hblock : ∀ b ∈ unitBlocks, b.2.1 = b.1.base ∧ b.2.2 = b.1.size := by decide
    obtain ⟨hbase, hsize⟩ := hblock b hmem
    cases ho
    omega
  · rintro ⟨hd, ho⟩
    have hself : (u, u.base, u.size) ∈ unitBlocks := unitBlocks_mem u
    have hin : (u.base ≤ d.toNat && d.toNat < u.base + u.size) = true := by simp; omega
    obtain ⟨b, hb⟩ := Option.isSome_iff_exists.mp (List.find?_isSome (p := fun b => b.2.1 ≤ d.toNat && d.toNat < b.2.1 + b.2.2).mpr ⟨_, hself, hin⟩)
    have hbin := List.find?_some hb
    obtain rfl : b = (u, u.base, u.size) := by
      by_contra hne
      have hapart := unitBlocks_apart b (List.mem_of_find?_eq_some hb) _ hself hne
      simp only [Bool.and_eq_true, decide_eq_true_eq] at hapart hbin hin
      omega
    rw [unitOf, hb, Option.map_some, hd, Nat.add_sub_cancel_left]

/-! ## The triggers of a unit (R56) -/

/-- The triggers of a unit from offset 8 of its block. -/
def FU.ops : FU → List (Mv → Instr)
  | .al0 => alOps.map fun f m => f m 0 | .al1 => alOps.map fun f m => f m 1 | .mul => mulOps | .agu => aguOps | .br => brOps
  | .sys => sysOps | .ls0 => lsOps.map fun f m => f m 0 | .ls1 => lsOps.map fun f m => f m 1 | .vec => vecOps | .mat => matOps
  | .cpy => cpyOps | .sem => semOps | .tsk => tskOps | .lnk => lnkOps

theorem triggerAt_eq_some {d : BitVec 12} {f : Mv → Instr} :
    triggerAt d = some f ↔ ∃ u k, unitOf d = some (u, 8 + k) ∧ u.ops[k]? = some f := by
  unfold triggerAt
  cases hd : unitOf d with
  | none => simp
  | some p =>
    obtain ⟨u, o⟩ := p
    by_cases ho : o < 8
    · simp [ho]; intros; omega
    · obtain ⟨k, rfl⟩ := Nat.exists_eq_add_of_le (Nat.le_of_not_lt ho)
      simp only [ho, if_false, Nat.add_sub_cancel_left, Option.some.injEq, Prod.mk.injEq, Nat.add_left_cancel_iff]
      cases u <;> simp [FU.ops]

/-- From socket `n` on the triggers of a list take their fields and have the next sockets each. -/
def SocketsFrom (n : Nat) : List (Mv → Instr) → Prop
  | [] => True
  | f :: fs => (∀ m, (f m).mv? = some m ∧ socketOf (f m) = some (BitVec.ofNat 12 n)) ∧ SocketsFrom (n + 1) fs

theorem SocketsFrom.get {fs : List (Mv → Instr)} {n : Nat} (h : SocketsFrom n fs) {k : Nat} {f : Mv → Instr} (hf : fs[k]? = some f) (m : Mv) :
    (f m).mv? = some m ∧ socketOf (f m) = some (BitVec.ofNat 12 (n + k)) := by
  induction fs generalizing n k with
  | nil => simp at hf
  | cons g gs ih =>
    obtain ⟨hg, hgs⟩ := h
    cases k with
    | zero => obtain rfl : g = f := by simpa using hf
              exact hg m
    | succ k => rw [← Nat.add_assoc, Nat.add_right_comm]; exact ih hgs (by simpa using hf)

theorem socketsFrom_ops (u : FU) : SocketsFrom (u.base + 8) u.ops := by
  cases u <;> simp [FU.ops, FU.base, SocketsFrom, alOps, mulOps, aguOps, brOps, sysOps, lsOps, vecOps, matOps, cpyOps, semOps, tskOps, lnkOps,
    Instr.mv?, socketOf]

theorem trigger_encodes {d : BitVec 12} {f : Mv → Instr} (h : triggerAt d = some f) (m : Mv) :
    (f m).mv? = some m ∧ socketOf (f m) = some d := by
  obtain ⟨u, k, hd, hf⟩ := triggerAt_eq_some.mp h
  obtain ⟨hbase, -⟩ := unitOf_eq_some.mp hd
  obtain ⟨hmv, hsock⟩ := (socketsFrom_ops u).get hf m
  exact ⟨hmv, hsock.trans (congrArg some (by rw [Nat.add_assoc, ← hbase, BitVec.ofNat_toNat, BitVec.setWidth_eq]))⟩

/-- The trigger at a place of a unit's block, read from the unit's table. -/
theorem triggerAt_of_unitOf {d : BitVec 12} {u : FU} {o : Nat} {f : Mv → Instr} (hd : unitOf d = some (u, o)) (ho : 8 ≤ o)
    (hf : u.ops[o - 8]? = some f) : triggerAt d = some f :=
  triggerAt_eq_some.mpr ⟨u, o - 8, (Nat.add_sub_cancel' ho).symm ▸ hd, hf⟩

theorem bit_eq (u : BitVec 1) : u = 0 ∨ u = 1 := by revert u; decide

theorem form_eq (f : BitVec 2) : f = 0 ∨ f = 1 ∨ f = 2 ∨ f = 3 := by revert f; decide

/-- Every instruction with fields of a slot stands in the table of its unit at its own socket. -/
theorem triggerAt_socketOf {i : Instr} {m : Mv} {d : BitVec 12} (hm : i.mv? = some m) (hd : socketOf i = some d) :
    ∃ f, triggerAt d = some f ∧ f m = i := by
  cases i
  case alAdd | alSub | alAdds | alSubs | alAnd | alOr | alXor | alAndn | alShl | alShr | alSar | alRor | alMin | alMax |
    alMinu | alMaxu | alCmpeq | alCmplt | alCmpltu | alSel | alClz | alPopc | lsLd8 | lsLd8Sx | lsLd16 | lsLd16Sx | lsLd32 |
    lsLd32Sx | lsLd64 | lsSt8 | lsSt16 | lsSt32 | lsSt64 | lsVld | lsVst | lsLdfw | lsLdfk | lsStew | lsStff | lsFeclr | lsFeq |
    lsPatset | lsLdpat | lsRrot | semSld | semSst =>
    rename_i u
    rcases bit_eq u with rfl | rfl <;> cases hm <;> cases hd <;> exact ⟨_, triggerAt_of_unitOf rfl (by decide) rfl, rfl⟩
  case semSadd | semSmin | semSmax | semScas | semStx =>
    rename_i f
    rcases form_eq f with rfl | rfl | rfl | rfl <;> cases hm <;> cases hd <;> exact ⟨_, triggerAt_of_unitOf rfl (by decide) rfl, rfl⟩
  all_goals cases hm
  all_goals (cases hd; exact ⟨_, triggerAt_of_unitOf rfl (by decide) rfl, rfl⟩)

/-! ## Slots and headers, both ways (R45, R47) -/

theorem wellFormed_of_mv {i : Instr} {m : Mv} (h : i.mv? = some m) : i.wellFormed = m.wf := by
  unfold Instr.wellFormed
  split
  · cases h
  · cases h
  · rw [h]

theorem encode_of_mv {i : Instr} {m : Mv} {d : BitVec 12} (hm : i.mv? = some m) (hd : socketOf i = some d) :
    encode i = some (slotWord m d) := by
  unfold encode
  split
  case h_8 => rw [hm, hd]
  all_goals cases hm

/-- A plain move's socket is no trigger (R54). -/
theorem triggerAt_isMoveSocket {d : BitVec 12} (h : isMoveSocket d = true) : triggerAt d = none := by
  rw [Option.eq_none_iff_forall_not_mem]
  intro f hf
  obtain ⟨u, k, hd, -⟩ := triggerAt_eq_some.mp hf
  have hn : d.toNat < 0x100 := by
    simp [isMoveSocket, hd, isRegSocket] at h
    omega
  have hbase : 0x100 ≤ u.base := by cases u <;> decide
  have := (unitOf_eq_some.mp hd).1
  omega

theorem srcFormOk_of_srcOk {src : BitVec 14} (h : srcOk src = true) : srcFormOk src = true :=
  ((Bool.and_eq_true _ _).mp h).1

theorem slotMv_wf {w : Word} : (slotMv w).wf = true ↔ slotGuard w ≠ 8 ∧ srcOk (slotSrc w) = true := by
  rw [Mv.wf, Bool.and_eq_true, bne_iff_ne]; rfl

/-- A slot with a legal source whose destination is a trigger decodes to that trigger (R47, R58). -/
theorem decodeSlot_of_trigger {w : Word} {f : Mv → Instr} (hw : (slotMv w).wf = true) (hf : triggerAt (slotDst w) = some f) (n : Nat) :
    decodeSlot w n = .ok (f (slotMv w)) := by
  obtain ⟨hguard, hsrc⟩ := slotMv_wf.mp hw
  rw [decodeSlot, if_neg hguard]
  simp [srcFormOk_of_srcOk hsrc, hsrc, hf]

/-- A slot with a legal source and a destination that a plain move may write decodes to that move (R47, R58). -/
theorem decodeSlot_of_move {w : Word} (hw : (slotMv w).wf = true) (hd : isMoveSocket (slotDst w) = true) (n : Nat) :
    decodeSlot w n = .ok (.move (slotMv w) (slotDst w)) := by
  obtain ⟨hguard, hsrc⟩ := slotMv_wf.mp hw
  rw [decodeSlot, if_neg hguard]
  simp [srcFormOk_of_srcOk hsrc, hsrc, triggerAt_isMoveSocket hd, hd]

theorem decodeSlot_trigger {i : Instr} {m : Mv} {d : BitVec 12} (hm : i.mv? = some m) (hd : socketOf i = some d) (hw : m.wf = true)
    (n : Nat) : decodeSlot (slotWord m d) n = .ok i := by
  obtain ⟨f, hf, rfl⟩ := triggerAt_socketOf hm hd
  obtain ⟨hmv, hdst⟩ := slotWord_fields m d
  rw [decodeSlot_of_trigger (hmv.symm ▸ hw) (hdst.symm ▸ hf), hmv]

theorem decodeSlot_move {m : Mv} {d : BitVec 12} (hw : (Instr.move m d).wellFormed = true) (n : Nat) :
    decodeSlot (slotWord m d) n = .ok (.move m d) := by
  obtain ⟨hm, hd⟩ := (Bool.and_eq_true _ _).mp hw
  obtain ⟨hmv, hdst⟩ := slotWord_fields m d
  rw [decodeSlot_of_move (hmv.symm ▸ hm) (hdst.symm ▸ hd), hmv, hdst]

/-- R47, R58: what a slot decodes to is a trigger or a plain move of its own fields, whose source is legal. -/
theorem decodeSlot_ok {w : Word} {n : Nat} {i : Instr} (h : decodeSlot w n = .ok i) : (slotMv w).wf = true ∧
    ((∃ f, triggerAt (slotDst w) = some f ∧ i = f (slotMv w)) ∨ (isMoveSocket (slotDst w) = true ∧ i = .move (slotMv w) (slotDst w))) := by
  have hguard : slotGuard w ≠ 8 := fun e => by simp [decodeSlot, e] at h
  have hsrc : srcOk (slotSrc w) = true := by
    by_contra e
    rw [Bool.not_eq_true] at e
    simp only [decodeSlot, hguard, e, if_false, Bool.not_false, if_true] at h
    split at h <;> cases h
  refine ⟨slotMv_wf.mpr ⟨hguard, hsrc⟩, ?_⟩
  simp only [decodeSlot, hguard, srcFormOk_of_srcOk hsrc, hsrc, if_false, Bool.not_true, Bool.false_eq_true] at h
  split at h
  · next f hf => cases h; exact .inl ⟨f, hf, rfl⟩
  · split at h
    · next hmove => cases h; exact .inr ⟨hmove, rfl⟩
    · cases h

theorem encode_decodeSlot {w : Word} {n : Nat} {i : Instr} (h : decodeSlot w n = .ok i) : i.wellFormed = true ∧ encode i = some w := by
  obtain ⟨hw, ⟨f, hf, rfl⟩ | ⟨hmove, rfl⟩⟩ := decodeSlot_ok h
  · obtain ⟨hm, hd⟩ := trigger_encodes hf (slotMv w)
    exact ⟨(wellFormed_of_mv hm).trans hw, by rw [encode_of_mv hm hd, slotWord_of_fields]⟩
  · exact ⟨by simp [Instr.wellFormed, hw, hmove], by rw [encode, slotWord_of_fields]⟩

theorem decodeSpan_ok {w : Word} {i : Instr} (h : decodeSpan w = some i) : hdrZero w = 0 ∧
    ((hdrSpan w = 1 ∧ i = .flip (hdrHd w) (hdrSeg w)) ∨ (hdrSpan w = 2 ∧ i = .flipW (hdrHd w) (hdrSeg w)) ∨
      (hdrSpan w = 3 ∧ i = .flipC (hdrHd w) (hdrSeg w)) ∨ (hdrSpan w = 4 ∧ i = .flipCw (hdrHd w) (hdrSeg w)) ∨
      (hdrSpan w = 5 ∧ i = .ckpt (hdrHd w) (hdrSeg w))) := by
  simp only [decodeSpan] at h
  split at h
  · cases h
  · next hz =>
    refine ⟨not_not.mp hz, ?_⟩
    repeat' split at h
    all_goals simp_all

theorem encode_decodeSpan {w : Word} {i : Instr} (h : decodeSpan w = some i) : i.wellFormed = true ∧ encode i = some w := by
  obtain ⟨hz, hi⟩ := decodeSpan_ok h
  have hw := headerWord_of_fields hz
  rcases hi with ⟨hs, rfl⟩ | ⟨hs, rfl⟩ | ⟨hs, rfl⟩ | ⟨hs, rfl⟩ | ⟨hs, rfl⟩ <;> exact ⟨rfl, by rw [encode, ← hs, hw]⟩

theorem encode_decodeSeg {w : Word} {i : Instr} (h : decodeSeg w = some i) : i.wellFormed = true ∧ encode i = some w := by
  unfold decodeSeg at h
  split at h
  · next hseg =>
    obtain ⟨hz, he, hp⟩ := hseg
    cases h
    exact ⟨by simpa [Instr.wellFormed] using hp, by rw [encode, ← he, headerWord_of_fields hz]⟩
  · cases h

theorem decodeSpan_headerWord (h : Hd) (e : BitVec 1) :
    decodeSpan (headerWord h 1 e) = some (.flip h e) ∧ decodeSpan (headerWord h 2 e) = some (.flipW h e) ∧
    decodeSpan (headerWord h 3 e) = some (.flipC h e) ∧ decodeSpan (headerWord h 4 e) = some (.flipCw h e) ∧
    decodeSpan (headerWord h 5 e) = some (.ckpt h e) := by
  simp [decodeSpan, headerWord_fields]

theorem decodeSeg_headerWord (h : Hd) {p : BitVec 4} (hp : p ≤ 5) : decodeSeg (headerWord h p 1) = some (.seg h p) := by
  simp [decodeSeg, headerWord_fields]; exact hp

/-- R45, R47: what has a word is a span action or a SEG mark with a header, a plain move, or a trigger with its fields and its socket. -/
theorem encode_eq_some {i : Instr} {w : Word} (h : encode i = some w) :
    (∃ hd e, (i = .flip hd e ∧ w = headerWord hd 1 e) ∨ (i = .flipW hd e ∧ w = headerWord hd 2 e) ∨
      (i = .flipC hd e ∧ w = headerWord hd 3 e) ∨ (i = .flipCw hd e ∧ w = headerWord hd 4 e) ∨ (i = .ckpt hd e ∧ w = headerWord hd 5 e)) ∨
    (∃ hd p, i = .seg hd p ∧ w = headerWord hd p 1) ∨ (∃ m d, i = .move m d ∧ w = slotWord m d) ∨
    (∃ m d, i.mv? = some m ∧ socketOf i = some d ∧ w = slotWord m d) := by
  unfold encode at h
  split at h
  case h_8 =>
    split at h
    · next m d hm hd => cases h; exact .inr (.inr (.inr ⟨m, d, hm, hd, rfl⟩))
    · cases h
  case h_7 m d => cases h; exact .inr (.inr (.inl ⟨m, d, rfl, rfl⟩))
  case h_6 hd p => cases h; exact .inr (.inl ⟨hd, p, rfl, rfl⟩)
  all_goals (rename_i hd e; cases h; exact .inl ⟨hd, e, by simp⟩)

/-- Settles O51: a header's and a slot's fields are read back from the word and the word from its fields; between sockets and triggers
the tables of the units go one way, and each instruction's place in its table the other. -/
theorem encodeDecodeRoundTrip : Obligations.EncodeDecodeRoundTrip := by
  refine ⟨fun i w n hw h => ?_, fun _ _ _ h => encode_decodeSlot h, fun _ _ h => h.elim encode_decodeSpan encode_decodeSeg⟩
  rcases encode_eq_some h with ⟨hd, e, hspan⟩ | ⟨hd, p, rfl, rfl⟩ | ⟨m, d, rfl, rfl⟩ | ⟨m, d, hm, hd, rfl⟩
  · obtain ⟨h1, h2, h3, h4, h5⟩ := decodeSpan_headerWord hd e
    rcases hspan with ⟨rfl, rfl⟩ | ⟨rfl, rfl⟩ | ⟨rfl, rfl⟩ | ⟨rfl, rfl⟩ | ⟨rfl, rfl⟩ <;> assumption
  · exact decodeSeg_headerWord hd (of_decide_eq_true hw)
  · exact decodeSlot_move hw n
  · split
    case h_7 => exact decodeSlot_trigger hm hd (wellFormed_of_mv hm ▸ hw) n
    all_goals cases hm

end Sys2Proof
end

section
/-! PROOFS for O3. What the source of a move carries and what a move makes of its destination (R48, R50, R52, R53, R78 to R81). -/

namespace Sys2Proof.Machine

/-! ## Register sockets -/

theorem toNat_socket {n : Nat} (h : n < 0x100) : (BitVec.ofNat 12 n).toNat = n := by
  rw [BitVec.toNat_ofNat, Nat.mod_eq_of_lt (by omega)]

/-- Sockets below the first block belong to no unit (R54). -/
theorem unitOf_low {n : Nat} (h : n < 0x100) : unitOf (BitVec.ofNat 12 n) = none := by
  cases hd : unitOf (BitVec.ofNat 12 n) with
  | none => rfl
  | some p =>
    obtain ⟨hn, -⟩ := unitOf_eq_some.mp hd
    have hbase : 0x100 ≤ p.1.base := by cases p.1 <;> decide
    rw [toNat_socket h] at hn
    omega

section
variable (r : RegFile) (fg : Face 64 → Face 64) (fp : Face 1 → Face 1) (fv : Face 4096 → Face 4096) (fm : Face 512 → Face 512) (n : Nat)

theorem modify_g (h : n < 64) (h0 : 0 < n) : r.modify (BitVec.ofNat 12 n) fg fp fv fm = { r with g := r.g.set n (fg r.g[n]) } := by
  simp [RegFile.modify, toNat_socket (show n < 0x100 by omega), h, h0.ne', setIfInBounds_eq]

theorem modify_k (h : n < 32) :
    r.modify (BitVec.ofNat 12 (0x40 + n)) fg fp fv fm = { r with k := r.k.set n (fg r.k[n]) } := by
  have hk : 0x40 + n < 0x60 := by omega
  simp [RegFile.modify, toNat_socket (show 0x40 + n < 0x100 by omega), hk, h, setIfInBounds_eq]

theorem modify_p (h : n < 8) (h0 : 0 < n) :
    r.modify (BitVec.ofNat 12 (0x60 + n)) fg fp fv fm = { r with p := r.p.set n (fp r.p[n]) } := by
  have hlow : ¬ 0x60 + n < 0x40 := by omega
  have hp : 0x61 ≤ 0x60 + n ∧ 0x60 + n ≤ 0x67 := by omega
  simp [RegFile.modify, toNat_socket (show 0x60 + n < 0x100 by omega), hlow, hp, h, setIfInBounds_eq]

theorem modify_v (h : n < 32) :
    r.modify (BitVec.ofNat 12 (0x80 + n)) fg fp fv fm = { r with v := r.v.set n (fv r.v[n]) } := by
  have hlow : ¬ 0x80 + n < 0x40 ∧ ¬ 0x80 + n < 0x60 ∧ ¬ 0x80 + n ≤ 0x67 := by omega
  have hv : 0x80 + n ≤ 0x9F := by omega
  simp [RegFile.modify, toNat_socket (show 0x80 + n < 0x100 by omega), hlow, hv, h, setIfInBounds_eq]

theorem modify_m (h : n < 8) :
    r.modify (BitVec.ofNat 12 (0xA0 + n)) fg fp fv fm = { r with m := r.m.set n (fm r.m[n]) } := by
  have hlow : ¬ 0xA0 + n < 0x40 ∧ ¬ 0xA0 + n < 0x60 ∧ ¬ 0xA0 + n ≤ 0x67 ∧ ¬ 0xA0 + n ≤ 0x9F := by omega
  have hm : 0xA0 + n ≤ 0xA7 := by omega
  simp [RegFile.modify, toNat_socket (show 0xA0 + n < 0x100 by omega), hlow, hm, h, setIfInBounds_eq]

theorem read_g (h : n < 64) (h0 : 0 < n) : r.read (BitVec.ofNat 12 n) = r.g[n].read.setWidth 4096 := by
  simp [RegFile.read, toNat_socket (show n < 0x100 by omega), h, h0.ne']

theorem read_k (h : n < 32) : r.read (BitVec.ofNat 12 (0x40 + n)) = r.k[n].read.setWidth 4096 := by
  have hk : 0x40 + n < 0x60 := by omega
  simp [RegFile.read, toNat_socket (show 0x40 + n < 0x100 by omega), hk, h]

theorem read_p (h : n < 8) (h0 : 0 < n) : r.read (BitVec.ofNat 12 (0x60 + n)) = r.p[n].read.setWidth 4096 := by
  have hlow : ¬ 0x60 + n < 0x40 := by omega
  have hp : 0x61 ≤ 0x60 + n ∧ 0x60 + n ≤ 0x67 := by omega
  simp [RegFile.read, toNat_socket (show 0x60 + n < 0x100 by omega), hlow, hp, h]

theorem read_v (h : n < 32) : r.read (BitVec.ofNat 12 (0x80 + n)) = r.v[n].read := by
  have hlow : ¬ 0x80 + n < 0x40 ∧ ¬ 0x80 + n < 0x60 ∧ ¬ 0x80 + n ≤ 0x67 := by omega
  have hv : 0x80 + n ≤ 0x9F := by omega
  simp [RegFile.read, toNat_socket (show 0x80 + n < 0x100 by omega), hlow, hv, h]

theorem read_m (h : n < 8) : r.read (BitVec.ofNat 12 (0xA0 + n)) = r.m[n].read.setWidth 4096 := by
  have hlow : ¬ 0xA0 + n < 0x40 ∧ ¬ 0xA0 + n < 0x60 ∧ ¬ 0xA0 + n ≤ 0x67 ∧ ¬ 0xA0 + n ≤ 0x9F := by omega
  have hm : 0xA0 + n ≤ 0xA7 := by omega
  simp [RegFile.read, toNat_socket (show 0xA0 + n < 0x100 by omega), hlow, hm, h]

end

/-! ## Sources -/

section
variable (f : Frame) (k : Nat)

/-- A socket source of no unit is a register (R48, R53). -/
theorem sourceVal_register {n : Nat} (h : n < 0x100) : (sourceVal f (BitVec.ofNat 14 n) k).1 = f.regs.read (BitVec.ofNat 12 n) := by
  have hform : (BitVec.ofNat 14 n).extractLsb' 12 2 = 0 := by
    apply BitVec.eq_of_toNat_eq
    simp [BitVec.extractLsb'_toNat, Nat.shiftRight_eq_div_pow]
    omega
  have hlow : (BitVec.ofNat 14 n).extractLsb' 0 12 = BitVec.ofNat 12 n := by
    apply BitVec.eq_of_toNat_eq
    simp [BitVec.extractLsb'_toNat]
  simp [sourceVal, hform, hlow, unitOf_low h]

/-- The form and the low bits of a source that is a socket or a short immediate (R48). -/
theorem source_fields (p : BitVec 2) (i : BitVec 12) : (p ++ i).extractLsb' 12 2 = p ∧ (p ++ i).extractLsb' 0 12 = i := by
  constructor <;> ext j hj <;> simp <;> grind

theorem sourceVal_result {d : BitVec 12} {u : FU} (hu : u ≠ .br) (hd : unitOf d = some (u, 3)) :
    (sourceVal f (0#2 ++ d) k).1 = (latchOf f.lat u).r := by
  obtain ⟨hform, hlow⟩ := source_fields 0#2 d
  simp only [sourceVal, hform, hlow, hd]
  rfl

theorem sourceVal_status {d : BitVec 12} {u : FU} (hu : u ≠ .br) (hd : unitOf d = some (u, 4)) :
    (sourceVal f (0#2 ++ d) k).1 = (latchOf f.lat u).st.setWidth 4096 := by
  obtain ⟨hform, hlow⟩ := source_fields 0#2 d
  simp only [sourceVal, hform, hlow, hd]
  rfl

theorem sourceVal_short (i : BitVec 12) : (sourceVal f (1#2 ++ i) k).1 = (i.signExtend 64).setWidth 4096 := by
  obtain ⟨hform, hlow⟩ := source_fields 1#2 i
  simp only [sourceVal, hform, hlow]
  rfl

theorem moveSources_hold : moveSources := by
  refine ⟨fun f k => ?_, fun f k n h h0 hl => ?_, fun f k n h hl => ?_, fun f k n h h0 hl => ?_, fun f k n h hl => ?_, fun f k n h hl => ?_,
    fun f k d u hu => ⟨sourceVal_result f k hu, sourceVal_status f k hu⟩, sourceVal_short, fun f k => ⟨?_, ?_, ?_, ?_⟩, fun f k => ⟨rfl, rfl⟩⟩
  · exact sourceVal_register f k (n := 0) (by omega)
  · rw [sourceVal_register f k (by omega), read_g _ _ h h0, read_vis _ hl]
  · rw [sourceVal_register f k (by omega), read_k _ _ h, read_vis _ hl]
  · rw [sourceVal_register f k (by omega), read_p _ _ h h0, read_vis _ hl]
  · rw [sourceVal_register f k (by omega), read_v _ _ h, read_vis _ hl]
  · rw [sourceVal_register f k (by omega), read_m _ _ h, read_vis _ hl]
  case refine_8 =>
    have hcut : (sourceVal f 0x2001 k).1 = ((f.slots.getD (k + 1) 0).setWidth 64).setWidth 4096 := rfl
    rw [hcut, BitVec.setWidth_setWidth (by omega)]
  all_goals rfl

end
/-! ## Destinations -/

theorem coreWrite_allOnes {w : Nat} (dwp : D64) (v : BitVec w) (r : Face w) :
    Face.coreWrite dwp v (BitVec.allOnes w) r = faceMoved dwp v r := by
  unfold Face.coreWrite faceMoved
  cases ha : r.asyn <;> by_cases hd : dwp = 2 <;> simp [hd]

/-- A move to a register socket. -/
theorem writeMove_register {n : Nat} (h : n < 0x100) (x : Ctx) (v : Val × Val) : writeMove x (BitVec.ofNat 12 n) v =
    { x with regs := x.regs.coreWrite x.sys.dwp (BitVec.ofNat 12 n) v.1 v.2 } := by
  rw [writeMove, unitOf_low h]

theorem moveResults_hold : moveResults := by
  intro m s c x f ha v put
  refine ⟨?_, fun n h h0 => ?_, fun n h => ?_, fun n h h0 => ?_, fun n h => ?_, fun n h => ?_, fun d u o hd ho => ?_⟩ <;> rw [move_eq ha]
  · rw [show writeMove x 0 _ = _ from writeMove_register (n := 0) (by omega) x _, RegFile.coreWrite]
    exact congrArg put (modify_zero _ _ _ _ _)
  · rw [writeMove_register (by omega), RegFile.coreWrite, modify_g _ _ _ _ _ _ h h0, coreWrite_allOnes]
  · rw [writeMove_register (by omega), RegFile.coreWrite, modify_k _ _ _ _ _ _ h, coreWrite_allOnes]
  · rw [writeMove_register (by omega), RegFile.coreWrite, modify_p _ _ _ _ _ _ h h0, coreWrite_allOnes]
  · rw [writeMove_register (by omega), RegFile.coreWrite, modify_v _ _ _ _ _ _ h, coreWrite_masked, coreWrite_allOnes]
  · rw [writeMove_register (by omega), RegFile.coreWrite, modify_m _ _ _ _ _ _ h, coreWrite_allOnes]
  · rw [writeMove, hd]
    interval_cases o <;> rfl

/-- Settles O3: a source is read from the socket it names, a move writes the face or latch of the socket it names. -/
theorem moves : Obligations.Moves := ⟨moveSources_hold, moveResults_hold⟩

end Sys2Proof.Machine
end

section
/-! PROOFS for O13. What the dot products, reductions, functions, shuffles and the quantisation of `vec` deliver (R57, R184 to R188). -/

namespace Sys2Proof.Machine

/-! ## The bounds of what the functions of a lane give -/

theorem accAdd_lt (acc : Nat) (g : Fp) : (accAdd acc g).1 < 2 ^ 32 := round_lt fits.1 .rne _

theorem f32_roundMag_lt (neg : Bool) (m : Nat) (e : Int) : (f32.roundMag .rne neg m e).1 < 2 ^ 32 := roundMag_lt fits.1 .rne neg m e

theorem exp2F32_lt (a : Nat) : (exp2F32 a).1 < 2 ^ 32 := by
  unfold exp2F32
  cases f32.decode a with
  | nan => decide
  | inf neg => cases neg <;> decide
  | fin neg m e => dsimp only; split_ifs <;> first | exact f32_roundMag_lt .. | (dsimp only; decide)

theorem rcpF32_lt (a : Nat) : (rcpF32 a).1 < 2 ^ 32 := by
  unfold rcpF32
  cases f32.decode a with
  | nan => decide
  | inf neg => cases neg <;> decide
  | fin neg m e => cases neg <;> dsimp only <;> split_ifs <;> first | exact f32_roundMag_lt .. | (dsimp only; decide)

theorem rsqF32_lt (a : Nat) : (rsqF32 a).1 < 2 ^ 32 := by
  unfold rsqF32
  cases f32.decode a with
  | nan => decide
  | inf neg => cases neg <;> decide
  | fin neg m e => cases neg <;> dsimp only <;> split_ifs <;> first | exact f32_roundMag_lt .. | (dsimp only; decide)

/-! ## What the moulds deliver -/

section
variable {s : State} {m : Mv} {c : Nat} {x : Ctx} {f : Frame}

/-- A vector trigger that acts delivers what its function gives (R176). -/
theorem delivers_vecTrigger {i : Instr} (sock : BitVec 12) {la lb : Nat} {chk : Check} {g : BitVec 512 → Nat → Nat → Nat → VecOut}
    (h : Acts s m c x f) (hi : exec i s = vecTrigger s m sock la lb chk g) (hk : chk s c (opndsAt x f m .vec) = none) :
    let o := opndsAt x f m .vec
    Delivers i s c x o.a (if x.sys.ltb then lb else la) (g (f.regs.m[0]).read o.a.toNat o.b.toNat o.c.toNat) :=
  hi.trans (vecTrigger_says h hk)

/-- A vector trigger that fails its check (R163). -/
theorem traps_vecTrigger {i : Instr} (sock : BitVec 12) {la lb : Nat} {chk : Check} {g : BitVec 512 → Nat → Nat → Nat → VecOut} {t : Trap}
    (h : Acts s m c x f) (hi : exec i s = vecTrigger s m sock la lb chk g) (hk : chk s c (opndsAt x f m .vec) = some t) :
    exec i s = .next (preciseTrap s c { code := t, sock := sock.toNat, slot := f.cur }) :=
  hi.trans (h.trap hk)

/-- The lanes of a dot product are lanes under an inhibit mask that also names every lane from 32 on (R184). -/
theorem dotLanes_eq (inh : BitVec 512) (g : Nat → Nat × FlagSet) :
    ((List.range 128).map fun j => if 32 ≤ j ∨ inh.getLsbD j then ({ val := 0, en := false } : LaneOut) else { val := (g j).1, flags := (g j).2 }) =
      perLane 128 (inh ||| BitVec.allOnes 512 <<< 32) g := by
  refine List.map_congr_left fun j hj => ?_
  have hj : j < 512 := (List.mem_range.mp hj).trans (by omega)
  have hmask : (inh ||| BitVec.allOnes 512 <<< 32).getLsbD j = (inh.getLsbD j || decide (32 ≤ j)) := by
    rw [BitVec.getLsbD_or, BitVec.getLsbD_shiftLeft, BitVec.getLsbD_allOnes, show j - 32 < 512 by omega |> decide_eq_true]
    by_cases h32 : 32 ≤ j <;> simp [hj, h32, Nat.not_lt.mpr, Nat.lt_of_not_le]
  simp only [hmask, Bool.or_eq_true, decide_eq_true_eq, or_comm]

theorem delivers_vecDot {i : Instr} (sock : BitVec 12) {n : Nat} {fm : Fmt} {dot : List (Fp × Fp) → Fp × FlagSet}
    (h : Acts s m c x f) (hi : exec i s = vecDot s m sock n fm dot) :
    let o := opndsAt x f m .vec
    ∃ v : VecOut, Delivers i s c x o.a 6 v ∧ LaneWise 32 128 ((f.regs.m[0]).read ||| BitVec.allOnes 512 <<< 32) v fun j =>
      let g := dot ((List.range n).map fun i =>
        (fm.decode (lane fm.width o.a.toNat (n * j + i)), fm.decode (lane fm.width o.b.toNat (n * j + i))))
      let sum := accAdd (lane 32 o.c.toNat j) g.1
      (sum.1, g.2 ||| sum.2) := by
  intro o
  refine ⟨_, (ite_self (c := (x.sys.ltb = true)) 6) ▸ delivers_vecTrigger sock h hi rfl, ?_⟩
  have hl := laneWise_vecOut 32 128 ((f.regs.m[0]).read ||| BitVec.allOnes 512 <<< 32) (fun j =>
    let g := dot ((List.range n).map fun i =>
      (fm.decode (lane fm.width o.a.toNat (n * j + i)), fm.decode (lane fm.width o.b.toNat (n * j + i))))
    let sum := accAdd (lane 32 o.c.toNat j) g.1
    (sum.1, g.2 ||| sum.2)) (by omega) fun j _ => accAdd_lt _ _
  rw [← dotLanes_eq] at hl
  exact hl

theorem delivers_vecReduce {i : Instr} (sock : BitVec 12) {ident : Nat} {g g' : List Nat → Nat × FlagSet} (h : Acts s m c x f)
    (hi : exec i s = vecReduce s m sock ident g) (hg : ∀ l, g l = g' l) :
    let o := opndsAt x f m .vec
    let r := g' ((List.range 128).map fun i => if (f.regs.m[0]).read.getLsbD i then ident else lane 32 o.a.toNat i)
    ∃ v : VecOut, Delivers i s c x o.a 8 v ∧ v.en = BitVec.allOnes 4096 ∧ v.val = BitVec.ofNat 4096 r.1 ∧
      v.lanes = if r.2 = 0 then [] else [(0, r.2)] := by
  intro o r
  obtain rfl : g = g' := funext hg
  have hd : Delivers i s c x o.a 8 { val := BitVec.ofNat 4096 r.1, en := BitVec.allOnes 4096, lanes := if r.2 = 0 then [] else [(0, r.2)] } :=
    (ite_self (c := (x.sys.ltb = true)) 8) ▸ delivers_vecTrigger sock h hi rfl
  exact ⟨_, hd, rfl, rfl, rfl⟩

theorem delivers_vecSpecial {i : Instr} (sock : BitVec 12) {g : Nat → Nat × FlagSet} (h : Acts s m c x f)
    (hi : exec i s = vecSpecial s m sock g) (hg : ∀ a, (g a).1 < 2 ^ 32) :
    let o := opndsAt x f m .vec
    (s.feat.testBit 1 = true → ∃ v : VecOut, Delivers i s c x o.a (if x.sys.ltb then 12 else 10) v ∧
      LaneWise 32 128 (f.regs.m[0]).read v fun i => g (lane 32 o.a.toNat i)) ∧
    (s.feat.testBit 1 = false → exec i s = .next (preciseTrap s c { code := .illegalSocket, sock := sock.toNat, slot := f.cur })) := by
  refine ⟨fun hf => ⟨_, delivers_vecTrigger sock h hi (if_pos hf), laneWise_vecOut 32 128 _ _ (by omega) fun _ _ => hg _⟩, fun hf => ?_⟩
  exact traps_vecTrigger sock (chk := featCheck 1) h hi (by rw [featCheck, if_neg (by simp [hf])])

theorem delivers_vecShuf {i : Instr} (sock : BitVec 12) {w : Nat} (h : Acts s m c x f) (hi : exec i s = vecShuf s m sock w) :
    let o := opndsAt x f m .vec
    ∃ v : VecOut, Delivers i s c x o.a 4 v ∧ LaneWise w (4096 / w) (f.regs.m[0]).read v fun i => (lane w o.a.toNat
      (if w = 8 then 256 * (i / 256) + lane 8 o.b.toNat i % 256 else lane w o.b.toNat i % (4096 / w)), 0) := by
  intro o
  refine ⟨_, (ite_self (c := (x.sys.ltb = true)) 4) ▸ delivers_vecTrigger sock h hi rfl, ?_⟩
  have hl := laneWise_vecOut w (4096 / w) (f.regs.m[0]).read (fun i => quiet (lane w o.a.toNat (shufIndex w i (lane w o.b.toNat i))))
    (Nat.mul_div_le 4096 w) fun _ _ => lane_lt _ _ _
  by_cases hw : w = 8
  · subst hw; exact hl
  · simpa only [quiet, shufIndex, hw, if_false] using hl

theorem delivers_vecBcast {i : Instr} (sock : BitVec 12) {w : Nat} (h : Acts s m c x f) (hi : exec i s = vecBcast s m sock w) :
    let o := opndsAt x f m .vec
    ∃ v : VecOut, Delivers i s c x o.a 3 v ∧ LaneWise w (4096 / w) (f.regs.m[0]).read v fun _ =>
      (lane w o.a.toNat (o.b64.toNat % (4096 / w)), 0) := by
  intro o
  refine ⟨_, (ite_self (c := (x.sys.ltb = true)) 3) ▸ delivers_vecTrigger sock h hi rfl, ?_⟩
  have hb : o.b64.toNat = o.b.toNat % 2 ^ 64 := BitVec.toNat_setWidth ..
  rw [hb]
  exact laneWise_vecOut w _ _ _ (Nat.mul_div_le 4096 w) fun _ _ => lane_lt _ _ _

end

/-- Settles O13: each mould of `vec` delivers its function, lane by lane, and each form is its mould's. -/
theorem vectorGroups : Obligations.VectorGroups := by
  intro m s c x f ha o inh a b lt
  refine ⟨fun p hp => ?dots, fun p hp => ?reductions, fun p hp => ?functions, fun p hp => ?shuffles, fun p hp => ?broadcasts,
    fun hf => ?quantised, fun hf => ?gated⟩
  case quantised =>
    exact delivers_vecTrigger 0x36D (la := 3) (lb := 4) (chk := featCheck 0) (g := fun inh a _ _ => quantise inh a) ha rfl (if_pos hf)
  case gated =>
    exact traps_vecTrigger 0x36D (la := 3) (lb := 4) (chk := featCheck 0) (g := fun inh a _ _ => quantise inh a) ha rfl
      (by rw [featCheck, if_neg (by simp [hf])])
  all_goals simp only [List.mem_cons, List.not_mem_nil, or_false] at hp
  case dots =>
    rcases hp with rfl | rfl | rfl
    · exact delivers_vecDot 0x35D ha rfl
    · exact delivers_vecDot 0x35E ha rfl
    · exact delivers_vecDot 0x35F ha rfl
  case reductions =>
    rcases hp with rfl | rfl | rfl | rfl
    · exact delivers_vecReduce 0x360 ha rfl fun _ => rfl
    · exact delivers_vecReduce 0x361 (g := fun l => quiet (l.foldl (· + ·) 0 % 2 ^ 32)) ha rfl fun l => by simp only [List.sum_eq_foldl, quiet]
    · exact delivers_vecReduce 0x362 (g := fun l => quiet (l.foldl (f32.minmax true) 0xFF800000)) ha rfl fun l => by simp only [quiet]
    · exact delivers_vecReduce 0x363 (g := fun l => quiet (l.foldl (fun x y => if intLess 32 x y then y else x) 0x80000000)) ha rfl
        fun l => by simp [intLess, quiet]
  case functions =>
    rcases hp with rfl | rfl | rfl
    · exact delivers_vecSpecial 0x364 ha rfl exp2F32_lt
    · exact delivers_vecSpecial 0x365 ha rfl rcpF32_lt
    · exact delivers_vecSpecial 0x366 ha rfl rsqF32_lt
  case shuffles =>
    rcases hp with rfl | rfl | rfl
    · exact delivers_vecShuf 0x367 ha rfl
    · exact delivers_vecShuf 0x368 ha rfl
    · exact delivers_vecShuf 0x369 ha rfl
  case broadcasts =>
    rcases hp with rfl | rfl | rfl
    · exact delivers_vecBcast 0x36A ha rfl
    · exact delivers_vecBcast 0x36B ha rfl
    · exact delivers_vecBcast 0x36C ha rfl

end Sys2Proof.Machine
end

section
/-! PROOFS for O36. Where the index word at a position traps (R62, R64, R71); the ticks of a context, the results that fall due at
them (R115 to R120, R159, R160, R191); the traps in place of a bundle and the issue of one (R50, R92, R112 to R114, R391). -/

namespace Sys2Proof.Machine

/-! ## The index word at a position (R62 to R64, R71) -/

theorem fetchAt_noSegment {k : Kernel} {pos : Nat} (hr : residualAt k pos = none) (hg : segOf k pos = none) (c : Nat) :
    fetchAt k c pos = .trap { code := .segmentFault } := by
  simp [fetchAt, hr, hg]

theorem fetchAt_faulted {k : Kernel} {c pos g : Nat} (hr : residualAt k pos = none) (hg : segOf k pos = some g)
    (hf : k.faulted.contains c = true) : fetchAt k c pos = .trap { code := .segmentFault, arg := 1 } := by
  simp only [fetchAt, hr, hg, hf, if_true]

/-- At an original position whose segment stands in frame `i`: within a literal body no word is an index word; any other word names
an entry of the dictionary, or is the escape word, or traps. -/
theorem fetchAt_resident {k : Kernel} {c pos g i off w : Nat} {words : List Idx} (hr : residualAt k pos = none)
    (hg : segOf k pos = some g) (hf : k.faulted.contains c = false) (hi : frameOf k g = some i)
    (hwords : (k.frames[i]?.getD {}).words = words) (hoff : pos - ((k.segs[g]?).getD ⟨0, 0, 0⟩).start = off)
    (hw : ((words[off]?).getD 0xFFFE).toNat = w) :
    fetchAt k c pos =
      if bodyAt off 0 words = true then illegalIndex
      else if w < k.allow then dictEntry k w
      else if w = 0xFFFF then
        if words.length < off + 25 then illegalIndex
        else .literal (moreIdle (Tab.get 0 k.lit pos) (wordsOfIdx ((words.drop (off + 1)).take 24)))
      else illegalIndex := by
  subst hwords hoff hw
  simp only [fetchAt, hr, hg, hf, hi, Bool.false_eq_true, if_false]

theorem dictEntry_unfilled {k : Kernel} {n : Nat} (h : (k.dict[n]?).getD none = none) : dictEntry k n = illegalIndex := by
  simp [dictEntry, h]

theorem indexTraps_holds : indexTraps := by
  intro k c pos hr
  refine ⟨fun hg => fetchAt_noSegment hr hg c, fun g i hg hf hi => ?_, fun g hg hf => fetchAt_faulted hr hg hf⟩
  extract_lets words off w
  rw [fetchAt_resident (words := words) (off := off) (w := w) hr hg hf hi rfl rfl rfl]
  refine ⟨fun hbody => if_pos hbody, fun hallow hesc => ?_, fun hallow hempty => ?_⟩
  · rw [if_neg (Nat.not_lt.mpr hallow), if_neg hesc, ite_self]; rfl
  · rw [if_pos hallow, dictEntry_unfilled hempty, ite_self]; rfl

/-! ## Idle ticks, the holder's count and the banks' calendar (R115, R116, R191) -/

theorem ticksClear_iff {x : Ctx} : ticksClear x = true ↔ (∀ e ∈ x.infl, x.lsc < e.due) ∧ ∀ e ∈ x.aticks, x.lsc < e.tick := by
  simp [ticksClear]

/-- A context of no idle ticks is left as it is. -/
theorem idleTick_none {s : State} (h : (ctxOf s s.args.a).idle = 0) : exec .idleTick s = .next s := by
  show execIdleTick s = _
  simp [execIdleTick, h]

theorem idleTick_one {s : State} {c : Nat} {x : Ctx} (hc : s.args.a = c) (hx : ctxOf s c = x) (hidle : x.idle ≠ 0) (hf : x.frame = none)
    (hrun : x.status = .running) (hsave : (coreOf s (ctxCore c)).saving = false) (hstop : x.stop = false) (hclear : ticksClear x = true) :
    exec .idleTick s = .next (modCore (setCtx s c { x with idle := x.idle - 1, lsc := x.lsc + 1 }) (ctxCore c) fun k =>
      if ctxCore c * 4 + k.holder = c then { k with issued := 0, yielded := false } else k) := by
  subst hc hx
  show execIdleTick s = _
  simp [execIdleTick, hidle, hf, hrun, hsave, hstop, hclear]

/-- The core on which a context takes an idle tick: its holder's count starts anew, where the context is the holder. -/
theorem coreOf_idleTick (s : State) (c k : Nat) :
    coreOf (modCore s (ctxCore c) fun k => if ctxCore c * 4 + k.holder = c then { k with issued := 0, yielded := false } else k) k =
      if k = ctxCore c ∧ k * 4 + (coreOf s k).holder = c then { coreOf s k with issued := 0, yielded := false } else coreOf s k := by
  rw [modCore, coreOf_setCore]
  by_cases hk : k = ctxCore c
  · subst hk; simp
  · simp [hk]

theorem holderLimit_reached {s : State} (h : 1024 ≤ (coreOf s s.args.a).issued) :
    exec .holderLimit s = .next (setCore s s.args.a { coreOf s s.args.a with yielded := true }) := by
  show execHolderLimit s = _
  simp [execHolderLimit, Config.holderLimit, h, modCore]

theorem holderLimit_below {s : State} (h : (coreOf s s.args.a).issued < 1024) : exec .holderLimit s = .next s := by
  show execHolderLimit s = _
  simp [execHolderLimit, Config.holderLimit, h]

/-! ## Results that fall due (R118 to R120, R159, R160) -/

/-- Two results that are in order already. -/
theorem sortBy_pair {α : Type} {le : α → α → Bool} {a b : α} (h : le a b = true) : sortBy le [a, b] = [a, b] := by
  simp [sortBy, insertBy, h]

/-- What falls due together is `due`, in trigger order `l`: the later of each unit reaches its port, the flags are merged, and the
late faults and the FP_TRAP are left for the next boundary. -/
theorem resultDue_eq {s : State} {c : Nat} {x : Ctx} (hc : s.args.a = c) (hx : ctxOf s c = x) (hf : x.frame = none) (ha : x.aticks = [])
    {due l : List InFlight} (hdue : x.infl.filter (ripe x) = due)
    (hl : sortBy (fun a b => decide (a.due < b.due) || (a.due == b.due && decide (a.seq ≤ b.seq))) due = l) :
    exec .resultDue s = .next (setCtx s c { x with
      lat := (l.filter (shown due)).foldl deliver x.lat
      infl := x.infl.filter fun e => !ripe x e
      sys := { x.sys with flg := l.foldl (fun g e => mergeFlags g e.flags) x.sys.flg }
      late := x.late ++ l.filterMap (·.late) ++ (fpTrap (l.foldl (fun g e => mergeFlags g e.flags) x.sys.flg) l).toList }) := by
  subst hc hx hdue hl
  show execResultDue s = _
  simp [execResultDue, hf, ha]

/-- An operation that raised no enabled flag raises no FP_TRAP. -/
theorem fpTrap_quiet {flg : D64} {e : InFlight} (h : e.flags &&& enabledFlags flg = 0) : fpTrap flg [e] = none := by
  simp [fpTrap, h]

/-- One operation of a unit that can raise FP_TRAP, which raised an enabled flag. -/
theorem fpTrap_raised {flg : D64} {e : InFlight} (h : e.flags &&& enabledFlags flg ≠ 0)
    (hu : e.unit = .al0 ∨ e.unit = .al1 ∨ e.unit = .mul ∨ e.unit = .vec) :
    fpTrap flg [e] = some { code := .fpTrap, elem := some (trapElem flg e) } := by
  have hbit : (e.flags &&& enabledFlags flg != 0) = true := bne_iff_ne.mpr h
  rcases hu with hu | hu | hu | hu <;> (simp only [fpTrap, List.filter_cons, hu, hbit]; rfl)

/-- The element that FP_TRAP names: element 0 of a scalar operation, the lowest lane of one of `vec` (R161, R166). -/
theorem trapElem_eq {flg : D64} {e : InFlight} {n : Nat}
    (hn : (e.unit = .al0 ∨ e.unit = .al1 ∨ e.unit = .mul) ∧ n = 0 ∨ e.unit = .vec ∧ lowestLane (enabledFlags flg) e.lanes = some n) :
    trapElem flg e = n := by
  rcases hn with ⟨hu | hu | hu, rfl⟩ | ⟨hu, hlane⟩
  case inr => simp [trapElem, hu, hlane]
  all_goals simp [trapElem, hu]

section
variable {s : State} {c : Nat} {x : Ctx} {e d : InFlight}

/-- One result that is due and has arrived. -/
theorem resultDue_one (hc : s.args.a = c) (hx : ctxOf s c = x) (hf : x.frame = none) (ha : x.aticks = []) (hinfl : x.infl = [e])
    (hdue : e.due ≤ x.lsc) (harr : e.arrived = true) (hlate : e.late = none) :
    exec .resultDue s = .next (setCtx s c { x with
      lat := deliver x.lat e, infl := [], sys := { x.sys with flg := mergeFlags x.sys.flg e.flags }
      late := x.late ++ (fpTrap (mergeFlags x.sys.flg e.flags) [e]).toList }) := by
  have hripe : ripe x e = true := by simp [ripe, hinfl, hdue, harr]
  rw [resultDue_eq hc hx hf ha (due := [e]) (l := [e]) (by simp [hinfl, hripe]) rfl]
  simp [hinfl, hripe, shown, hlate]

/-- Of two results due at one tick the first is delivered unless the second, of its group, has not arrived. -/
theorem ripe_first (hinfl : x.infl = [e, d]) (he : e.due = x.lsc) (hd : d.due = x.lsc) (harr : e.arrived = true) :
    ripe x e = (d.arrived || unitGroup d.unit != unitGroup e.unit) := by
  cases hda : d.arrived <;> simp [ripe, hinfl, he, hd, harr, hda, bne]

theorem ripe_second (hinfl : x.infl = [e, d]) (he : e.due = x.lsc) (hd : d.due = x.lsc) (harr : e.arrived = true) :
    ripe x d = d.arrived := by
  cases hda : d.arrived <;> simp [ripe, hinfl, he, hd, harr, hda]

/-- Two results that are due at one tick and have both arrived: of one unit only the later shows (R120). -/
theorem resultDue_both (hc : s.args.a = c) (hx : ctxOf s c = x) (hf : x.frame = none) (ha : x.aticks = []) (hinfl : x.infl = [e, d])
    (he : e.due = x.lsc) (hd : d.due = x.lsc) (hseq : e.seq < d.seq) (harr : e.arrived = true) (hda : d.arrived = true) :
    ∃ t, exec .resultDue s = .next t ∧
      (ctxOf t c).lat = if e.unit = d.unit then deliver x.lat d else deliver (deliver x.lat e) d := by
  have hfirst : ripe x e = true := by rw [ripe_first hinfl he hd harr, hda, Bool.true_or]
  have hsecond : ripe x d = true := by rw [ripe_second hinfl he hd harr, hda]
  have hle : (decide (e.due < d.due) || (e.due == d.due && decide (e.seq ≤ d.seq))) = true := by simp [he, hd, hseq.le]
  have hlast : shown [e, d] d = true := by simp [shown, hseq.le]
  have hhidden : shown [e, d] e = !(e.unit == d.unit) := by simp [shown, he, hd, hseq, eq_comm]
  refine ⟨_, resultDue_eq hc hx hf ha (due := [e, d]) (l := [e, d]) (by simp [hinfl, hfirst, hsecond]) (sortBy_pair hle), ?_⟩
  rw [ctxOf_setCtx_same]
  by_cases hu : e.unit = d.unit <;> simp [hlast, hhidden, hu]

/-- The second of two due results has not arrived: the first, of another group, is delivered alone. -/
theorem resultDue_first (hc : s.args.a = c) (hx : ctxOf s c = x) (hf : x.frame = none) (ha : x.aticks = []) (hinfl : x.infl = [e, d])
    (he : e.due = x.lsc) (hd : d.due = x.lsc) (harr : e.arrived = true) (hda : d.arrived = false)
    (hgroup : unitGroup e.unit ≠ unitGroup d.unit) :
    ∃ t, exec .resultDue s = .next t ∧ (ctxOf t c).lat = deliver x.lat e ∧ (ctxOf t c).infl = [d] := by
  have hfirst : ripe x e = true := by rw [ripe_first hinfl he hd harr, hda, bne_iff_ne.mpr hgroup.symm, Bool.or_true]
  have hsecond : ripe x d = false := by rw [ripe_second hinfl he hd harr, hda]
  refine ⟨_, resultDue_eq hc hx hf ha (due := [e]) (l := [e]) (by simp [hinfl, hfirst, hsecond]) rfl, ?_⟩
  rw [ctxOf_setCtx_same]
  exact ⟨by simp [shown], by simp [hinfl, hfirst, hsecond]⟩

/-- A due result that has not arrived keeps the other of its group back: nothing changes. -/
theorem resultDue_neither (hc : s.args.a = c) (hx : ctxOf s c = x) (hf : x.frame = none) (ha : x.aticks = []) (hinfl : x.infl = [e, d])
    (he : e.due = x.lsc) (hd : d.due = x.lsc) (harr : e.arrived = true) (hda : d.arrived = false)
    (hgroup : unitGroup e.unit = unitGroup d.unit) : ∃ t, exec .resultDue s = .next t ∧ ctxOf t c = x := by
  have hfirst : ripe x e = false := by rw [ripe_first hinfl he hd harr, hda, hgroup, bne_self_eq_false, Bool.or_false]
  have hsecond : ripe x d = false := by rw [ripe_second hinfl he hd harr, hda]
  refine ⟨_, resultDue_eq hc hx hf ha (due := []) (l := []) (by simp [hinfl, hfirst, hsecond]) rfl, ?_⟩
  have hstay : (x.infl.filter fun e => !ripe x e) = x.infl := by simp [hinfl, hfirst, hsecond]
  rw [ctxOf_setCtx_same, hstay]
  simp [fpTrap]

end

theorem ticksAndResults_holds : ticksAndResults := by
  intro s c x
  refine ⟨?_, idleTick_none, ?_, ?_, ?_⟩
  · intro hidle hf hrun hsave hstop hinfl hat
    refine ⟨_, idleTick_one rfl rfl hidle hf hrun hsave hstop (ticksClear_iff.mpr ⟨hinfl, hat⟩), ?_, rfl, fun d hd => ?_, fun k => ?_⟩
    · exact ctxOf_setCtx_same _ _ _
    · exact ctxOf_setCtx_ne _ _ hd
    · exact coreOf_idleTick _ c k
  · intro e hf hinfl hdue harr hlate hat
    have hone := resultDue_one (c := c) (x := x) rfl rfl hf hat hinfl hdue harr hlate
    refine ⟨fun hquiet => ?_, fun hraised n hn => ?_⟩
    · rw [hone, fpTrap_quiet hquiet, Option.toList_none, List.append_nil]
    · rw [hone, fpTrap_raised hraised (by tauto), trapElem_eq hn, Option.toList_some]
  · intro e d hf hinfl he hd hseq harr hat
    exact ⟨resultDue_both rfl rfl hf hat hinfl he hd hseq harr, resultDue_first rfl rfl hf hat hinfl he hd harr,
      resultDue_neither rfl rfl hf hat hinfl he hd harr⟩
  · exact ⟨holderLimit_reached, holderLimit_below, rfl⟩

/-! ## States that differ in what is demanded and loaded alone (R69, R70) -/

/-- The state is the same, its contexts one by one. -/
structure SameCtxs (s t : State) : Prop where
  rest : t = { s with ctxs := t.ctxs }
  ctx : ∀ d, ctxOf t d = ctxOf s d

/-- A kernel without its demands and loads: what they leave unchanged. -/
def Kernel.fixed (y : Kernel) : Kernel := { y with frames := [], demand := [], faulted := [] }

/-- The state is the same, its contexts one by one, and its cores but for the demands and loads of their kernels. -/
structure SameButCode (s t : State) : Prop where
  rest : t = { s with ctxs := t.ctxs, cores := t.cores }
  ctx : ∀ d, ctxOf t d = ctxOf s d
  core : ∀ k, coreOf t k = { coreOf s k with kernels := (coreOf t k).kernels }
  kernels : ∀ k, (coreOf t k).kernels.map Kernel.fixed = (coreOf s k).kernels.map Kernel.fixed

theorem SameCtxs.refl (s : State) : SameCtxs s s := ⟨rfl, fun _ => rfl⟩

theorem SameCtxs.trans {s t u : State} (h : SameCtxs s t) (g : SameCtxs t u) : SameCtxs s u :=
  ⟨by rw [g.rest, h.rest], fun d => (g.ctx d).trans (h.ctx d)⟩

theorem SameCtxs.coreOf {s t : State} (h : SameCtxs s t) (k : Nat) : coreOf t k = coreOf s k := by rw [h.rest]; rfl

theorem SameCtxs.kernelOf {s t : State} (h : SameCtxs s t) (c : Nat) : kernelOf t c = kernelOf s c := by
  simp only [Machine.kernelOf, h.ctx, h.coreOf]

theorem SameCtxs.sameButCode {s t : State} (h : SameCtxs s t) : SameButCode s t :=
  ⟨by rw [h.rest], h.ctx, fun k => by rw [h.coreOf], fun k => by rw [h.coreOf]⟩

theorem SameButCode.refl (s : State) : SameButCode s s := (SameCtxs.refl s).sameButCode

theorem SameButCode.trans {s t u : State} (h : SameButCode s t) (g : SameButCode t u) : SameButCode s u :=
  ⟨by rw [g.rest, h.rest], fun d => (g.ctx d).trans (h.ctx d), fun k => by rw [g.core, h.core],
   fun k => (g.kernels k).trans (h.kernels k)⟩

theorem SameButCode.foldl {α : Type} {g : State → α → State} (h : ∀ s a, SameButCode s (g s a)) (l : List α) (s : State) :
    SameButCode s (l.foldl g s) := by
  induction l generalizing s with
  | nil => exact SameButCode.refl s
  | cons a l ih => exact (h s a).trans (ih _)

theorem sameButCode_modKernel (s : State) (core launch kslot : Nat) {f : Kernel → Kernel} (hf : ∀ y, (f y).fixed = y.fixed) :
    SameButCode s (modKernel s core launch kslot f) := by
  refine ⟨rfl, fun _ => rfl, fun k => ?_, fun k => ?_⟩ <;> rw [modKernel, modCore, coreOf_setCore] <;> split
  · next h => subst h; rfl
  · rfl
  · next h =>
    subst h
    rw [List.map_map]
    refine List.map_congr_left fun y _ => ?_
    simp only [Function.comp_apply]
    split
    · exact hf y
    · rfl
  · rfl

theorem sameButCode_startLoad (s : State) (core : Nat) (k : Kernel) (g : Nat) : SameButCode s (startLoad s core k g) := by
  unfold startLoad
  split
  · exact .refl s
  · split
    · exact .refl s
    · exact sameButCode_modKernel s _ _ _ fun _ => rfl

theorem sameButCode_serveDemands (s : State) (core : Nat) : SameButCode s (serveDemands s core) := by
  refine SameButCode.foldl (fun t k => ?_) _ s
  unfold serveDemand
  split
  · exact sameButCode_startLoad _ _ _ _
  · exact .refl t

theorem sameButCode_demandSeg (s : State) (c g : Nat) : SameButCode s (demandSeg s c g) := by
  unfold demandSeg
  split
  · exact .refl s
  · refine SameButCode.trans ?_ (sameButCode_serveDemands _ _)
    exact sameButCode_modKernel s _ _ _ fun _ => rfl

theorem sameButCode_clearFault (s : State) (c : Nat) : SameButCode s (clearFault s c) := by
  unfold clearFault
  split
  · exact .refl s
  · exact sameButCode_modKernel s _ _ _ fun _ => rfl

/-- The same change of one context keeps two states alike. -/
theorem SameButCode.setCtx {s t : State} (h : SameButCode s t) (c : Nat) (x : Ctx) : SameButCode (setCtx s c x) (setCtx t c x) := by
  refine ⟨?_, fun d => ?_, h.core, h.kernels⟩
  · simp only [Machine.setCtx]; rw [h.rest]
  · simp only [ctxOf_setCtx, h.ctx]

/-! ## What a core does before it chooses (R70, R98, R114) -/

theorem pump_none {s : State} {c : Nat} (h : (ctxOf s c).going = []) : pump s c = s := by simp [pump, h, pumpGo]

theorem settleWaits_none {s : State} {c : Nat} (h : (ctxOf s c).waits = []) : SameCtxs s (settleWaits s c) := by
  refine ⟨rfl, fun d => ?_⟩
  simp only [settleWaits, modCtx, h, ctxOf_setCtx, List.filter_nil, List.any_nil, Bool.false_eq_true, if_false]
  split
  · next hd => subst hd; rw [← h]
  · rfl

/-- A context that has nothing to send and waits for nothing changes no more than demands and loads. -/
theorem sameButCode_prepareCtx {s : State} {c : Nat} (hg : (ctxOf s c).going = []) (hw : (ctxOf s c).waits = []) :
    SameButCode s (prepareCtx s c) := by
  have hsettle := (settleWaits_none hw).sameButCode
  unfold prepareCtx
  rw [pump_none hg]
  dsimp only
  split
  · exact hsettle
  · split
    · exact hsettle
    · split
      · exact hsettle.trans (sameButCode_demandSeg _ _ _)
      · exact hsettle

/-- A context demands no segment: it does not run, or it finds something at its position. -/
def Finds (s : State) (c : Nat) : Prop :=
  (ctxOf s c).status ≠ .running ∨ ∀ k, kernelOf s c = some k → (ctxOf s c).foreign = false ∧ ∀ g, fetchAt k c (ctxOf s c).pc ≠ .demand g

theorem sameCtxs_prepareCtx {s : State} {c : Nat} (hg : (ctxOf s c).going = []) (hw : (ctxOf s c).waits = []) (hfind : Finds s c) :
    SameCtxs s (prepareCtx s c) := by
  have hsettle := settleWaits_none hw
  unfold prepareCtx
  rw [pump_none hg]
  dsimp only
  rw [hsettle.ctx, hsettle.kernelOf]
  split
  · exact hsettle
  · next hrun =>
    split
    · exact hsettle
    · next k hk =>
      obtain ⟨hf, hd⟩ := hfind.resolve_left (fun h => hrun (.inl h)) k hk
      rw [hf]
      split
      · next g hg => exact absurd hg (hd g)
      · exact hsettle

/-- The machine once the contexts of core `k` are ready to be chosen from. -/
def prepared (s : State) (k : Nat) : State := (natsFrom (k * 4) 4).foldl prepareCtx s

theorem sameButCode_foldl_prepareCtx {s : State} (l : List Nat) (h : ∀ d ∈ l, (ctxOf s d).going = [] ∧ (ctxOf s d).waits = []) :
    SameButCode s (l.foldl prepareCtx s) := by
  induction l generalizing s with
  | nil => exact .refl s
  | cons d l ih =>
    have hd := sameButCode_prepareCtx (h d (by simp)).1 (h d (by simp)).2
    exact hd.trans (ih fun e he => by rw [hd.ctx]; exact h e (by simp [he]))

theorem sameCtxs_foldl_prepareCtx {s : State} (l : List Nat)
    (h : ∀ d ∈ l, (ctxOf s d).going = [] ∧ (ctxOf s d).waits = [] ∧ Finds s d) : SameCtxs s (l.foldl prepareCtx s) := by
  induction l generalizing s with
  | nil => exact .refl s
  | cons d l ih =>
    obtain ⟨hg, hw, hf⟩ := h d (by simp)
    have hd := sameCtxs_prepareCtx hg hw hf
    refine hd.trans (ih fun e he => ?_)
    simp only [Finds, hd.ctx, hd.kernelOf]
    exact h e (by simp [he])

theorem mem_coreCtxs {k d : Nat} : d ∈ natsFrom (k * 4) 4 ↔ d / 4 = k := by
  simp only [natsFrom, List.mem_map, List.mem_range]
  constructor
  · rintro ⟨i, hi, rfl⟩; omega
  · rintro rfl; exact ⟨d % 4, Nat.mod_lt _ (by omega), by omega⟩

/-! ## The choice of a core whose holder alone may act (R112, R113, R115) -/

theorem serveDemands_undemanded {s : State} {k : Nat} (h : ∀ y ∈ (coreOf s k).kernels, y.demand = []) : serveDemands s k = s := by
  unfold serveDemands
  generalize (coreOf s k).kernels = ks at h
  induction ks with
  | nil => rfl
  | cons y ks ih =>
    have hy : serveDemand s k y = s := by simp [serveDemand, h y (by simp)]
    rw [List.foldl_cons, hy]
    exact ih fun n hn => h n (by simp [hn])

theorem interrupted_noFrame {s : State} {d : Nat} (h : (ctxOf s d).frame = none) : interrupted s d = false := by simp [interrupted, h]

theorem resumable_noFrame {s : State} {d : Nat} (h : (ctxOf s d).frame = none) : resumable s d = false := by simp [resumable, h]

/-- Nothing of a context is delivered that does not run, or of which nothing is due. -/
theorem deliverable_none {s : State} {d : Nat} (h : (ctxOf s d).status ≠ .running ∨
    (∀ e ∈ (ctxOf s d).infl, (ctxOf s d).lsc < e.due) ∧ ∀ e ∈ (ctxOf s d).aticks, (ctxOf s d).lsc < e.tick) :
    deliverable s d = false := by
  rcases h with hrun | ⟨hinfl, hat⟩
  · simp [deliverable, hrun]
  · have hr : (ctxOf s d).infl.any (ripe (ctxOf s d)) = false := by simpa [ripe] using fun e he hle => absurd (hinfl e he) (by omega)
    have ht : (ctxOf s d).aticks.any (tickRipe (ctxOf s d)) = false := by simpa [tickRipe] using fun e he hle => absurd (hat e he) (by omega)
    simp [deliverable, hr, ht]

theorem tryIssue_notRunning {s : State} {d : Nat} (h : (ctxOf s d).status ≠ .running) : tryIssue s d = .wait := by
  simp [tryIssue, h]

section
variable {s : State} {k c : Nat} {x : Ctx} {y : Kernel}

/-- The core comes to its selector: no bundle is under way, and no result falls due. -/
theorem bundleIssue_selects (h : Alone s k c x y) : SameButCode s (prepared s k) ∧ exec .bundleIssue s = .next (selectIssue (prepared s k) k) := by
  have hcase : ∀ d ∈ natsFrom (k * 4) 4, d = c ∨ d / 4 = k ∧ d ≠ c := fun d hd => by
    have := mem_coreCtxs.mp hd; tauto
  have hsame : SameButCode s (prepared s k) := sameButCode_foldl_prepareCtx _ fun d hd => by
    rcases hcase d hd with rfl | ⟨hk, hne⟩
    · rw [h.ctx]; exact ⟨h.clear.2.1, h.clear.1⟩
    · exact ⟨(h.others d hk hne).2.1, (h.others d hk hne).2.2.2⟩
  have hframe : ∀ d ∈ natsFrom (k * 4) 4, (ctxOf (prepared s k) d).frame = none := fun d hd => by
    rw [hsame.ctx]
    rcases hcase d hd with rfl | ⟨hk, hne⟩
    · rw [h.ctx]; exact h.running.2.1
    · exact (h.others d hk hne).2.2.1
  have hdue : ∀ d ∈ natsFrom (k * 4) 4, deliverable (prepared s k) d = false := fun d hd => by
    refine deliverable_none ?_
    rw [hsame.ctx]
    rcases hcase d hd with rfl | ⟨hk, hne⟩
    · rw [h.ctx]; exact .inr h.ticks.2
    · rw [(h.others d hk hne).1]; exact .inl nofun
  have hint : (natsFrom (k * 4) 4).find? (interrupted (prepared s k)) = none :=
    List.find?_eq_none.mpr fun d hd => by simp [interrupted_noFrame (hframe d hd)]
  have hres : (natsFrom (k * 4) 4).find? (resumable (prepared s k)) = none :=
    List.find?_eq_none.mpr fun d hd => by simp [resumable_noFrame (hframe d hd)]
  have hdel : (natsFrom (k * 4) 4).filter (deliverable (prepared s k)) = [] :=
    List.filter_eq_nil_iff.mpr fun d hd => by simp [hdue d hd]
  refine ⟨hsame, ?_⟩
  show execBundleIssue s = _
  simp only [execBundleIssue, h.core, h.open_.1, serveDemands_undemanded h.served, Bool.false_eq_true, if_false]
  simp only [prepared] at hint hres hdel
  simp [hint, hres, hdel, prepared]

/-- The holder acts: it alone can, whatever its count (R113, R115). -/
theorem selectIssue_alone {p t : State} {k i : Nat} (hold : (coreOf p k).holder = i) (hy : (coreOf p k).yielded = false)
    (hothers : ∀ j, j < 4 → j ≠ i → tryIssue p (k * 4 + j) = .wait) (hact : (tryIssue p (k * 4 + i)).acted = some t) :
    ∃ b, selectIssue p k = selected t k i b := by
  have hwait : ∀ d, d ∈ [1, 2, 3] → (tryIssue p (k * 4 + (i + d) % 4)).acted = none := fun d hd => by
    rw [hothers _ (Nat.mod_lt _ (by omega)) (by simp at hd; omega)]; rfl
  have hfirst : firstAct p k [(i + 1) % 4, (i + 2) % 4, (i + 3) % 4, i] = some (i, t) := by
    simp [firstAct, hwait, hact]
  unfold selectIssue
  simp only [hold, hy, Bool.false_or, hact, hfirst]
  cases hlim : decide (Config.holderLimit ≤ (coreOf p k).issued) <;> cases htry : tryIssue p (k * 4 + i) <;>
    simp_all [Try.acted]

/-- What a core does whose holder alone may act, where the holder acts or traps. -/
theorem bundleIssue_acts {t : State} (h : Alone s k c x y) (hact : (tryIssue (prepared s k) c).acted = some t) :
    ∃ b, exec .bundleIssue s = .next (selected t k (coreOf s k).holder b) := by
  obtain ⟨hsame, hexec⟩ := bundleIssue_selects h
  obtain ⟨-, hc⟩ := h.holder
  have hcore := hsame.core k
  have hothers : ∀ j, j < 4 → j ≠ (coreOf s k).holder → tryIssue (prepared s k) (k * 4 + j) = .wait := fun j hj hne => by
    refine tryIssue_notRunning ?_
    rw [hsame.ctx, (h.others (k * 4 + j) (by omega) (by omega)).1]
    nofun
  rw [hc] at hact
  obtain ⟨b, hb⟩ := selectIssue_alone (by rw [hcore]) (by rw [hcore]; exact h.open_.2) hothers hact
  exact ⟨b, by rw [hexec, hb]⟩

end

/-! ## The entry of a trap (R394) -/

/-- Two states are alike for the traps of context `c`: the context, its launch, the semaphore operations, and the kernels but for
what is demanded and loaded. -/
structure TrapAlike (c : Nat) (u v : State) : Prop where
  ctx : ctxOf v c = ctxOf u c
  launches : v.launches = u.launches
  semOps : v.semOps = u.semOps
  kernels : ∀ k, (coreOf v k).kernels.map Kernel.fixed = (coreOf u k).kernels.map Kernel.fixed

theorem SameButCode.trapAlike {s t : State} (h : SameButCode s t) (c : Nat) : TrapAlike c s t :=
  ⟨h.ctx c, by rw [h.rest], by rw [h.rest], h.kernels⟩

section
variable {u v : State} {c : Nat}

theorem TrapAlike.kernelOf (h : TrapAlike c u v) : (kernelOf v c).map Kernel.fixed = (kernelOf u c).map Kernel.fixed := by
  have hfind : ∀ (l : Nat) (ks : List Kernel), (ks.find? fun k => k.launch == l && k.kslot == (ctxOf u c).kslot).map Kernel.fixed =
      (ks.map Kernel.fixed).find? fun k => k.launch == l && k.kslot == (ctxOf u c).kslot := fun l ks => by
    rw [List.find?_map]; rfl
  simp only [Machine.kernelOf, h.ctx]
  cases (ctxOf u c).launch with
  | none => rfl
  | some l => dsimp only; rw [hfind, hfind, h.kernels]

/-- What a kernel's residual code says is not changed by demands and loads. -/
theorem TrapAlike.residual (h : TrapAlike c u v) (p : Nat) :
    ((Machine.kernelOf v c).any fun k => inResidual k p) = (Machine.kernelOf u c).any fun k => inResidual k p := by
  have hany : ∀ o : Option Kernel, (o.any fun k => inResidual k p) = (o.map Kernel.fixed).any fun k => inResidual k p := fun o => by
    cases o <;> rfl
  rw [hany, h.kernelOf, ← hany]

theorem TrapAlike.originalOf (h : TrapAlike c u v) (pc : Nat) (from_ : Option Nat) : originalOf v c pc from_ = originalOf u c pc from_ := by
  have hk := h.kernelOf
  unfold Machine.originalOf
  cases hu : Machine.kernelOf u c <;> cases hv : Machine.kernelOf v c <;> rw [hu, hv] at hk
  case some.some a b =>
    have hfixed : b.fixed = a.fixed := Option.some.inj hk
    have hr : b.resids = a.resids := by simpa [Kernel.fixed] using congrArg Kernel.resids hfixed
    simp only [hr]
  all_goals nomatch hk

/-- The handler of a trap is a matter of the context's launch and kernel slot (R392). -/
theorem handlerOf_congr (hl : (ctxOf v c).launch = (ctxOf u c).launch) (hk : (ctxOf v c).kslot = (ctxOf u c).kslot)
    (hs : v.launches = u.launches) (t : Trap) : handlerOf v c t = handlerOf u c t := by
  simp only [handlerOf, launchOf, hl, hk, hs]

theorem TrapAlike.handlerOf (h : TrapAlike c u v) (t : Trap) : handlerOf v c t = handlerOf u c t :=
  handlerOf_congr (by rw [h.ctx]) (by rw [h.ctx]) h.launches t

theorem TrapAlike.watchWait (h : TrapAlike c u v) (w : Wait) : watchWait v c w = watchWait u c w := by
  cases w <;> simp only [Machine.watchWait, h.semOps]

end

/-! ### Rollback (R100) -/

/-- Only cores change, and of them no kernel. -/
structure KeepsKernels (s t : State) : Prop where
  rest : t = { s with cores := t.cores }
  kernels : ∀ k, (coreOf t k).kernels = (coreOf s k).kernels

theorem keepsKernels_modCore (s : State) (k : Nat) {f : Core → Core} (hf : ∀ x, (f x).kernels = x.kernels) :
    KeepsKernels s (modCore s k f) := by
  refine ⟨rfl, fun j => ?_⟩
  rw [modCore, coreOf_setCore]
  split
  · next e => subst e; exact hf _
  · rfl

theorem KeepsKernels.trans {s t u : State} (h : KeepsKernels s t) (g : KeepsKernels t u) : KeepsKernels s u :=
  ⟨by rw [g.rest, h.rest], fun k => (g.kernels k).trans (h.kernels k)⟩

theorem KeepsKernels.foldl {α : Type} {g : State → α → State} (h : ∀ s a, KeepsKernels s (g s a)) (l : List α) (s : State) :
    KeepsKernels s (l.foldl g s) := by
  induction l generalizing s with
  | nil => exact ⟨rfl, fun _ => rfl⟩
  | cons a l ih => exact (h s a).trans (ih _)

theorem keepsKernels_undoSwaps (s : State) (c : Nat) (now was : Vector Nat 4) : KeepsKernels s (undoSwaps s c now was) := by
  refine KeepsKernels.foldl (fun t n => ?_) _ s
  dsimp only
  split
  · split
    · exact keepsKernels_modCore t _ fun _ => rfl
    · exact keepsKernels_modCore t _ fun _ => rfl
  · exact ⟨rfl, fun _ => rfl⟩

theorem semOps_undoSwaps (s : State) (c : Nat) (now was : Vector Nat 4) : (undoSwaps s c now was).semOps = s.semOps := by
  rw [(keepsKernels_undoSwaps s c now was).rest]

theorem launches_rollback (s : State) (c : Nat) : (rollback s c).launches = s.launches := by
  unfold rollback
  dsimp only
  split
  · rfl
  · next h _ =>
    show (undoSwaps _ c _ _).launches = _
    rw [(keepsKernels_undoSwaps _ c _ _).rest]; rfl

theorem kernels_rollback (s : State) (c k : Nat) : (coreOf (rollback s c) k).kernels = (coreOf s k).kernels := by
  unfold rollback
  dsimp only
  split
  · rfl
  · refine ((keepsKernels_undoSwaps _ c _ _).kernels k).trans (KeepsKernels.kernels ?_ k)
    exact keepsKernels_modCore s _ fun _ => rfl

theorem ctxOf_leave (s : State) (a : Option Nat) (c : Nat) (x : Ctx) : ctxOf { setCtx s c x with active := a } c = x :=
  ctxOf_setCtx_same s c x

theorem place_rollback (s : State) (c : Nat) :
    (ctxOf (rollback s c) c).launch = (ctxOf s c).launch ∧ (ctxOf (rollback s c) c).kslot = (ctxOf s c).kslot := by
  unfold rollback
  dsimp only
  split
  · exact ⟨rfl, rfl⟩
  · rw [ctxOf_leave]; exact ⟨rfl, rfl⟩

/-- A rollback does not change the handler of a trap. -/
theorem handlerOf_rollback (s : State) (c : Nat) (t : Trap) : handlerOf (rollback s c) c t = handlerOf s c t :=
  handlerOf_congr (place_rollback s c).1 (place_rollback s c).2 (launches_rollback s c) t

theorem TrapAlike.rollback {u v : State} {c : Nat} (h : TrapAlike c u v) : TrapAlike c (rollback u c) (rollback v c) := by
  refine ⟨?_, ?_, ?_, fun k => ?_⟩
  · unfold Machine.rollback
    rw [h.ctx]
    dsimp only
    split
    · exact h.ctx
    · exact (ctxOf_leave _ _ c _).trans (ctxOf_leave _ _ c _).symm
  · rw [launches_rollback, launches_rollback, h.launches]
  · unfold Machine.rollback
    rw [h.ctx]
    dsimp only
    split
    · exact h.semOps
    · show List.filter _ (undoSwaps _ c _ _).semOps = List.filter _ (undoSwaps _ c _ _).semOps
      rw [semOps_undoSwaps, semOps_undoSwaps]
      exact congrArg (List.filter _) h.semOps
  · rw [kernels_rollback, kernels_rollback, h.kernels]

/-- A trap of context `c` that the handler at `pos` takes: none of another kind of its own, and no checkpoint is lost (R394, R399). -/
structure Handled (s : State) (c : Nat) (t : TrapInfo) (pos : Nat) : Prop where
  outside : (ctxOf s c).handler = false
  banks : ∀ b ∈ (ctxOf s c).banks.toList, b ≠ .lost
  prompt : t.code ≠ .softError ∧ t.code ≠ .matrixFault
  handler : handlerOf s c t.code = some pos

/-- No handler is there for the codes that end a context. -/
theorem handlerOf_code {s : State} {c pos : Nat} {t : Trap} (h : handlerOf s c t = some pos) :
    t ≠ .badStatus ∧ t ≠ .notRestartable ∧ t ≠ .detConflict := by
  unfold handlerOf at h
  split at h
  · nomatch h
  · split at h
    · nomatch h
    · dsimp only at h
      split at h
      · next hc => exact hc.2.2
      · nomatch h

theorem TrapAlike.enterTrap {u v : State} {c : Nat} (h : TrapAlike c u v) {t : TrapInfo} {pos : Nat} (hh : Handled u c t pos) (pc : Nat) :
    ctxOf (Machine.enterTrap v c t pc) c = ctxOf (Machine.enterTrap u c t pc) c ∧
      (Machine.enterTrap v c t pc).semOps = (Machine.enterTrap u c t pc).semOps := by
  obtain ⟨hout, hbanks, ⟨hsoft, hmat⟩, hpos⟩ := hh
  obtain ⟨hbad, hnot, hdet⟩ := handlerOf_code hpos
  have hlost : ((ctxOf u c).banks.toList.any (· == .lost)) = false := by
    rw [List.any_eq_false]; simpa using hbanks
  unfold Machine.enterTrap
  simp only [h.ctx, hout, hlost, hsoft, hmat, hbad, hnot, hdet, Bool.false_eq_true, or_self, false_and, and_false, if_false]
  by_cases hroll : (ctxOf u c).sys.ckmode = 1 ∧ (ctxOf u c).shadow.isSome = true
  case' pos =>
    have hU := h.rollback
    have hu := (handlerOf_rollback u c t.code).trans hpos
    simp only [if_pos hroll]
  case' neg =>
    have hU := h
    have hu := hpos
    simp only [if_neg hroll]
  all_goals
    have hv := (hU.handlerOf t.code).trans hu
    simp only [hu, hv]
    refine ⟨?_, hU.semOps⟩
    rw [ctxOf_leave, ctxOf_leave]
    simp only [hU.ctx, hU.originalOf, hU.residual, hU.watchWait]

/-! ## What the holder does at its position (R92, R114, R121, R391) -/

/-- A state of which only contexts differ sees the same write cards, where the context's launch is the same. -/
theorem writeInProgress_congr {s t : State} {c : Nat} (ht : SameCtxs s t) : writeInProgress t c = writeInProgress s c := by
  have hl : ∀ l, launchOf t l = launchOf s l := fun l => by rw [ht.rest]; rfl
  have hd : dieOf t (ctxDie c) = dieOf s (ctxDie c) := by rw [ht.rest]; rfl
  have hb : ∀ r, bankRegion t r = bankRegion s r := fun r => fieldRegion_congr (by rw [ht.rest]) r 8
  simp only [writeInProgress, ht.ctx, hl, hd, hb]

/-- What a task of a round owes is a matter of its launch, its seed, its released commands, and of the copy engines. -/
theorem roundOwes_congr {s t : State} {c : Nat} (ht : t = { s with ctxs := t.ctxs }) (hl : (ctxOf t c).launch = (ctxOf s c).launch)
    (hk : (ctxOf t c).task = (ctxOf s c).task) (hg : (ctxOf t c).going = (ctxOf s c).going) : roundOwes t c = roundOwes s c := by
  have hlaunch : ∀ l, launchOf t l = launchOf s l := fun l => by rw [ht]; rfl
  have hregions : t.regions = s.regions := by rw [ht]
  have hdet : ∀ r, detOf t r = detOf s r := fun r => by simp only [detOf, rcbWord_congr hregions, fieldRegion_congr hregions]
  have hdies : t.dies = s.dies := by rw [ht]
  have hmoves : t.moves = s.moves := by rw [ht]
  simp only [roundOwes, inRound, ctxRegion, copyWork, hl, hk, hg, hlaunch, hdet, hdies, hmoves]

section
variable {s p : State} {k c : Nat} {x : Ctx} {y : Kernel}

/-- The holder finds something at its position: nothing is demanded. -/
theorem prepared_same (h : Alone s k c x y) (hf : ∀ g, fetchAt y c x.pc ≠ .demand g) : SameCtxs s (prepared s k) := by
  refine sameCtxs_foldl_prepareCtx _ fun d hd => ?_
  by_cases hdc : d = c
  · subst hdc
    simp only [Finds, h.ctx]
    refine ⟨h.clear.2.1, h.clear.1, .inr fun n hn => ⟨h.code.2, ?_⟩⟩
    obtain rfl : y = n := Option.some.inj (h.code.1.symm.trans hn)
    exact hf
  · obtain ⟨hhalt, hg, -, hw⟩ := h.others d (mem_coreCtxs.mp hd) hdc
    exact ⟨hg, hw, .inl (by rw [hhalt]; nofun)⟩

theorem Alone.ticksClear (h : Alone s k c x y) : ticksClear x = true := ticksClear_iff.mpr h.ticks.2

/-- The only trap recorded at a tick before is taken at the boundary (R390, R391). -/
theorem takeLate_one {i : TrapInfo} (hx : ctxOf p c = x) (hframe : x.frame = none) (hidle : x.idle = 0) (hlate : x.late = [i])
    (hi : i.code = .fpTrap) : takeLate p c = enterTrap (setCtx p c { x with late := [] }) c i x.pc := by
  have hpick : pickLate (if x.frame.isSome then x.late else lateNow x) = some i := by
    simp [hframe, lateNow, hidle, hlate, pickLate, hi]
  simp only [takeLate, hx, hpick, modCtx]

theorem tryIssue_late {i : TrapInfo} (h : Alone s k c x y) (hx : ctxOf p c = x) (hlate : x.late = [i]) (hi : i.code = .fpTrap) :
    tryIssue p c = .trap (enterTrap (setCtx p c { x with late := [] }) c i x.pc) := by
  obtain ⟨hrun, hframe, hstop⟩ := h.running
  rw [← takeLate_one hx hframe h.ticks.1 hlate hi]
  simp [tryIssue, lateNow, hx, hrun, hframe, hstop, h.ticks.1, hlate]

/-- With nothing left from before, what stands at the position decides. -/
theorem tryIssue_trap {i : TrapInfo} (h : Alone s k c x y) (hp : SameCtxs s p) (hlate : x.late = []) (hf : fetchAt y c x.pc = .trap i) :
    tryIssue p c = .trap (enterTrap (clearFault p c) c i x.pc) := by
  obtain ⟨hrun, hframe, hstop⟩ := h.running
  obtain ⟨hw, hg, -⟩ := h.clear
  simp [tryIssue, hp.ctx, hp.kernelOf, h.ctx, h.code, lateNow, hrun, hframe, hstop, hw, hg, h.ticks.1, h.ticksClear, hlate, hf]

theorem tryIssue_dict {ws : List Word} (h : Alone s k c x y) (hp : SameCtxs s p) (hlate : x.late = []) (hf : fetchAt y c x.pc = .dict ws) :
    tryIssue p c = tryBundle p c ws 1 := by
  obtain ⟨hrun, hframe, hstop⟩ := h.running
  obtain ⟨hw, hg, -⟩ := h.clear
  simp [tryIssue, hp.ctx, hp.kernelOf, h.ctx, h.code, lateNow, hrun, hframe, hstop, hw, hg, h.ticks.1, h.ticksClear, hlate, hf]

theorem tryIssue_illegalLiteral {ws : List Word} {e : DecodeError} (h : Alone s k c x y) (hp : SameCtxs s p) (hlate : x.late = [])
    (hf : fetchAt y c x.pc = .literal ws) (hfetched : x.fetched = true) (he : literalError (BitVec.ofNat 64 s.feat) x.regs ws = some e) :
    tryIssue p c = .trap (enterTrap p c (bundleTrap e) x.pc) := by
  obtain ⟨hrun, hframe, hstop⟩ := h.running
  obtain ⟨hw, hg, -⟩ := h.clear
  have hfeat : p.feat = s.feat := by rw [hp.rest]
  simp [tryIssue, hp.ctx, hp.kernelOf, h.ctx, h.code, lateNow, hrun, hframe, hstop, hw, hg, h.ticks.1, h.ticksClear, hlate, hf, hfetched,
    hfeat, he]

end

/-! ## The traps before a bundle acts (R92, R99, R121, R228, R391) -/

section
variable {p : State} {c len : Nat} {x : Ctx} {ws : List Word} {acting : List Slot} {f : Frame}

/-- A slot that reads a result or status port of a unit that still has a result on its way (R121). -/
def earlyRead (x : Ctx) (acting : List Slot) : Option Slot :=
  acting.find? fun p => match slotPort p with
    | some u => x.infl.any fun e => e.unit == u
    | none => false

theorem undersized_early {q : Slot} (hx : ctxOf p c = x) (hscb : x.sys.scb = true) (he : earlyRead x acting = some q) :
    undersized p c f acting = some { code := .undersizedCount, slot := q.1 } := by
  simp only [undersized, hx, hscb, Bool.not_true, Bool.false_eq_true, if_false]
  split
  · next r hr => cases hr.symm.trans he; rfl
  · next hr => cases hr.symm.trans he

/-- The one trigger of a bundle without an early read, where it would deliver a second result of its unit at a tick (R121), or is an
ASWAP that comes early (R228). -/
theorem undersized_trigger {q : Slot} (hx : ctxOf p c = x) (hscb : x.sys.scb = true) (he : earlyRead x acting = none)
    (htrig : triggerOrder acting = [q])
    (hq : (∃ e u o l, e ∈ x.infl ∧ unitOf (slotDst q.2) = some (u, o) ∧ e.unit = u ∧ latencyOf (slotDst q.2) x.sys.ltb = some l ∧
        e.due = x.lsc + l) ∨
      slotDst q.2 = 0x38D#12 ∧ (aswapCheck p c (operandsOf x f acting q)).isSome = true) :
    undersized p c f acting = some { code := .undersizedCount, sock := (slotDst q.2).toNat, slot := q.1 } := by
  simp only [undersized, hx, hscb, Bool.not_true, Bool.false_eq_true, if_false]
  split
  · next r hr => cases hr.symm.trans he
  · rw [htrig, List.find?_singleton, if_pos ?_]
    · rfl
    · rcases hq with ⟨e, u, o, l, hmem, hu, rfl, hl, hdue⟩ | ⟨hdst, hswap⟩
      · simp only [hu, hl, Bool.or_eq_true, List.any_eq_true]
        exact .inl ⟨e, hmem, by simp [hdue]⟩
      · simp [hdst, hswap]

/-- Without SCB no count is checked. -/
theorem undersized_off (hx : ctxOf p c = x) (hscb : x.sys.scb = false) : undersized p c f acting = none := by
  simp [undersized, hx, hscb]

theorem misplaced_eager {h : Word} {q : Slot} (hck : ckOn x = true) (hspan : (hdrSpan h).toNat < 3)
    (hq : (triggerOrder acting).find? (fun p => isEager (slotDst p.2)) = some q) :
    misplaced x h acting = some { code := .eagerPlacement, sock := (slotDst q.2).toNat, slot := q.1 } := by
  have hlt : hdrSpan h < 3 := hspan
  rw [misplaced, if_pos ⟨hck, hlt⟩, hq]
  rfl

theorem misplaced_none {h : Word} (hck : ckOn x = true → 3 ≤ (hdrSpan h).toNat) : misplaced x h acting = none := by
  unfold misplaced
  rw [if_neg]
  rintro ⟨hon, hlt⟩
  exact absurd (hck hon) (Nat.not_le.mpr hlt)

theorem tryBundle_deadlock {n : Nat} {d : BitVec 12} (hx : ctxOf p c = x) (ha : actingSlots x.regs ws = acting)
    (hread : pendingRead x acting = false) (hwrite : writeInProgress p c = false) (hd : deadlock x acting = some (n, d)) :
    tryBundle p c ws len = .trap (enterTrap p c { code := .pendingDeadlock, sock := d.toNat, slot := n } x.pc) := by
  simp [tryBundle, hx, ha, hread, hwrite, hd]

theorem tryBundle_undersized {i : TrapInfo} (hx : ctxOf p c = x) (ha : actingSlots x.regs ws = acting)
    (hread : pendingRead x acting = false) (hwrite : writeInProgress p c = false) (hd : deadlock x acting = none)
    (hi : undersized p c (makeFrame x ws len (bundleTodo (ws.headD 0) acting)) acting = some i) :
    tryBundle p c ws len = .trap (enterTrap p c i x.pc) := by
  simp only [tryBundle, hx, ha, hread, hwrite, hd, hi]
  simp

theorem tryBundle_misplaced {i : TrapInfo} (hx : ctxOf p c = x) (ha : actingSlots x.regs ws = acting)
    (hread : pendingRead x acting = false) (hwrite : writeInProgress p c = false) (hd : deadlock x acting = none)
    (hu : undersized p c (makeFrame x ws len (bundleTodo (ws.headD 0) acting)) acting = none)
    (hi : misplaced x (ws.headD 0) acting = some i) :
    tryBundle p c ws len = .trap (enterTrap p c i x.pc) := by
  simp only [tryBundle, hx, ha, hread, hwrite, hd, hu, hi]
  simp

end

/-! ## The issue of a bundle (R50, R90, R91, R227, R253) -/

/-- A bundle without LDFW and LDFK of `ls0` keeps no PATSET waiting (R203, R204). -/
theorem waitsFirst_none {s : State} {c : Nat} {f : Frame} {acting : List Slot} {q : Slot}
    (h : unitOf (slotDst q.2) ≠ some (.ls0, 0x15) ∧ unitOf (slotDst q.2) ≠ some (.ls0, 0x16)) : waitsFirst s c f acting q = false := by
  obtain ⟨hw, hk⟩ := h
  unfold waitsFirst
  split
  · next k hu =>
    dsimp only
    rw [if_neg (by rintro rfl; exact hw hu), if_neg (by rintro rfl; exact hk hu)]
  · rfl

/-- A trigger that meets no limit: none of the array or of `cpy`, no PATSET behind scratchpad operations. -/
theorem triggerStalls_none {s : State} {c : Nat} {x : Ctx} {f : Frame} {acting : List Slot} {q : Slot} (hx : (ctxOf s c).ls = x.ls)
    (howes : roundOwes s c = false) (hjoin : joinsArray (slotDst q.2) = false) (hcpy : ∀ o, unitOf (slotDst q.2) ≠ some (.cpy, o))
    (hpat : (∀ u, unitOf (slotDst q.2) ≠ some (u, 0x1B)) ∨ (x.ls = [] ∧ ∀ r ∈ acting,
      unitOf (slotDst r.2) ≠ some (.ls0, 0x15) ∧ unitOf (slotDst r.2) ≠ some (.ls0, 0x16))) :
    triggerStalls s c f acting q = false := by
  unfold triggerStalls
  simp only [howes, hjoin, Bool.false_and, Bool.false_eq_true, if_false]
  split
  · next k hu => exact absurd hu (hcpy k)
  · next hu =>
    rcases hpat with hnone | ⟨hls, -⟩
    · exact absurd hu (hnone _)
    · simp [hx, hls]
  · next hu =>
    rcases hpat with hnone | ⟨hls, hfirst⟩
    · exact absurd hu (hnone _)
    · have hany : acting.any (waitsFirst s c f acting) = false := by
        rw [List.any_eq_false]
        exact fun r hr => by rw [waitsFirst_none (hfirst r hr)]; nofun
      simp [hx, hls, hany]
  · rfl

theorem sameButCode_touchFrame (s : State) (c pos : Nat) : SameButCode s (touchFrame s c pos) := by
  unfold touchFrame
  split
  · exact .refl s
  · split
    · exact sameButCode_modKernel s _ _ _ fun _ => rfl
    · exact .refl s

/-- What stands at the end of an issue: the context whose bundle is carried out, its frame, its promoted registers. -/
theorem issueBundle_says (s : State) (c : Nat) (f : Frame) (acting : List Slot) :
    (issueBundle s c f acting).active = some c ∧ (issueBundle s c f acting).mem = s.mem ∧
      ctxOf (issueBundle s c f acting) c = { ctxOf s c with
        regs := (acting.flatMap slotReads).foldl RegFile.promote (ctxOf s c).regs, frame := some f, fetched := false } := by
  have htouch := sameButCode_touchFrame (modCtx s c fun x => { x with
    regs := (acting.flatMap slotReads).foldl RegFile.promote x.regs, frame := some f, fetched := false }) c f.pos
  refine ⟨rfl, ?_, (htouch.ctx c).trans (ctxOf_setCtx_same _ _ _)⟩
  show (touchFrame _ c f.pos).mem = _
  rw [htouch.rest]
  rfl

theorem tryBundle_issues {p : State} {c len : Nat} {x : Ctx} {ws : List Word} {acting : List Slot} (hx : ctxOf p c = x)
    (ha : actingSlots x.regs ws = acting) (hread : pendingRead x acting = false) (hwrite : writeInProgress p c = false)
    (hd : deadlock x acting = none) (hscb : x.sys.scb = false) (hck : ckOn x = true → 3 ≤ (hdrSpan (ws.headD 0)).toNat)
    (hstall : acting.any (triggerStalls (setCtx p c { x with bundle := x.bundle + 1 }) c
      (makeFrame x ws len (bundleTodo (ws.headD 0) acting)) acting) = false) (hheld : x.held = []) :
    tryBundle p c ws len = .act (issueBundle (setCtx p c { x with bundle := x.bundle + 1 }) c
      (makeFrame x ws len (bundleTodo (ws.headD 0) acting)) acting) := by
  have hfull : heldFull x acting = false := by simp [heldFull, hheld]
  simp only [tryBundle, hx, ha, hread, hwrite, hd, undersized_off hx hscb, misplaced_none hck, modCtx, hstall, hfull]
  simp

/-- The selector's count leaves contexts, memory and operations as they are. -/
theorem selected_keeps (t : State) (k i c : Nat) (b : Bool) : (selected t k i b).active = t.active ∧ (selected t k i b).mem = t.mem ∧
    (selected t k i b).semOps = t.semOps ∧ ctxOf (selected t k i b) c = ctxOf t c := ⟨rfl, rfl, rfl, rfl⟩

theorem bundleIssues_holds : bundleIssues := by
  intro s k c x y ws h hlate hfetch hmay hscb hck acting hlimits howes plain trig
  obtain ⟨⟨hread, hdead⟩, hstore⟩ := hmay
  have hp := prepared_same h (by rw [hfetch]; nofun)
  have hx : ctxOf (prepared s k) c = x := (hp.ctx c).trans h.ctx
  have howes' : roundOwes (setCtx (prepared s k) c { x with bundle := x.bundle + 1 }) c = false := by
    rw [roundOwes_congr (s := s), howes]
    · simp only [setCtx]; rw [hp.rest]
    all_goals rw [ctxOf_setCtx_same, h.ctx]
  have hstall : acting.any (triggerStalls (setCtx (prepared s k) c { x with bundle := x.bundle + 1 }) c
      (makeFrame x ws 1 (bundleTodo (ws.headD 0) acting)) acting) = false := by
    rw [List.any_eq_false]
    intro q hq
    obtain ⟨hjoin, hcpy, hpat⟩ := hlimits q hq
    rw [triggerStalls_none (x := x) (by rw [ctxOf_setCtx_same]) howes' hjoin hcpy hpat]
    nofun
  have htry : tryIssue (prepared s k) c = _ := (tryIssue_dict h hp hlate hfetch).trans
    (tryBundle_issues hx rfl hread (by rw [writeInProgress_congr hp, hstore]) hdead hscb hck hstall h.clear.2.2)
  obtain ⟨b, hexec⟩ := bundleIssue_acts h (congrArg Try.acted htry)
  generalize prepared s k = p at *
  have hmem : (setCtx p c { x with bundle := x.bundle + 1 }).mem = s.mem := by rw [hp.rest]; rfl
  obtain ⟨hactive, hmem', hctx⟩ := issueBundle_says (setCtx p c { x with bundle := x.bundle + 1 }) c
    (makeFrame x ws 1 (bundleTodo (ws.headD 0) acting)) acting
  rw [ctxOf_setCtx_same] at hctx
  generalize issueBundle (setCtx p c { x with bundle := x.bundle + 1 }) c (makeFrame x ws 1 (bundleTodo (ws.headD 0) acting)) acting = t at *
  have hctx' : ctxOf (selected t k (coreOf s k).holder b) c = _ := hctx
  refine ⟨_, hexec, hactive, hmem'.trans hmem, ?_, ?_, makeFrame x ws 1 (bundleTodo (ws.headD 0) acting), ?_, ?_⟩
  · rw [hctx']
  · rw [hctx']
  · rw [hctx']
  · exact ⟨rfl, rfl, rfl, rfl, rfl, rfl, rfl, rfl, rfl, rfl⟩

/-! ## The traps in place of a bundle (R58, R62, R64, R71, R391) -/

/-- What stands at a position traps with one of two codes. -/
theorem fetchAt_trap_code {k : Kernel} {c pos : Nat} {i : TrapInfo} (h : fetchAt k c pos = .trap i) :
    i.code = .illegalIndex ∨ i.code = .segmentFault := by
  have hentry : ∀ n, dictEntry k n = .trap i → i.code = .illegalIndex := fun n hn => by
    unfold dictEntry at hn
    split at hn
    · nomatch hn
    · cases hn; rfl
  have hillegal : illegalIndex = .trap i → i.code = .illegalIndex := fun hn => by cases hn; rfl
  unfold fetchAt at h
  split at h
  · dsimp only at h
    split at h
    · exact .inl (hentry _ h)
    · split at h
      · exact .inl (hillegal h)
      · split at h
        · nomatch h
        · exact .inl (hillegal h)
  · split at h
    · cases h; exact .inr rfl
    · split at h
      · cases h; exact .inr rfl
      · split at h
        · nomatch h
        · dsimp only at h
          split at h
          · exact .inl (hillegal h)
          · split at h
            · exact .inl (hentry _ h)
            · split at h
              · split at h
                · exact .inl (hillegal h)
                · nomatch h
              · exact .inl (hillegal h)

section
variable {s : State} {k c : Nat} {x : Ctx} {y : Kernel}

/-- The holder takes trap `i` in a state alike to `u`: the core's step is that trap. -/
theorem bundleIssue_traps (h : Alone s k c x y) {u v : State} {i : TrapInfo} {pos : Nat} (hh : Handled u c i pos)
    (hact : tryIssue (prepared s k) c = .trap (enterTrap v c i x.pc)) (huv : SameButCode u v) (hu : u.mem = s.mem) :
    ∃ t, exec .bundleIssue s = .next t ∧ ctxOf t c = ctxOf (enterTrap u c i x.pc) c ∧ t.mem = s.mem ∧
      t.semOps = (enterTrap u c i x.pc).semOps := by
  obtain ⟨b, hexec⟩ := bundleIssue_acts h (congrArg Try.acted hact)
  obtain ⟨hctx, hops⟩ := (huv.trapAlike c).enterTrap hh x.pc
  have hmem : (enterTrap v c i x.pc).mem = s.mem := by
    rw [(kept_enterTrap v c i x.pc _ _ _).mem, huv.rest, ← hu]
  generalize enterTrap v c i x.pc = w at *
  obtain ⟨-, hm, ho, hc⟩ := selected_keeps w k (coreOf s k).holder c b
  exact ⟨_, hexec, hc.trans hctx, hm.trans hmem, ho.trans hops⟩

/-- A trap that the context's own handler takes: none by a late fault, no checkpoint lost. -/
theorem handled_of_handler (h : Alone s k c x y) (hout : x.handler = false) (hbanks : ∀ b ∈ x.banks.toList, b ≠ .lost) {i : TrapInfo}
    (hcode : i.code ≠ .softError ∧ i.code ≠ .matrixFault) (hsome : (handlerOf s c i.code).isSome) : ∃ pos, Handled s c i pos := by
  obtain ⟨pos, hpos⟩ := Option.isSome_iff_exists.mp hsome
  exact ⟨pos, by rw [h.ctx]; exact hout, by rw [h.ctx]; exact hbanks, hcode, hpos⟩

/-- What is recorded for the boundary has no part in the handler of a trap. -/
theorem Handled.dropLate {i : TrapInfo} {pos : Nat} (hx : ctxOf s c = x) (hh : Handled s c i pos) :
    Handled (setCtx s c { x with late := [] }) c i pos := by
  obtain ⟨hout, hbanks, hcode, hpos⟩ := hh
  rw [hx] at hout hbanks
  refine ⟨by rw [ctxOf_setCtx_same]; exact hout, by rw [ctxOf_setCtx_same]; exact hbanks, hcode, ?_⟩
  have hsame : handlerOf (setCtx s c { x with late := [] }) c i.code = handlerOf s c i.code :=
    handlerOf_congr (by rw [ctxOf_setCtx_same, hx]) (by rw [ctxOf_setCtx_same, hx]) (by rfl) i.code
  exact hsame.trans hpos

end

theorem bundleTraps_holds : bundleTraps := by
  intro s k c x y h hout hbanks traps
  have handled := fun i => handled_of_handler h hout hbanks (i := i)
  have here : ∀ i, (i.code ≠ .softError ∧ i.code ≠ .matrixFault) → SameCtxs s (prepared s k) →
      tryIssue (prepared s k) c = .trap (enterTrap (prepared s k) c i x.pc) → traps s i := fun i hcode hp hact hsome => by
    obtain ⟨pos, hh⟩ := handled i hcode hsome
    exact bundleIssue_traps h hh hact hp.sameButCode rfl
  refine ⟨fun i hlate hi hsome => ?_, fun hlate => ⟨fun i hf hsome => ?_, fun ws e hf hfetched he => ?_, ?_⟩⟩
  · obtain ⟨pos, hh⟩ := handled i (by rw [hi]; exact ⟨nofun, nofun⟩) hsome
    have hsame := (bundleIssue_selects h).1
    exact bundleIssue_traps h (hh.dropLate h.ctx) (tryIssue_late h ((hsame.ctx c).trans h.ctx) hlate hi) (hsame.setCtx c _) rfl
  · have hp := prepared_same h (by rw [hf]; nofun)
    obtain ⟨pos, hh⟩ := handled i (by rcases fetchAt_trap_code hf with hi | hi <;> rw [hi] <;> exact ⟨nofun, nofun⟩) hsome
    exact bundleIssue_traps h hh (tryIssue_trap h hp hlate hf) (hp.sameButCode.trans (sameButCode_clearFault _ _)) rfl
  · have hp := prepared_same h (by rw [hf]; nofun)
    have hact := tryIssue_illegalLiteral h hp hlate hf hfetched he
    refine ⟨fun n d hd => ?_, fun n hn => ?_, fun hother => ?_⟩ <;> refine here _ ⟨nofun, nofun⟩ hp ?_
    · rcases hd with rfl | rfl | rfl <;> exact hact
    · rcases hn with rfl | rfl <;> exact hact
    · rw [hact]
      cases e with
      | sourceSocket n d => exact absurd rfl (hother n d).1
      | destSocket n d => exact absurd rfl (hother n d).2.1
      | gated n d => exact absurd rfl (hother n d).2.2.1
      | sourceForm n => exact absurd rfl (hother n 0).2.2.2.1
      | emptyBits n => exact absurd rfl (hother n 0).2.2.2.2
      | _ => rfl
  · intro ws hf hwrite acting hread
    have hp := prepared_same h (by rw [hf]; nofun)
    have hx : ctxOf (prepared s k) c = x := (hp.ctx c).trans h.ctx
    have hwrite' : writeInProgress (prepared s k) c = false := by rw [writeInProgress_congr hp, hwrite]
    have hdict := tryIssue_dict h hp hlate hf
    have instead : ∀ i, (i.code ≠ .softError ∧ i.code ≠ .matrixFault) →
        tryBundle (prepared s k) c ws 1 = .trap (enterTrap (prepared s k) c i x.pc) → traps s i := fun i hcode hi =>
      here i hcode hp (hdict.trans hi)
    refine ⟨fun n d hdead => instead _ ⟨nofun, nofun⟩ (tryBundle_deadlock hx rfl hread hwrite' hdead), fun hdead hscb => ?_,
      fun hdead hscb hck hspan q hq => instead _ ⟨nofun, nofun⟩
        (tryBundle_misplaced hx rfl hread hwrite' hdead (undersized_off hx hscb) (misplaced_eager hck hspan hq))⟩
    intro early
    refine ⟨fun q hq => ?_, fun q e u o l hnone htrig he hu heu hl hdue => ?_, fun q hnone htrig hdst hswap => ?_⟩ <;>
      refine instead _ ⟨nofun, nofun⟩ ?_
    · exact tryBundle_undersized hx rfl hread hwrite' hdead (undersized_early hx hscb hq)
    · exact tryBundle_undersized hx rfl hread hwrite' hdead
        (undersized_trigger hx hscb hnone htrig (.inl ⟨e, u, o, l, he, hu, heu, hl, hdue⟩))
    · have hswap' : (aswapCheck (prepared s k) c (operandsOf x (makeFrame x ws 1 (bundleTodo (ws.headD 0) acting)) acting q)).isSome = true := by
        simpa only [aswapCheck, hx, h.ctx] using hswap
      have htrap := undersized_trigger hx hscb hnone htrig (.inr ⟨hdst, hswap'⟩)
      rw [hdst] at htrap
      exact tryBundle_undersized hx rfl hread hwrite' hdead htrap

/-- Settles O36: the issue of a bundle and the traps in its place are what the selector does with the holder alone; the index traps
and the ticks follow from the meanings of the position and of the events. -/
theorem issueAndTicks : Obligations.IssueAndTicks :=
  ⟨bundleIssues_holds, bundleTraps_holds, indexTraps_holds, ticksAndResults_holds⟩

end Sys2Proof.Machine
end

section
/-! PROOFS for O38. What the SEG mark asks for (R70), the fetch of a literal bundle (R65), and the end of a frame's load (R69, R71). -/

namespace Sys2Proof.Machine

/-! ## The SEG mark (R70) -/

section
variable {h : Hd} {p : BitVec 4} {s : State} {c : Nat} {x : Ctx} {f : Frame} {k : Kernel}

theorem exec_seg_residual (hc : current s = some (c, x, f)) (hk : kernelOf s c = some k) (hr : (residualAt k f.pos).isSome = true) :
    exec (.seg h p) s = .next s := by
  obtain ⟨r, hr⟩ := Option.isSome_iff_exists.mp hr
  show execSeg h p s = _
  simp only [execSeg, hc, hk, hr]

theorem exec_seg_original {g : Nat} (hc : current s = some (c, x, f)) (hk : kernelOf s c = some k) (hr : residualAt k f.pos = none)
    (hg : segOf k f.pos = some g) : exec (.seg h p) s =
      if k.segs.length ≤ g + 1 ∨ (frameOf k (g + 1)).isSome = true then .next s else .next (startLoad s (ctxCore c) k (g + 1)) := by
  show execSeg h p s = _
  simp only [execSeg, hc, hk, hr, hg, Bool.or_eq_true, decide_eq_true_eq]

end

/-- A load starts where no other one of the kernel is in progress and a frame can be taken (R69). -/
theorem startLoad_chosen {s : State} {core : Nat} {k : Kernel} {i : Nat} (hl : loadingSeg k = none) (hi : chooseFrame s core k = some i)
    (g : Nat) : startLoad s core k g = modKernel s core k.launch k.kslot fun y =>
      { y with frames := y.frames.modify i fun f => { f with
        seg := none, words := [], loading := some g, used := 0, gen := (spaceOf s (kernelAsid s k)).gen } } := by
  simp [startLoad, hl, hi]

theorem startLoad_dropped {s : State} {core : Nat} {k : Kernel} (h : (loadingSeg k).isSome = true ∨ chooseFrame s core k = none) (g : Nat) :
    startLoad s core k g = s := by
  unfold startLoad
  split
  · rfl
  · next hl => rw [h.resolve_left hl]

theorem segmentRequest_holds : segmentRequest := by
  intro h p s c x f k hc hk
  refine ⟨exec_seg_residual hc hk, fun g hr hg => ⟨fun hnext hframe hl i hi => ?_, fun hno => ?_⟩⟩ <;> rw [exec_seg_original hc hk hr hg]
  · rw [if_neg (by simp [hframe, hnext]), startLoad_chosen hl hi]
  · by_cases hres : k.segs.length ≤ g + 1 ∨ (frameOf k (g + 1)).isSome = true
    · rw [if_pos hres]
    · have hdrop : (loadingSeg k).isSome = true ∨ chooseFrame s (ctxCore c) k = none := by tauto
      rw [if_neg hres, startLoad_dropped hdrop]

/-! ## The end of a load (R69, R71) -/

theorem kernels_modKernel {s : State} {core : Nat} {k : Kernel} (h : (coreOf s core).kernels = [k]) (f : Kernel → Kernel) :
    (coreOf (modKernel s core k.launch k.kslot f) core).kernels = [f k] := by
  simp [modKernel, h]

/-- Where no context demands a segment, nothing is served. -/
theorem serveDemands_none {s : State} {core : Nat} {k : Kernel} (h : (coreOf s core).kernels = [k]) (hd : k.demand = []) :
    serveDemands s core = s := by
  simp [serveDemands, h, serveDemand, hd]

/-- The machine once the load of segment `g` by kernel `k` has ended with `words`, or without any. -/
def loadEnded (s : State) (core g : Nat) (k : Kernel) (words : Option (List Idx)) : State :=
  serveDemands (modKernel s core k.launch k.kslot (endLoad g words)) core

theorem filter_demand {g : Nat} {k : Kernel} (hd : ∀ d ∈ k.demand, d.2 = g) :
    (k.demand.filter fun d => d.2 != g) = [] ∧ (k.demand.filter fun d => d.2 == g) = k.demand := by
  simpa using fun a b h => hd (a, b) h

theorem loadEnded_eq {s : State} {core g : Nat} {k : Kernel} (h : (coreOf s core).kernels = [k]) (hd : ∀ d ∈ k.demand, d.2 = g)
    (words : Option (List Idx)) : loadEnded s core g k words = modKernel s core k.launch k.kslot (endLoad g words) :=
  serveDemands_none (kernels_modKernel h _) (filter_demand hd).1

/-- SOFT_ERROR recorded for a context whose segment held an uncorrectable unit (R397). -/
def softError (s : State) (c : Nat) : State := modCtx s c fun x => { x with late := x.late ++ [{ code := .softError, arg := 3 }] }

/-- SOFT_ERROR recorded for each of the contexts that demanded a segment. -/
def softErrors (s : State) (ds : List (Nat × Nat)) : State := ds.foldl (fun s d => softError s d.1) s

theorem softErrors_cores (s : State) (ds : List (Nat × Nat)) : (softErrors s ds).cores = s.cores :=
  foldl_keeps State.cores _ ds s fun _ _ => rfl

theorem late_softErrors_keeps {t : TrapInfo} {c : Nat} (ds : List (Nat × Nat)) {s : State} (h : t ∈ (ctxOf s c).late) :
    t ∈ (ctxOf (softErrors s ds) c).late := by
  induction ds generalizing s with
  | nil => exact h
  | cons d ds ih =>
    refine ih ?_
    show t ∈ (ctxOf (softError s d.1) c).late
    rw [softError, modCtx_eq, ctxOf_setCtx]
    split
    · next hc => subst hc; exact List.mem_append_left _ h
    · exact h

theorem late_softErrors {d : Nat × Nat} {ds : List (Nat × Nat)} (hd : d ∈ ds) (s : State) :
    ({ code := .softError, arg := 3 } : TrapInfo) ∈ (ctxOf (softErrors s ds) d.1).late := by
  induction ds generalizing s with
  | nil => cases hd
  | cons e ds ih =>
    rcases List.mem_cons.mp hd with rfl | hd
    · exact late_softErrors_keeps ds (by simp [softError])
    · exact ih hd _

section
variable {s : State} {k : Kernel} {g : Nat}

/-- A load whose generation is stale reads nothing and fails (R71). -/
theorem exec_frameLoad_stale (hk : (coreOf s s.args.a).kernels[s.args.b]? = some k) (hl : loadingSeg k = some g)
    (hstale : (k.frames.any fun f => f.loading == some g && f.gen != (spaceOf s (kernelAsid s k)).gen) = true) :
    exec .frameLoadComplete s = .next (loadEnded s s.args.a g k none) := by
  show execFrameLoadComplete s = _
  simp [execFrameLoadComplete, hk, hl, hstale, loadEnded]

/-- What the load of a segment reads at the instant at which it ends (R65, R69). -/
def segmentRead (s : State) (k : Kernel) (g : Nat) : List ByteIn × State :=
  let seg := (k.segs[g]?).getD ⟨0, 0, 0⟩
  readMems s none { die := coreDie s.args.a, core := some s.args.a } portChan (kernelAsid s k) seg.addr (2 * seg.len)

/-- The machine once the segment has been read, with the soft errors that this has raised. -/
def segmentSeen (s : State) (k : Kernel) (g : Nat) : State :=
  let r := segmentRead s k g
  if r.1.any (·.bad) then softErrors r.2 k.demand else r.2

theorem segmentSeen_cores (s : State) (k : Kernel) (g : Nat) : (segmentSeen s k g).cores = s.cores := by
  have hread : (segmentRead s k g).2.cores = s.cores := (accessed_readMems ..).cores
  unfold segmentSeen
  dsimp only
  split
  · rw [softErrors_cores, hread]
  · exact hread

theorem kernels_segmentSeen (s : State) (k : Kernel) (g n : Nat) : (coreOf (segmentSeen s k g) n).kernels = (coreOf s n).kernels := by
  simp only [coreOf, segmentSeen_cores]

/-- Every byte of a segment could be read, and none of them in a unit that is uncorrectable (R69). -/
def wholeRead (bs : List ByteIn) : Bool := !bs.any (·.bad) && !bs.any fun b => b.absent || b.unreach.isSome

theorem wholeRead_iff (bs : List ByteIn) : wholeRead bs = true ↔ ∀ b ∈ bs, b.absent = false ∧ b.bad = false ∧ b.unreach = none := by
  simp only [wholeRead, Bool.and_eq_true, Bool.not_eq_true', List.any_eq_false, Bool.or_eq_true, not_or, Bool.not_eq_true,
    Option.isSome_eq_false_iff, Option.isNone_iff_eq_none, ← forall₂_and]
  exact forall₂_congr fun _ _ => by tauto

theorem exec_frameLoad_read (hk : (coreOf s s.args.a).kernels[s.args.b]? = some k) (hl : loadingSeg k = some g)
    (hgen : (k.frames.any fun f => f.loading == some g && f.gen != (spaceOf s (kernelAsid s k)).gen) = false)
    (hd : ∀ d ∈ k.demand, d.2 = g) : exec .frameLoadComplete s = .next (loadEnded (segmentSeen s k g) s.args.a g k
      (if wholeRead (segmentRead s k g).1 then some (idxOfBytes ((segmentRead s k g).1.map (·.val))) else none)) := by
  show execFrameLoadComplete s = _
  simp only [execFrameLoadComplete, hk, hl, hgen, Bool.false_eq_true, if_false, (filter_demand hd).2, Bool.not_false, Bool.true_and]
  rfl

/-- A load that fails leaves the frame without it, and marks the contexts that demanded the segment. -/
theorem loadEnded_none {u : State} {core : Nat} (hk : (coreOf u core).kernels = [k]) (hd : ∀ d ∈ k.demand, d.2 = g) :
    ∃ k', (coreOf (loadEnded u core g k none) core).kernels = [k'] ∧ k'.demand = [] ∧ k'.dict = k.dict ∧ k'.segs = k.segs ∧
      k'.faulted = k.faulted ++ k.demand.map (·.1) ∧
      k'.frames = k.frames.map fun f => if f.loading = some g then { f with loading := none } else f := by
  obtain ⟨hnone, hall⟩ := filter_demand hd
  refine ⟨endLoad g none k, by rw [loadEnded_eq hk hd, kernels_modKernel hk], hnone, rfl, rfl, ?_, ?_⟩
  · simp [endLoad, hall]
  · simp [endLoad]

/-- A load that succeeds leaves the segment's words in the frame. -/
theorem loadEnded_some {u : State} {core : Nat} (hk : (coreOf u core).kernels = [k]) (hd : ∀ d ∈ k.demand, d.2 = g) (ws : List Idx) :
    ∃ k', (coreOf (loadEnded u core g k (some ws)) core).kernels = [k'] ∧ k'.demand = [] ∧ k'.faulted = k.faulted ∧
      k'.dict = k.dict ∧ k'.segs = k.segs ∧
      k'.frames = k.frames.map fun f => if f.loading = some g then { f with seg := some g, words := ws, loading := none } else f := by
  refine ⟨endLoad g (some ws) k, by rw [loadEnded_eq hk hd, kernels_modKernel hk], (filter_demand hd).1, rfl, rfl, rfl, ?_⟩
  simp [endLoad]

theorem loadEnded_ctxs {u : State} {core : Nat} (hk : (coreOf u core).kernels = [k]) (hd : ∀ d ∈ k.demand, d.2 = g) (ws : Option (List Idx)) :
    (loadEnded u core g k ws).ctxs = u.ctxs := by
  rw [loadEnded_eq hk hd, modKernel, modCore_eq, setCore_ctxs]

end

theorem codeStoreLoads_hold : codeStoreLoads := by
  constructor
  · intro s k ws c hk hf
    show execLiteralBundleFetch s = _
    simp only [execLiteralBundleFetch, c, hk, hf, modCtx_eq]
  · intro s k g y core hat hk hl hd hy seg asid bs fails
    have hasid : kernelAsid s k = asid := by simp [kernelAsid, hy, asid]
    have hbs : (segmentRead s k g).1 = bs := by simp only [segmentRead, hasid]; rfl
    have hseen : (coreOf (segmentSeen s k g) core).kernels = [k] := (kernels_segmentSeen s k g core).trans hk
    refine ⟨fun hgen => ?fresh, fun i hi hload hne => ?stale⟩
    case fresh =>
      have hfresh : (k.frames.any fun f => f.loading == some g && f.gen != (spaceOf s (kernelAsid s k)).gen) = false := by
        simpa [hasid] using hgen
      have hexec := exec_frameLoad_read hat hl hfresh hd
      rw [hbs] at hexec
      have hfails : ∀ b ∈ bs, ¬ (b.absent = false ∧ b.bad = false ∧ b.unreach = none) →
          exec .frameLoadComplete s = .next (loadEnded (segmentSeen s k g) core g k none) := fun b hb hno => by
        rw [hexec, if_neg fun hok => hno ((wholeRead_iff bs).mp hok b hb)]
      refine ⟨fun hgood => ?_, fun b hb hno => ⟨_, hfails b hb ?_, loadEnded_none hseen hd⟩,
        fun b hb hbad => ⟨_, hfails b hb (by simp [hbad]), loadEnded_none hseen hd, fun d hdk => ?_⟩⟩
      · rw [if_pos ((wholeRead_iff bs).mpr hgood)] at hexec
        obtain ⟨k', hk'⟩ := loadEnded_some hseen hd (idxOfBytes (bs.map (·.val)))
        exact ⟨_, k', hexec, hk'⟩
      · rcases hno with hno | hno
        · simp [hno]
        · rintro ⟨-, -, hnone⟩
          simp [hnone] at hno
      · have hany : (segmentRead s k g).1.any (·.bad) = true := by rw [hbs]; exact List.any_eq_true.mpr ⟨b, hb, hbad⟩
        rw [show ctxOf (loadEnded (segmentSeen s k g) core g k none) d.1 = ctxOf (segmentSeen s k g) d.1 by
          simp only [ctxOf, loadEnded_ctxs hseen hd]]
        rw [segmentSeen, if_pos hany]
        exact late_softErrors hdk _
    case stale =>
      have hstale : (k.frames.any fun f => f.loading == some g && f.gen != (spaceOf s (kernelAsid s k)).gen) = true :=
        List.any_eq_true.mpr ⟨i, hi, by simpa [hload, hasid] using hne⟩
      exact ⟨_, exec_frameLoad_stale hat hl hstale, loadEnded_none hk hd, loadEnded_ctxs hk hd none⟩

/-- Settles O38: the SEG mark starts the load that it asks for, and the end of a load changes the kernel's frame and demands as its bytes
and its generation say. -/
theorem codeLoads : Obligations.CodeLoads := ⟨segmentRequest_holds, codeStoreLoads_hold⟩

end Sys2Proof.Machine
end

section
/-! PROOFS for O58. Which destinations clash (R51), and which bundles are refused for a clash. -/

namespace Sys2Proof

theorem triggerUnit_eq_some {d : BitVec 12} {u : FU} :
    triggerUnit d = some u ↔ (triggerAt d).isSome = true ∧ (unitOf d).map (·.1) = some u := by
  unfold triggerUnit
  cases triggerAt d <;> simp

theorem clash_symm {d e : BitVec 12} (h : Clash d e) : Clash e d := by
  rcases h with rfl | ⟨u, ⟨hd, he | he⟩ | ⟨hd, he⟩⟩
  · exact .inl rfl
  · exact .inr ⟨u, .inl ⟨he, .inl hd⟩⟩
  · exact .inr ⟨u, .inr ⟨he, hd⟩⟩
  · exact .inr ⟨u, .inl ⟨he, .inr hd⟩⟩

/-- Sockets that clash belong to one unit, or to none. -/
theorem clash_unit {d e : BitVec 12} (h : Clash d e) : (unitOf d).map (·.1) = (unitOf e).map (·.1) := by
  rcases h with rfl | ⟨u, ⟨hd, he | he⟩ | ⟨hd, he⟩⟩
  · rfl
  · rw [(triggerUnit_eq_some.mp hd).2, (triggerUnit_eq_some.mp he).2]
  · rw [(triggerUnit_eq_some.mp hd).2, he, Option.map_some]
  · rw [(triggerUnit_eq_some.mp he).2, hd, Option.map_some]

theorem destsOk_cons (d : BitVec 12) (ds : List (BitVec 12)) :
    destsOk (d :: ds) = true ↔ (∀ e ∈ ds, ¬ Clash d e) ∧ destsOk ds = true := by
  rw [destsOk, Bool.and_eq_true, Bool.not_eq_true', List.any_eq_false]
  refine and_congr_left' (forall₂_congr fun e _ => not_congr ?_)
  simp only [Clash, triggerUnit_eq_some]
  cases hd : unitOf d with
  | none => simp [@eq_comm _ e d]
  | some p =>
    cases he : unitOf e with
    | none => simp [@eq_comm _ e d]
    | some q => simp [Prod.ext_iff, @eq_comm _ e d]; grind

theorem destsOk_iff (ds : List (BitVec 12)) : destsOk ds = true ↔ ds.Pairwise fun d e => ¬ Clash d e := by
  induction ds with
  | nil => simp [destsOk]
  | cons d ds ih => rw [destsOk_cons, List.pairwise_cons, ih]

/-- The live slots of a bundle have different numbers. -/
theorem liveSlots_pairwise (surr : BitVec 11) (slots : List Word) : (liveSlots surr slots).Pairwise fun p q => p.1 ≠ q.1 := by
  refine List.Pairwise.filter _ (List.pairwise_map.mpr ?_)
  have h : ((slots.zipIdx).map Prod.snd).Pairwise (· ≠ ·) := by
    rw [List.zipIdx_map_snd]
    exact List.nodup_range'
  exact List.pairwise_map.mp h

theorem destsOk_live {surr : BitVec 11} {slots : List Word} : destsOk ((liveSlots surr slots).map fun p => slotDst p.2) = true ↔
    ∀ p ∈ liveSlots surr slots, ∀ q ∈ liveSlots surr slots, p.1 ≠ q.1 → ¬ Clash (slotDst p.2) (slotDst q.2) := by
  rw [destsOk_iff, List.pairwise_map]
  constructor
  · intro h p hp q hq hne
    have hsymm : Std.Symm fun p q : Nat × Word => ¬ Clash (slotDst p.2) (slotDst q.2) := ⟨fun _ _ hn hc => hn (clash_symm hc)⟩
    exact h.forall hp hq fun e => hne (congrArg Prod.fst e)
  · intro h
    exact (liveSlots_pairwise surr slots).imp_of_mem fun hp hq hne => h _ hp _ hq hne

/-- R58: a bundle without an error names no latch twice. -/
theorem destsOk_of_bundleError {feat : BitVec 64} {h : Word} {slots : List Word} (hb : bundleError feat (h :: slots) = none) :
    destsOk ((liveSlots (hdrSurr h) slots).map fun p => slotDst p.2) = true := by
  by_contra hd
  rw [Bool.not_eq_true] at hd
  simp only [bundleError, hd, Bool.not_false, if_true] at hb
  repeat' split at hb
  all_goals cases hb

/-- R58: the error of R51 is that of destinations that name a latch twice. -/
theorem destsOk_of_twice {feat : BitVec 64} {h : Word} {slots : List Word} (hb : bundleError feat (h :: slots) = some .twice) :
    destsOk ((liveSlots (hdrSurr h) slots).map fun p => slotDst p.2) = false := by
  by_contra hd
  rw [Bool.not_eq_false] at hd
  simp only [bundleError, hd, Bool.not_true, Bool.false_eq_true, if_false] at hb
  repeat' split at hb
  all_goals cases hb

/-- Settles O58: the destinations of a bundle are in order exactly where no two live slots clash, and sockets that clash belong to one
unit. -/
theorem illegalCombinations : Obligations.IllegalCombinations := by
  refine ⟨fun feat h slots p q hp hq hne hc => ?_, fun feat h slots hb => ?_, fun d e hd he hc => ?_, fun d e hd he hc => ?_⟩
  · cases hb : bundleError feat (h :: slots) with
    | some e => exact ⟨e, by simp only [decodeBundle, hb]⟩
    | none => exact absurd hc (destsOk_live.mp (destsOk_of_bundleError hb) p hp q hq hne)
  · by_contra hno
    have hok : destsOk ((liveSlots (hdrSurr h) slots).map fun p => slotDst p.2) = true :=
      destsOk_live.mpr fun p hp q hq hne hc => hno ⟨p, q, hp, hq, hne, hc⟩
    simp [destsOk_of_twice hb] at hok
  · simpa [hd, he] using clash_unit hc
  · simpa [hd, he] using clash_unit hc

end Sys2Proof
end

section
/-! PROOFS for O53 and O52. What a step runs, and the words of the spec's examples. -/

namespace Sys2Proof.Machine

theorem wordFrame_of_decodeSlot {w : Word} {n : Nat} {i : Instr} (h : decodeSlot w n = .ok i) (x : Ctx) :
    wordFrame x w i = makeFrame x (0 :: w :: List.replicate 10 emptySlot) 1 [.slot 0] := by
  obtain ⟨-, ⟨f, hf, rfl⟩ | ⟨-, rfl⟩⟩ := decodeSlot_ok h
  · obtain ⟨hm, -⟩ := trigger_encodes hf (slotMv w)
    unfold wordFrame
    split
    case h_7 => rfl
    all_goals simp_all [Instr.mv?]
  · rfl

/-- A word that the table reads stands in the bundle that the next step carries out (log entry 6). -/
theorem withFetchWord_eq {s : State} {w : Word} {i : Instr} (h : decodeTableWord 32 w.toNat = some i) : s.withFetchWord 32 w.toNat =
    { withFrame s (s.active.getD 0) (wordFrame (ctxOf s (s.active.getD 0)) w i) with active := some (s.active.getD 0) } := by
  simp [State.withFetchWord, placeWord, h, withFrame]

theorem step_withFetchWord {s : State} {w : Word} {i : Instr} (h : decodeSlot w = .ok i) (ht : decodeTableWord 32 w.toNat = some i) :
    let c := s.active.getD 0
    let f := { wordFrame (ctxOf s c) w i with todo := [], cur := 0, dry := false }
    let t : State := { modCtx s c (fun x => { x with frame := some (wordFrame (ctxOf s c) w i) }) with active := some c }
    step (s.withFetchWord 32 w.toNat) = exec i (withFrame t c f) := by
  intro c f t
  have hframe : (ctxOf t c).frame = some (wordFrame (ctxOf s c) w i) :=
    congrArg Ctx.frame (ctxOf_setCtx_same s c { ctxOf s c with frame := some (wordFrame (ctxOf s c) w i) })
  rw [withFetchWord_eq ht]
  refine step_slot (s := t) (c := c) rfl hframe ?_ ?_
  · rw [wordFrame_of_decodeSlot h]; rfl
  · rw [wordFrame_of_decodeSlot h]; exact h

/-- Settles O53: each kind of part by the model's own step lemma for it; the placed word stands in slot 0 of its bundle. -/
theorem stepRunsDecodedInstruction : Obligations.StepRunsDecodedInstruction := by
  refine ⟨fun s c f ts ha hf => ⟨?_, fun _ _ => step_check ha hf, fun _ => step_seg ha hf, fun _ => step_span ha hf, fun _ => step_event ha hf⟩,
    fun _ _ _ => step_sched, fun _ _ => step_choose, fun _ _ _ => step_withFetchWord⟩
  rintro n i (ht | ht)
  · exact step_slot ha hf ht
  · exact step_last ha hf ht

/-- Settles O52: each word is read by the decoder. -/
theorem decodeWords : Obligations.DecodeWords := by
  unfold Obligations.DecodeWords
  decide

end Sys2Proof.Machine
end

section
/-! PROOFS for O50 and O56. What holds of the reset state, and writes into `g0` (R81). -/

namespace Sys2Proof.Machine

/-- Settles O50: a machine of empty tables. -/
theorem resetValues : Obligations.ResetValues := by
  refine ⟨fun c => ?_, fun k => rfl, fun a => ⟨rfl, rfl, rfl⟩, fun d slot chan => rfl, fun d => rfl, fun k => ?_⟩
  · have hx : ctxOf State.reset c = {} := rfl
    simp [hx]
  · by_cases h : k = 255
    · subst h; rfl
    · simp [classOf, State.reset, Tab.find, h, Ne.symm h]

/-- A move to `g0` leaves its context as it was (R81). -/
theorem exec_move_g0 {m : Mv} {s : State} {c : Nat} {x : Ctx} {f : Frame} (h : Acts s m c x f) : exec (.move m 0) s = .next (setCtx s c x) :=
  (moveResults_hold m s c x f h).1

/-- No register at socket 0 is in conflict: the bit of `g0` is masked off (R81). -/
theorem conflict_ne_g0 (r : RegFile) : r.conflict ≠ some 0 := by
  intro h
  have hconf := List.find?_some h
  simp [RegFile.bits] at hconf

/-- Settles O56: a move to `g0` writes the context back as it stands, and no change of the register at socket 0 changes the files. -/
theorem writesToG0Discarded : Obligations.WritesToG0Discarded := by
  refine ⟨fun m s c x f h => ⟨_, exec_move_g0 h, ⟨rfl, fun d hd => ctxOf_setCtx_ne s x hd⟩, ctxOf_setCtx_same s c x⟩,
    fun r dwp free bits mask => ?_⟩
  exact ⟨modify_zero _ _ _ _ _, modify_zero _ _ _ _ _, modify_zero _ _ _ _ _, modify_zero _ _ _ _ _, rfl, rfl, conflict_ne_g0 r⟩

end Sys2Proof.Machine
end

section
/-! PROOFS for O1. What a span action does once its waits are over, and what it does before (R82, R83, R88, R94). -/

namespace Sys2Proof.Machine

/-- A flip exchanges the faces of the written registers, file by file (R83). -/
theorem flip_eq_fileFlipped (r : RegFile) : r.flip = fileFlipped r := rfl

section
variable {s : State} {c : Nat} {x : Ctx} {f : Frame} (hc : current s = some (c, x, f)) {code : SpanCode}
include hc

/-- While a wait is left the bundle goes on waiting (R82). -/
theorem spanAction_waits (h : spanReady s c code = false) (again : Todo) : spanAction s code again =
    .next { setCtx s c { x with frame := some { f with todo := again :: f.todo } } with active := none } := by
  obtain ⟨-, hx, hf⟩ := current_some hc
  simp [spanAction, hc, h, suspend, modCtx, hx, hf]

/-- CKPT flips nothing (R94). -/
theorem spanAction_ckpt (h : spanReady s c .ckpt = true) (again : Todo) :
    spanAction s .ckpt again = .next (if ckOn x then checkpoint s c else s) := by
  simp [spanAction, hc, h]

/-- A flip whose waits are over and that finds no conflict (R83, R94). -/
theorem spanAction_flips (hcode : code ≠ .ckpt) (h : FlipReady s c code) (again : Todo) : spanAction s code again =
    .next (if code.checks && ckOn x then checkpoint (setCtx s c { x with regs := fileFlipped x.regs }) c
      else setCtx s c { x with regs := fileFlipped x.regs }) := by
  obtain ⟨-, hx, -⟩ := current_some hc
  obtain ⟨hready, hconf⟩ := h
  rw [hx] at hconf
  simp only [spanAction, hc, hready, hcode, hconf, flip_eq_fileFlipped, Bool.not_true, Bool.false_eq_true, if_false]

/-- A flip that finds a conflicted register flips nothing (R88). -/
theorem spanAction_conflict {d : BitVec 12} (hcode : code ≠ .ckpt) (h : spanReady s c code = true) (hd : x.regs.conflict = some d)
    (again : Todo) : spanAction s code again = .next (doubleWrite s c d code) := by
  simp only [spanAction, hc, h, hcode, hd, Bool.not_true, Bool.false_eq_true, if_false]

/-- DOUBLE_WRITE with checkpoint mode on gives the bundle up (R88). -/
theorem doubleWrite_on (hon : ckOn x = true) (d : BitVec 12) :
    doubleWrite s c d code = enterTrap s c { code := .doubleWrite, sock := d.toNat } f.pos := by
  obtain ⟨-, hx, hf⟩ := current_some hc
  simp only [doubleWrite, hx, hf, hon, if_true]

/-- DOUBLE_WRITE with checkpoint mode off comes behind the settled bundle (R88, log entry 20). -/
theorem doubleWrite_off (hoff : ckOn x = false) (d : BitVec 12) :
    let u := settleBundle s c true
    let v := enterTrap u c { code := .doubleWrite, sock := d.toNat } (ctxOf u c).pc code (haltHeld f) (some f.pos)
    (ckmodeLeft f = none → doubleWrite s c d code = v) ∧
    (∀ on, ckmodeLeft f = some on →
      doubleWrite s c d code = modCtx v c fun y => { y with sys := { y.sys with ckmode := if on then 1 else 0 } }) := by
  obtain ⟨-, hx, hf⟩ := current_some hc
  refine ⟨fun hleft => ?_, fun on hleft => ?_⟩ <;>
    simp only [doubleWrite, hx, hf, hoff, hleft, Bool.false_eq_true, if_false]

end

/-- Settles O1: the five forms are one span action with their own code. -/
theorem spanActions : Obligations.SpanActions := by
  intro h e s c x f hc flipped marked
  have flips := fun code (hcode : code ≠ .ckpt) hready => spanAction_flips hc (code := code) hcode hready .span
  refine ⟨flips .flip nofun, flips .flipW nofun, fun hready => flips .flipC nofun hready, fun hready => flips .flipCw nofun hready,
    fun hready => spanAction_ckpt hc hready .span, ?_, fun d hd => ?_⟩
  · simp only [List.forall_mem_cons]
    refine ⟨?_, ?_, ?_, ?_, ?_, by simp⟩ <;> exact fun hwait => spanAction_waits hc hwait .span
  · intro t u
    have traps : ∀ code, code ≠ .ckpt → spanReady s c code = true →
        let v := enterTrap u c t (ctxOf u c).pc code (haltHeld f) (some f.pos)
        (ckOn x = true → spanAction s code .span = .next (enterTrap s c t f.pos)) ∧
        (ckOn x = false → ckmodeLeft f = none → spanAction s code .span = .next v) ∧
        (∀ on, ckOn x = false → ckmodeLeft f = some on →
          spanAction s code .span = .next (modCtx v c fun y => { y with sys := { y.sys with ckmode := if on then 1 else 0 } })) := by
      intro code hcode hready v
      rw [spanAction_conflict hc hcode hready hd]
      refine ⟨fun hon => ?_, fun hoff hleft => ?_, fun on hoff hleft => ?_⟩
      · rw [doubleWrite_on hc hon]
      · rw [(doubleWrite_off hc hoff d).1 hleft]
      · rw [(doubleWrite_off hc hoff d).2 on hleft]
    simp only [List.forall_mem_cons]
    refine ⟨traps .flip nofun, traps .flipW nofun, traps .flipC nofun, traps .flipCw nofun, by simp⟩

end Sys2Proof.Machine
end

section
/-! PROOFS for O6. The entry of a handler with checkpoint mode off (R94, R102, R103, R392 to R394, R397), the precision of a trap at a trigger
(R58, R163), and the escalation of a trap in handler state (R399). -/

namespace Sys2Proof.Machine

section
variable {s : State} {c pos : Nat} {t : TrapInfo}

/-- The entry of a handler with checkpoint mode off, for a trap that its bundle does not raise behind itself: the context and what is set
aside (R394). -/
theorem enterTrap_enters (hout : (ctxOf s c).handler = false) (hck : (ctxOf s c).sys.ckmode = 0) (hsoft : t.code ≠ .softError)
    (hmat : t.code ≠ .matrixFault) (hdw : t.code ≠ .doubleWrite) (hpos : handlerOf s c t.code = some pos) (pc : Nat) :
    let x := ctxOf s c
    let u := enterTrap s c t pc
    let y := ctxOf u c
    (y.handler = true ∧ y.pc = pos ∧ y.frame = none ∧ y.regs = x.regs.clearSpan ∧ y.lat = Vector.replicate 14 {} ∧
      y.infl = [] ∧ y.link = [] ∧ y.loops = [] ∧ y.idle = 0 ∧ (t.code.after = false → y.waits = [])) ∧
    y.sys = { x.sys with trapstat := statusWord t false false false false, trappc := posWord pc
                         trapopc := posWord (originalOf s c pc).1, trapiter := (originalOf s c pc).2 } ∧
    (∃ a, y.aside = some a ∧ a.regs = x.regs ∧ a.lat = x.lat ∧ a.infl = x.infl ∧ a.link = x.link ∧ a.loops = x.loops ∧
      a.idle = x.idle ∧ a.tick = x.lsc) ∧
    ∀ d, d ≠ c → ctxOf u d = ctxOf s d := by
  obtain ⟨hbad, hnot, hdet⟩ := handlerOf_code hpos
  have hoff : (ctxOf s c).sys.ckmode ≠ 1 := by rw [hck]; decide
  intro x u y
  have hu : u = enterTrap s c t pc := rfl
  unfold enterTrap at hu
  simp only [hout, hoff, hsoft, hmat, hdw, hbad, hnot, hdet, hpos, Bool.false_eq_true, or_self, false_and, if_false] at hu
  have hy : y = ctxOf u c := rfl
  rw [hu, ctxOf_leave] at hy
  rw [hy]
  refine ⟨⟨rfl, rfl, rfl, rfl, rfl, rfl, rfl, rfl, rfl, fun hafter => by simp [hafter]⟩, rfl, ⟨_, rfl, rfl, rfl, rfl, rfl, rfl, rfl, rfl⟩,
    fun d hd => ?_⟩
  rw [hu]
  exact ctxOf_setCtx_ne _ _ hd

end

theorem trapEntered_holds : trapEntered := by
  intro s c t pc pos x hout hck hsoft hmat hdw hafter hpos u y
  obtain ⟨⟨hh, hpc, hframe, hregs, hlat, hinfl, hlink, hloops, hidle, hwaits⟩, hsys, haside, hothers⟩ :=
    enterTrap_enters hout hck hsoft hmat hdw hpos pc
  have hkept := kept_enterTrap s c t pc .none none none
  exact ⟨hh, hpc, hframe, hregs, hlat, hinfl, hlink, hloops, hidle, hwaits hafter, hsys, haside, hkept.mem, hkept.host, hothers⟩

/-- The context as it was before the bundle of `f`, none of whose moves has acted (R102, R163). -/
def beforeBundle (x : Ctx) (f : Frame) : Ctx :=
  { x with regs := f.regs, lat := f.lat, frame := none, infl := x.infl.filter fun e => e.bundle != x.bundle
           ls := x.ls.filter fun o => o.bundle != x.bundle }

/-- A precise trap is taken by the context as it was before the bundle, at the bundle's position (R163). -/
theorem preciseTrap_eq {s : State} {c : Nat} {f : Frame} (hf : (ctxOf s c).frame = some f) (t : TrapInfo) :
    preciseTrap s c t = enterTrap { setCtx s c (beforeBundle (ctxOf s c) f) with active := none } c t f.pos := by
  simp only [preciseTrap, hf, beforeBundle]

theorem trapIsPrecise_holds : trapIsPrecise := by
  intro s c f t pos x hf hout hck hsoft hmat hdw hpos y
  let s' : State := { setCtx s c (beforeBundle x f) with active := none }
  have hx : ctxOf s' c = beforeBundle x f := ctxOf_leave s none c _
  have hsame : handlerOf s' c t.code = handlerOf s c t.code := handlerOf_congr (u := s) (v := s') (by rw [hx]; rfl) (by rw [hx]; rfl) rfl t.code
  have hpos' : handlerOf s' c t.code = some pos := hsame.trans hpos
  obtain ⟨⟨hh, hpc, -⟩, hsys, ⟨a, ha, hregs, hlat, hinfl, -⟩, -⟩ :=
    enterTrap_enters (s := s') (by rw [hx]; exact hout) (by rw [hx]; exact hck) hsoft hmat hdw hpos' f.pos
  have hy : y = ctxOf (enterTrap s' c t f.pos) c := by rw [← preciseTrap_eq hf]
  rw [hx] at hregs hlat hinfl
  rw [hy]
  exact ⟨hh, hpc, by rw [hsys]; rfl, a, ha, hregs, hlat, hinfl⟩

/-- The record of an escalation in a launch: the first one stands (R399). -/
def recorded (y : Launch) (info : List D64) : Launch := if y.tlist then y else { y with tlist := true, info := info }

/-- A change of a launch that keeps its region leaves every context its region. -/
theorem ctxRegion_setLaunch {s : State} {l : Nat} {y z : Launch} (hy : launchOf s l = some y) (hz : z.region = y.region) (c : Nat) :
    ctxRegion (setLaunch s l z) c = ctxRegion s c := by
  unfold ctxRegion
  rw [ctxOf_setLaunch]
  cases (ctxOf s c).launch with
  | none => rfl
  | some j =>
    by_cases hj : j = l
    · subst hj; simp [hy, hz]
    · simp [launchOf_setLaunch_ne s z hj]

theorem domainPath_context {s : State} {r : Nat} (h : fdomOf s r = 0) (n : Nat) : domainPath s n r = ([r], 0) := by
  cases n with
  | zero => rfl
  | succ n => simp [domainPath, h]

/-- In a fault domain of CONTEXT an unrecovered fault ends the context alone (R336). -/
theorem faultDomain_context {s : State} {r : Nat} (h : fdomOf s r = 0) (l c : Nat) :
    ctxOf (faultDomain s r l (some c)) c =
      { ctxOf s c with frame := some (endFrame (ctxOf s c) 0xFFFFFFFF#64), waits := [], held := [], idle := 0 } ∧
    (faultDomain s r l (some c)).launches = s.launches := by
  simp only [faultDomain, domainPath_context h, modCtx]
  split
  · exact ⟨ctxOf_setCtx_same _ c _, rfl⟩
  · exact ⟨ctxOf_setCtx_same _ c _, rfl⟩

theorem enterTrap_escalates {s : State} {c l : Nat} {y : Launch} (hin : (ctxOf s c).handler = true) (hl : (ctxOf s c).launch = some l)
    (hy : launchOf s l = some y) (t : TrapInfo) (pc : Nat) : enterTrap s c t pc =
      let z := recorded y [BitVec.ofNat 64 (2 ^ 63 + c),
        statusWord t false false (decide (t.code = .softError ∨ t.code = .matrixFault)) false, posWord pc,
        posWord (originalOf s c pc).1, (originalOf s c pc).2]
      faultDomain (setLaunch s l z) (ctxRegion (setLaunch s l z) c) l (some c) := by
  simp only [enterTrap, hin, true_or, if_true, escalate, hl, modLaunch, hy]
  rfl

theorem escalationRecorded_holds : escalationRecorded := by
  intro s c l y t pc x hin hl hy hdom u
  obtain hu : u = _ := enterTrap_escalates hin hl hy t pc
  generalize hz : recorded y _ = z at hu
  have hregion : z.region = y.region := by rw [← hz, recorded]; split <;> rfl
  dsimp only at hu
  rw [ctxRegion_setLaunch hy hregion] at hu
  have hdom' : fdomOf (setLaunch s l z) (ctxRegion s c) = 0 := (fdomOf_congr (setLaunch_regions s l z) _).trans hdom
  obtain ⟨hctx, hlaunches⟩ := faultDomain_context hdom' l c
  have hrec : launchOf u l = some z := by
    rw [hu, launchOf, hlaunches]; exact launchOf_setLaunch_same s l z
  refine ⟨by rw [hu, hctx]; rfl, z, hrec, ?_, fun hlist => ?_, fun hlist => ?_⟩
  · rw [← hz, recorded]
    split
    · assumption
    · rfl
  · rw [← hz, recorded, if_pos hlist]
  · rw [← hz, recorded, if_neg (by simp [hlist])]; simp only [posWord]

/-- Settles O6: a trap enters its handler with the context set aside, or, in handler state, leaves its record in the launch. -/
theorem trapEntry : Obligations.TrapEntry := ⟨trapEntered_holds, trapIsPrecise_holds, escalationRecorded_holds⟩

end Sys2Proof.Machine
end

section
/-! PROOFS for O7. TRAP and TRET at their bundle (R99, R132, R133), and the three steps of the return (R103, R396). -/

namespace Sys2Proof.Machine

/-! ## TRAP and TRET -/

/-- A trigger without checks acts (R163). -/
theorem Acts.runs {s : State} {m : Mv} {c : Nat} {x : Ctx} {f : Frame} (h : Acts s m c x f) {u : FU} {sock : BitVec 12}
    {act : State → Nat → Opnds → State} :
    trigger s m u sock noCheck act = .next (act (setCtx s c (latched x u (opndsAt x f m u).a)) c (opndsAt x f m u)) := h.run rfl

/-- An eager trigger may stand in a bundle without checkpoint mode, or in one that takes a checkpoint (R99). -/
theorem eagerCheck_ok {s : State} {c : Nat} {x : Ctx} {f : Frame} (hx : ctxOf s c = x) (hf : x.frame = some f)
    (h : ckOn x = true → 3 ≤ (hdrSpan f.header).toNat) (o : Opnds) : eagerCheck s c o = none := by
  simp only [eagerCheck, hx, hf, frameSpan]
  rw [if_neg]
  rintro ⟨hon, hlt⟩
  exact absurd (h hon) (by omega)

/-- Elsewhere it traps EAGER_PLACEMENT (R99). -/
theorem eagerCheck_misplaced {s : State} {c : Nat} {x : Ctx} {f : Frame} (hx : ctxOf s c = x) (hf : x.frame = some f)
    (hon : ckOn x = true) (hlt : (hdrSpan f.header).toNat < 3) (o : Opnds) : eagerCheck s c o = some .eagerPlacement := by
  simp only [eagerCheck, hx, hf, frameSpan, if_pos (And.intro hon hlt)]

/-- TRET in handler state: BAD_STATUS, or nothing beside a HALT of its bundle, or the return (R133, log entry 18). -/
theorem sysTret_inside {s : State} {m : Mv} {c : Nat} {x : Ctx} {f : Frame} (h : Acts s m c x f) (hin : x.handler = true) :
    let y := latched x .sys (opndsAt x f m .sys).a
    execSysTret m s = .next (if x.sys.trapstat &&& ~~~trapstatMask ≠ 0 then
        enterTrap (setCtx s c y) c { code := .badStatus, sock := 0x249, slot := f.cur } f.pos
      else if (haltHeld f).isSome then setCtx s c y
      else setCtx s c { y with frame := some { f with todo := [.tret .start] } }) := by
  have hn : (!x.handler) = false := by rw [hin]; rfl
  rw [execSysTret, h.runs]
  simp only [ctxOf_setCtx_same, latched_frame, h.frame, latched_handler, latched_sys, hn, Bool.false_eq_true, if_false, modCtx, modFrame,
    setCtx_setCtx, Option.map_some]

theorem softwareTrapAndReturn_holds : softwareTrapAndReturn := by
  intro m s c x f h o u t
  have hu : ctxOf u c = latched x .sys o.a := ctxOf_setCtx_same s c _
  have htret : exec (.sysTret m) s = execSysTret m s := rfl
  refine ⟨fun heager => ?_, fun hout => ?_, fun hin hbad => ?_, fun hin hgood hhalt => ?_, fun hin hgood hhalt => ?_⟩
  · show execSysTrap m s = _
    rw [execSysTrap, h.run (eagerCheck_ok h.ctx h.frame heager _)]
    simp only [ctxOf_setCtx_same, latched_frame, h.frame]
    rfl
  · rw [htret, execSysTret, h.runs]
    simp only [ctxOf_setCtx_same, latched_frame, h.frame, latched_handler, hout, Bool.not_false, if_true, Bool.and_eq_true,
      Bool.not_eq_true']
    rfl
  all_goals rw [htret, sysTret_inside h hin]
  · rw [if_pos hbad]
  · rw [if_neg (not_not.mpr hgood), if_pos hhalt]
  · rw [if_neg (not_not.mpr hgood), if_neg (by simp [hhalt])]

/-! ## The return -/

/-- A step at a step of TRET. -/
theorem step_tret {s : State} {c : Nat} {x : Ctx} {f : Frame} {ts : List Todo} {t : TretStep} (hc : current s = some (c, x, f))
    (ht : f.todo = .tret t :: ts) : step s = .next (tretStep (setCtx s c { x with frame := some { f with todo := ts } }) c t) := by
  obtain ⟨ha, hx, hf⟩ := current_some hc
  subst hx
  simp only [step, ha, runActive, hf, ht, runTodo, withFrame, modCtx]

/-- The registers, ports, stacks and ticks of a context as the return brings them back: the span state that was set aside with the
visible faces that the handler left (R103, R396). -/
def broughtBack (x : Ctx) (a : Aside) : Ctx :=
  { x with
    regs := a.regs.restoreSpan (fileFlipped x.regs)
    lat := a.lat, infl := a.infl, link := a.link, loops := a.loops, idle := a.idle, lsc := a.tick
    aticks := a.aticks ++ x.aticks.filter fun t => !a.aticks.any fun u => u.id == t.id
    ls := x.ls ++ a.ls, waits := x.waits ++ a.waits
    recvs := (x.recvs.filter fun r => a.infl.any fun e => e.seq == r.1) ++ a.recvs
    aside := none }

/-- The first step of TRET, where the handler's writes have landed without a conflict and no span action is left over. -/
theorem tretStep_start {s : State} {c : Nat} {x : Ctx} {f : Frame} {a : Aside} (hx : ctxOf s c = x) (hf : x.frame = some f)
    (ha : x.aside = some a) (hasync : x.async = []) (hconf : x.regs.conflict = none) (hspan : x.sys.trapstat.getLsbD 30 = false) :
    tretStep s c .start = rearm (setCtx s c { broughtBack x a with
      frame := some { f with code := .none, exit := a.exit, todo := [.tret .spanAction] } }) c a.ls := by
  have hlanded : (x.async.any fun w => w.handler && !w.drop) = false := by simp [hasync]
  simp only [tretStep, hx, hlanded, Bool.false_eq_true, if_false, tretStart, hf, ha, hconf, hspan]
  rfl

/-- The second, where no span action is left over. -/
theorem tretStep_span {s : State} {c : Nat} {x : Ctx} {f : Frame} (hx : ctxOf s c = x) (hf : x.frame = some f) (hcode : f.code = .none) :
    tretStep s c .spanAction = setCtx s c { x with frame := some { f with todo := [.tret .finish] } } := by
  simp only [tretStep, hx, hf, hcode, if_true, modCtx, modFrame, Option.map_some]

/-- The third, where no HALT is held and checkpoint mode is off. -/
theorem tretStep_finish {s : State} {c : Nat} {x : Ctx} {f : Frame} (hx : ctxOf s c = x) (hf : x.frame = some f)
    (hhalt : x.sys.trapstat.getLsbD 26 = false) (hck : x.sys.ckmode = 0) :
    tretStep s c .finish = { setCtx s c { x with
      handler := false, pc := (x.sys.trappc.extractLsb' 0 20).toNat, fetched := false, frame := none
      sys := { x.sys with dwp := f.dwp.getD x.sys.dwp } } with active := none } := by
  have hoff : x.sys.ckmode ≠ 1 := by rw [hck]; decide
  simp only [tretStep, tretFinish, hx, hf, hhalt, hoff, Bool.false_eq_true, if_false, modCtx]

@[simp] theorem ctxOf_rearm (s : State) (c : Nat) (l : List LsOp) (d : Nat) : ctxOf (rearm s c l) d = ctxOf s d := rfl

theorem returnRestores_holds : returnRestores := by
  intro s c x f a hc htodo ha hasync hconf hspan hhalt hck
  obtain ⟨hactive, -, -⟩ := current_some hc
  let back := fun ts => { broughtBack x a with frame := some { f with code := .none, exit := a.exit, todo := ts } }
  let t1 := rearm (setCtx s c (back [.tret .spanAction])) c a.ls
  have h1 : step s = .next t1 := by
    rw [step_tret hc htodo, tretStep_start (x := { x with frame := some { f with todo := [] } }) (ctxOf_setCtx_same _ _ _) rfl ha hasync
      hconf hspan, setCtx_setCtx]
    rfl
  have hx1 : ctxOf t1 c = back [.tret .spanAction] := ctxOf_setCtx_same s c _
  have h2 : step t1 = .next (setCtx t1 c (back [.tret .finish])) := by
    rw [step_tret (current_eq (s := t1) hactive hx1 rfl) rfl, tretStep_span (ctxOf_setCtx_same _ _ _) rfl rfl, setCtx_setCtx]
  have h3 := (step_tret (current_eq (s := setCtx t1 c (back [.tret .finish])) hactive (ctxOf_setCtx_same _ _ _) rfl) rfl).trans
    (congrArg _ (tretStep_finish (ctxOf_setCtx_same _ _ _) rfl hhalt hck))
  refine ⟨_, _, _, h1, h2, h3, rfl, rfl, ?_⟩
  rw [ctxOf_leave]
  exact ⟨rfl, rfl, rfl, rfl, rfl, rfl, rfl, rfl, rfl, rfl, rfl⟩

/-- Settles O7: TRAP and TRET act at their bundle's trigger on the context that the frame's settlement then sees, and the return is three
steps of TRET, one at a time. -/
theorem softwareTraps : Obligations.SoftwareTraps := ⟨softwareTrapAndReturn_holds, returnRestores_holds⟩

end Sys2Proof.Machine
end

section
/-! PROOFS for O8. What a checkpoint records and what a rollback brings back (R94, R96, R97, R100, R239). -/

namespace Sys2Proof.Machine

/-! ## Checkpoints -/

/-- With nothing withheld and nothing waiting to be issued, a release leaves its context as it is (R98). -/
theorem releaseAll_nothing {s : State} {c : Nat} {x : Ctx} (hx : ctxOf s c = x) (hheld : x.held = []) (hgoing : x.going = []) :
    releaseAll s c = setCtx s c x := by
  have hsame : ({ x with going := x.going ++ x.held, held := [] } : Ctx) = x := by
    rw [hheld, List.append_nil, ← hheld]
  have hmod : modCtx s c (fun x => { x with going := x.going ++ x.held, held := [] }) = setCtx s c x := by simp only [modCtx, hx, hsame]
  rw [releaseAll, hmod, pump_none (by rw [ctxOf_setCtx_same, hgoing])]

/-- A checkpoint makes operations earlier ones, and takes none from the array queue (R239). -/
theorem swapsOwed_sealQueue (s : State) (c n : Nat) :
    swapsOwed (coreOf (sealQueue s c) (ctxCore c)) c n = swapsOwed (coreOf s (ctxCore c)) c n := by
  simp only [swapsOwed, sealQueue, modCore_eq, coreOf_setCore_same, List.filter_map, List.length_map]
  congr 2
  funext o
  simp only [Function.comp_apply]
  split <;> rfl

@[simp] theorem ctxOf_sealQueue (s : State) (c d : Nat) : ctxOf (sealQueue s c) d = ctxOf s d := rfl

/-- A checkpoint of a context with nothing withheld: what it captures, and the ASWAPs that it owes. -/
theorem ctxOf_checkpointAt {s : State} {c : Nat} {x : Ctx} (hx : ctxOf s c = x) (hheld : x.held = []) (hgoing : x.going = [])
    (pos tick : Nat) (loops : List LoopEnt) :
    ctxOf (checkpointAt s c pos tick loops) c =
      let y := capture x pos tick x.link loops
      { y with shadow := y.shadow.map fun h => { h with
        swaps := Vector.ofFn fun (n : Fin 4) => (h.swaps[n.val]?.getD 0) + swapsOwed (coreOf s (ctxCore c)) c n.val } } := by
  simp only [checkpointAt, releaseAll_nothing hx hheld hgoing, modCtx, ctxOf_setCtx_same, ctxOf_sealQueue, swapsOwed_sealQueue]
  rfl

theorem checkpointRecords_holds : checkpointRecords := by
  intro s c x f hc hheld hgoing
  obtain ⟨-, hx, hf⟩ := current_some hc
  have hck : checkpoint s c = modCtx (checkpointAt s c (goesOn x f).2 (x.lsc + 1 + (hdrIdle f.header).toNat) (goesOn x f).1) c
      fun y => modFrame y fun f => { f with ck := true } := by
    simp only [checkpoint, hx, hf]
  have hat := ctxOf_checkpointAt hx hheld hgoing (goesOn x f).2 (x.lsc + 1 + (hdrIdle f.header).toNat) (goesOn x f).1
  dsimp only
  rw [hck, modCtx, ctxOf_setCtx_same, hat]
  refine ⟨rfl, rfl, rfl, rfl, rfl, rfl, ?_, ?_, ?_⟩ <;> rw [checkpointAt, releaseAll_nothing hx hheld hgoing] <;> rfl

/-! ## Rollbacks -/

theorem rollbackRestores_holds : rollbackRestores := by
  intro s c h hshadow
  have hdwp : ((ctxOf s c).frame.bind (·.dwp)).getD (ctxOf s c).sys.dwp =
      match (ctxOf s c).frame with | some f => f.dwp.getD (ctxOf s c).sys.dwp | none => (ctxOf s c).sys.dwp := by
    cases (ctxOf s c).frame <;> rfl
  unfold rollback
  dsimp only
  rw [hshadow, ctxOf_leave, hdwp]
  exact ⟨rfl, rfl, rfl, rfl, rfl, rfl, rfl, rfl, rfl, rfl, rfl, rfl, rfl, rfl, rfl⟩

/-- Settles O8: a checkpoint with nothing to release captures the context as it stands, and a rollback writes back what was captured. -/
theorem checkpointAndRollback : Obligations.CheckpointAndRollback := ⟨checkpointRecords_holds, rollbackRestores_holds⟩

end Sys2Proof.Machine
end

section
/-! PROOFS for O5. System registers and FENCE (R105, R106, R109, R110, R134, R135, R245, R429). -/

namespace Sys2Proof.Machine

/-! ## Reading -/

theorem sysRegCheck_listed {s : State} {c : Nat} {o : Opnds} (h : o.a64.toNat ≤ 0xE) : sysRegCheck s c o = none :=
  if_neg (by omega)

theorem sysRegCheck_unlisted {s : State} {c : Nat} {o : Opnds} (h : 0xE < o.a64.toNat) : sysRegCheck s c o = some .illegalSocket :=
  if_pos (by omega)

/-- The calendar of a die and a context change apart from each other. -/
theorem dieNow_setCtx (s : State) (c d : Nat) (x : Ctx) : dieNow (setCtx s c x) d = setCtx (dieNow s d) c x := rfl

theorem readSystemRegister_holds : readSystemRegister := by
  intro m s c x f h
  have hctx : ∀ u a n, readSys (setCtx s c (latched x u a)) c n = readSys s c n := by
    have hr := readSys_latched s c; rw [h.ctx] at hr; exact hr
  have hnow : ∀ u a n, readSys (setCtx (dieNow s (ctxDie c)) c (latched x u a)) c n = readSys (dieNow s (ctxDie c)) c n := by
    have hr := readSys_latched (dieNow s (ctxDie c)) c
    have hc : ctxOf (dieNow s (ctxDie c)) c = x := h.ctx
    rw [hc] at hr; exact hr
  refine ⟨fun hn hne => ?_, fun hn => ?_, fun hn => ?_⟩
  · have h12 : (opndsAt x f m .sys).a64 ≠ 0xC := fun e => hne (congrArg BitVec.toNat e)
    show execSysRdsr m s = _
    rw [execSysRdsr, h.run (sysRegCheck_listed hn)]
    simp only [if_neg h12, hctx, modCtx_eq, ctxOf_setCtx_same, setCtx_setCtx, addResult_latched, full64]
  · have h12 : (opndsAt x f m .sys).a64 = 0xC := BitVec.eq_of_toNat_eq hn
    show execSysRdsr m s = _
    rw [execSysRdsr, h.run (sysRegCheck_listed (hn.trans_le (by decide)))]
    simp only [if_pos h12, dieNow_setCtx, hnow, modCtx_eq, ctxOf_setCtx_same, setCtx_setCtx, addResult_latched, full64]
  · show execSysRdsr m s = _
    rw [execSysRdsr, h.trap (sysRegCheck_unlisted hn)]
    rfl

/-! ## Values -/

/-- TCKPT field by field (R109). -/
theorem tckpt_value (s : State) (c : Nat) :
    let x := ctxOf s c
    let y := x.sys
    let banks := x.banks.toList
    let wsel := ((List.range 4).map fun n => if ((coreOf s (ctxCore c)).accs[n]?.getD {}).work1 then 2 ^ (16 + n) else 0).sum
    let accst := ((List.range 8).map fun i => 4 ^ i * (banks.getD i .clean).code).sum
    let base := y.rolls * 2 ^ 32 + y.impl * 2 ^ 24 + wsel
    tckpt s c = BitVec.ofNat 64 (if y.ckmode = 1 then y.rpc * 2 ^ 44 + (if BankState.lost ∈ banks then 2 ^ 43 else 0) + base + accst
      else base) := by
  intro x y banks wsel accst base
  have hlost : bit (x.banks.toList.any (· == .lost)) 43 = if BankState.lost ∈ banks then 2 ^ 43 else 0 := by
    have hany : banks.any (· == .lost) = decide (BankState.lost ∈ banks) := by
      rw [Bool.eq_iff_iff, List.any_eq_true, decide_eq_true_iff]
      simp only [beq_iff_eq, exists_eq_right]
    simp only [bit, banks] at hany ⊢
    rw [hany]
    simp only [decide_eq_true_eq]
  have hacc : ((List.range 8).map fun i => (x.banks[i]?.getD .clean).code * 4 ^ i).sum = accst := by
    refine congrArg List.sum (List.map_congr_left fun i _ => ?_)
    have hi : banks.getD i .clean = x.banks[i]?.getD .clean := by simp [banks, List.getD]
    rw [hi, Nat.mul_comm]
  simp only [tckpt]
  rw [hlost, hacc]
  rfl

theorem bit_le (b : Bool) (n : Nat) : bit b n ≤ 2 ^ n := by cases b <;> simp [bit]

/-- Five bits, each at its place, are a number of five bits. -/
theorem sum_bits_lt (g : Nat → Bool) : ((List.range 5).map fun i => bit (g i) i).sum < 32 := by
  have hsum : ((List.range 5).map fun i => bit (g i) i).sum =
      bit (g 0) 0 + (bit (g 1) 1 + (bit (g 2) 2 + (bit (g 3) 3 + (bit (g 4) 4 + 0)))) := rfl
  have h0 := bit_le (g 0) 0
  have h1 := bit_le (g 1) 1
  have h2 := bit_le (g 2) 2
  have h3 := bit_le (g 3) 3
  have h4 := bit_le (g 4) 4
  omega

theorem capCurrent_lt (s : State) (p : Nat) : capCurrent s p < 32 := sum_bits_lt _

/-- The three fields of CAPCAUSE. -/
theorem capcause_fields (level sticky current : Nat) (hs : sticky < 32) (hc : current < 32) :
    let v := BitVec.ofNat 64 (level * 2 ^ 16 + sticky * 2 ^ 8 + current)
    v.extractLsb' 16 4 = BitVec.ofNat 4 level ∧ v.extractLsb' 8 5 = BitVec.ofNat 5 sticky ∧ v.extractLsb' 0 5 = BitVec.ofNat 5 current := by
  refine ⟨?_, ?_, ?_⟩ <;> apply BitVec.eq_of_toNat_eq <;>
    rw [BitVec.extractLsb'_toNat, BitVec.toNat_ofNat, BitVec.toNat_ofNat, Nat.shiftRight_eq_div_pow] <;> omega

theorem systemRegisterValues_holds : systemRegisterValues := by
  intro s c
  refine ⟨rfl, rfl, rfl, rfl, rfl, rfl, rfl, rfl, rfl, rfl, ⟨fun hoff => ?_, fun hon => ?_⟩, ?_, fun k hk hres => ?_, ?_, ?_⟩
  · exact (tckpt_value s c).trans (by rw [if_neg hoff])
  · exact (tckpt_value s c).trans (by rw [if_pos hon]; rfl)
  · show wscal s (ctxDie c) = _
    have hslot : ∀ d t : Nat, (16 * d + t / 512) % 64 = (t % 32768 / 512 + 16 * d) % 64 := by omega
    simp only [wscal, hslot]
  · show codeuse s c = _
    simp only [codeuse, hk, hres]
  · obtain ⟨h1, h2, h3⟩ := capcause_fields s.power.level (Tab.get {} s.parts (ctxPart s c) : Partition).sticky.toNat
      (capCurrent s (ctxPart s c)) (BitVec.isLt _) (capCurrent_lt _ _)
    exact ⟨h1, h2.trans (by simp), h3⟩
  · show spst (ctxOf s c) = _
    have hstore : isStore = fun w => match w with | .store _ => true | _ => false := rfl
    have hcmd : (fun w => !isStore w) = fun w => match w with | .store _ => false | _ => true := by
      funext w
      cases w <;> rfl
    have hbound : spanBound (ctxOf s c) = (((ctxOf s c).async.filter fun a => !a.drop).filter fun a => a.sb).length := by
      rw [List.filter_filter]; rfl
    have hfree : freeOut (ctxOf s c) = (((ctxOf s c).async.filter fun a => !a.drop).filter fun a => !a.sb).length := by
      rw [List.filter_filter]; rfl
    rw [spst, hbound, hfree, heldStores, heldCmds, hcmd]
    rfl

/-! ## Writing -/

/-- A write of a register that is listed, not read-only and keeps its reserved bits passes (R134). -/
theorem wrsrCheck_none {s : State} {c : Nat} {o : Opnds} (hn : o.a64.toNat ≤ 0xE) (hro : sysReadOnly o.a64.toNat = false)
    (hres : sysReserved o.a64.toNat o.b64 = false) : wrsrCheck s c o = none := by
  simp [wrsrCheck, firstOf, sysRegCheck_listed hn, hro, hres]

theorem wrsrCheck_unlisted {s : State} {c : Nat} {o : Opnds} (hn : 0xE < o.a64.toNat) : wrsrCheck s c o = some .illegalSocket := by
  simp [wrsrCheck, firstOf, sysRegCheck_unlisted hn]

theorem wrsrCheck_readOnly {s : State} {c : Nat} {o : Opnds} (hn : o.a64.toNat ≤ 0xE) (hro : sysReadOnly o.a64.toNat = true) :
    wrsrCheck s c o = some .privilege := by
  simp [wrsrCheck, firstOf, sysRegCheck_listed hn, hro]

theorem wrsrCheck_reserved {s : State} {c : Nat} {o : Opnds} (hn : o.a64.toNat ≤ 0xE) (hro : sysReadOnly o.a64.toNat = false)
    (hres : sysReserved o.a64.toNat o.b64 = true) : wrsrCheck s c o = some .bounds := by
  simp [wrsrCheck, firstOf, sysRegCheck_listed hn, hro, hres]

/-- The context after a WRSR that passes its checks. -/
def wrsrCtx (s : State) (c : Nat) (o : Opnds) (x : Ctx) : Ctx :=
  match o.a64.toNat with
  | 0x1 => { x with sys := { x.sys with flg := o.b64 } }
  | 0x2 => modFrame x fun f => { f with dwp := some o.b64 }
  | 0x3 => if x.sys.ckmode = o.b64 then x else atEnd x (if o.b64 = 1 then .ckmodeEnable else .ckmodeDisable) c
  | 0x6 => modFrame x fun f =>
      { f with todo := .event { what := .capcauseW1c, args := { a := ctxPart s c, b := o.b64.toNat } } :: f.todo }
  | 0x7 => { x with sys := { x.sys with trapstat := o.b64 } }
  | _ => { x with sys := { x.sys with trappc := o.b64 } }

/-- WRSR that passes its checks changes its context. -/
theorem exec_wrsr {s : State} {m : Mv} {c : Nat} {x : Ctx} {f : Frame} (h : Acts s m c x f)
    (hk : wrsrCheck s c (opndsAt x f m .sys) = none) :
    exec (.sysWrsr m) s = .next (setCtx s c (wrsrCtx s c (opndsAt x f m .sys) (latched x .sys (opndsAt x f m .sys).a))) := by
  have hpart : ctxPart (setCtx s c (latched x .sys (opndsAt x f m .sys).a)) c = ctxPart s c := by
    simp only [ctxPart, ctxRegion_set s c (latched x .sys (opndsAt x f m .sys).a) (by rw [h.ctx]; rfl)]; rfl
  show execSysWrsr m s = _
  rw [execSysWrsr, h.run hk]
  simp only [hpart, modCtx_eq, ctxOf_setCtx_same, setCtx_setCtx]
  rfl

theorem exec_wrsr_traps {s : State} {m : Mv} {c : Nat} {x : Ctx} {f : Frame} (h : Acts s m c x f) {t : Trap}
    (hk : wrsrCheck s c (opndsAt x f m .sys) = some t) :
    exec (.sysWrsr m) s = .next (preciseTrap s c { code := t, sock := 0x24B, slot := f.cur }) := by
  show execSysWrsr m s = _
  rw [execSysWrsr, h.trap hk]
  rfl

theorem writeSystemRegister_holds : writeSystemRegister := by
  intro m s c x f h
  have hframe : ∀ a, (latched x .sys a).frame = some f := fun a => h.frame
  have acts : ∀ n : Nat, (opndsAt x f m .sys).a64.toNat = n → n ≤ 0xE → sysReadOnly n = false → sysReserved n (opndsAt x f m .sys).b64 = false →
      exec (.sysWrsr m) s = .next (setCtx s c (wrsrCtx s c (opndsAt x f m .sys) (latched x .sys (opndsAt x f m .sys).a))) := by
    rintro n rfl hn hro hres
    exact exec_wrsr h (wrsrCheck_none hn hro hres)
  dsimp only
  refine ⟨fun hn hb => ?_, fun hn hb => ?_, fun hn hb he => ?_, fun hn hb he => ?_, fun hn hb => ?_, fun hn hb hc => ?_, fun hn hb => ?_,
    fun hn => ?_, fun hn => ?_, fun hbad => ?_⟩
  · rw [acts 1 hn (by decide) rfl (by rw [sysReserved, flgMask, hb]; rfl)]
    simp only [wrsrCtx, hn]; rfl
  · rw [acts 2 hn (by decide) rfl (by simpa [sysReserved] using hb)]
    simp only [wrsrCtx, hn, modFrame, hframe, Option.map_some]
  · rw [acts 3 hn (by decide) rfl (by simpa [sysReserved] using hb)]
    have hsame : (latched x .sys (opndsAt x f m .sys).a).sys.ckmode = (opndsAt x f m .sys).b64 := he
    simp only [wrsrCtx, hn, if_pos hsame]
  · rw [acts 3 hn (by decide) rfl (by simpa [sysReserved] using hb)]
    simp only [wrsrCtx, hn, latched_sys, if_neg he, atEnd, addTodo, modFrame, hframe, Option.map_some]
  · rw [acts 6 hn (by decide) rfl (by simpa [sysReserved] using hb)]
    simp only [wrsrCtx, hn, modFrame, hframe, Option.map_some]
  · rw [acts 7 hn (by decide) rfl (by
      rw [sysReserved, hb, decide_eq_false (by omega)]; rfl)]
    simp only [wrsrCtx, hn]; rfl
  · rw [acts 8 hn (by decide) rfl (by simp [sysReserved, high_zero 20 44 hb])]
    simp only [wrsrCtx, hn]; rfl
  · exact exec_wrsr_traps h (wrsrCheck_unlisted hn)
  · exact exec_wrsr_traps h (wrsrCheck_readOnly (by omega) (by simp [sysReadOnly]; omega))
  · refine exec_wrsr_traps h (wrsrCheck_reserved (by omega) (by simp [sysReadOnly]; omega) ?_)
    obtain ⟨hn, hb⟩ | ⟨hn, hb⟩ | ⟨hn, hb⟩ | ⟨hn, hb⟩ | ⟨hn, hb⟩ | ⟨hn, hb⟩ := hbad <;> rw [hn]
    · simpa [sysReserved, flgMask] using hb
    · simpa [sysReserved] using hb
    · simpa [sysReserved] using hb
    · simpa [sysReserved] using hb
    · simpa [sysReserved] using hb
    · simpa [sysReserved] using high_ne 20 44 rfl hb

/-! ## The switch of checkpoint mode and FENCE -/

theorem checkpointModeSwitches_holds : checkpointModeSwitches := by
  intro s c x f hx hf ha
  have enable : exec .ckmodeEnable s = if x.sys.ckmode = 1 then .next s else
      let t := setCtx s c { x with sys := { x.sys with ckmode := 1 } }
      .next (if (!x.handler) = true then checkpoint t c else t) := by
    show execCkmodeEnable s = _
    simp only [execCkmodeEnable, ha, hx, hf, modCtx_eq, ctxOf_setCtx_same]
    rfl
  dsimp only
  refine ⟨fun hon => ?_, fun hoff hin => ?_, fun hoff hout => ?_, ?_⟩
  · rw [enable, if_pos hon]
  · rw [enable, if_neg hoff, hin]; rfl
  · rw [enable, if_neg hoff, hout]; rfl
  · show execCkmodeDisable s = _
    simp only [execCkmodeDisable, ha, hx, hf, modCtx_eq]

theorem fenceWaits_holds : fenceWaits := by
  intro m s c x f h
  have acts : (opndsAt x f m .sys).a64.extractLsb' 2 62 = 0 → exec (.sysFence m) s =
      .next (setCtx s c { latched x .sys (opndsAt x f m .sys).a with
        waits := x.waits ++ (if (opndsAt x f m .sys).a64.getLsbD 0 then [.storesTo x.seq] else []) ++
          (if (opndsAt x f m .sys).a64.getLsbD 1 then [.asyncTo s.count] else []) }) := by
    intro h0
    show execSysFence m s = _
    rw [execSysFence, h.run (if_neg (not_not.mpr h0))]
    simp only [modCtx_eq, ctxOf_setCtx_same, setCtx_setCtx]
    rfl
  dsimp only
  refine ⟨fun h0 => ?_, fun h1 => ?_, fun h2 => ?_, fun h3 => ?_, fun hbad => ?_⟩
  · rw [acts (by rw [h0]; rfl), h0]; simp
  · rw [acts (by rw [h1]; rfl), h1]; simp
  · rw [acts (by rw [h2]; rfl), h2]; simp
  · rw [acts (by rw [h3]; rfl), h3]; simp
  · show execSysFence m s = _
    rw [execSysFence, h.trap (if_pos (high_ne 2 62 rfl hbad))]
    rfl

/-- Settles O5: each register by its number, each check of WRSR in its order, and a FENCE by its two bits. -/
theorem systemRegisters : Obligations.SystemRegisters :=
  ⟨readSystemRegister_holds, systemRegisterValues_holds, writeSystemRegister_holds, checkpointModeSwitches_holds, fenceWaits_holds⟩

end Sys2Proof.Machine
end

section
/-! PROOFS for O12. How every scratchpad operation starts, and where it traps (R197 to R214, R360). -/

namespace Sys2Proof.Machine

/-! ## What a trigger sees of its context does not depend on the latches -/

theorem detOf_congr {s t : State} (h : t.regions = s.regions) (r : Nat) : detOf t r = detOf s r := by
  simp only [detOf, fieldRegion_congr h, rcbWord_congr h]

theorem inRound_latched {s : State} {c : Nat} {x : Ctx} (hx : ctxOf s c = x) (u : FU) (a : Val) :
    inRound (setCtx s c (latched x u a)) c = inRound s c := by
  have hregion : ctxRegion (setCtx s c (latched x u a)) c = ctxRegion s c := ctxRegion_set s c _ (by rw [hx]; rfl)
  simp only [inRound, hregion, ctxOf_setCtx_same, hx, detOf_congr (setCtx_regions s c (latched x u a))]
  rfl

theorem viewBytes_latched {s : State} {c : Nat} {x : Ctx} (hx : ctxOf s c = x) (u : FU) (a : Val) (b p n : Nat) :
    viewBytes (setCtx s c (latched x u a)) c b p n = viewBytes s c b p n := by
  have hbase : roundBase (setCtx s c (latched x u a)) c = roundBase s c := by
    simp only [roundBase, inRound_latched hx, ctxOf_setCtx_same, hx]
    rfl
  have hbyte : ∀ q, spadByte (setCtx s c (latched x u a)) c q = spadByte s c q := by
    intro q
    simp only [spadByte, roundCtx, inRound_latched hx]
    cases inRound s c
    · rfl
    · simp only [if_true, coreByte, ctxOf_setCtx_same, hbase, hx]; rfl
  refine List.map_congr_left fun q _ => ?_
  simp only [viewByte, hbyte, ctxOf_setCtx_same, hx]
  rfl

theorem spadBad_latched {s : State} {c : Nat} {x : Ctx} (hx : ctxOf s c = x) (u : FU) (a : Val) (p n : Nat) :
    spadBad (setCtx s c (latched x u a)) c p n = spadBad s c p n := by
  simp only [spadBad, roundCtx, inRound_latched hx]
  congr 1
  funext w
  cases inRound s c
  · rfl
  · simp only [if_true, wordBad, ctxOf_setCtx_same, hx]; rfl

/-! ## Eager triggers (R99, R360) -/

theorem roundDenied_ok {s : State} {c : Nat} {o : Opnds} (h : inRound s c = false) : roundDenied s c o = none := by
  simp only [roundDenied, h, Bool.false_eq_true, if_false]

theorem roundDenied_denied {s : State} {c : Nat} {o : Opnds} (h : inRound s c = true) : roundDenied s c o = some .privilege := by
  simp only [roundDenied, h, if_true]

/-- Where an eager trigger may stand, its own checks decide. -/
theorem eager_ok {s : State} {m : Mv} {c : Nat} {x : Ctx} {f : Frame} (h : Acts s m c x f) (he : EagerOk s c x f) (chk : Check) (o : Opnds) :
    firstOf [eagerCheck, roundDenied, chk] s c o = chk s c o := by
  obtain ⟨hplace, hround⟩ := he
  simp only [firstOf, List.findSome?, eagerCheck_ok h.ctx h.frame hplace, roundDenied_ok hround]
  cases chk s c o <;> rfl

theorem eager_misplaced {s : State} {m : Mv} {c : Nat} {x : Ctx} {f : Frame} (h : Acts s m c x f) (hon : ckOn x = true)
    (hlt : (hdrSpan f.header).toNat < 3) (chk : Check) (o : Opnds) :
    firstOf [eagerCheck, roundDenied, chk] s c o = some .eagerPlacement := by
  simp only [firstOf, List.findSome?, eagerCheck_misplaced h.ctx h.frame hon hlt]

theorem eager_denied {s : State} {m : Mv} {c : Nat} {x : Ctx} {f : Frame} (h : Acts s m c x f)
    (hplace : ckOn x = true → 3 ≤ (hdrSpan f.header).toNat) (hround : inRound s c = true) (chk : Check) (o : Opnds) :
    firstOf [eagerCheck, roundDenied, chk] s c o = some .privilege := by
  simp only [firstOf, List.findSome?, eagerCheck_ok h.ctx h.frame hplace, roundDenied_denied hround]

/-! ## Loads, stores and full/empty operations -/

/-- An operation that starts in a latched context (R95, R118, R198). -/
theorem startLs_latched (s : State) (c : Nat) (x : Ctx) (u : BitVec 1) (a : Val) (kind : LsKind) (addr la lb : Nat) (r w e : Bool) :
    startLs (setCtx s c (latched x (lsUnit u) a)) c u kind addr la lb r w e =
      { setCtx s c (lsStarted x u a s.count kind addr (if x.sys.ltb then lb else la) r w e) with count := s.count + 1 } := by
  have hmod : ∀ (g : Ctx → Ctx) y, modCtx { setCtx s c y with count := s.count + 1 } c g = { setCtx s c (g y) with count := s.count + 1 } := by
    intro g y
    have hsame : ctxOf { setCtx s c y with count := s.count + 1 } c = y := ctxOf_setCtx_same s c y
    rw [modCtx, hsame]
    exact congrArg (fun t : State => { t with count := s.count + 1 }) (setCtx_setCtx s c y (g y))
  unfold startLs
  simp only [fresh, setCtx_count]
  rw [hmod]
  rfl

/-- The checks of a row of R202, R203 or R206. -/
def lsRowCheck (p : LsRow) : Check :=
  if p.eager then firstOf [eagerCheck, roundDenied, lsAccess p.bytes p.align] else lsAccess p.bytes p.align

/-- What a row's trigger does where it acts. -/
def lsRowAct (p : LsRow) (u : BitVec 1) (s : State) (c : Nat) (o : Opnds) : State :=
  startLs s c u (p.kind o.b) o.a64.toNat p.la p.lb p.value p.withheld

/-- Every row is an `ls` trigger with its row's checks and effect. -/
theorem exec_lsRow : ∀ p ∈ lsRows, p.bytes ≠ 0 ∧ ∃ off, ∀ m u s, exec (p.op m u) s = lsTrigger s m u off (lsRowCheck p) (lsRowAct p u) := by
  simp only [lsRows, List.forall_mem_cons]
  exact ⟨⟨by decide, 0x08, fun _ _ _ => rfl⟩, ⟨by decide, 0x09, fun _ _ _ => rfl⟩, ⟨by decide, 0x0A, fun _ _ _ => rfl⟩,
    ⟨by decide, 0x0B, fun _ _ _ => rfl⟩, ⟨by decide, 0x0C, fun _ _ _ => rfl⟩, ⟨by decide, 0x0D, fun _ _ _ => rfl⟩,
    ⟨by decide, 0x0E, fun _ _ _ => rfl⟩, ⟨by decide, 0x0F, fun _ _ _ => rfl⟩, ⟨by decide, 0x10, fun _ _ _ => rfl⟩,
    ⟨by decide, 0x11, fun _ _ _ => rfl⟩, ⟨by decide, 0x12, fun _ _ _ => rfl⟩, ⟨by decide, 0x13, fun _ _ _ => rfl⟩,
    ⟨by decide, 0x14, fun _ _ _ => rfl⟩, ⟨by decide, 0x15, fun _ _ _ => rfl⟩, ⟨by decide, 0x16, fun _ _ _ => rfl⟩,
    ⟨by decide, 0x17, fun _ _ _ => rfl⟩, ⟨by decide, 0x18, fun _ _ _ => rfl⟩, ⟨by decide, 0x1A, fun _ _ _ => rfl⟩, List.forall_mem_nil _⟩

/-- Where an eager row may stand, its range and alignment decide. -/
theorem lsRow_check_eq (p : LsRow) {s : State} {m : Mv} {c : Nat} {x : Ctx} {f : Frame} (h : Acts s m c x f)
    (he : p.eager = true → EagerOk s c x f) (o : Opnds) : lsRowCheck p s c o = lsAccess p.bytes p.align s c o := by
  unfold lsRowCheck
  split
  · next heager => exact eager_ok h (he heager) _ o
  · rfl

theorem scratchpadOps_holds : scratchpadOps := by
  intro p hp m u s c x f h
  obtain ⟨hbytes, off, hexec⟩ := exec_lsRow p hp
  have traps : ∀ t, lsRowCheck p s c (opndsAt x f m (lsUnit u)) = some t →
      ∃ k, exec (p.op m u) s = .next (preciseTrap s c { code := t, sock := k, slot := f.cur }) :=
    fun t ht => ⟨_, (hexec m u s).trans (lsTrigger_traps h ht)⟩
  refine ⟨fun heager => ⟨fun hon hlt => traps _ ?_, fun hplace hround => traps _ ?_⟩, fun he => ⟨fun h1 h2 h3 => ?_, fun hrange => traps _ ?_,
    fun h1 h2 h3 => traps _ ?_⟩⟩
  · rw [lsRowCheck, if_pos heager, eager_misplaced h hon hlt]
  · rw [lsRowCheck, if_pos heager, eager_denied h hplace hround]
  · have hact := lsTrigger_acts h (off := off) (act := lsRowAct p u) ((lsRow_check_eq p h he _).trans (lsAccess_ok h1 h2 h3)) rfl
    rw [hexec, hact, lsRowAct, startLs_latched]
  · exact (lsRow_check_eq p h he _).trans (lsAccess_range (hrange.imp_right fun hr => ⟨hbytes, hr⟩))
  · exact (lsRow_check_eq p h he _).trans (lsAccess_misaligned h1 h2 h3)

/-! ## FECLR, PATSET, LDPAT and RROT -/

/-- The number in a field of an operand. -/
theorem field_eq (a : D64) (i n : Nat) : (a.extractLsb' i n).toNat = a.toNat / 2 ^ i % 2 ^ n := by
  rw [BitVec.extractLsb'_toNat, Nat.shiftRight_eq_div_pow]

/-- FECLR's count of whole words passes to range and alignment (R205). -/
theorem feclrCheck_counts {s : State} {c : Nat} {o : Opnds} (h1 : o.b64.toNat % 4 = 0) (h2 : o.b64.toNat ≤ 2 ^ 20) :
    feclrCheck s c o = lsAccess o.b64.toNat 4 s c o := if_neg (by omega)

/-- The range and alignment of an access that may name no byte. -/
theorem lsAccess_inside {s : State} {c n al : Nat} {o : Opnds} (h1 : o.a64.toNat < 2 ^ 20) (h2 : n = 0 ∨ o.a64.toNat + n ≤ areaOf s c) :
    lsAccess n al s c o = if o.a64.toNat % al ≠ 0 then some .misaligned else none := if_neg (by omega)

/-- PATSET with nothing of its own bundle in the queue before it: no load takes its banks (R319). -/
theorem ownLoads_none {s : State} {c : Nat} (h : ∀ p ∈ (ctxOf s c).ls, p.bundle ≠ (ctxOf s c).bundle) : ownLoads s c = s := by
  have hnone : (ctxOf s c).ls.filter (fun o => o.bundle == (ctxOf s c).bundle && o.kind.reads) = [] := by
    rw [List.filter_eq_nil_iff]
    intro p hp
    simp [h p hp]
  simp only [ownLoads, hnone, List.foldl_nil]

theorem extractorAndRingOps_holds : extractorAndRingOps := by
  intro m u s c x f h
  have low : ∀ b : D64, (b.extractLsb' 0 3).toNat = b.toNat % 8 := fun b => by rw [field_eq]; simp
  have patset : patsetCheck s c (opndsAt x f m (lsUnit u)) = none → exec (.lsPatset m u) s = .next (
      let o := opndsAt x f m (lsUnit u)
      let t := ownLoads (setCtx s c (latched x (lsUnit u) o.a)) c
      modCtx (fillSlot t c (ctxOf t c).bundle o.a64.toNat (o.b64.toNat % 8)) c fun y =>
        fillResult (addResult y (lsUnit u) (latency y 4 6) none (some 0)) y.seq fun e =>
          { e with arrived := true, late := if spadBad t c o.a64.toNat 80 then some { code := .softError } else none }) := by
    intro hk
    show execLsPatset m u s = _
    refine lsTrigger_acts h hk ?_
    simp only [low]
  refine ⟨fun h1 h2 h3 h4 h5 => ?_, fun hk hls => ?_, patset, fun hk p hp => ?_, fun he h1 h2 h3 h4 h5 h6 h7 h8 h9 h10 => ?_⟩
  · show execLsFeclr m u s = _
    refine lsTrigger_acts h (((feclrCheck_counts h1 h2).trans (lsAccess_inside h3 h4)).trans (if_neg (not_not.mpr h5))) ?_
    rw [startLs_latched]
  · have hown : ownLoads (setCtx s c (latched x (lsUnit u) (opndsAt x f m (lsUnit u)).a)) c =
        setCtx s c (latched x (lsUnit u) (opndsAt x f m (lsUnit u)).a) :=
      ownLoads_none (by rw [ctxOf_setCtx_same]; exact hls)
    rw [patset hk]
    simp only [hown, fillSlot, modCtx, ctxOf_setCtx_same, setCtx_setCtx, viewBytes_latched h.ctx, spadBad_latched h.ctx]
    rfl
  · show execLsLdpat m u s = _
    refine lsTrigger_acts h hk ?_
    have hslot : frameSlot (setCtx s c (latched x (lsUnit u) (opndsAt x f m (lsUnit u)).a)) c
        ((opndsAt x f m (lsUnit u)).b64.extractLsb' 0 3).toNat = some p := by
      simp only [frameSlot, ctxOf_setCtx_same, latched_frame, h.frame, low, hp, Option.getD_some]
    rw [hslot]
    dsimp only
    rw [startLs_latched, laneWidth, field_eq]
    rfl
  · show execLsRrot m u s = _
    refine lsTrigger_acts h ((eager_ok h he _ _).trans ?_) ?_
    · simp only [rrotCheck]
      rw [if_neg (by omega), if_neg (by omega), if_neg (by omega), if_neg (by omega)]
    · rw [startLs_latched, ctxOf_setCtx_same]
      rfl

/-! ## Where FECLR, PATSET, LDPAT and RROT trap -/

/-- Behind PATSET's slot number, its range and its descriptor decide (R210). -/
def descriptorCheck (s : State) (c : Nat) (o : Opnds) : Option Trap :=
  match lsAccess 80 16 s c o with
  | some t => some t
  | none =>
    let (p, zeros) := parsePattern (viewBytes s c (ctxOf s c).bundle o.a64.toNat 80)
    if p.fields.any (fun f => decide (f.off + f.width + 1 > p.per + 1)) || fieldsOverlap p.fields || !zeros then some .bounds
    else none

theorem patsetCheck_slot {s : State} {c : Nat} {o : Opnds} (h : o.b64.toNat < 8) : patsetCheck s c o = descriptorCheck s c o := by
  have h0 : o.b64.extractLsb' 3 61 = 0 := high_zero 3 61 h
  exact if_neg (not_not.mpr h0)

/-- LDPAT's operand: its high bits, bit 3 and the lane code 3 are reserved (R211). -/
theorem ldpatCheck_reserved {s : State} {c : Nat} {o : Opnds}
    (h : 64 ≤ o.b64.toNat ∨ o.b64.toNat / 8 % 2 = 1 ∨ o.b64.toNat / 16 % 4 = 3) : ldpatCheck s c o = some .bounds := by
  refine if_pos ?_
  obtain h | h | h := h
  · exact .inl (high_ne 6 58 rfl h)
  · exact .inr (.inl (by rw [BitVec.getLsbD, Nat.testBit_eq_decide_div_mod_eq]; simpa using h))
  · exact .inr (.inr (BitVec.eq_of_toNat_eq (by rw [field_eq]; exact h)))

/-- Behind them the slot, the fields, the stream and the range decide (R211). -/
def streamCheck (s : State) (c : Nat) (o : Opnds) (slot : Option Pattern) (lw : Nat) : Option Trap :=
  match slot with
  | none => some .bounds
  | some p =>
    if p.fields.any (fun f => decide (f.width + 1 > lw)) then some .bounds
    else if patBits p lw > 8192 then some .bounds
    else lsAccess ((patBits p lw + 7) / 8) 1 s c o

theorem ldpatCheck_slot {s : State} {c : Nat} {x : Ctx} {f : Frame} (hx : ctxOf s c = x) (hf : x.frame = some f) {o : Opnds}
    (h1 : o.b64.toNat < 64) (h2 : o.b64.toNat / 8 % 2 = 0) (h3 : o.b64.toNat / 16 % 4 ≠ 3) :
    ldpatCheck s c o = streamCheck s c o ((f.pats[o.b64.toNat % 8]?).getD none) (8 * 2 ^ (o.b64.toNat / 16 % 4)) := by
  have hlane : laneWidth o.b64 = 8 * 2 ^ (o.b64.toNat / 16 % 4) := by
    rw [laneWidth, field_eq]; rfl
  have hslot : frameSlot s c (o.b64.extractLsb' 0 3).toNat = (f.pats[o.b64.toNat % 8]?).getD none := by
    simp only [frameSlot, hx, hf, field_eq]
    simp
  have hgood : ¬(o.b64.extractLsb' 6 58 ≠ 0 ∨ o.b64.getLsbD 3 = true ∨ o.b64.extractLsb' 4 2 = 3) := by
    rintro (h | h | h)
    · exact h (high_zero 6 58 h1)
    · rw [BitVec.getLsbD, Nat.testBit_eq_decide_div_mod_eq, decide_eq_true_iff] at h
      omega
    · have h4 := congrArg BitVec.toNat h
      rw [field_eq] at h4
      exact h3 h4
  rw [← hslot, ← hlane]
  exact if_neg hgood

theorem extractorAndRingTraps_holds : extractorAndRingTraps := by
  intro m u s c x f h
  have feclr : ∀ {t}, feclrCheck s c (opndsAt x f m (lsUnit u)) = some t → ∃ k, execLsFeclr m u s = .next (preciseTrap s c { code := t, sock := k, slot := f.cur }) :=
    fun ht => ⟨_, lsTrigger_traps h ht⟩
  have patset : ∀ {t}, patsetCheck s c (opndsAt x f m (lsUnit u)) = some t → ∃ k, execLsPatset m u s = .next (preciseTrap s c { code := t, sock := k, slot := f.cur }) :=
    fun ht => ⟨_, lsTrigger_traps h ht⟩
  have ldpat : ∀ {t}, ldpatCheck s c (opndsAt x f m (lsUnit u)) = some t → ∃ k, execLsLdpat m u s = .next (preciseTrap s c { code := t, sock := k, slot := f.cur }) :=
    fun ht => ⟨_, lsTrigger_traps h ht⟩
  have rrot : ∀ {t}, firstOf [eagerCheck, roundDenied, rrotCheck] s c (opndsAt x f m (lsUnit u)) = some t → ∃ k, execLsRrot m u s = .next (preciseTrap s c { code := t, sock := k, slot := f.cur }) :=
    fun ht => ⟨_, lsTrigger_traps h ht⟩
  refine ⟨fun h1 => feclr ?_, fun h1 h2 h3 => feclr ?_, fun h1 h2 h3 h4 h5 => feclr ?_, fun h1 => patset ?_, fun h1 h2 => patset ?_,
    fun h1 h2 h3 h4 => patset ?_, fun h1 h2 h3 h4 h5 => patset ?_, fun hbad => ldpat (ldpatCheck_reserved hbad),
    fun h1 h2 h3 => ⟨fun hp => ldpat ?_, fun p hp => ⟨fun hbad => ldpat ?_, fun h4 h5 h6 h7 => ldpat ?_⟩⟩,
    fun hon hlt => rrot (eager_misplaced h hon hlt _ _), fun hplace hround => rrot (eager_denied h hplace hround _ _),
    fun he => ⟨fun h1 => rrot ?_, fun h1 h2 h3 => ⟨fun h4 h5 => rrot ?_, fun h4 => ⟨fun h5 => rrot ?_, fun h5 h6 h7 h8 h9 => rrot ?_⟩⟩⟩⟩
  · exact if_pos (by omega)
  · exact (feclrCheck_counts h1 h2).trans (lsAccess_range h3)
  · exact ((feclrCheck_counts h1 h2).trans (lsAccess_inside h3 h4)).trans (if_pos h5)
  · exact if_pos (high_ne 3 61 rfl h1)
  · rw [patsetCheck_slot h1, descriptorCheck, lsAccess_range (h2.imp_right fun hr => ⟨by decide, hr⟩)]
  · rw [patsetCheck_slot h1, descriptorCheck, lsAccess_misaligned h2 h3 h4]
  · rw [patsetCheck_slot h1, descriptorCheck, lsAccess_ok h2 h3 h4]
    dsimp only
    refine if_pos ?_
    rw [h.ctx]
    obtain ⟨g, hg, hlt⟩ | hover | hzero := h5
    · have hany : (parsePattern (viewBytes s c x.bundle (opndsAt x f m (lsUnit u)).a64.toNat 80)).1.fields.any (fun g =>
          decide (g.off + g.width + 1 > (parsePattern (viewBytes s c x.bundle (opndsAt x f m (lsUnit u)).a64.toNat 80)).1.per + 1)) = true :=
        List.any_eq_true.mpr ⟨g, hg, decide_eq_true hlt⟩
      rw [hany]; rfl
    · rw [hover]; simp
    · rw [hzero]; simp
  · rw [ldpatCheck_slot h.ctx h.frame h1 h2 h3, hp]; rfl
  · rw [ldpatCheck_slot h.ctx h.frame h1 h2 h3, hp]
    dsimp only [Option.getD_some, streamCheck]
    split
    · rfl
    · next hnone =>
      refine if_pos (hbad.resolve_left fun ⟨g, hg, hlt⟩ => hnone (List.any_eq_true.mpr ⟨g, hg, decide_eq_true hlt⟩))
  · rw [ldpatCheck_slot h.ctx h.frame h1 h2 h3, hp]
    dsimp only [Option.getD_some, streamCheck]
    rw [if_neg, if_neg (by omega), lsAccess_range (h7.imp_right fun hr => ⟨by omega, hr⟩)]
    rw [List.any_eq_true]
    rintro ⟨g, hg, hlt⟩
    have hle := h4 g hg
    simp only [decide_eq_true_eq] at hlt
    omega
  all_goals rw [eager_ok h he]; simp only [rrotCheck]
  · rw [if_pos (by omega)]
  · rw [if_neg (by omega), if_pos ⟨h4, h5⟩]
  · rw [if_neg (by omega), if_neg (by omega), if_pos (by omega)]
  · rw [if_neg (by omega), if_neg (by omega), if_neg (by omega), if_pos h9]

/-- Settles O12: each operation is an `ls` trigger with checks of its own, and starts in the latched context. -/
theorem scratchpadOperations : Obligations.ScratchpadOperations :=
  ⟨scratchpadOps_holds, extractorAndRingOps_holds, extractorAndRingTraps_holds⟩

end Sys2Proof.Machine
end

section
/-! PROOFS for O17. Triggers of the matrix engine (R101, R218, R224 to R235, R240). -/

namespace Sys2Proof.Machine

/-! ## The operand checks -/

/-- A bit of an operand. -/
theorem bit_eq (a : D64) (i : Nat) : a.getLsbD i = decide (a.toNat / 2 ^ i % 2 = 1) := by
  rw [BitVec.getLsbD, Nat.testBit_eq_decide_div_mod_eq]

/-- A field of an operand is not zero. -/
theorem field_ne_zero {a : D64} {i n : Nat} : a.extractLsb' i n ≠ 0 ↔ a.toNat / 2 ^ i % 2 ^ n ≠ 0 := by
  rw [ne_eq, ← BitVec.toNat_inj, field_eq]; rfl

/-- The high bits of an operand are not all zero. -/
theorem high_ne_iff {a : D64} {n k : Nat} (hk : n + k = 64) : a.extractLsb' n k ≠ 0 ↔ 2 ^ n ≤ a.toNat :=
  ⟨fun h => not_lt.mp fun hlt => h (high_zero n k hlt), high_ne n k hk⟩

theorem matHeld_none {s : State} {c : Nat} {o : Opnds} (h : areaOf s c ≠ 0) : matHeld s c o = none := if_neg h

theorem matHeld_privilege {s : State} {c : Nat} {o : Opnds} (h : areaOf s c = 0) : matHeld s c o = some .privilege := if_pos h

/-- Where the launch holds no accumulators the checks behind do not count (R218). -/
theorem held_privilege {s : State} {c : Nat} (h : areaOf s c = 0) (chk : Check) (o : Opnds) :
    firstOf [matHeld, chk] s c o = some .privilege := by
  simp only [firstOf, List.findSome?, matHeld_privilege h]

/-- Where it holds some, they decide. -/
theorem held_ok {s : State} {c : Nat} (h : areaOf s c ≠ 0) (chk : Check) (o : Opnds) : firstOf [matHeld, chk] s c o = chk s c o := by
  simp only [firstOf, List.findSome?, matHeld_none h]
  cases chk s c o <;> rfl

/-- The operand of MZERO and ASWAP names an accumulator, and nothing else (R234). -/
theorem accOnly_eq (s : State) (c : Nat) (o : Opnds) : accOnly s c o = if 4 ≤ o.a64.toNat then some .bounds else none :=
  if_congr (high_ne_iff rfl) rfl rfl

/-- The operand of APUSH and APOP names an accumulator and a row (R234). -/
theorem accRow_eq (s : State) (c : Nat) (o : Opnds) :
    accRow s c o = if 2 ^ 15 ≤ o.a64.toNat ∨ o.a64.toNat / 4 % 64 ≠ 0 then some .bounds else none :=
  if_congr (or_congr (high_ne_iff rfl) field_ne_zero) rfl rfl

/-- An ASWAP comes too early for an operation of the context on the accumulator that it names (R228). -/
theorem aswapCheck_eq {s : State} {c : Nat} {x : Ctx} (hx : ctxOf s c = x) (o : Opnds) :
    aswapCheck s c o = if (x.sys.scb && x.aticks.any fun t =>
      !t.swap && (t.acc == o.a64.toNat % 4 || t.src == some (o.a64.toNat % 4)) && decide (x.lsc < t.tick)) = true
      then some .undersizedCount else none := by
  simp only [aswapCheck, hx, field_eq, ArrayTick.names]
  simp

/-- The format pairs of R232, one by one. -/
theorem pairOk_iff (fa fb : Nat) :
    pairOk fa fb = true ↔ (fa, fb) ∈ [(0, 0), (0, 1), (1, 0), (1, 1), (3, 3), (2, 2), (0, 4), (1, 4)] := by
  constructor
  · intro h
    simp only [pairOk, Bool.or_eq_true, Bool.and_eq_true, decide_eq_true_eq, beq_iff_eq] at h
    obtain ((⟨ha, hb⟩ | ⟨rfl, rfl⟩) | ⟨rfl, rfl⟩) | ⟨ha, rfl⟩ := h
    · interval_cases fa <;> interval_cases fb <;> decide
    · decide
    · decide
    · interval_cases fa <;> decide
  · intro h
    simp only [List.mem_cons, List.not_mem_nil, or_false] at h
    obtain ⟨rfl, rfl⟩ | ⟨rfl, rfl⟩ | ⟨rfl, rfl⟩ | ⟨rfl, rfl⟩ | ⟨rfl, rfl⟩ | ⟨rfl, rfl⟩ | ⟨rfl, rfl⟩ | ⟨rfl, rfl⟩ := h <;> rfl

/-- The first row that fails, as a chain of conditions. -/
theorem find_row (b : Bool) (t : Trap) (l : List (Bool × Trap)) :
    ((((b, t) :: l).find? (·.1)).map (·.2)) = if b = true then some t else (l.find? (·.1)).map (·.2) := by cases b <;> rfl

/-- The control word of R232 breaks its table. -/
def ctlBad (gemm : Bool) (a : D64) : Prop :=
  let k := ctlK a
  let (lo, hi, m) := if gemm then (256, 65280, 256) else (32, 1024, 32)
  a.extractLsb' 32 32 ≠ 0 ∨ a.extractLsb' 11 5 ≠ 0 ∨ a.getLsbD 7 ∨ a.extractLsb' 2 2 ≠ 0 ∨ k < lo ∨ k > hi ∨ k % m ≠ 0

theorem ctlBad_iff (gemm : Bool) (a : D64) : ctlBad gemm a ↔
    let k := a.toNat / 2 ^ 16 % 2 ^ 16
    2 ^ 32 ≤ a.toNat ∨ a.toNat / 2 ^ 11 % 32 ≠ 0 ∨ a.toNat / 2 ^ 7 % 2 ≠ 0 ∨ a.toNat / 4 % 4 ≠ 0 ∨
      (if gemm then k < 256 ∨ 65280 < k ∨ k % 256 ≠ 0 else k < 32 ∨ 1024 < k ∨ k % 32 ≠ 0) := by
  have hbit : (a.getLsbD 7 = true) ↔ a.toNat / 2 ^ 7 % 2 ≠ 0 := by
    rw [bit_eq, decide_eq_true_iff]; omega
  unfold ctlBad
  refine or_congr (high_ne_iff rfl) (or_congr field_ne_zero (or_congr hbit (or_congr field_ne_zero ?_)))
  rw [ctlK, field_eq]
  cases gemm <;> rfl

/-- Behind the control word, the descriptors that its slots hold decide (R233). -/
def descCheck (s : State) (c : Nat) (x : Ctx) (gemm : Bool) (k : Nat) (da db : Desc) : Option Trap :=
  let fa := fmtA da x.dcv
  if da.kind = 1 ∨ db.kind = 2 ∨ (gemm ∧ da.kind = 2) ∨ (da.kind = 2 ∧ k ≠ 128) then some .bounds
  else if !pairOk fa db.fmt then some .bounds
  else if db.kind = 1 ∧ wsDenied s c db (rowBytes db.fmt k) then some .bounds
  else if (da.kind = 0 ∧ rowStart da 127 + rowBytes fa k > areaOf s c) ∨
          (db.kind = 0 ∧ rowStart db 127 + rowBytes db.fmt k > areaOf s c) then some .spadRange
  else none

theorem mmaCheck_bad {s : State} {c : Nat} {gemm : Bool} {o : Opnds} (h : ctlBad gemm o.a64) : mmaCheck gemm s c o = some .bounds := by
  unfold mmaCheck
  exact if_pos h

/-- Both slots of the control word are set, and their descriptors pass. -/
def slotsCheck (s : State) (c : Nat) (x : Ctx) (gemm : Bool) (k : Nat) (sa sb : Option Desc) : Option Trap :=
  match sa, sb with
  | some da, some db => descCheck s c x gemm k da db
  | _, _ => some .bounds

theorem mmaCheck_good {s : State} {c : Nat} {x : Ctx} (hx : ctxOf s c = x) {gemm : Bool} {o : Opnds} (h : ¬ctlBad gemm o.a64) :
    mmaCheck gemm s c o = slotsCheck s c x gemm (o.a64.toNat / 2 ^ 16 % 2 ^ 16) (slotDesc x (o.a64.toNat / 16 % 8))
      (slotDesc x (o.a64.toNat / 256 % 8)) := by
  have h4 : (o.a64.extractLsb' 4 3).toNat = o.a64.toNat / 16 % 8 := field_eq _ 4 3
  have h8 : (o.a64.extractLsb' 8 3).toNat = o.a64.toNat / 256 % 8 := field_eq _ 8 3
  have hk : ctlK o.a64 = o.a64.toNat / 2 ^ 16 % 2 ^ 16 := field_eq _ 16 16
  subst hx
  rw [← h4, ← h8, ← hk]
  exact if_neg h

/-- The rows of R233 behind the slots are the checks of the descriptors. -/
theorem descRows_check (s : State) (c : Nat) (x : Ctx) (gemm : Bool) (k : Nat) (da db : Desc) :
    let fa := if da.kind = 2 then x.dcv / 256 % 16 else da.fmt
    let bytes := fun (f : Nat) => if f = 2 then 2 * k else if f = 4 then k + k / 32 else k
    let past := fun (d : Desc) (f : Nat) => decide (d.kind = 0 ∧ areaOf s c < d.base + 127 * d.stride * 64 + bytes f)
    ((([(decide (da.kind = 1 ∨ db.kind = 2 ∨ (da.kind = 2 ∧ (gemm = true ∨ k ≠ 128))), Trap.bounds),
       (!((fa, db.fmt) ∈ [(0, 0), (0, 1), (1, 0), (1, 1), (3, 3), (2, 2), (0, 4), (1, 4)]), .bounds),
       (decide (db.kind = 1) && wsDenied s c db (bytes db.fmt), .bounds),
       (past da fa || past db db.fmt, .spadRange)]).find? (·.1)).map (·.2)) = descCheck s c x gemm k da db := by
  intro fa bytes past
  have hpast : ∀ d f, (past d f = true) ↔ (d.kind = 0 ∧ rowStart d 127 + rowBytes f k > areaOf s c) := by
    intro d f
    rw [decide_eq_true_iff]
    refine and_congr_right fun hd => ?_
    rw [rowStart, if_neg (by omega), rowBytes]
  simp only [find_row]
  unfold descCheck
  refine if_congr ?_ rfl (if_congr ?_ rfl (if_congr ?_ rfl (if_congr ?_ rfl rfl)))
  · rw [decide_eq_true_iff]
    tauto
  · simp only [Bool.not_eq_true', decide_eq_false_iff_not, ← pairOk_iff, Bool.not_eq_true]
    rfl
  · rw [Bool.and_eq_true, decide_eq_true_iff]; rfl
  · rw [Bool.or_eq_true, hpast, hpast]; rfl

/-- The first failing row of R233 is the trap of MMA's checks, and none fails where they pass. -/
theorem mmaRows_check {s : State} {c : Nat} {x : Ctx} (hx : ctxOf s c = x) (gemm : Bool) (o : Opnds) :
    firstOf [matHeld, mmaCheck gemm] s c o = ((mmaRows s c x gemm o.a64).find? (·.1)).map (·.2) := by
  unfold mmaRows
  rw [find_row, find_row]
  by_cases harea : areaOf s c = 0
  · rw [held_privilege harea, if_pos (by simpa using harea)]
  · rw [held_ok harea, if_neg (by simpa using harea), descRows_check]
    by_cases hctl : ctlBad gemm o.a64
    · rw [mmaCheck_bad hctl, if_pos]
      simp only [Bool.or_eq_true, decide_eq_true_iff]
      exact .inl (.inl ((ctlBad_iff gemm o.a64).mp hctl))
    · rw [mmaCheck_good hx hctl]
      have hgood := decide_eq_false ((not_congr (ctlBad_iff gemm o.a64)).mp hctl)
      dsimp only at hgood
      rw [hgood]
      cases slotDesc x (o.a64.toNat / 16 % 8) <;> cases slotDesc x (o.a64.toNat / 256 % 8) <;> rfl

/-! ## The array queue -/

/-- What a task's writes show in is the same of two contexts: its launch and task, its overlay, and its stores that have not performed. -/
structure SameView (x y : Ctx) : Prop where
  launch : y.launch = x.launch
  task : y.task = x.task
  ov : y.ov = x.ov
  bundle : y.bundle = x.bundle
  ls : y.ls = x.ls
  going : y.going = x.going
  held : y.held = x.held
  aside : y.aside = x.aside

theorem SameView.refl (x : Ctx) : SameView x x := ⟨rfl, rfl, rfl, rfl, rfl, rfl, rfl, rfl⟩

theorem SameView.trans {x y z : Ctx} (h : SameView x y) (g : SameView y z) : SameView x z :=
  ⟨g.launch.trans h.launch, g.task.trans h.task, g.ov.trans h.ov, g.bundle.trans h.bundle, g.ls.trans h.ls, g.going.trans h.going,
    g.held.trans h.held, g.aside.trans h.aside⟩

theorem sameView_latched (x : Ctx) (u : FU) (a : Val) : SameView x (latched x u a) := ⟨rfl, rfl, rfl, rfl, rfl, rfl, rfl, rfl⟩

theorem sameView_bankUsed (x : Ctx) (n b : Nat) (u : BankUse) : SameView x (bankUsed x n b u) := ⟨rfl, rfl, rfl, rfl, rfl, rfl, rfl, rfl⟩

theorem sameView_gemm (x : Ctx) (g : Gemm) : SameView x { x with gemm := g } := ⟨rfl, rfl, rfl, rfl, rfl, rfl, rfl, rfl⟩

/-- A context with the same view runs a task of a round or does not. -/
theorem inRound_set {s : State} {c : Nat} {y : Ctx} (h : SameView (ctxOf s c) y) : inRound (setCtx s c y) c = inRound s c := by
  have hregion : ctxRegion (setCtx s c y) c = ctxRegion s c := ctxRegion_set s c y h.launch
  simp only [inRound, hregion, ctxOf_setCtx_same, h.task, detOf_congr (setCtx_regions s c y)]

/-- What a task of a round has written, as the array queue takes it (R327). -/
theorem roundWrites_set {s : State} {c : Nat} {y : Ctx} (h : SameView (ctxOf s c) y) :
    roundWrites (setCtx s c y) c = roundWrites s c := by
  simp only [roundWrites, inRound_set h, ctxOf_setCtx_same, h.bundle, ownStores, h.ls, h.going, h.held, h.aside, h.ov]

/-- An operation of a latched context joins the array queue (R225, R226). -/
theorem joinArray_latched {s : State} {c : Nat} {x y : Ctx} {a : Val} (hx : ctxOf s c = x) (hview : SameView x y)
    (acc count : Nat) (kind : ArrayKind) :
    joinArray (setCtx s c (latched y .mat a)) c acc count kind = arrayJoined s c y a acc count kind := by
  have hcount : roundWrites { setCtx s c (latched y .mat a) with count := s.count + 1 } c = roundWrites s c := by
    refine Eq.trans ?_ (roundWrites_set (y := latched y .mat a) (hx ▸ hview.trans (sameView_latched y .mat a)))
    have hdet : ∀ r, detOf { setCtx s c (latched y .mat a) with count := s.count + 1 } r = detOf (setCtx s c (latched y .mat a)) r :=
      detOf_congr rfl
    simp only [roundWrites, inRound, hdet]
    rfl
  have hctx : ctxOf { setCtx s c (latched y .mat a) with count := s.count + 1 } c = latched y .mat a := ctxOf_setCtx_same _ _ _
  simp only [joinArray, fresh, setCtx_count, hcount, hctx, modCtx, ctxOf_setCore, modCore_eq]
  exact congrArg (fun t : State => { setCore t (ctxCore c) _ with count := s.count + 1 }) (setCtx_setCtx s c _ _)

theorem waits_arrayJoined (s : State) (c : Nat) (x : Ctx) (a : Val) (acc count : Nat) (kind : ArrayKind) :
    (ctxOf (arrayJoined s c x a acc count kind) c).waits = x.waits := by
  show (ctxOf (setCtx s c _) c).waits = x.waits
  rw [ctxOf_setCtx_same]
  rfl

/-- A bank is used by a context that has latched its operand (R101). -/
theorem useBank_latched (s : State) (c : Nat) (x : Ctx) (a : Val) (n b : Nat) (u : BankUse) :
    useBank (setCtx s c (latched x .mat a)) c n b u = setCtx s c (latched (bankUsed x n b u) .mat a) := by
  simp only [useBank, modCtx, ctxOf_setCtx_same, setCtx_setCtx]
  rfl

/-- The operand's accumulator. -/
theorem ctlAcc_eq (a : D64) : ctlAcc a = a.toNat % 4 := by
  rw [ctlAcc, field_eq]; simp

/-- The context after the bank uses of an MMA or MGEMM and, of an MGEMM, its progress (R101, R235). -/
def mulCtx (s : State) (c : Nat) (x : Ctx) (gemm ov : Bool) (a : D64) (da db : Desc) : Ctx :=
  let n := a.toNat % 4
  let k := a.toNat / 2 ^ 16 % 2 ^ 16
  let core := coreOf s (ctxCore c)
  let x1 := if da.kind = 2 then bankUsed x da.base (1 - workBank core da.base) .read else x
  let x2 := bankUsed x1 n (workBank core n) (if ov then .over else .accum)
  let g : Gemm := { id := s.count, start := x.lsc, total := k / 256, per := occupancy db.fmt 256 }
  if gemm then { x2 with gemm := g } else x2

/-- MMA and MGEMM change nothing of their context that a task's writes show in. -/
theorem sameView_mulCtx (s : State) (c : Nat) (x : Ctx) (gemm ov : Bool) (a : D64) (da db : Desc) :
    SameView x (mulCtx s c x gemm ov a da db) := by
  unfold mulCtx
  dsimp only
  have hread : SameView x (if da.kind = 2 then bankUsed x da.base (1 - workBank (coreOf s (ctxCore c)) da.base) .read else x) := by
    split
    · exact sameView_bankUsed _ _ _ _
    · exact .refl x
  split
  · exact (hread.trans (sameView_bankUsed _ _ _ _)).trans (sameView_gemm _ _)
  · exact hread.trans (sameView_bankUsed _ _ _ _)

/-- MMA and MGEMM whose checks pass join the array queue (R225, R232). -/
theorem matMul_joins {s : State} {m : Mv} {c : Nat} {x : Ctx} {f : Frame} (h : Acts s m c x f) {sock : BitVec 12} {gemm ov : Bool} {da db : Desc}
    (hk : firstOf [matHeld, mmaCheck gemm] s c (opndsAt x f m .mat) = none)
    (hda : slotDesc x ((opndsAt x f m .mat).a64.toNat / 16 % 8) = some da)
    (hdb : slotDesc x ((opndsAt x f m .mat).a64.toNat / 256 % 8) = some db) :
    matMul s m sock gemm ov =
      let o := opndsAt x f m .mat
      let k := o.a64.toNat / 2 ^ 16 % 2 ^ 16
      .next (arrayJoined s c (mulCtx s c x gemm ov o.a64 da db) o.a (o.a64.toNat % 4) (occupancy db.fmt k + 24)
        (.mma ov gemm k da db x.dcv)) := by
  have h4 : ((opndsAt x f m .mat).a64.extractLsb' 4 3).toNat = (opndsAt x f m .mat).a64.toNat / 16 % 8 := field_eq _ 4 3
  have h8 : ((opndsAt x f m .mat).a64.extractLsb' 8 3).toNat = (opndsAt x f m .mat).a64.toNat / 256 % 8 := field_eq _ 8 3
  have hctlK : ctlK (opndsAt x f m .mat).a64 = (opndsAt x f m .mat).a64.toNat / 2 ^ 16 % 2 ^ 16 := field_eq _ 16 16
  have hslot : ∀ n, slotDesc (latched x .mat (opndsAt x f m .mat).a) n = slotDesc x n := fun n => rfl
  have hread : (if da.kind = 2 then
        useBank (setCtx s c (latched x .mat (opndsAt x f m .mat).a)) c da.base (1 - workBank (coreOf s (ctxCore c)) da.base) .read
      else setCtx s c (latched x .mat (opndsAt x f m .mat).a)) = setCtx s c (latched
        (if da.kind = 2 then bankUsed x da.base (1 - workBank (coreOf s (ctxCore c)) da.base) .read else x) .mat (opndsAt x f m .mat).a) := by
    split
    · exact useBank_latched _ _ _ _ _ _ _
    · rfl
  rw [matMul, h.run hk]
  simp only [ctxOf_setCtx_same, coreOf_setCtx, hslot, h4, h8, hda, hdb, hctlK, ctlAcc_eq]
  rw [hread, useBank_latched, ← joinArray_latched h.ctx (sameView_mulCtx ..)]
  refine congrArg (fun t => Host.Outcome.next (joinArray t c _ _ _)) ?_
  cases gemm
  · rfl
  · simp only [if_true, modCtx_eq, ctxOf_setCtx_same, setCtx_setCtx]
    refine congrArg (setCtx s c) ?_
    unfold mulCtx
    dsimp only
    split <;> rfl

/-- MMA and MGEMM trap at the first failing check (R233). -/
theorem matMul_traps {s : State} {m : Mv} {c : Nat} {x : Ctx} {f : Frame} (h : Acts s m c x f) {sock : BitVec 12} {gemm ov : Bool} {t : Trap}
    (hk : firstOf [matHeld, mmaCheck gemm] s c (opndsAt x f m .mat) = some t) :
    matMul s m sock gemm ov = .next (preciseTrap s c { code := t, sock := sock.toNat, slot := f.cur }) := h.trap hk

/-- Where no row of R233 fails, the checks pass. -/
theorem mmaRows_pass {s : State} {c : Nat} {x : Ctx} (hx : ctxOf s c = x) {gemm : Bool} {o : Opnds}
    (h : (mmaRows s c x gemm o.a64).all (fun r => !r.1) = true) : firstOf [matHeld, mmaCheck gemm] s c o = none := by
  have hnone : (mmaRows s c x gemm o.a64).find? (·.1) = none :=
    List.find?_eq_none.mpr fun r hr => by simpa using List.all_eq_true.mp h r hr
  rw [mmaRows_check hx, hnone]; rfl

theorem arrayOperations_holds : arrayOperations := by
  intro m s c x f h
  have aswapPasses : ∀ {t}, (x.sys.scb && x.aticks.any fun t => !t.swap && (t.acc == (opndsAt x f m .mat).a64.toNat % 4 ||
      t.src == some ((opndsAt x f m .mat).a64.toNat % 4)) && decide (x.lsc < t.tick)) = false →
      firstOf [matHeld, accOnly] s c (opndsAt x f m .mat) = t →
      firstOf [aswapCheck, matHeld, accOnly] s c (opndsAt x f m .mat) = t := by
    rintro t hearly rfl
    simp only [firstOf, List.findSome?, aswapCheck_eq h.ctx, hearly, Bool.false_eq_true, if_false]
  have mzero : ∀ {t}, firstOf [matHeld, accOnly] s c (opndsAt x f m .mat) = some t → execMatMzero m s =
      .next (preciseTrap s c { code := t, sock := 0x38C, slot := f.cur }) := fun hk => h.trap hk
  have aswap : ∀ {t}, firstOf [aswapCheck, matHeld, accOnly] s c (opndsAt x f m .mat) = some t → execMatAswap m s =
      .next (preciseTrap s c { code := t, sock := 0x38D, slot := f.cur }) := fun hk => h.trap hk
  have apop : ∀ {t}, firstOf [matHeld, accRow] s c (opndsAt x f m .mat) = some t → execMatApop m s =
      .next (preciseTrap s c { code := t, sock := 0x38E, slot := f.cur }) := fun hk => h.trap hk
  have apush : ∀ {t}, firstOf [matHeld, accRow] s c (opndsAt x f m .mat) = some t → execMatApush m s =
      .next (preciseTrap s c { code := t, sock := 0x38F, slot := f.cur }) := fun hk => h.trap hk
  refine ⟨fun p hp r hr => ?_, fun harea => ⟨fun p hp da db hall hda hdb => ?_, fun ha => ?_, fun ha hearly => ?_, fun ha hrow => ?_⟩,
    fun harea p hp => ?_, fun hearly => ?_, fun harea hearly => ?_, fun harea => ⟨fun ha => ?_, fun ha hearly => ?_, fun ha => ⟨?_, ?_⟩⟩⟩
  · have hk : firstOf [matHeld, mmaCheck p.2.1] s c (opndsAt x f m .mat) = some r.2 := by rw [mmaRows_check h.ctx, hr]; rfl
    simp only [List.mem_cons, List.not_mem_nil, or_false] at hp
    obtain rfl | rfl | rfl | rfl := hp <;> exact matMul_traps h hk
  · have hk := mmaRows_pass h.ctx hall
    simp only [List.mem_cons, List.not_mem_nil, or_false] at hp
    obtain rfl | rfl | rfl | rfl := hp <;> exact matMul_joins h hk hda hdb
  · show execMatMzero m s = _
    rw [execMatMzero, h.run ((held_ok harea _ _).trans ((accOnly_eq _ _ _).trans (if_neg (by omega))))]
    simp only [ctlAcc_eq, coreOf_setCtx, useBank_latched]
    rw [joinArray_latched h.ctx (sameView_bankUsed ..)]
  · show execMatAswap m s = _
    rw [execMatAswap, h.run (aswapPasses hearly ((held_ok harea _ _).trans ((accOnly_eq _ _ _).trans (if_neg (by omega)))))]
    simp only [ctlAcc_eq, setCtx_count]
    rw [joinArray_latched h.ctx (.refl x)]
    simp only [modCtx_eq, waits_arrayJoined]
  · show execMatApush m s = _
    rw [execMatApush, h.run ((held_ok harea _ _).trans ((accRow_eq _ _ _).trans (if_neg (by omega))))]
    have hfield : ((opndsAt x f m .mat).a64.extractLsb' 8 7).toNat = (opndsAt x f m .mat).a64.toNat / 256 := by
      rw [field_eq]; omega
    simp only [ctlAcc_eq, coreOf_setCtx, useBank_latched, hfield]
    rw [joinArray_latched h.ctx (sameView_bankUsed ..)]
  · simp only [List.mem_cons, List.not_mem_nil, or_false] at hp
    obtain rfl | rfl | rfl | rfl | rfl | rfl | rfl := hp
    · exact matMul_traps h (held_privilege harea _ _)
    · exact matMul_traps h (held_privilege harea _ _)
    · exact matMul_traps h (held_privilege harea _ _)
    · exact matMul_traps h (held_privilege harea _ _)
    · exact mzero (held_privilege harea _ _)
    · exact apop (held_privilege harea _ _)
    · exact apush (held_privilege harea _ _)
  · refine aswap ?_
    simp only [firstOf, List.findSome?, aswapCheck_eq h.ctx, hearly, if_true]
  · exact aswap (aswapPasses hearly (held_privilege harea _ _))
  · exact mzero ((held_ok harea _ _).trans ((accOnly_eq _ _ _).trans (if_pos ha)))
  · exact aswap (aswapPasses hearly ((held_ok harea _ _).trans ((accOnly_eq _ _ _).trans (if_pos ha))))
  · exact apush ((held_ok harea _ _).trans ((accRow_eq _ _ _).trans (if_pos ha)))
  · exact apop ((held_ok harea _ _).trans ((accRow_eq _ _ _).trans (if_pos ha)))

/-! ## The other triggers of the engine -/

/-- A row of elements, read back one by one (R234). -/
theorem lane_row (g : Nat → BitVec 32) {j : Nat} (hj : j < 128) :
    (BitVec.ofNat 4096 (pack 32 ((List.range 128).map fun i => (g i).toNat))).extractLsb' (32 * j) 32 = g j := by
  have hlane := lane_ofNat_pack 32 ((List.range 128).map fun i => (g i).toNat) (by simp) j
  apply BitVec.eq_of_toNat_eq
  rw [BitVec.extractLsb'_toNat, Nat.shiftRight_eq_div_pow, Nat.mul_comm 32 j]
  refine hlane.trans ?_
  have hget : ((List.range 128).map fun i => (g i).toNat).getD j 0 = (g j).toNat := by simp [List.getD, hj]
  rw [hget, Nat.mod_eq_of_lt (g j).isLt]

/-- Marks that are taken away again leave the results as they were. -/
theorem fillList_need (l : List InFlight) (q : Nat) (n : Option (Nat × Nat)) :
    (fillList l q fun e => { e with need := n }).map (fun e => { e with need := none }) = l.map fun e => { e with need := none } := by
  rw [fillList, List.map_map]
  refine List.map_congr_left fun e _ => ?_
  simp only [Function.comp_apply]
  split <;> rfl

/-- The context after an APOP that passes its checks (R234, R240). -/
def apopCtx (x : Ctx) (o : Opnds) (k : Core) : Ctx :=
  let n := o.a64.toNat % 4
  let vis := 1 - workNow k n
  let v := BitVec.ofNat 4096 (pack 32 ((List.range 128).map fun j => (accElem k n vis (o.a64.toNat / 256 * 128 + j)).toNat))
  let y := started (bankUsed x n vis .read) .mat o.a 8 (some (v, BitVec.allOnes 4096)) (some 0)
  if bankBad k n vis then
    { y with infl := fillList y.infl x.seq fun e => { e with late := some { code := .matrixFault, arg := n } } }
  else y

theorem matrixRegisters_holds : matrixRegisters := by
  intro m s c x f h
  refine ⟨fun harea ha hrow => ?_, fun hk => ?_, fun hk => ?_, fun t hk => ?_, fun t hk => ?_, ?_, ?_⟩
  · refine ⟨_, fun j hj => lane_row (fun j => accElem (coreOf s (ctxCore c)) ((opndsAt x f m .mat).a64.toNat % 4)
      (1 - workNow (coreOf s (ctxCore c)) ((opndsAt x f m .mat).a64.toNat % 4)) ((opndsAt x f m .mat).a64.toNat / 256 * 128 + j)) hj, ?_⟩
    have hfield : ((opndsAt x f m .mat).a64.extractLsb' 8 7).toNat = (opndsAt x f m .mat).a64.toNat / 256 := by
      rw [field_eq]; omega
    have hpop : exec (.matApop m) s = .next (setCtx s c (apopCtx x (opndsAt x f m .mat) (coreOf s (ctxCore c)))) := by
      show execMatApop m s = _
      rw [execMatApop, h.run ((held_ok harea accRow _).trans ((accRow_eq _ _ _).trans (if_neg (by omega))))]
      simp only [ctlAcc_eq, coreOf_setCtx, useBank_latched, hfield, modCtx_eq, ctxOf_setCtx_same, setCtx_setCtx, addResult_latched]
      rfl
    refine ⟨fun hgood => ?_, fun hbad => ?_⟩ <;> rw [hpop, apopCtx]
    · rw [if_neg (by rw [hgood]; exact Bool.false_ne_true)]
    · rw [if_pos hbad]
  · show execMatMdesc m s = _
    rw [execMatMdesc, h.run hk]
    have h0 : ((opndsAt x f m .mat).b64.extractLsb' 0 3).toNat = (opndsAt x f m .mat).b64.toNat % 8 :=
      (field_eq _ 0 3).trans (by rw [pow_zero, Nat.div_one]; rfl)
    have h4 : ((opndsAt x f m .mat).b64.extractLsb' 4 4).toNat = (opndsAt x f m .mat).b64.toNat / 16 % 16 := field_eq _ 4 4
    have h8 : ((opndsAt x f m .mat).b64.extractLsb' 8 4).toNat = (opndsAt x f m .mat).b64.toNat / 256 % 16 := field_eq _ 8 4
    have h16 := field_eq (opndsAt x f m .mat).b64 16 16
    simp only [modCtx_eq, ctxOf_setCtx_same, setCtx_setCtx, addResult_latched, h0, h4, h8, h16]
    rfl
  · show execMatMdcv m s = _
    rw [execMatMdcv, h.run hk]
    simp only [modCtx_eq, ctxOf_setCtx_same, setCtx_setCtx, addResult_latched]
  · show execMatMdesc m s = _
    exact h.trap hk
  · show execMatMdcv m s = _
    exact h.trap hk
  · refine ⟨{ started x .mat (opndsAt x f m .mat).a 2 (full64 (mstatWord x)) (some 0) with
      infl := fillList (started x .mat (opndsAt x f m .mat).a 2 (full64 (mstatWord x)) (some 0)).infl x.seq fun e =>
        { e with need := some (x.gemm.id, kdone x.gemm x.lsc) } }, ?_, fillList_need _ _ _, rfl, rfl, rfl⟩
    show execMatMstat m s = _
    rw [execMatMstat, h.runs]
    simp only [modCtx_eq, ctxOf_setCtx_same, setCtx_setCtx, addResult_latched]
    rfl
  · show execMatMfence m s = _
    rw [execMatMfence, h.runs]
    simp only [modCtx_eq, ctxOf_setCtx_same, setCtx_setCtx, addResult_latched]
    rfl

/-- Settles O17: the array operations join the queue from the latched context, and their checks are numbers of the operand's fields. -/
theorem matrixEngine : Obligations.MatrixEngine := ⟨arrayOperations_holds, matrixRegisters_holds⟩

end Sys2Proof.Machine
end

section
/-! PROOFS for O18. Triggers of the copy engines, their checks and their limits (R90, R91, R247 to R273). -/

namespace Sys2Proof.Machine

/-! ## Copy work and what it depends on -/

theorem ctxRegion_congr {s t : State} {c : Nat} (hl : (ctxOf t c).launch = (ctxOf s c).launch) (h : t.launches = s.launches) :
    ctxRegion t c = ctxRegion s c := by
  have hof : ∀ l, launchOf t l = launchOf s l := fun l => by simp only [launchOf, h]
  simp only [ctxRegion, hl, hof]

/-- A job not yet issued is its context's: the launch, and whether a handler runs. -/
theorem newJob_congr {s t : State} {c : Nat} (hl : (ctxOf t c).launch = (ctxOf s c).launch) (ha : (ctxOf t c).aside = (ctxOf s c).aside)
    (h : t.launches = s.launches) (token : Nat) (kind : JobKind) : newJob t c token kind = newJob s c token kind := by
  simp only [newJob, ctxRegion_congr hl h, hl, ha]

/-- Whether a command fits its limits is a matter of the copy engines, of the pending writes of its context, and of its region and
token; of its work only whether it is a card (R90, R91, R253). -/
theorem jobFits_congr {s t : State} {c : Nat} {j i : Job} (hasync : (ctxOf t c).async = (ctxOf s c).async)
    (haside : (ctxOf t c).aside = (ctxOf s c).aside) (hregs : (ctxOf t c).regs = (ctxOf s c).regs) (hdies : t.dies = s.dies)
    (hparts : t.parts = s.parts) (hregions : t.regions = s.regions) (hregion : i.region = j.region) (hhandler : i.handler = j.handler)
    (htoken : i.token = j.token) (hcard : i.isCard = j.isCard) : jobFits t c i = jobFits s c j := by
  have hout : outstanding t c = outstanding s c := by simp only [outstanding, copyWork, hdies]
  have htok : tokenRegs (ctxOf t c) j.handler = tokenRegs (ctxOf s c) j.handler := by
    unfold tokenRegs
    rw [haside, hregs]
  have hfree : ∀ d, freeWriteOk (ctxOf t c) j.handler d = freeWriteOk (ctxOf s c) j.handler d := fun d => by
    unfold freeWriteOk freeOut
    rw [htok, hasync]
  have hcards : ∀ d, cardsOf t d = cardsOf s d := fun d => by simp only [cardsOf, dieOf, hdies]
  have hshare : ∀ p d, cardShare t p d = cardShare s p d := fun p d => by simp only [cardShare, hparts]
  simp only [jobFits, hregion, hhandler, htoken, hcard, hout, hfree, hcards, hshare, partOf_congr hregions]

/-- A command that fits issues at once where nothing waits before it (R252, R253). -/
theorem pump_fits {s : State} {c : Nat} {y : Ctx} {w : Withheld} (hfits : itemFits (setCtx s c { y with going := [w] }) c w = true) :
    pump (setCtx s c { y with going := [w] }) c = issueItem (setCtx s c { y with going := [] }) c w := by
  have hgoing : (ctxOf (setCtx s c { y with going := [w] }) c).going = [w] := by rw [ctxOf_setCtx_same]
  rw [pump, hgoing]
  simp only [List.length_singleton, pumpGo, ctxOf_setCtx_same, hfits, if_true, modCtx_eq, setCtx_setCtx]

/-- A copy command issues from a context with the registers and overlay of its state (R252). -/
theorem issueJob_set {s : State} {c : Nat} {y : Ctx} (hview : SameView (ctxOf s c) y) {j : Job} (hcore : j.core = ctxCore c) :
    issueJob (setCtx s c y) c j = copyIssued s c y j := by
  have hround : inRound { setCtx s c y with count := s.count + 2 } c = inRound s c := by
    refine Eq.trans ?_ (inRound_set hview)
    have hdet : ∀ r, detOf { setCtx s c y with count := s.count + 2 } r = detOf (setCtx s c y) r := detOf_congr rfl
    simp only [inRound, hdet]
    rfl
  have hasid : asidOf { setCtx s c y with count := s.count + 2 } j.region = asidOf s j.region := by
    simp only [asidOf, rcbWord_congr (s := s) (t := { setCtx s c y with count := s.count + 2 }) rfl]
  have hctx : ctxOf { setCtx s c y with count := s.count + 2 } c = y := ctxOf_setCtx_same s c y
  simp only [issueJob, fresh, setCtx_count, hround, hasid, modCtx, hctx]
  have hset : ∀ z, setCtx { setCtx s c y with count := s.count + 2 } c z = { setCtx s c z with count := s.count + 2 } := fun z =>
    congrArg (fun t : State => { t with count := s.count + 2 }) (setCtx_setCtx s c y z)
  simp only [hset]
  rw [copyIssued, ← hcore]
  rfl

/-! ## Commands -/

/-- The ports of a `cpy` trigger (R247). -/
theorem cpyPorts_latched (s : State) (c : Nat) (x : Ctx) (a : Val) (v : D64) :
    cpyPorts (setCtx s c (latched x .cpy a)) c v = setCtx s c (started x .cpy a 2 (full64 v) (some 0)) := by
  simp only [cpyPorts, modCtx_eq, ctxOf_setCtx_same, setCtx_setCtx, addResult_latched, full64]

theorem sameView_started (x : Ctx) (u : FU) (a : Val) (n : Nat) (r : Option (Val × Val)) (st : Option D64) :
    SameView x (started x u a n r st) := ⟨rfl, rfl, rfl, rfl, rfl, rfl, rfl, rfl⟩

/-- A job seen from a latched context. -/
theorem newJob_latched {s : State} {c : Nat} {x : Ctx} (hx : ctxOf s c = x) (u : FU) (a : Val) (token : Nat) (kind : JobKind) :
    newJob (setCtx s c (latched x u a)) c token kind = newJob s c token kind :=
  newJob_congr (s := s) (t := setCtx s c (latched x u a)) (by rw [ctxOf_setCtx_same, hx]; rfl)
    (by rw [ctxOf_setCtx_same, hx]; rfl) rfl token kind

/-- With checkpoint mode on a command is withheld (R95). -/
theorem issueCmd_withheld {s : State} {c : Nat} {y : Ctx} {w : Withheld} (hon : ckOn y = true) :
    issueCmd (setCtx s c y) c w true = setCtx s c { y with held := y.held ++ [w] } := by
  simp only [issueCmd, ctxOf_setCtx_same, hon, Bool.and_true, if_true, modCtx_eq, setCtx_setCtx]

/-- With checkpoint mode off a command goes to its unit, behind those that wait (R98). -/
theorem issueCmd_going {s : State} {c : Nat} {y : Ctx} {w : Withheld} (hoff : ckOn y = false) :
    issueCmd (setCtx s c y) c w true = pump (setCtx s c { y with going := y.going ++ [w] }) c := by
  simp only [issueCmd, ctxOf_setCtx_same, hoff, Bool.and_false, Bool.false_eq_true, if_false, modCtx_eq, setCtx_setCtx]

/-- A command of the copy engines that passes its checks is withheld, or issues where it fits (R95, R252). -/
theorem copyTrigger_acts {s : State} {m : Mv} {c : Nat} {x : Ctx} {f : Frame} (h : Acts s m c x f) {sock : BitVec 12} {chk : Check}
    {act : State → Nat → Opnds → State} {token : Nat} {kind : JobKind} (hk : chk s c (opndsAt x f m .cpy) = none)
    (hact : let t := setCtx s c (latched x .cpy (opndsAt x f m .cpy).a)
      act t c (opndsAt x f m .cpy) = issueCmd (cpyPorts t c 0) c (.job (newJob t c token kind)) true) :
    let j := newJob s c token kind
    let y := started x .cpy (opndsAt x f m .cpy).a 2 (full64 0) (some 0)
    (ckOn x = true → trigger s m .cpy sock chk act = .next (setCtx s c { y with held := x.held ++ [.job j] })) ∧
    (ckOn x = false → x.going = [] → jobFits s c j = true → trigger s m .cpy sock chk act = .next (copyIssued s c y j)) := by
  dsimp only at hact ⊢
  rw [h.run hk, hact, newJob_latched h.ctx, cpyPorts_latched]
  refine ⟨fun hon => ?_, fun hoff hgoing hfits => ?_⟩
  · rw [issueCmd_withheld (y := started x .cpy _ 2 _ _) hon]
    rfl
  · rw [issueCmd_going (y := started x .cpy _ 2 _ _) hoff]
    have hnone : (started x .cpy (opndsAt x f m .cpy).a 2 (full64 0) (some 0)).going = [] := hgoing
    have hsame : ({ started x .cpy (opndsAt x f m .cpy).a 2 (full64 0) (some 0) with going := [] } : Ctx) =
        started x .cpy (opndsAt x f m .cpy).a 2 (full64 0) (some 0) := by rw [← hnone]
    rw [hnone, List.nil_append, pump_fits, hsame]
    · exact congrArg Host.Outcome.next (issueJob_set (by rw [h.ctx]; exact sameView_started _ _ _ _ _ _) rfl)
    · refine (jobFits_congr (s := s) (t := setCtx s c { started x .cpy (opndsAt x f m .cpy).a 2 (full64 0) (some 0) with
        going := [.job (newJob s c token kind)] }) ?_ ?_ ?_ rfl rfl rfl rfl rfl rfl rfl).trans hfits <;> rw [ctxOf_setCtx_same, h.ctx] <;> rfl

theorem cardWords_latched {s : State} {c : Nat} {x : Ctx} (hx : ctxOf s c = x) (u : FU) (v : Val) (a : Nat) :
    cardWords (setCtx s c (latched x u v)) c a = cardWords s c a := by
  have hbundle : (ctxOf (setCtx s c (latched x u v)) c).bundle = (ctxOf s c).bundle := by rw [ctxOf_setCtx_same, hx]; rfl
  simp only [cardWords, hbundle, viewBytes_latched hx]

/-- The low field of an operand. -/
theorem low_eq (a : D64) (n : Nat) : (a.extractLsb' 0 n).toNat = a.toNat % 2 ^ n := by
  rw [field_eq, pow_zero, Nat.div_one]

theorem copyCommands_holds : copyCommands := by
  intro p hp m s c x f h
  simp only [copyRows, List.mem_cons, List.not_mem_nil, or_false] at hp
  obtain rfl | rfl | rfl := hp
  · refine ⟨fun hk => ?_, fun t hk => ?_⟩
    · refine copyTrigger_acts h (sock := 0x3C8) hk (act := fun s c o => issueCmd (cpyPorts s c 0) c
        (.job (newJob s c (cardOf (cardWords s c o.a64.toNat)).token (.card (cardWords s c o.a64.toNat)))) true) ?_
      dsimp only
      rw [cardWords_latched h.ctx]
    · show execCpyCpy m s = _
      exact h.trap hk
  · refine ⟨fun hk => ?_, fun t hk => ?_⟩
    · refine copyTrigger_acts h (sock := 0x3CB) hk (act := fun s c o => issueCmd (cpyPorts s c 0) c
        (.job (newJob s c (o.c64.extractLsb' 8 6).toNat (.cpst o.a64.toNat (leBytes (o.c64.extractLsb' 0 7).toNat o.b.toNat)))) true) ?_
      have hlen : ((opndsAt x f m .cpy).c64.extractLsb' 0 7).toNat = (opndsAt x f m .cpy).c64.toNat % 128 := low_eq _ 7
      have htoken : ((opndsAt x f m .cpy).c64.extractLsb' 8 6).toNat = (opndsAt x f m .cpy).c64.toNat / 256 % 64 := field_eq _ 8 6
      dsimp only
      rw [hlen, htoken]
    · show execCpyCpst m s = _
      exact h.trap hk
  · refine ⟨fun hk => ?_, fun t hk => ?_⟩
    · refine copyTrigger_acts h (sock := 0x3CD) hk (act := fun s c o => issueCmd (cpyPorts s c 0) c
        (.job (newJob s c (o.b64.extractLsb' 0 6).toNat (.pagereq o.a64.toNat (o.b64.getLsbD 8)))) true) ?_
      have htoken : ((opndsAt x f m .cpy).b64.extractLsb' 0 6).toNat = (opndsAt x f m .cpy).b64.toNat % 64 := low_eq _ 6
      dsimp only
      rw [htoken]
    · show execCpyPagereq m s = _
      exact h.trap hk

theorem cardChecks_holds : cardChecks := by
  intro s c o
  dsimp only
  have hrange : (o.a64.toNat < 2 ^ 20 ∧ o.a64.toNat + 64 ≤ areaOf s c) ↔ ¬(o.a64.toNat ≥ 2 ^ 20 ∨ o.a64.toNat + 64 > areaOf s c) := by omega
  simp only [cpyCheck]
  refine ⟨fun h1 => ?_, fun h1 h2 => ?_, fun h1 h2 h3 => ?_, fun h1 h2 h3 h4 => ?_, fun h1 h2 h3 h4 h5 => ?_, fun h1 h2 h3 h4 h5 => ?_⟩
  · rw [if_pos (not_not.mp ((not_congr hrange).mp h1))]
  all_goals rw [if_neg (hrange.mp h1)]
  · rw [if_pos h2]
  all_goals rw [if_neg (not_not.mpr h2)]
  · rw [if_pos h3]
  all_goals rw [if_neg (by rw [h3]; exact Bool.false_ne_true)]
  · rw [if_pos h4]
  all_goals rw [if_neg (by rw [h4]; exact Bool.false_ne_true)]
  · rw [if_pos h5]
  · rw [if_neg (by rw [h5]; exact Bool.false_ne_true)]
    simp only [Bool.not_eq_true']

/-! ## Loads and queries -/

/-- Bits at their places, read back one by one. -/
theorem testBit_bits (g : Nat → Bool) (m n : Nat) :
    ((List.range m).map fun i => bit (g i) i).sum < 2 ^ m ∧
      (((List.range m).map fun i => bit (g i) i).sum.testBit n = (decide (n < m) && g n)) := by
  induction m with
  | zero => simp
  | succ m ih =>
    obtain ⟨hlt, hbit⟩ := ih
    rw [List.range_succ, List.map_append, List.sum_append, List.map_singleton, List.sum_singleton]
    generalize ((List.range m).map fun i => bit (g i) i).sum = v at hlt hbit
    have hle := bit_le (g m) m
    refine ⟨by rw [Nat.pow_succ]; omega, ?_⟩
    cases hg : g m
    · have hv : v + bit false m = v := rfl
      rw [hv, hbit]
      obtain hn | rfl | hn := Nat.lt_trichotomy n m
      · simp [hn, Nat.lt_succ_of_lt hn]
      · simp [hg]
      · simp [Nat.not_lt_of_gt hn, show ¬n < m + 1 by omega]
    · have hv : v + bit true m = 2 ^ m + v := Nat.add_comm _ _
      rw [hv]
      obtain hn | rfl | hn := Nat.lt_trichotomy n m
      · rw [Nat.testBit_two_pow_add_gt hn, hbit]
        simp [hn, Nat.lt_succ_of_lt hn]
      · rw [Nat.testBit_two_pow_add_eq, hbit]
        simp [hg]
      · rw [Nat.testBit_lt_two_pow (lt_of_lt_of_le (by omega : 2 ^ m + v < 2 ^ (m + 1)) (Nat.pow_le_pow_right Nat.two_pos hn))]
        simp [show ¬n < m + 1 by omega]

/-- A field from bit 0 on is the operand cut to its width. -/
theorem low_setWidth (b : D64) (n : Nat) : b.extractLsb' 0 n = b.setWidth n := by
  apply BitVec.eq_of_toNat_eq
  rw [low_eq, BitVec.toNat_setWidth]

/-- The context of a CPLD that issues: its destination is pending, and behind it the register of its residency mask (R90, R268). -/
def cpldCtx (s : State) (y : Ctx) (b : D64) (sb : Bool) : Ctx :=
  let z := issueAsync y (s.count + 1) (b.setWidth 12) sb y.aside.isSome true
  if b.getLsbD 27 then issueAsync z (s.count + 2) (BitVec.ofNat 12 (0xA0 + b.toNat / 2 ^ 24 % 8)) sb y.aside.isSome true (some (s.count + 1))
  else z

/-- The job of a CPLD that issues (R268). -/
def cpldJob (s : State) (c a : Nat) (b : D64) (sb : Bool) : Job :=
  let mask : BitVec 12 := BitVec.ofNat 12 (0xA0 + b.toNat / 2 ^ 24 % 8)
  let asid := asidOf s (ctxRegion s c)
  { newJob s c 0 (.cpld a (b.toNat / 2 ^ 16 % 128) (b.setWidth 12) sb (if b.getLsbD 27 then some mask else none)) with
    id := s.count, asid := asid, gen := (spaceOf s asid).gen, async := some (s.count + 1)
    async2 := if b.getLsbD 27 then some (s.count + 2) else none, ov := if inRound s c then some c else none }

/-- The state with operations numbered up to `n`. -/
def counted (s : State) (n : Nat) : State := { s with count := n }

theorem fresh_counted (s : State) : fresh s = (s.count, counted s (s.count + 1)) := rfl
theorem counted_counted (s : State) (n m : Nat) : counted (counted s n) m = counted s m := rfl
theorem count_counted (s : State) (n : Nat) : (counted s n).count = n := rfl
theorem setCtx_counted (s : State) (n c : Nat) (x : Ctx) : setCtx (counted s n) c x = counted (setCtx s c x) n := rfl

/-- CPLD and CPLD.sb in a bundle where an eager trigger may stand issue at once (R91, R99, R268). -/
theorem cpld_issues {s : State} {m : Mv} {c : Nat} {x : Ctx} {f : Frame} (h : Acts s m c x f) {sock : BitVec 12} {sb : Bool}
    (hplace : ckOn x = true → 3 ≤ (hdrSpan f.header).toNat) (hk : cpldCheck s c (opndsAt x f m .cpy) = none) :
    let o := opndsAt x f m .cpy
    cpld s m sock sb = .next { modDie (setCtx s c (cpldCtx s (started x .cpy o.a 2 (full64 0) (some 0)) o.b64 sb)) (ctxDie c)
      (fun d => { d with jobs := d.jobs ++ [cpldJob s c o.a64.toNat o.b64 sb] }) with count := s.count + 3 } := by
  have hchecks : firstOf [eagerCheck, cpldCheck] s c (opndsAt x f m .cpy) = none := by
    simp only [firstOf, List.findSome?, eagerCheck_ok h.ctx h.frame hplace, hk]
  dsimp only
  rw [cpld, h.run hchecks, cpyPorts_latched]
  generalize hy : started x .cpy (opndsAt x f m .cpy).a 2 (full64 0) (some 0) = y
  have hview : SameView (ctxOf s c) y := by rw [h.ctx, ← hy]; exact sameView_started _ _ _ _ _ _
  have hctx : ctxOf (counted (setCtx s c y) (s.count + 1 + 1 + 1)) c = y := ctxOf_setCtx_same s c y
  have hregion : ctxRegion (counted (setCtx s c y) (s.count + 1 + 1 + 1)) c = ctxRegion s c :=
    ctxRegion_congr (by rw [hctx]; exact hview.launch) rfl
  have hround : inRound (counted (setCtx s c y) (s.count + 1 + 1 + 1)) c = inRound s c := by
    simp only [inRound, hregion, detOf_congr (s := s) (t := counted (setCtx s c y) _) rfl, hctx, hview.task]
  have hasid : asidOf (counted (setCtx s c y) (s.count + 1 + 1 + 1)) (ctxRegion s c) = asidOf s (ctxRegion s c) := by
    simp only [asidOf, rcbWord_congr (s := s) (t := counted (setCtx s c y) _) rfl]
  have hjob : ∀ token kind, newJob (counted (setCtx s c y) (s.count + 1 + 1 + 1)) c token kind = newJob s c token kind :=
    newJob_congr (by rw [hctx]; exact hview.launch) (by rw [hctx]; exact hview.aside) rfl
  have hspace : ∀ a, spaceOf (counted (setCtx s c y) (s.count + 1 + 1 + 1)) a = spaceOf s a := fun a => rfl
  have hmask : ((opndsAt x f m .cpy).b64.extractLsb' 24 3).toNat = (opndsAt x f m .cpy).b64.toNat / 2 ^ 24 % 8 := field_eq _ 24 3
  have hlen : cpldLen (opndsAt x f m .cpy).b64 = (opndsAt x f m .cpy).b64.toNat / 2 ^ 16 % 128 := field_eq _ 16 7
  have hdst : cpldDst (opndsAt x f m .cpy).b64 = (opndsAt x f m .cpy).b64.setWidth 12 := low_setWidth _ 12
  simp only [fresh_counted, counted_counted, count_counted, setCtx_count, modCtx_eq, hctx, setCtx_counted, setCtx_setCtx, hregion, hround,
    hasid, hjob, hspace, hmask, hlen, hdst]
  unfold cpldCtx cpldJob
  cases (opndsAt x f m .cpy).b64.getLsbD 27 <;> rfl

theorem copyLoadsAndQueries_holds : copyLoadsAndQueries := by
  intro m s c x f h
  have hregion : ctxRegion (setCtx s c (latched x .cpy (opndsAt x f m .cpy).a)) c = ctxRegion s c := ctxRegion_set s c _ (by rw [h.ctx]; rfl)
  have hpart : ctxPart (setCtx s c (latched x .cpy (opndsAt x f m .cpy).a)) c = ctxPart s c := by
    simp only [ctxPart, hregion, partOf_congr (setCtx_regions s c _)]
  have hround := inRound_latched h.ctx .cpy (opndsAt x f m .cpy).a
  have hout : outstanding (setCtx s c (latched x .cpy (opndsAt x f m .cpy).a)) c = outstanding s c := rfl
  have hjobs : ∀ d, cardsOf (setCtx s c (latched x .cpy (opndsAt x f m .cpy).a)) d = cardsOf s d := fun d => rfl
  have hshare : ∀ p d, cardShare (setCtx s c (latched x .cpy (opndsAt x f m .cpy).a)) p d = cardShare s p d := fun p d => rfl
  have hparts : ∀ r, partOf (setCtx s c (latched x .cpy (opndsAt x f m .cpy).a)) r = partOf s r := partOf_congr rfl
  have hbudget : budgetRegion (setCtx s c (latched x .cpy (opndsAt x f m .cpy).a)) (ctxRegion s c) 9 = budgetRegion s (ctxRegion s c) 9 :=
    budgetRegion_congr (setCtx_regions s c _) _ _
  refine ⟨fun p hp hplace hk => ?_, fun ha => ?_, fun ha => ?_, fun ha => ?_, fun ha => ?_, fun n hn hpos ha => ?_, fun ha => ?_, fun ha => ?_⟩
  · simp only [List.mem_cons, List.not_mem_nil, or_false] at hp
    obtain rfl | rfl := hp
    · exact cpld_issues h hplace hk
    · exact cpld_issues h hplace hk
  · show execCpyDrain m s = _
    rw [execCpyDrain, h.run (if_neg (by omega)), cpyPorts_latched]
    simp only [modCtx_eq, ctxOf_setCtx_same, setCtx_setCtx]
    rfl
  · show execCpyJobq m s = _
    rw [execCpyJobq, h.run (if_neg (by omega))]
    simp only [cpyPorts_latched, ha, hpart, hout, hjobs, hshare, hparts]
  · show execCpyJobq m s = _
    rw [execCpyJobq, h.run (if_neg (by omega))]
    simp only [cpyPorts_latched, ha, dieOf_setCtx]
  · show execCpyJobq m s = _
    rw [execCpyJobq, h.run (if_neg (by omega))]
    simp only [cpyPorts_latched, ha, hregion, hbudget]
    rfl
  · have hbits : x.regs.bits ((opndsAt x f m .cpy).a64.setWidth 12) = x.regs.g[n].bits := by
      have hd : ((opndsAt x f m .cpy).a64.setWidth 12).toNat = n := by
        rw [BitVec.toNat_setWidth, ha]; exact Nat.mod_eq_of_lt (by omega)
      rw [RegFile.bits, hd, if_neg (by omega), if_pos hn, Vector.getElem?_eq_getElem hn, Option.getD_some]
    show execCpyCpqry m s = _
    rw [execCpyCpqry, h.run (if_neg (by omega))]
    simp only [ctxOf_setCtx_same, cpyPorts_latched, latched_regs, hround, hbits]
    refine congrArg (fun v => Host.Outcome.next (setCtx s c (started x .cpy _ 2 (full64 v) (some 0)))) (if_congr ?_ rfl rfl)
    simp only [Bool.or_eq_true, Bool.not_eq_true', or_assoc]
    rfl
  · show execCpySlotq m s = _
    rw [execCpySlotq, h.run (if_neg (by omega))]
    simp only [cpyPorts_latched, ha, if_true, dieOf_setCtx]
    rfl
  · have hwant : (if (opndsAt x f m .cpy).a64.toNat / 256 = 1 then slotFree.toNat else ctxPart s c) =
        if 256 ≤ (opndsAt x f m .cpy).a64.toNat then 0x7F else ctxPart s c := if_congr (by omega) rfl rfl
    refine ⟨BitVec.ofNat 64 (((List.range 64).map fun n => bit (slotCell (dieOf s (ctxDie c)) ((opndsAt x f m .cpy).a64.toNat % 256) n ==
      if 256 ≤ (opndsAt x f m .cpy).a64.toNat then 0x7F else ctxPart s c) n).sum), ?_, fun n hn => ?_⟩
    · show execCpySlotq m s = _
      rw [execCpySlotq, h.run (if_neg (by omega))]
      simp only [cpyPorts_latched, dieOf_setCtx, hpart, hwant]
      rw [if_neg (by omega)]
    · rw [BitVec.getLsbD_ofNat, (testBit_bits _ 64 n).2]
      simp only [hn, decide_true, Bool.true_and]

/-! ## The limits that a bundle waits for -/

/-- The same change of one context keeps two machines the same, contexts one by one. -/
theorem SameCtxs.setCtx {s t : State} (h : SameCtxs s t) (c : Nat) (x : Ctx) : SameCtxs (setCtx s c x) (setCtx t c x) := by
  refine ⟨?_, fun d => ?_⟩
  · simp only [Machine.setCtx]; rw [h.rest]
  · simp only [ctxOf_setCtx, h.ctx]

/-- What a context sees of its scratchpad is the same in both. -/
theorem SameCtxs.viewBytes {s t : State} (h : SameCtxs s t) (c b a n : Nat) : viewBytes t c b a n = viewBytes s c b a n := by
  have hlaunch : ∀ l, launchOf t l = launchOf s l := fun l => by rw [h.rest]; rfl
  have hregion : ctxRegion t c = ctxRegion s c := ctxRegion_congr (by rw [h.ctx]) (by rw [h.rest])
  have hround : inRound t c = inRound s c := by
    simp only [inRound, hregion, detOf_congr (s := s) (t := t) (by rw [h.rest]), h.ctx]
  have hbase : roundBase t c = roundBase s c := by simp only [roundBase, hround, h.ctx, funext hlaunch]
  have hbyte : ∀ q, spadByte t c q = spadByte s c q := fun q => by
    simp only [spadByte, coreByte, roundCtx, hround, h.coreOf]
    cases inRound s c
    · rfl
    · simp only [if_true, h.ctx, hbase]
  refine List.map_congr_left fun q _ => ?_
  simp only [viewByte, hbyte, h.ctx]

theorem SameCtxs.cardWords {s t : State} (h : SameCtxs s t) (c a : Nat) : cardWords t c a = cardWords s c a := by
  simp only [Machine.cardWords, h.ctx, h.viewBytes]

/-- The count of bundles plays no part in a move. -/
theorem writeMove_bundle (x : Ctx) (n : Nat) (d : BitVec 12) (v : Val × Val) :
    writeMove { x with bundle := n } d v = { writeMove x d v with bundle := n } := by
  unfold writeMove
  split <;> rfl

theorem operandsOf_bundle (x : Ctx) (n : Nat) (f : Frame) (acting : List Slot) (p : Slot) :
    operandsOf { x with bundle := n } f acting p = operandsOf x f acting p := by
  have hmoves : ∀ (l : List Slot) (x : Ctx),
      l.foldl (fun y q => writeMove y (slotDst q.2) (sourceVal f (slotSrc q.2) q.1)) { x with bundle := n } =
        { l.foldl (fun y q => writeMove y (slotDst q.2) (sourceVal f (slotSrc q.2) q.1)) x with bundle := n } := by
    intro l
    induction l with
    | nil => exact fun _ => rfl
    | cons q l ih => exact fun x => by rw [List.foldl_cons, writeMove_bundle, ih]; rfl
  simp only [operandsOf, hmoves]

/-- A core none of whose contexts can act idles (R113, R115). -/
theorem selectIssue_idle {p : State} {k : Nat} (hold : (coreOf p k).holder < 4) (h : ∀ j, j < 4 → tryIssue p (k * 4 + j) = .wait) :
    selectIssue p k = modCore p k fun k => { k with issued := 0, yielded := false } := by
  have hfirst : ∀ l : List Nat, (∀ j ∈ l, j < 4) → firstAct p k l = none := by
    intro l
    induction l with
    | nil => exact fun _ => rfl
    | cons j l ih => exact fun hl => by simp [firstAct, h j (hl j (by simp)), Try.acted, ih fun i hi => hl i (by simp [hi])]
  have hnone : firstAct p k [((coreOf p k).holder + 1) % 4, ((coreOf p k).holder + 2) % 4, ((coreOf p k).holder + 3) % 4,
      (coreOf p k).holder] = none := hfirst _ fun j hj => by simp at hj; omega
  unfold selectIssue
  simp only [h _ hold, Try.acted, hnone]

/-- A bundle with a trigger that must wait waits before any of its moves acts (R50). -/
theorem tryBundle_stalls {p : State} {c len : Nat} {x : Ctx} {ws : List Word} {acting : List Slot} (hx : ctxOf p c = x)
    (ha : actingSlots x.regs ws = acting) (hread : pendingRead x acting = false) (hwrite : writeInProgress p c = false)
    (hd : deadlock x acting = none) (hscb : x.sys.scb = false) (hck : ckOn x = false)
    (hstall : acting.any (triggerStalls (setCtx p c { x with bundle := x.bundle + 1 }) c
      (makeFrame x ws len (bundleTodo (ws.headD 0) acting)) acting) = true) : tryBundle p c ws len = .wait := by
  have hmis : misplaced x (ws.headD 0) acting = none := misplaced_none (by rw [hck]; nofun)
  simp only [tryBundle, hx, ha, hread, hwrite, hd, undersized_off hx hscb, hmis, modCtx, hstall]
  simp

/-- A copy command that does not fit stalls its bundle (R90, R91, R253). -/
theorem triggerStalls_copy {s : State} {c n : Nat} {f : Frame} {acting : List Slot} {p : Slot} {token : Nat} {kind : JobKind}
    (hdst : (slotDst p.2).toNat = 0x3C0 + n) (hck : ckOn (ctxOf s c) = false) (hfits : jobFits s c (newJob s c token kind) = false)
    (hn : let o := operandsOf (ctxOf s c) f acting p
      (n = 8 ∧ token = (cardOf (cardWords s c o.a64.toNat)).token ∧ kind = .card (cardWords s c o.a64.toNat)) ∨
      (n = 0xB ∧ token = (o.c64.extractLsb' 8 6).toNat ∧ kind = .cpst 0 []) ∨
      (n = 0xD ∧ token = (o.b64.extractLsb' 0 6).toNat ∧ kind = .pagereq 0 false)) :
    triggerStalls s c f acting p = true := by
  have hlt : n < FU.cpy.size := by
    obtain ⟨rfl, -, -⟩ | ⟨rfl, -, -⟩ | ⟨rfl, -, -⟩ := hn <;> decide
  have hunit : unitOf (slotDst p.2) = some (.cpy, n) := unitOf_eq_some.mpr ⟨hdst, hlt⟩
  have hjoin : joinsArray (slotDst p.2) = false := by simp only [joinsArray, hunit]
  unfold triggerStalls
  simp only [hjoin, hunit, Bool.false_eq_true, if_false]
  split
  · rfl
  · obtain ⟨rfl, rfl, rfl⟩ | ⟨rfl, rfl, rfl⟩ | ⟨rfl, rfl, rfl⟩ := hn <;> simp only [hck, hfits] <;> rfl

/-- What a change of a core leaves as it is. -/
theorem modCore_same {s p : State} (h : SameCtxs s p) (k : Nat) (g : Core → Core) : (modCore p k g).active = s.active ∧
    (modCore p k g).mem = s.mem ∧ (modCore p k g).dies = s.dies ∧ ∀ d, ctxOf (modCore p k g) d = ctxOf s d :=
  ⟨by rw [h.rest]; rfl, by rw [h.rest]; rfl, by rw [h.rest]; rfl, fun d => h.ctx d⟩

theorem copyOverLimit_holds : copyOverLimit := by
  intro s k c x y ws h hlate hfetch hmay hscb hck acting f p hp r hr hdst u w hfits
  obtain ⟨⟨hread, hdead⟩, hstore⟩ := hmay
  have hsame := prepared_same h (by rw [hfetch]; nofun)
  have hx : ctxOf (prepared s k) c = x := (hsame.ctx c).trans h.ctx
  have hu : SameCtxs u (setCtx (prepared s k) c { x with bundle := x.bundle + 1 }) := hsame.setCtx c _
  have hops : operandsOf (ctxOf (setCtx (prepared s k) c { x with bundle := x.bundle + 1 }) c) f acting p = operandsOf x f acting p := by
    rw [ctxOf_setCtx_same, operandsOf_bundle]
  generalize hs1 : setCtx (prepared s k) c { x with bundle := x.bundle + 1 } = s1 at hu hops
  have hctx : ctxOf s1 c = { x with bundle := x.bundle + 1 } := by rw [← hs1, ctxOf_setCtx_same]
  have hck1 : ckOn (ctxOf s1 c) = false := by rw [hctx]; exact hck
  have hjob : ∀ token kind, newJob s1 c token kind = newJob s c token kind := newJob_congr (by rw [hctx, h.ctx]) (by rw [hctx, h.ctx])
    (by rw [hu.rest]; rfl)
  have hlimit : ∀ token kind kind' n, jobFits s c (newJob s c token kind) = false → (newJob s c n kind').isCard = (newJob s c n kind).isCard →
      jobFits s1 c (newJob s1 c token kind') = false := by
    intro token kind kind' n hno hcard
    rw [hjob, ← hno]
    exact jobFits_congr (by rw [hctx, h.ctx]) (by rw [hctx, h.ctx]) (by rw [hctx, h.ctx]) (by rw [hu.rest]; rfl) (by rw [hu.rest]; rfl)
      (by rw [hu.rest]; rfl) rfl rfl rfl hcard
  have hstalls : triggerStalls s1 c f acting p = true := by
    simp only [copyRows, List.mem_cons, List.not_mem_nil, or_false] at hr
    obtain rfl | rfl | rfl := hr
    · refine triggerStalls_copy (n := 8) hdst hck1 (hlimit _ _ _ 0 hfits rfl) (.inl ⟨rfl, ?_, ?_⟩) <;> rw [hops, hu.cardWords]
    · refine triggerStalls_copy (n := 0xB) hdst hck1 (hlimit _ _ (.cpst 0 []) 0 hfits rfl) (.inr (.inl ⟨rfl, ?_, rfl⟩))
      rw [hops]
      exact (field_eq _ 8 6).symm
    · refine triggerStalls_copy (n := 0xD) hdst hck1 (hlimit _ _ (.pagereq 0 false) 0 hfits rfl) (.inr (.inr ⟨rfl, ?_, rfl⟩))
      rw [hops]
      exact (low_eq _ 6).symm
  have hwait : tryIssue (prepared s k) c = .wait := (tryIssue_dict h hsame hlate hfetch).trans
    (tryBundle_stalls hx rfl hread (by rw [writeInProgress_congr hsame, hstore]) hdead hscb hck
      (by rw [hs1]; exact List.any_eq_true.mpr ⟨p, hp, hstalls⟩))
  have hidle : ∀ j, j < 4 → tryIssue (prepared s k) (k * 4 + j) = .wait := by
    intro j hj
    by_cases hjc : k * 4 + j = c
    · rw [hjc]; exact hwait
    · refine tryIssue_notRunning ?_
      rw [hsame.ctx, (h.others (k * 4 + j) (by omega) hjc).1]
      nofun
  exact ⟨_, (bundleIssue_selects h).2.trans (congrArg Host.Outcome.next
    (selectIssue_idle (by rw [hsame.coreOf]; exact h.holder.1) hidle)), modCore_same hsame k _⟩

/-- Settles O18: the commands are withheld or issue from the latched context, and what does not fit stalls its bundle. -/
theorem copyTriggers : Obligations.CopyTriggers :=
  ⟨copyCommands_holds, copyOverLimit_holds, cardChecks_holds, copyLoadsAndQueries_holds⟩

end Sys2Proof.Machine
end

section
/-! PROOFS for O35. The triggers of the link unit and the messages that move (R363 to R367). -/

namespace Sys2Proof.Machine

/-! ## What a pipe's ends depend on -/

/-- Two machines have the same links as context `c` sees them: the launches and the nodes that cannot be reached, and of every context
its launch, kernel slot and status. -/
structure SameLinks (s t : State) : Prop where
  launches : t.launches = s.launches
  unreach : t.unreach = s.unreach
  launch : ∀ d, (ctxOf t d).launch = (ctxOf s d).launch
  kslot : ∀ d, (ctxOf t d).kslot = (ctxOf s d).kslot
  status : ∀ d, (ctxOf t d).status = (ctxOf s d).status

section
variable {s t : State} (h : SameLinks s t)
include h

theorem SameLinks.launchOf (l : Nat) : launchOf t l = launchOf s l := by simp only [Machine.launchOf, h.launches]

theorem SameLinks.gridCore (c : Nat) : gridCore t c = gridCore s c := by simp only [Machine.gridCore, h.launch, h.launchOf]

theorem SameLinks.pipePlace (c n : Nat) : pipePlace t c n = pipePlace s c n := by simp only [Machine.pipePlace, h.launch, h.gridCore]

theorem SameLinks.pipeOf (c n : Nat) : pipeOf t c n = pipeOf s c n := by simp only [Machine.pipeOf, h.launch, h.launchOf]

theorem SameLinks.peerGone (p : Pipe) : peerGone t p = peerGone s p := by simp only [Machine.peerGone, h.unreach]

theorem SameLinks.peerHalted (c : Nat) (p : Pipe) (send : Bool) : peerHalted t c p send = peerHalted s c p send := by
  have hlaunch : Machine.launchOf t = Machine.launchOf s := funext h.launchOf
  have hpeer : peerCtx t c p send = peerCtx s c p send := by simp only [peerCtx, placeCtxs, h.launch, h.kslot, hlaunch]
  simp only [Machine.peerHalted, hpeer, h.launch, h.status, h.gridCore, hlaunch]

/-- What a RECV finds is a matter of the links and of the messages (R366). -/
theorem SameLinks.recvOutcome (hm : t.msgs = s.msgs) (c n : Nat) : recvOutcome t c n = recvOutcome s c n := by
  simp only [Machine.recvOutcome, h.pipePlace, h.pipeOf, h.peerGone, h.peerHalted, hm]

end

/-- A change of a context that leaves its launch, kernel slot and status leaves the links. -/
theorem sameLinks_setCtx {s : State} {c : Nat} {y : Ctx} (hl : y.launch = (ctxOf s c).launch) (hk : y.kslot = (ctxOf s c).kslot)
    (hs : y.status = (ctxOf s c).status) : SameLinks s (setCtx s c y) := by
  refine ⟨rfl, rfl, fun d => ?_, fun d => ?_, fun d => ?_⟩ <;> rw [ctxOf_setCtx] <;> split
  · next hd => rw [hl, hd]
  · rfl
  · next hd => rw [hk, hd]
  · rfl
  · next hd => rw [hs, hd]
  · rfl

theorem sameLinks_latched {s : State} {c : Nat} {x : Ctx} (hx : ctxOf s c = x) (u : FU) (a : Val) : SameLinks s (setCtx s c (latched x u a)) :=
  sameLinks_setCtx (by rw [hx]; rfl) (by rw [hx]; rfl) (by rw [hx]; rfl)

/-! ## RECV -/

/-- What a RECV finds where a message of its pipe stands first in the queue. -/
theorem recvOutcome_first {s : State} {c pipe : Nat} {pre post : List Message} {g : Message} (hmsgs : s.msgs = pre ++ g :: post)
    (hpre : ∀ k ∈ pre, k.place ≠ pipePlace s c pipe) (hg : g.place = pipePlace s c pipe) :
    recvOutcome s c pipe = if g.here then some (some g, BitVec.ofNat 64 (g.data.length * 2 ^ 16)) else none := by
  have hfind : s.msgs.find? (fun m => m.place == pipePlace s c pipe) = some g := by
    rw [hmsgs, List.find?_append, List.find?_eq_none.mpr (fun k hk => by simpa using hpre k hk)]
    simp [hg]
  simp only [recvOutcome, hfind]

/-- What it finds where its pipe holds none. -/
theorem recvOutcome_empty {s : State} {c pipe : Nat} {p : Pipe} (hnone : ∀ k ∈ s.msgs, k.place ≠ pipePlace s c pipe)
    (hp : pipeOf s c pipe = some p) :
    recvOutcome s c pipe = if peerGone s p then some (none, 0x0B) else if peerHalted s c p false then some (none, 1) else none := by
  have hfind : s.msgs.find? (fun m => m.place == pipePlace s c pipe) = none :=
    List.find?_eq_none.mpr fun k hk => by simpa using hnone k hk
  simp only [recvOutcome, hfind, hp]

/-- The value of a RECV: its message's bytes, or nothing (R366). -/
def recvValue : Option Message → Val
  | some m => BitVec.ofNat 4096 (leNat m.data)
  | none => 0

/-- The messages that a RECV leaves. -/
def recvLeaves (l : List Message) : Option Message → List Message
  | some m => l.filter fun k => k.id != m.id
  | none => l

/-- A context whose RECV of trigger `q` has completed (R366). -/
def received (x : Ctx) (r : Nat × Nat) (msg : Option Message) (st : D64) : Ctx :=
  fillResult { x with recvs := x.recvs.filter (· != r) } r.1 fun e =>
    { e with r := some (recvValue msg, BitVec.allOnes 4096), st := some st, arrived := true }

/-- A RECV that finds something completes; it changes its context and the messages. -/
theorem recvOne_gets {s : State} {c : Nat} {r : Nat × Nat} {msg : Option Message} {st : D64} (h : recvOutcome s c r.2 = some (msg, st)) :
    recvOne s c r = { setCtx s c (received (ctxOf s c) r msg st) with msgs := recvLeaves s.msgs msg } := by
  simp only [recvOne, h]
  cases msg <;> rfl

/-- One that finds nothing waits. -/
theorem recvOne_waits {s : State} {c : Nat} {r : Nat × Nat} (h : recvOutcome s c r.2 = none) : recvOne s c r = s := by
  simp only [recvOne, h]

/-- Every result of a trigger is the one that arrived. -/
theorem mem_fillList {l : List InFlight} {q : Nat} {g : InFlight → InFlight} {e : InFlight} (he : e ∈ fillList l q g) (hq : e.seq = q) :
    ∃ e', e = g e' := by
  obtain ⟨e', -, rfl⟩ := List.mem_map.mp he
  by_cases hseq : e'.seq = q
  · exact ⟨e', if_pos hseq⟩
  · rw [if_neg hseq] at hq
    exact absurd hq hseq

theorem received_infl {x : Ctx} {r : Nat × Nat} {msg : Option Message} {st : D64} {e : InFlight} (he : e ∈ (received x r msg st).infl)
    (hq : e.seq = r.1) : e.r = some (recvValue msg, BitVec.allOnes 4096) ∧ e.st = some st ∧ e.arrived = true := by
  obtain ⟨e', rfl⟩ := mem_fillList (l := x.infl) (g := fun e =>
    { e with r := some (recvValue msg, BitVec.allOnes 4096), st := some st, arrived := true }) he hq
  exact ⟨rfl, rfl, rfl⟩

/-! ## The triggers -/

/-- The value zero. -/
theorem full64_zero : full64 0 = some (0, BitVec.allOnes 4096) := by simp [full64]

/-- RECV where an eager trigger may stand: its one waiting entry is looked at once (R366). -/
theorem exec_recv {s : State} {m : Mv} {c : Nat} {x : Ctx} {f : Frame} (h : Acts s m c x f) (he : EagerOk s c x f)
    (hk : pipeCheck false true s c (opndsAt x f m .lnk) = none) (hrecvs : x.recvs = []) :
    let o := opndsAt x f m .lnk
    exec (.lnkRecv m) s = .next (recvOne
      (setCtx s c { started x .lnk o.a 4 (full64 0) (some 0) 0 [] true with recvs := [(x.seq, o.a64.toNat)] }) c (x.seq, o.a64.toNat)) := by
  show execLnkRecv m s = _
  rw [execLnkRecv, h.run ((eager_ok h he _ _).trans hk)]
  simp only [modCtx_eq, ctxOf_setCtx_same, setCtx_setCtx, addResult_latched, recvAll]
  have hr : (latched x .lnk (opndsAt x f m .lnk).a).recvs = [] := hrecvs
  have hq : (latched x .lnk (opndsAt x f m .lnk).a).seq = x.seq := rfl
  simp only [hr, hq, List.nil_append, List.foldl_cons, List.foldl_nil, full64_zero]

/-- A pipe is found by its number (R363). -/
theorem pipeOf_number {s : State} {c n : Nat} {p : Pipe} (h : pipeOf s c n = some p) : p.number = n := by
  unfold pipeOf at h
  split at h
  · nomatch h
  · split at h
    · nomatch h
    · simpa using List.find?_some h

/-- The state in which one more free value has been taken. -/
def freed (s : State) : State := { s with free := s.free + 1 }

theorem nextFree_setCtx (s : State) (c : Nat) (x : Ctx) : nextFree (setCtx s c x) = (s.free, setCtx (freed s) c x) := rfl

theorem SameLinks.trans {s t u : State} (h : SameLinks s t) (g : SameLinks t u) : SameLinks s u :=
  ⟨g.launches.trans h.launches, g.unreach.trans h.unreach, fun d => (g.launch d).trans (h.launch d),
    fun d => (g.kslot d).trans (h.kslot d), fun d => (g.status d).trans (h.status d)⟩

theorem sameLinks_freed (s : State) : SameLinks s (freed s) := ⟨rfl, rfl, fun _ => rfl, fun _ => rfl, fun _ => rfl⟩

/-- SEND of a valid length: its command behind its ports, with a free value taken (R365). -/
theorem exec_send {s : State} {m : Mv} {c : Nat} {x : Ctx} {f : Frame} (h : Acts s m c x f)
    (hk : sendCheck s c (opndsAt x f m .lnk) = none) :
    let o := opndsAt x f m .lnk
    exec (.lnkSend m) s = .next (issueCmd (setCtx (freed s) c
      (started x .lnk o.a 2 (some (Config.freeVal s.free, BitVec.allOnes 4096)) (some 0))) c
      (.send o.a64.toNat (leBytes o.c64.toNat o.b.toNat)) true) := by
  show execLnkSend m s = _
  rw [execLnkSend, h.run hk]
  simp only [nextFree_setCtx, modCtx_eq, ctxOf_setCtx_same, setCtx_setCtx, addResult_latched]

/-- A command that does not fit waits before the next bundle (R98). -/
theorem pump_full {s : State} {c : Nat} {y : Ctx} {w : Withheld} (hfull : itemFits (setCtx s c { y with going := [w] }) c w = false) :
    pump (setCtx s c { y with going := [w] }) c = setCtx s c { y with going := [w] } := by
  have hgoing : (ctxOf (setCtx s c { y with going := [w] }) c).going = [w] := by rw [ctxOf_setCtx_same]
  rw [pump, hgoing]
  simp only [List.length_singleton, pumpGo, ctxOf_setCtx_same, hfull, Bool.false_eq_true, if_false]

/-- A message that issues takes its place (R365). -/
theorem issueSend_eq (s : State) (c pipe : Nat) (data : List Byte) : issueSend s c pipe data =
    { s with count := s.count + 1, msgs := s.msgs ++ [{ id := s.count, place := pipePlace s c pipe, data := data }] } := rfl

section
variable {s : State} {m : Mv} {c : Nat} {x : Ctx} {f : Frame} (h : Acts s m c x f)
include h

/-- A SEND's trigger leaves the links as they are. -/
theorem sameLinks_send (v : Option (Val × Val)) (n : Nat) (w : List Withheld) : SameLinks s (setCtx (freed s) c
    { started x .lnk (opndsAt x f m .lnk).a n v (some 0) with going := w }) := by
  have hctx : ctxOf (freed s) c = x := h.ctx
  exact (sameLinks_freed s).trans (sameLinks_setCtx (by rw [hctx]; rfl) (by rw [hctx]; rfl) (by rw [hctx]; rfl))

/-- What room a pipe has for it is as before. -/
theorem sendRoom_send (v : Option (Val × Val)) (n : Nat) (w : List Withheld) (pipe k : Nat) :
    sendRoom (setCtx (freed s) c { started x .lnk (opndsAt x f m .lnk).a n v (some 0) with going := w }) c pipe k = sendRoom s c pipe k := by
  simp only [sendRoom, (sameLinks_send h v n w).pipePlace]
  rfl

/-- What a RECV finds is what its context would find before its trigger. -/
theorem recvOutcome_trigger (pipe n : Nat) : recvOutcome (setCtx s c
    { started x .lnk (opndsAt x f m .lnk).a 4 (full64 0) (some 0) 0 [] true with recvs := [(x.seq, pipe)] }) c n = recvOutcome s c n :=
  SameLinks.recvOutcome (sameLinks_setCtx (by rw [h.ctx]; rfl) (by rw [h.ctx]; rfl) (by rw [h.ctx]; rfl)) rfl c n

variable (he : EagerOk s c x f) (hk : pipeCheck false true s c (opndsAt x f m .lnk) = none) (hrecvs : x.recvs = [])
include he hk hrecvs

/-- A RECV that finds nothing waits (R366). -/
theorem exec_recv_waits (hnone : recvOutcome s c (opndsAt x f m .lnk).a64.toNat = none) : exec (.lnkRecv m) s = .next (setCtx s c
    { started x .lnk (opndsAt x f m .lnk).a 4 (full64 0) (some 0) 0 [] true with recvs := [(x.seq, (opndsAt x f m .lnk).a64.toNat)] }) := by
  rw [exec_recv h he hk hrecvs, recvOne_waits ((recvOutcome_trigger h _ _).trans hnone)]

/-- A RECV that finds something completes with it (R366). -/
theorem exec_recv_gets (msg : Option Message) (bytes : List Byte) (st : D64) (hvalue : recvValue msg = BitVec.ofNat 4096 (leNat bytes))
    (hsome : recvOutcome s c (opndsAt x f m .lnk).a64.toNat = some (msg, st)) :
    ∃ t, (exec (.lnkRecv m) s = .next t ∧ (ctxOf t c).recvs = [] ∧
      ∀ e ∈ (ctxOf t c).infl, e.seq = x.seq → e.r = some (BitVec.ofNat 4096 (leNat bytes), BitVec.allOnes 4096) ∧
        e.st = some st ∧ e.arrived = true) ∧ t.msgs = recvLeaves s.msgs msg := by
  refine ⟨_, ⟨(exec_recv h he hk hrecvs).trans (congrArg Host.Outcome.next (recvOne_gets ((recvOutcome_trigger h _ _).trans hsome))), ?_,
    fun e hmem hq => ?_⟩, rfl⟩
  · show (ctxOf (setCtx _ c _) c).recvs = []
    rw [ctxOf_setCtx_same, ctxOf_setCtx_same]
    simp [received, fillResult]
  · have hmem' : e ∈ (ctxOf (setCtx _ c (received _ (x.seq, (opndsAt x f m .lnk).a64.toNat) msg st)) c).infl := hmem
    rw [ctxOf_setCtx_same] at hmem'
    rw [← hvalue]
    exact received_infl hmem' hq

end

theorem linkTriggers_holds : linkTriggers := by
  intro m s c x f h
  refine ⟨fun hk => ⟨fun hon => ?_, fun hoff hgoing hroom => ?_, fun hoff hgoing hfull => ?_⟩,
    ⟨fun hon hlt => ?_, fun hplace hround => ?_, fun t he hk => ?_⟩,
    fun he hk hrecvs => ⟨fun pre g post hmsgs hpre hg => ⟨fun hway => ?_, fun hhere => ?_⟩, fun hnone p hp => ⟨fun hgone => ?_, fun hgone hhalt => ?_,
      fun hgone hhalt => ?_⟩⟩, fun hk p hp => ?_⟩
  · rw [exec_send h hk, issueCmd_withheld (y := started x .lnk _ 2 _ _) hon]
    rfl
  · have hnil : (started x .lnk (opndsAt x f m .lnk).a 2 (some (Config.freeVal s.free, BitVec.allOnes 4096)) (some 0)).going = [] := hgoing
    have hsame : ({ started x .lnk (opndsAt x f m .lnk).a 2 (some (Config.freeVal s.free, BitVec.allOnes 4096)) (some 0) with going := [] } : Ctx) =
        started x .lnk (opndsAt x f m .lnk).a 2 (some (Config.freeVal s.free, BitVec.allOnes 4096)) (some 0) := by rw [← hnil]
    rw [exec_send h hk, issueCmd_going (y := started x .lnk _ 2 _ _) hoff, hnil, List.nil_append, pump_fits]
    · rw [issueItem, issueSend_eq, (sameLinks_send h _ _ _).pipePlace, hsame]
      rfl
    · exact (sendRoom_send h _ _ _ _ _).trans hroom
  · have hnil : (started x .lnk (opndsAt x f m .lnk).a 2 (some (Config.freeVal s.free, BitVec.allOnes 4096)) (some 0)).going = [] := hgoing
    rw [exec_send h hk, issueCmd_going (y := started x .lnk _ 2 _ _) hoff, hnil, List.nil_append, pump_full]
    · rfl
    · exact (sendRoom_send h _ _ _ _ _).trans hfull
  · show execLnkRecv m s = _
    rw [execLnkRecv, h.trap (eager_misplaced h hon hlt _ _)]
    rfl
  · show execLnkRecv m s = _
    rw [execLnkRecv, h.trap (eager_denied h hplace hround _ _)]
    rfl
  · show execLnkRecv m s = _
    rw [execLnkRecv, h.trap ((eager_ok h he _ _).trans hk)]
    rfl
  · exact exec_recv_waits h he hk hrecvs ((recvOutcome_first hmsgs hpre hg).trans (by rw [hway]; rfl))
  · exact exec_recv_gets h he hk hrecvs (some g) g.data _ rfl ((recvOutcome_first hmsgs hpre hg).trans (by rw [hhere]; rfl))
  · exact exec_recv_gets h he hk hrecvs none [] _ rfl ((recvOutcome_empty hnone hp).trans (by rw [hgone]; rfl))
  · exact exec_recv_gets h he hk hrecvs none [] _ rfl ((recvOutcome_empty hnone hp).trans (by rw [hgone, hhalt]; rfl))
  · exact exec_recv_waits h he hk hrecvs ((recvOutcome_empty hnone hp).trans (by rw [hgone, hhalt]; rfl))
  · have hlinks : SameLinks s (setCtx (freed s) c (latched x .lnk (opndsAt x f m .lnk).a)) :=
      (sameLinks_freed s).trans (sameLinks_latched (s := freed s) h.ctx _ _)
    have hsend : (p.sender == some (latched x .lnk (opndsAt x f m .lnk).a).kslot) = decide (p.sender = some x.kslot) := by
      rw [Bool.eq_iff_iff, beq_iff_eq, decide_eq_true_iff]
      rfl
    show execLnkLstat m s = _
    rw [execLnkLstat, h.run hk]
    simp only [nextFree_setCtx, hlinks.pipeOf, hp, ctxOf_setCtx_same, pipeOf_number hp, hlinks.pipePlace, hlinks.peerGone, hlinks.peerHalted,
      modCtx_eq, setCtx_setCtx, addResult_latched, hsend]
    rfl

/-! ## Messages that move -/

/-- The launch with the end of a pipe closed (R366). -/
def closedAt (y : Launch) (v n : Nat) : Launch := { y with closed := (v, n) :: y.closed }

/-- What stands while the RECVs of a place complete: the launches, what cannot be reached, no message of the pipe, and what context `c`
holds. -/
structure Closing (s : State) (place : Nat × Nat × Nat) (c : Nat) (x : Ctx) (t : State) : Prop where
  launches : t.launches = s.launches
  unreach : t.unreach = s.unreach
  msgs : ∀ m ∈ t.msgs, m.place ≠ place
  ctx : ctxOf t c = x

theorem mem_recvLeaves {l : List Message} {msg : Option Message} {m : Message} (h : m ∈ recvLeaves l msg) : m ∈ l := by
  cases msg with
  | none => exact h
  | some g => exact (List.mem_filter.mp h).1

/-- The RECVs of another context change nothing of `c`, and bring no message. -/
theorem Closing.recvAll_other {s t : State} {place : Nat × Nat × Nat} {c d : Nat} {x : Ctx} (h : Closing s place c x t) (hd : d ≠ c) :
    Closing s place c x (recvAll t d) := by
  unfold recvAll
  generalize (ctxOf t d).recvs = rs
  induction rs generalizing t with
  | nil => exact h
  | cons r rs ih =>
    rw [List.foldl_cons]
    refine ih ?_
    cases hout : recvOutcome t d r.2 with
    | none => rw [recvOne_waits hout]; exact h
    | some p =>
      obtain ⟨msg, st⟩ := p
      rw [recvOne_gets hout]
      exact ⟨h.launches, h.unreach, fun m hm => h.msgs m (mem_recvLeaves hm), (ctxOf_setCtx_ne t _ (Ne.symm hd)).trans h.ctx⟩

/-- A RECV on a link whose peer context has halted finds that, where its pipe holds no message (R366). -/
theorem recvOutcome_closed {t : State} {c l v n : Nat} {y : Launch} {p : Pipe} (hl : (ctxOf t c).launch = some l)
    (hy : launchOf t l = some y) (hgrid : gridCore t c = v) (hclosed : (v, n) ∈ y.closed) (hpipe : pipeOf t c n = some p)
    (hpeer : p.peer.isSome) (hgone : peerGone t p = false) (hmsgs : ∀ m ∈ t.msgs, m.place ≠ (l, v, n)) :
    recvOutcome t c n = some (none, 1) := by
  have hplace : pipePlace t c n = (l, v, n) := by simp only [pipePlace, hl, hgrid, Option.getD_some]
  have hhalt : peerHalted t c p false = true := by
    obtain ⟨q, hq⟩ := Option.isSome_iff_exists.mp hpeer
    simp only [peerHalted, hq, hl, Option.bind_some, hy, hgrid, pipeOf_number hpipe, List.contains_iff_mem, hclosed]
  rw [recvOutcome_empty (by rw [hplace]; exact hmsgs) hpipe, hgone, hhalt]
  rfl

/-- A context none of whose RECVs waits. -/
theorem recvAll_none {t : State} {c : Nat} (h : (ctxOf t c).recvs = []) : recvAll t c = t := by simp [recvAll, h]

/-- Once its RECV has completed, the context stays as it is. -/
theorem Closing.foldl_done {s t : State} {place : Nat × Nat × Nat} {c : Nat} {x : Ctx} (h : Closing s place c x t) (hx : x.recvs = [])
    (cs : List Nat) : Closing s place c x (cs.foldl recvAll t) := by
  induction cs generalizing t with
  | nil => exact h
  | cons d ds ih =>
    rw [List.foldl_cons]
    by_cases hd : d = c
    · subst hd
      rw [recvAll_none (by rw [h.ctx, hx])]
      exact ih h
    · exact ih (h.recvAll_other hd)

/-- The RECV of a context whose turn comes completes, whatever the contexts before and behind it take. -/
theorem Closing.foldl {s t : State} {place : Nat × Nat × Nat} {c q n : Nat} {x : Ctx} (h : Closing s place c x t) (hx : x.recvs = [(q, n)])
    (hout : ∀ u, Closing s place c x u → recvOutcome u c n = some (none, 1)) {cs : List Nat} (hc : c ∈ cs) :
    Closing s place c (received x (q, n) none 1) (cs.foldl recvAll t) := by
  have hdone : (received x (q, n) none 1).recvs = [] := by simp [received, fillResult, hx]
  induction cs generalizing t with
  | nil => nomatch hc
  | cons d ds ih =>
    rw [List.foldl_cons]
    by_cases hd : d = c
    · subst hd
      refine Closing.foldl_done ?_ hdone ds
      have hone : recvAll t d = recvOne t d (q, n) := by simp [recvAll, h.ctx, hx]
      rw [hone, recvOne_gets (hout t h), h.ctx]
      exact ⟨h.launches, h.unreach, h.msgs, ctxOf_setCtx_same t d _⟩
    · exact ih (h.recvAll_other hd) ((List.mem_cons.mp hc).resolve_left (Ne.symm hd))

/-- The message leaves for another module: its receiver stands there (R365). -/
def leavesModule (s : State) (m : Message) : Bool :=
  match launchOf s m.place.1 with
  | some y => y.image.pipes.any fun p => p.number == m.place.2.2 &&
      (match p.peer with | some (n, _) => n != s.node | none => false) && p.receiver.isNone
  | none => false

/-- A message of this module's own that is next to arrive: whether it leaves for another module decides (R365). -/
theorem exec_messageArrive {s : State} {m : Message} (hd : s.args.d = 0) (hfind : s.msgs.find? (fun m => m.id == s.args.a && !m.here) = some m)
    (hfirst : ((s.msgs.takeWhile fun k => k.id != m.id).any fun k => k.place == m.place && !k.here) = false) :
    exec .messageArrive s = if leavesModule s m then .next { s with msgs := s.msgs.filter fun k => k.id != m.id }
      else .next { s with msgs := s.msgs.map fun k => if k.id = m.id then { k with here := true } else k } := by
  show execMessageArrive s = _
  rw [execMessageArrive, if_neg (by omega), if_neg (not_not.mpr hd)]
  simp only [hfind, hfirst, Bool.false_eq_true, if_false]
  rfl

/-- The peer context of a link has halted: the RECVs of its place are looked at again (R366). -/
theorem peerClosed_completes {s : State} {l place k : Nat} {y : Launch} {cs : List Nat} (hy : launchOf s l = some y)
    (hcs : y.ctxs[place / 256]? = some (k, cs)) :
    peerClosed s l place = cs.foldl recvAll (setLaunch s l (closedAt y (place / 256) (place % 256))) := by
  have hmod : modLaunch s l (fun y => { y with closed := (place / 256, place % 256) :: y.closed }) =
      setLaunch s l (closedAt y (place / 256) (place % 256)) := by simp only [modLaunch, hy, closedAt]
  have hat : (closedAt y (place / 256) (place % 256)).ctxs[place / 256]? = some (k, cs) := hcs
  simp only [peerClosed, hmod, launchOf_setLaunch_same, Option.bind_some, hat]

theorem messagesArrive_holds : messagesArrive := by
  refine ⟨fun s y p hn hle hy hpipe hgone hroom => ?_, fun s y p k c q cs hd hy hcs hc hl hgrid hrecvs hpipe hnumber hpeer hgone hmsgs => ?_,
    fun s m hd hfind hfirst => ⟨fun hnone => ?_, fun y hy hpeers => ?_, fun y p n q hy hp hnumber hpeer hne hrecv => ?_⟩⟩
  · show execMessageArrive s = _
    rw [execMessageArrive, if_neg (by omega), if_pos hn]
    have hfits : (peerGone s p || decide (512 < s.args.d) ||
        decide (Config.recvFlits < flitsAt s (s.args.a, s.args.b / 256, s.args.b % 256) + flitsOf s.args.d)) = false := by
      rw [hgone, decide_eq_false (by omega), decide_eq_false (Nat.not_lt.mpr hroom)]; rfl
    simp only [peerMessage, hy, Option.bind_some, hpipe, hfits, Bool.false_eq_true, if_false, fresh]
  · have hmod : modLaunch s s.args.a (fun y => closedAt y (s.args.b / 256) (s.args.b % 256)) =
        setLaunch s s.args.a (closedAt y (s.args.b / 256) (s.args.b % 256)) := by simp only [modLaunch, hy]
    let s1 := setLaunch s s.args.a (closedAt y (s.args.b / 256) (s.args.b % 256))
    have hy1 : launchOf s1 s.args.a = some (closedAt y (s.args.b / 256) (s.args.b % 256)) := launchOf_setLaunch_same _ _ _
    have hexec : exec .messageArrive s = .next (cs.foldl recvAll s1) := by
      show execMessageArrive s = _
      rw [execMessageArrive, if_pos hd]
      exact congrArg Host.Outcome.next (peerClosed_completes hy hcs)
    have hgridOf : ∀ u, (ctxOf u c).launch = some s.args.a → u.launches = s1.launches → gridCore u c = s.args.b / 256 := by
      intro u hlu hlaunches
      have hyu : launchOf u s.args.a = some (closedAt y (s.args.b / 256) (s.args.b % 256)) := by rw [← hy1]; simp only [launchOf, hlaunches]
      rw [← hgrid]
      simp only [gridCore, hlu, hyu, hl, hy]
      rfl
    have hout : ∀ u, Closing s1 (s.args.a, s.args.b / 256, s.args.b % 256) c (ctxOf s c) u →
        recvOutcome u c (s.args.b % 256) = some (none, 1) := by
      intro u hu
      have hlu : (ctxOf u c).launch = some s.args.a := by rw [hu.ctx]; exact hl
      have hyu : launchOf u s.args.a = some (closedAt y (s.args.b / 256) (s.args.b % 256)) := by rw [← hy1]; simp only [launchOf, hu.launches]
      refine recvOutcome_closed hlu hyu (hgridOf u hlu hu.launches) List.mem_cons_self ?_ hpeer ?_ hu.msgs
      · rw [← hpipe]
        simp only [pipeOf, hlu, hyu, hl, hy]
        rfl
      · rw [← hgone]
        simp only [peerGone, hu.unreach]
        rfl
    have hfinal : Closing s1 _ c (received (ctxOf s c) (q, s.args.b % 256) none 1) _ :=
      Closing.foldl (s := s1) (t := s1) ⟨rfl, rfl, hmsgs, rfl⟩ hrecvs hout hc
    refine ⟨_, closedAt y (s.args.b / 256) (s.args.b % 256), hexec, ?_, List.mem_cons_self, ?_, fun e he hq => ?_⟩
    · rw [← hy1]; simp only [launchOf, hfinal.launches]
    · rw [hfinal.ctx]
      simp [received, fillResult, hrecvs]
    · rw [hfinal.ctx] at he
      obtain ⟨hr, hst, harr⟩ := received_infl he hq
      exact ⟨hr.trans full64_zero.symm, hst, harr⟩
  · rw [exec_messageArrive hd hfind hfirst, leavesModule, hnone]
    rfl
  · have hstays : leavesModule s m = false := by
      rw [leavesModule, hy]
      refine List.any_eq_false.mpr fun p hp => ?_
      simp [hpeers p hp]
    rw [exec_messageArrive hd hfind hfirst, hstays]
    rfl
  · have hleaves : leavesModule s m = true := by
      rw [leavesModule, hy]
      exact List.any_eq_true.mpr ⟨p, hp, by simp [hnumber, hpeer, hne, hrecv]⟩
    rw [exec_messageArrive hd hfind hfirst, hleaves]
    rfl

/-- Settles O35: a RECV is one look at its pipe, a SEND a command like those of the copy engines, and the messages move one at a time. -/
theorem links : Obligations.Links := ⟨linkTriggers_holds, messagesArrive_holds⟩

end Sys2Proof.Machine
end

section
/-! PROOFS for O37. Results arrive (R119, R198, R199, R201 to R203) and asynchronous writes land (R84, R86, R89 to R91). -/

namespace Sys2Proof.Machine

/-! ## Asynchronous writes -/

/-- What a landing makes of a face, branch by branch (R80, R86, R91). -/
theorem asyncWrite_face {w : Nat} (dwp : D64) (free : Bool) (v : BitVec w) (f : Face w) : f.asyncWrite dwp free v = landsOn dwp free v f := by
  obtain ⟨vis, hid, wr, core, asyn, conf, pend, land⟩ := f
  cases asyn
  · cases core
    · simp [Face.asyncWrite, landsOn]
    · by_cases hdwp : dwp = 1#64
      · subst hdwp; simp [Face.asyncWrite, landsOn]
      · simp [Face.asyncWrite, landsOn, hdwp]
  · simp [Face.asyncWrite, landsOn]

/-- A landing acts on the one register at its socket. -/
theorem landsAt_asyncWrite (dwp : D64) (free : Bool) (d : BitVec 12) (v : Val) (r : RegFile) :
    LandsAt dwp free d v r (r.asyncWrite dwp free d v) := by
  refine ⟨fun n h h0 hd => ?_, fun n h hd => ?_, fun n h hd => ?_⟩ <;> subst hd
  · rw [RegFile.asyncWrite, modify_g _ _ _ _ _ _ h h0, asyncWrite_face]
  · rw [RegFile.asyncWrite, modify_v _ _ _ _ _ _ h, asyncWrite_face]
  · rw [RegFile.asyncWrite, modify_m _ _ _ _ _ _ h, asyncWrite_face]

section
variable (x : Ctx) (w : AsyncW) (v : Val)

theorem landOne_regs (h : x.aside = none) : (landOne x w v).regs = x.regs.asyncWrite x.sys.dwp (!w.sb) w.dst v := by
  simp [landOne, h]

theorem landOne_aside (h : x.aside = none) : (landOne x w v).aside = none := by simp [landOne, h]

theorem landOne_async : (landOne x w v).async = x.async.filter fun y => y.id != w.id := by unfold landOne; split <;> rfl

theorem landOne_late : (landOne x w v).late = x.late ++ w.fault.toList := by
  unfold landOne
  cases w.fault <;> split <;> simp

theorem landOne_sys : (landOne x w v).sys = x.sys := by unfold landOne; split <;> rfl
theorem landOne_lat : (landOne x w v).lat = x.lat := by unfold landOne; split <;> rfl
theorem landOne_infl : (landOne x w v).infl = x.infl := by unfold landOne; split <;> rfl

end

/-- The second write of a CPLD, its residency mask, lands behind the first (R90). -/
def landTwin (x : Ctx) (w : AsyncW) : Ctx :=
  match x.async.find? fun y => y.twin == some w.id with
  | some y => landOne x y (y.value.getD 0)
  | none => x

/-- A write that no job still serves lands, its twin behind it. -/
theorem exec_asyncLanding {s : State} {w : AsyncW} {v : Val} (hid : w.id = s.args.b) (hv : w.value = some v)
    (hjobs : ∀ d ∈ s.dies, ∀ j ∈ d.2.jobs, j.ctx = s.args.a → j.async ≠ some w.id)
    (hfind : (ctxOf s s.args.a).async.find? (fun w => w.id == s.args.b && w.twin.isNone) = some w) :
    exec .asyncLanding s = .next (setCtx s s.args.a (landTwin (landOne (ctxOf s s.args.a) w v) w)) := by
  show execAsyncLanding s = _
  rw [execAsyncLanding]
  dsimp only
  split
  · next die j hjob =>
    have hmem := List.mem_of_find?_eq_some hjob
    obtain ⟨d, hd, hj⟩ := List.mem_flatMap.mp hmem
    obtain ⟨j', hj', heq⟩ := List.mem_map.mp hj
    obtain rfl : j' = j := congrArg Prod.snd heq
    have hprop := List.find?_some hjob
    simp only [Bool.and_eq_true, beq_iff_eq] at hprop
    exact absurd (hid ▸ hprop.1.2) (hjobs d hd j' hj' hprop.1.1)
  · simp only [hfind, hv]
    rfl

theorem asyncLands_holds : asyncLands := by
  intro s x w v c hx hid htwin hv hjobs haside lands
  have hexec : ∀ l, x.async = w :: l → exec .asyncLanding s = .next (setCtx s c (landTwin (landOne x w v) w)) := fun l hl => by
    refine (exec_asyncLanding hid hv hjobs ?_).trans (by rw [hx])
    rw [hx, hl, List.find?_cons_of_pos (by simp [hid, htwin])]
  have honly : ∀ y, OnlyCtx s (setCtx s c y) c := fun y => ⟨rfl, fun d hd => ctxOf_setCtx_ne s y hd⟩
  refine ⟨fun hone => ⟨_, hexec [] hone, ?_⟩, fun y u htwo hy hne hu => ⟨_, (landOne x w v).regs, hexec [y] htwo, ?_⟩⟩
  · have hleft : (landOne x w v).async = [] := by rw [landOne_async, hone]; simp
    have hland : landTwin (landOne x w v) w = landOne x w v := by simp only [landTwin, hleft, List.find?_nil]
    rw [hland]
    refine ⟨⟨honly _, ?_⟩, ?_⟩
    · rw [ctxOf_setCtx_same]
      exact ⟨hleft, landOne_late x w v, landOne_lat x w v, landOne_infl x w v⟩
    · rw [ctxOf_setCtx_same, landOne_regs x w v haside]
      exact landsAt_asyncWrite _ _ _ _ _
  · have hleft : (landOne x w v).async = [y] := by rw [landOne_async, htwo]; simp [hne]
    have hland : landTwin (landOne x w v) w = landOne (landOne x w v) y u := by
      rw [landTwin, hleft, List.find?_cons_of_pos (by simp [hy])]
      simp only [hu, Option.getD_some]
    rw [hland]
    refine ⟨⟨honly _, ?_⟩, ?_, ?_⟩
    · rw [ctxOf_setCtx_same, landOne_async, hleft, landOne_late, landOne_late, landOne_lat, landOne_lat, landOne_infl, landOne_infl]
      exact ⟨by simp, by simp, rfl, rfl⟩
    · rw [landOne_regs x w v haside]
      exact landsAt_asyncWrite _ _ _ _ _
    · rw [ctxOf_setCtx_same, landOne_regs _ _ _ (landOne_aside x w v haside), landOne_sys]
      exact landsAt_asyncWrite _ _ _ _ _

/-! ## Results that arrive -/

/-- A load's context once it has taken its banks (R119). -/
def loaded (x : Ctx) (o : LsOp) (v : Val) (st : D64) (late : Option TrapInfo) : Ctx :=
  fillResult (dropLs x o.seq) o.seq fun e =>
    { e with r := e.r.map fun _ => (v, BitVec.allOnes 4096), st := some st, arrived := true, late := late }

/-- What `q`'s result carries where it has one. -/
def Arrived (x : Ctx) (q : Nat) (v : Val) (st : D64) : Prop :=
  ∀ e ∈ x.infl, e.seq = q → e.arrived = true ∧ e.r = some (v, BitVec.allOnes 4096) ∧ e.st = some st

theorem loaded_infl {x : Ctx} {o : LsOp} {v : Val} {st : D64} {late : Option TrapInfo} {q : Nat} (hq : o.seq = q)
    (hr : ∀ e ∈ x.infl, e.seq = q → e.r.isSome = true) : Arrived (loaded x o v st late) q v st := by
  intro e he hseq
  obtain ⟨e', he', rfl⟩ := List.mem_map.mp he
  by_cases hmine : e'.seq = o.seq
  · obtain ⟨p, hp⟩ := Option.isSome_iff_exists.mp (hr e' he' (hmine.trans hq))
    rw [if_pos hmine]
    exact ⟨rfl, congrArg (Option.map fun _ => (v, BitVec.allOnes 4096)) hp, rfl⟩
  · rw [if_neg hmine] at hseq
    exact absurd (hseq.trans hq.symm) hmine

/-- A load takes what it reads, with a fault of its banks; an LDFW takes its doubleword first. -/
theorem performLoad_eq (s : State) (c : Nat) (o : LsOp) (t : State) (ht : t = if o.kind = .ldfw then takeWord s c o else s) : ∃ late,
    performLoad s c o = setCtx t c (loaded (ctxOf t c) o (loadValue s c o).1 (loadValue s c o).2.1 late) := by
  subst ht
  cases hk : o.kind <;> exact ⟨_, by simp only [performLoad, hk, modCtx_eq, reduceCtorEq, if_true, if_false]; rfl⟩

/-- A load that has its turn arrives. -/
theorem exec_load {s : State} {o : LsOp} (hfind : (ctxOf s s.args.a).ls.find? (fun o => o.seq == s.args.b) = some o)
    (hp : feProceeds s s.args.a o = true) (hreads : o.kind.reads = true) :
    exec .resultArrival s = .next (performLoad s s.args.a o) := by
  show execResultArrival s = _
  simp only [execResultArrival, hfind, hp, hreads, Bool.and_self, if_true]

/-! ### What a load reads -/

theorem leNat_lt (l : List Byte) : leNat l < 256 ^ l.length := by
  induction l with
  | nil => simp [leNat]
  | cons b l ih =>
    have hb : b.toNat < 256 := b.isLt
    rw [leNat, List.length_cons, pow_succ]
    omega

theorem viewBytes_lt (s : State) (c b a n : Nat) : leNat (viewBytes s c b a n) < 2 ^ (8 * n) := by
  have h := leNat_lt (viewBytes s c b a n)
  rwa [viewBytes, List.length_map, natsFrom, List.length_map, List.length_range, show 256 = 2 ^ 8 from rfl, ← pow_mul] at h

/-- The 64 bits of a load of `n` bytes (R202). -/
def loadBits (n : Nat) (sx : Bool) (raw : Nat) : BitVec 64 :=
  if sx then (BitVec.ofNat (8 * n) raw).signExtend 64 else BitVec.ofNat 64 raw

theorem loadBits_eq {n raw : Nat} (h0 : 0 < n) (h8 : n ≤ 8) (hraw : raw < 2 ^ (8 * n)) (sx : Bool) :
    BitVec.ofNat 4096 (if sx then intCode 64 (intOf (8 * n) raw) else raw) = (loadBits n sx raw).setWidth 4096 := by
  cases sx
  · have h64 : raw < 2 ^ 64 := hraw.trans_le (Nat.pow_le_pow_right (by omega) (by omega))
    apply BitVec.eq_of_toNat_eq
    simp only [loadBits, Bool.false_eq_true, if_false, BitVec.toNat_setWidth, BitVec.toNat_ofNat, Nat.mod_eq_of_lt h64]
  · simp only [loadBits, if_true, intOf_eq (show 0 < 8 * n by omega) hraw, intCode_eq]
    exact BitVec.ofNat_toNat _ _

theorem loadValue_load {s : State} {c n : Nat} {o : LsOp} {sx : Bool} (hk : o.kind = .load n sx) : loadValue s c o =
    (BitVec.ofNat 4096 (if sx then intCode 64 (intOf (8 * n) (leNat (viewBytes s c o.bundle o.addr n)))
      else leNat (viewBytes s c o.bundle o.addr n)), 0, n) := by
  simp only [loadValue, hk]

theorem loadValue_word {s : State} {c : Nat} {o : LsOp} (hk : o.kind = .ldfk ∨ o.kind = .ldfw) :
    loadValue s c o = (BitVec.ofNat 4096 (leNat (viewBytes s c o.bundle o.addr 8)), 0, 8) := by
  rcases hk with hk | hk <;> simp only [loadValue, hk]

/-! ### LDFW takes its word -/

theorem inRound_congr {s t : State} {c : Nat} (hl : (ctxOf t c).launch = (ctxOf s c).launch) (htask : (ctxOf t c).task = (ctxOf s c).task)
    (hlaunches : t.launches = s.launches) (hregions : t.regions = s.regions) : inRound t c = inRound s c := by
  simp only [inRound, ctxRegion_congr hl hlaunches, detOf_congr hregions, htask]

/-- A set after a number is put in. -/
theorem NatSet.mem_insert_iff (l : List Nat) (k w : Nat) : NatSet.mem (NatSet.insert l k) w = (NatSet.mem l w || w == k) := by
  induction l with
  | nil => rw [Bool.eq_iff_iff]; simp [NatSet.insert, NatSet.mem]
  | cons a t ih =>
    simp only [NatSet.mem, List.contains_cons] at ih ⊢
    rw [NatSet.insert]
    split
    · rw [List.contains_cons, List.contains_cons, Bool.or_comm]
    · split
      · next hka => rw [List.contains_cons, hka]; cases w == a <;> simp
      · rw [List.contains_cons, ih, Bool.or_assoc]

theorem NatSet.mem_insertAll (ws : List Nat) (l : List Nat) (w : Nat) :
    NatSet.mem (ws.foldl NatSet.insert l) w = (NatSet.mem l w || ws.contains w) := by
  induction ws generalizing l with
  | nil => simp
  | cons k ws ih => rw [List.foldl_cons, ih, NatSet.mem_insert_iff, List.contains_cons, Bool.or_assoc]

/-- Outside a round a context empties tags at the banks (R203). -/
theorem ctxTags_empties {s : State} {c : Nat} (h : inRound s c = false) (a n : Nat) :
    ctxTags s c a n false = setCore s (ctxCore c) { coreOf s (ctxCore c) with
      empty := (tagWords a n).foldl NatSet.insert (coreOf s (ctxCore c)).empty
      tagBad := (tagWords a n).foldl NatSet.erase (coreOf s (ctxCore c)).tagBad } := by
  simp only [ctxTags, h, setTags, modCore_eq, Bool.false_eq_true, if_false]

/-- The context whose LDFW `o` has left its word EMPTY and taken it (R203). -/
theorem performLoad_ldfw {s : State} {c : Nat} {o : LsOp} {t : State} (hk : o.kind = .ldfw) (hround : inRound t c = false)
    (htake : takeWord s c o = modCtx (ctxTags t c o.addr 8 false) c (mapStores (leaveTags o))) :
    ∃ late, performLoad s c o = setCtx (ctxTags t c o.addr 8 false) c (loaded (mapStores (leaveTags o) (ctxOf t c)) o
      (BitVec.ofNat 4096 (leNat (viewBytes s c o.bundle o.addr 8))) 0 late) := by
  have hctx : ctxOf (ctxTags t c o.addr 8 false) c = ctxOf t c := by rw [ctxTags_empties hround]; rfl
  obtain ⟨late, h⟩ := performLoad_eq s c o (takeWord s c o) (by rw [if_pos hk])
  refine ⟨late, h.trans ?_⟩
  rw [htake, loadValue_word (.inr hk), modCtx_eq, setCtx_setCtx, ctxOf_setCtx_same, hctx]

/-- No STFF of its bundle stands beside the LDFW. -/
theorem takeWord_alone {s : State} {c : Nat} {o : LsOp}
    (h : ∀ p ∈ (ctxOf s c).ls, p.bundle = o.bundle → p.seq < o.seq → p.addr = o.addr → ∀ d, p.kind ≠ .stff d) :
    takeWord s c o = modCtx (ctxTags s c o.addr 8 false) c (mapStores (leaveTags o)) := by
  unfold takeWord
  dsimp only
  split
  · next p hp =>
    have hmem : p ∈ (ctxOf s c).ls := (List.mem_filter.mp (List.mem_of_mem_head? hp)).1
    split
    · next d hk => rw [if_neg fun hc => h p hmem hc.1 hc.2.1 hc.2.2 d hk]
    · rfl
  · rfl

/-- The STFF that stands beside it performs with it (R198). -/
theorem takeWord_beside {s : State} {c : Nat} {o p : LsOp} {rest : List LsOp} {d : List Byte} (hls : (ctxOf s c).ls = o :: p :: rest)
    (hb : p.bundle = o.bundle) (hq : p.seq < o.seq) (ha : p.addr = o.addr) (hk : p.kind = .stff d) :
    takeWord s c o = modCtx (ctxTags (performStore s c p) c o.addr 8 false) c (mapStores (leaveTags o)) := by
  have hnext : ((ctxOf s c).ls.filter fun p => p.seq != o.seq && !(p.kind.mayWait && decide (p.seq < o.seq))).head? = some p := by
    rw [hls, List.filter_cons_of_neg (by simp), List.filter_cons_of_pos (by simp [hk, LsKind.mayWait]; omega)]
    rfl
  simp only [takeWord, hnext, hk, hb, hq, ha, and_self, if_true]

/-! ### A STFF performs -/

/-- The context one of whose stores has performed; a fault is told with the result, or recorded where that is gone (R201). -/
def stored (x : Ctx) (p : LsOp) (late : Option TrapInfo) (told : Bool) : Ctx :=
  let y := fillResult { x with ls := x.ls.filter (· != p) } p.seq fun e => { e with arrived := true, late := late }
  if told then y else { y with late := y.late ++ late.toList }

theorem stored_ls (x : Ctx) (p : LsOp) (late : Option TrapInfo) (told : Bool) : (stored x p late told).ls = x.ls.filter (· != p) := by
  cases told <;> rfl

theorem stored_infl (x : Ctx) (p : LsOp) (late : Option TrapInfo) (told : Bool) : (stored x p late told).infl =
    fillList x.infl p.seq fun e => { e with arrived := true, late := late } := by
  cases told <;> rfl

theorem stored_launch (x : Ctx) (p : LsOp) (late : Option TrapInfo) (told : Bool) : (stored x p late told).launch = x.launch := by
  cases told <;> rfl

theorem stored_task (x : Ctx) (p : LsOp) (late : Option TrapInfo) (told : Bool) : (stored x p late told).task = x.task := by
  cases told <;> rfl

/-- A write outside a round is one of the core's. -/
theorem ctxWrite_core {s : State} {c : Nat} (h : inRound s c = false) (a : Nat) (bs : List Byte) : ∃ k,
    ctxWrite s c a bs = setCore s (ctxCore c) k ∧ k.spad = Memory.writeBytes (coreOf s (ctxCore c)).spad a bs ∨
    ctxWrite s c a bs = s ∧ bs = [] := by
  by_cases hbs : bs = []
  · exact ⟨{}, .inr ⟨if_pos hbs, hbs⟩⟩
  · exact ⟨_, .inl ⟨by rw [ctxWrite, if_neg hbs, h]; rfl, rfl⟩⟩

/-- The store's result is still in flight: it tells the fault (R201). -/
def storeTold (s : State) (c : Nat) (o : LsOp) : Bool :=
  (ctxOf s c).infl.any (fun e => e.seq == o.seq) ||
    (match (ctxOf s c).aside with | some a => a.infl.any fun e => e.seq == o.seq | none => false)

/-- The banks once the store has written its bytes and set its tags. -/
def banksWritten (s : State) (c : Nat) (o : LsOp) : State :=
  match o.tagWrite with
  | some (n, f) => ctxTags (ctxWrite s c o.addr o.writes) c o.addr n f
  | none => ctxWrite s c o.addr o.writes

theorem performStore_eq (s : State) (c : Nat) {p : LsOp} {d : List Byte} (hk : p.kind = .stff d) : performStore s c p =
    setCtx (banksWritten s c p) c (stored (ctxOf (banksWritten s c p) c) p (storeFault s c p) (storeTold s c p)) := by
  obtain ⟨seq, bundle, unit1, kind, addr, arrive⟩ := p
  subst hk
  rfl

/-- What stands once a STFF has performed outside a round: its bytes, its context, and what else the banks leave. -/
structure StffDone (s : State) (c : Nat) (p : LsOp) (d : List Byte) (t : State) : Prop where
  ctx : ∃ late told, ctxOf t c = stored (ctxOf s c) p late told
  round : inRound t c = false
  bytes : (coreOf s (ctxCore c)).spad.wf = true → ∀ i (h : i < d.length), (coreOf t (ctxCore c)).spad.read (p.addr + i) = d[i]

theorem performStore_stff {s : State} {c : Nat} {p : LsOp} {d : List Byte} (hround : inRound s c = false) (hk : p.kind = .stff d) :
    StffDone s c p d (performStore s c p) := by
  have hw : p.writes = d := by simp only [LsOp.writes, hk]
  have htag : p.tagWrite = some (8, true) := by simp only [LsOp.tagWrite, hk]
  generalize hs1 : ctxWrite s c p.addr d = s1
  have hs1eq : (s1.ctxs = s.ctxs ∧ s1.launches = s.launches ∧ s1.regions = s.regions) ∧ ((coreOf s (ctxCore c)).spad.wf = true →
      ∀ i (h : i < d.length), (coreOf s1 (ctxCore c)).spad.read (p.addr + i) = d[i]) := by
    obtain ⟨k, ⟨hwrite, hspad⟩ | ⟨hwrite, hnil⟩⟩ := ctxWrite_core hround p.addr d
    · refine ⟨by rw [← hs1, hwrite]; exact ⟨rfl, rfl, rfl⟩, fun hwf i hi => ?_⟩
      rw [← hs1, hwrite, coreOf_setCore_same, hspad, Memory.read_writeBytes_inside d _ _ i hwf hi]
    · refine ⟨by rw [← hs1, hwrite]; exact ⟨rfl, rfl, rfl⟩, fun _ i hi => ?_⟩
      rw [hnil] at hi
      nomatch hi
  obtain ⟨⟨hctxs, hlaunches, hregions⟩, hbytes⟩ := hs1eq
  have hctx : ctxOf s1 c = ctxOf s c := by simp only [ctxOf, hctxs]
  have hround1 : inRound s1 c = false := (inRound_congr (by rw [hctx]) (by rw [hctx]) hlaunches hregions).trans hround
  have hbanks : banksWritten s c p = setTags s1 (ctxCore c) p.addr 8 true := by
    simp only [banksWritten, hw, htag, hs1, ctxTags, hround1, Bool.false_eq_true, if_false]
  have hperf := performStore_eq s c hk
  rw [hbanks, show ctxOf (setTags s1 (ctxCore c) p.addr 8 true) c = ctxOf s c from hctx] at hperf
  rw [hperf]
  refine ⟨⟨storeFault s c p, storeTold s c p, by rw [ctxOf_setCtx_same]⟩, ?_, fun hwf i hi => ?_⟩
  · have hsame : inRound (setCtx (setTags s1 (ctxCore c) p.addr 8 true) c (stored (ctxOf s c) p (storeFault s c p) (storeTold s c p))) c =
        inRound s1 c := inRound_congr (by rw [ctxOf_setCtx_same, hctx, stored_launch]) (by rw [ctxOf_setCtx_same, hctx, stored_task]) rfl rfl
    exact hsame.trans hround1
  · rw [coreOf_setCtx, setTags, modCore_eq, coreOf_setCore_same]
    exact hbytes hwf i hi

/-- The results in flight keep what they carry when a store's is there. -/
theorem stored_results {x : Ctx} {q : Nat} (hr : ∀ e ∈ x.infl, e.seq = q → e.r.isSome = true) (p : LsOp) (late : Option TrapInfo) (told : Bool) :
    ∀ e ∈ (stored x p late told).infl, e.seq = q → e.r.isSome = true := by
  intro e he hseq
  rw [stored_infl] at he
  obtain ⟨e', he', rfl⟩ := List.mem_map.mp he
  by_cases hmine : e'.seq = p.seq
  · rw [if_pos hmine] at hseq ⊢
    exact hr e' he' hseq
  · rw [if_neg hmine] at hseq ⊢
    exact hr e' he' hseq

/-! ### Results of the units -/

/-- A context with the result of `e`'s trigger there; what the array found stays for the next boundary (R240, log entry 23). -/
def resultThere (x : Ctx) (e : InFlight) (late : Option TrapInfo) : Ctx :=
  let y := fillResult x e.seq fun d => { d with arrived := true, late := if late.isSome then late else d.late }
  if e.unit == .mat then { y with infl := fillList y.infl e.seq fun d => { d with late := none }, late := y.late ++ e.late.toList } else y

theorem resultThere_unit {x : Ctx} {e : InFlight} (hu : e.unit ≠ .mat) (late : Option TrapInfo) : resultThere x e late =
    fillResult x e.seq fun d => { d with arrived := true, late := if late.isSome then late else d.late } := by
  have hnot : (e.unit == FU.mat) = false := beq_eq_false_iff_ne.mpr hu
  simp only [resultThere, hnot, Bool.false_eq_true, if_false]

theorem resultThere_mat {x : Ctx} {e d : InFlight} (hu : e.unit = .mat) (late : Option TrapInfo) (h : d ∈ (resultThere x e late).infl)
    (hd : d.seq = e.seq) : d.arrived = true ∧ d.late = none := by
  rw [resultThere, hu] at h
  obtain ⟨d2, hd2, rfl⟩ := List.mem_map.mp h
  obtain ⟨d1, -, rfl⟩ := List.mem_map.mp hd2
  by_cases hmine : d1.seq = e.seq
  · simp [hmine]
  · simp [hmine] at hd

/-- A store that would write a part of a bank word with an uncorrectable error meets SOFT_ERROR (R201). -/
theorem storeFault_part {s : State} {c w : Nat} {o : LsOp} (hround : inRound s c = false) (hw : w ∈ bankWords o.addr o.writes.length)
    (hpoison : NatSet.mem (coreOf s (ctxCore c)).poison w = true) (hpart : 16 * w < o.addr ∨ o.addr + o.writes.length < 16 * w + 16) :
    storeFault s c o = some { code := .softError } := by
  have hbad : ((bankWords o.addr o.writes.length).any fun w =>
      wordBad s (roundCtx s c) (ctxCore c) w && !(decide (o.addr ≤ 16 * w) && decide (16 * w + 16 ≤ o.addr + o.writes.length))) = true := by
    refine List.any_eq_true.mpr ⟨w, hw, ?_⟩
    have hmem : wordBad s (roundCtx s c) (ctxCore c) w = true := by
      simp only [roundCtx, hround, Bool.false_eq_true, if_false, wordBad]
      exact hpoison
    rw [hmem]
    simp
    omega
  simp only [storeFault, hbad, Bool.true_or, if_true]

/-- The result of a unit that no queue holds, and that waits for nothing, is there; a withheld store of it may bring a fault. -/
theorem exec_result {s : State} {e : InFlight} (hls : (ctxOf s s.args.a).ls.all (fun o => o.seq != s.args.b) = true)
    (hrecvs : (ctxOf s s.args.a).recvs.all (fun r => r.1 != s.args.b) = true)
    (hfind : (ctxOf s s.args.a).infl.find? (fun e => e.seq == s.args.b) = some e) (he : e.engine = false) (ha : e.arrived = false)
    (hneed : e.need = none) : exec .resultArrival s = .next (setCtx s s.args.a (resultThere (ctxOf s s.args.a) e
      (((storesOf (ctxOf s s.args.a).going ++ storesOf (ctxOf s s.args.a).held).filter (·.seq == s.args.b)).findSome? (storeFault s s.args.a)))) := by
  have hls0 : (ctxOf s s.args.a).ls.find? (fun o => o.seq == s.args.b) = none :=
    List.find?_eq_none.mpr fun o ho => by simpa using List.all_eq_true.mp hls o ho
  have hrecvs0 : (ctxOf s s.args.a).recvs.find? (fun r => r.1 == s.args.b) = none :=
    List.find?_eq_none.mpr fun r hr => by simpa using List.all_eq_true.mp hrecvs r hr
  have hseq : e.seq = s.args.b := by simpa using List.find?_some hfind
  show execResultArrival s = _
  simp only [execResultArrival, hls0, hrecvs0, hfind, he, ha, hneed, Bool.false_or, Option.all_none, Bool.not_true, Bool.false_eq_true,
    if_false, modCtx_eq]
  rw [resultThere, hseq]

/-- No store of the trigger is withheld. -/
theorem noStore {s : State} {c q : Nat} {x : Ctx} (h : ∀ o, .store o ∈ x.held ++ x.going → o.seq ≠ q) :
    ((storesOf x.going ++ storesOf x.held).filter (·.seq == q)).findSome? (storeFault s c) = none := by
  have hnil : (storesOf x.going ++ storesOf x.held).filter (·.seq == q) = [] := by
    refine List.filter_eq_nil_iff.mpr fun o ho => ?_
    have hmem : ∀ l : List Withheld, o ∈ storesOf l → .store o ∈ l := fun l hl => by
      obtain ⟨w, hw, hsome⟩ := List.mem_filterMap.mp hl
      cases w <;> simp_all
    have hin : Withheld.store o ∈ x.held ++ x.going := by
      rcases List.mem_append.mp ho with h1 | h1
      · exact List.mem_append_right _ (hmem _ h1)
      · exact List.mem_append_left _ (hmem _ h1)
    simpa using h o hin
  rw [hnil]
  rfl

/-! ### The stores behind an LDFW -/

theorem mem_leaveTags {o p r : LsOp} (h : r ∈ leaveTags o p) : r.seq = p.seq := by
  unfold leaveTags at h
  split at h
  · rw [List.mem_singleton.mp h]
  · split at h
    · rw [List.mem_singleton.mp h]; split <;> rfl
    · obtain ⟨q, -, rfl⟩ := List.mem_map.mp h; rfl
    · rw [List.mem_singleton.mp h]

/-- An earlier STFF of the word leaves its data only. -/
theorem leaveTags_stff {o p : LsOp} {d : List Byte} (hk : p.kind = .stff d) (hq : p.seq < o.seq) (ha : p.addr = o.addr) :
    leaveTags o p = [{ p with kind := .store d }] := by
  simp only [leaveTags, if_neg (Nat.not_le.mpr hq), hk, ha, if_true]

theorem loaded_ls (x : Ctx) (o : LsOp) (v : Val) (st : D64) (late : Option TrapInfo) :
    (loaded x o v st late).ls = x.ls.filter fun p => p.seq != o.seq := rfl

/-- What is left of a withheld operation where `f` changes stores. -/
def leftOf (f : LsOp → List LsOp) (w : Withheld) : List Withheld :=
  match w with
  | .store p => (f p).map Withheld.store
  | w => [w]

theorem mapStores_eq (f : LsOp → List LsOp) (x : Ctx) : mapStores f x =
    { x with ls := x.ls.flatMap f, going := x.going.flatMap (leftOf f), held := x.held.flatMap (leftOf f) } := rfl

theorem mem_leftOf {o p : LsOp} {l : List Withheld} {d : List Byte} (hk : p.kind = .stff d) (hq : p.seq < o.seq) (ha : p.addr = o.addr)
    (h : .store p ∈ l) : Withheld.store { p with kind := .store d } ∈ l.flatMap (leftOf (leaveTags o)) := by
  refine List.mem_flatMap.mpr ⟨_, h, ?_⟩
  rw [leftOf, leaveTags_stff hk hq ha]
  exact List.mem_singleton_self _

section
variable {s : State} {c : Nat} {o : LsOp} (hk : o.kind = .ldfw) (hround : inRound s c = false)
  (hr : ∀ e ∈ (ctxOf s c).infl, e.seq = o.seq → e.r.isSome = true)
include hk hround hr

/-- An LDFW with a STFF of its bundle beside it: the STFF's bytes stand, its word is EMPTY, and the STFF is done (log entry 59). -/
theorem ldfw_beside {p : LsOp} {rest : List LsOp} {d : List Byte} (hls : (ctxOf s c).ls = o :: p :: rest) (hb : p.bundle = o.bundle)
    (hlt : p.seq < o.seq) (ha : p.addr = o.addr) (hkp : p.kind = .stff d) (hrest : ∀ r ∈ rest, r.seq ≠ p.seq)
    (hwf : (coreOf s (ctxCore c)).spad.wf = true) :
    let t := performLoad s c o
    Arrived (ctxOf t c) o.seq (BitVec.ofNat 4096 (leNat (viewBytes s c o.bundle o.addr 8))) 0 ∧
      (∀ w ∈ tagWords o.addr 8, NatSet.mem (coreOf t (ctxCore c)).empty w = true) ∧
      (∀ i (h : i < d.length), (coreOf t (ctxCore c)).spad.read (o.addr + i) = d[i]) ∧ ∀ r ∈ (ctxOf t c).ls, r.seq ≠ p.seq := by
  intro t
  have hdone := performStore_stff hround hkp
  obtain ⟨late, hload⟩ := performLoad_ldfw hk hdone.round (takeWord_beside hls hb hlt ha hkp)
  obtain ⟨late', told, hctx⟩ := hdone.ctx
  rw [hctx, ctxTags_empties hdone.round] at hload
  simp only [t, hload, ctxOf_setCtx_same, coreOf_setCtx, coreOf_setCore_same]
  refine ⟨loaded_infl rfl (stored_results hr p late' told), fun w hw => ?_, fun i hi => ha ▸ hdone.bytes hwf i hi, fun r hmem => ?_⟩
  · rw [NatSet.mem_insertAll]
    simp [hw]
  · rw [loaded_ls, mapStores_eq, stored_ls, hls] at hmem
    obtain ⟨p', hp', hr'⟩ := List.mem_flatMap.mp (List.mem_filter.mp hmem).1
    obtain ⟨hin, hne⟩ := List.mem_filter.mp hp'
    rw [mem_leaveTags hr']
    simp only [List.mem_cons] at hin
    obtain rfl | rfl | hin := hin
    · omega
    · simp at hne
    · exact hrest p' hin

/-- An LDFW with no such STFF: its word is EMPTY, and an earlier STFF of the word leaves its data only (log entry 59). -/
theorem ldfw_alone (hnone : ∀ p ∈ (ctxOf s c).ls, p.bundle = o.bundle → p.seq < o.seq → p.addr = o.addr → ∀ d, p.kind ≠ .stff d) :
    let t := performLoad s c o
    Arrived (ctxOf t c) o.seq (BitVec.ofNat 4096 (leNat (viewBytes s c o.bundle o.addr 8))) 0 ∧
      (coreOf t (ctxCore c)).spad = (coreOf s (ctxCore c)).spad ∧ (∀ w, NatSet.mem (coreOf t (ctxCore c)).empty w =
        (NatSet.mem (coreOf s (ctxCore c)).empty w || (tagWords o.addr 8).contains w)) ∧
      ∀ p d, p.kind = .stff d → p.seq < o.seq → p.addr = o.addr →
        (p ∈ (ctxOf s c).ls → { p with kind := .store d } ∈ (ctxOf t c).ls) ∧
        (.store p ∈ (ctxOf s c).held → .store { p with kind := .store d } ∈ (ctxOf t c).held) ∧
        (.store p ∈ (ctxOf s c).going → .store { p with kind := .store d } ∈ (ctxOf t c).going) := by
  intro t
  obtain ⟨late, hload⟩ := performLoad_ldfw hk hround (takeWord_alone hnone)
  rw [ctxTags_empties hround] at hload
  simp only [t, hload, ctxOf_setCtx_same, coreOf_setCtx, coreOf_setCore_same]
  refine ⟨loaded_infl rfl hr, trivial, fun w => NatSet.mem_insertAll _ _ w, fun p d hkp hlt ha =>
    ⟨fun hmem => ?_, fun hmem => mem_leftOf hkp hlt ha hmem, fun hmem => mem_leftOf hkp hlt ha hmem⟩⟩
  rw [loaded_ls, mapStores_eq]
  refine List.mem_filter.mpr ⟨List.mem_flatMap.mpr ⟨p, hmem, ?_⟩, by simp; omega⟩
  rw [leaveTags_stff hkp hlt ha]
  exact List.mem_singleton_self _

end

theorem resultsArrive_holds : resultsArrive := by
  intro s x c q hx here
  subst hx
  have hseqOf : ∀ e, (ctxOf s c).infl.find? (fun e => e.seq == q) = some e → e.seq = q := fun e h => by simpa using List.find?_some h
  refine ⟨fun o hfind hp hr => ?_, fun e hls hrecvs hfind he ha hneed => ⟨fun hu haside hstores => ?_, fun hu hstores => ?_,
    fun o w hu hround hgoing hheld hseq hw hpoison hpart => ?_⟩⟩
  · intro v
    have hq : o.seq = q := by simpa using List.find?_some hfind
    have hexec : o.kind.reads = true → exec .resultArrival s = .next (performLoad s c o) := exec_load hfind hp
    have hplain : o.kind ≠ .ldfw → ∃ late, performLoad s c o =
        setCtx s c (loaded (ctxOf s c) o (loadValue s c o).1 (loadValue s c o).2.1 late) := fun hk =>
      performLoad_eq s c o s (by rw [if_neg hk])
    have harrived : ∀ v st late, here (setCtx s c (loaded (ctxOf s c) o v st late)) v st := fun v st late => by
      show Arrived (ctxOf (setCtx s c _) c) q v st
      rw [ctxOf_setCtx_same]
      exact loaded_infl hq hr
    refine ⟨fun n sx hk hn => ?_, fun hk => ?_, fun hk => ?_, fun p rest d hk hround hls hb hlt haddr hkp hrest hwf => ?_,
      fun hk hround hnone => ?_⟩
    · obtain ⟨late, hload⟩ := hplain (by rw [hk]; nofun)
      have hn' : 0 < n ∧ n ≤ 8 := by
        simp only [List.mem_cons, List.not_mem_nil, or_false] at hn
        omega
      rw [loadValue_load hk, loadBits_eq hn'.1 hn'.2 (viewBytes_lt _ _ _ _ _)] at hload
      refine ⟨_, (hexec (by rw [hk]; rfl)).trans (congrArg _ hload), rfl, rfl, ?_, loadBits n sx _, harrived _ _ _, rfl⟩
      rw [ctxOf_setCtx_same, loaded_ls, hq]
    · obtain ⟨late, hload⟩ := hplain (by rw [hk]; nofun)
      rw [loadValue_load hk, if_neg Bool.false_ne_true] at hload
      exact ⟨_, (hexec (by rw [hk]; rfl)).trans (congrArg _ hload), rfl, rfl, harrived _ _ _⟩
    · obtain ⟨late, hload⟩ := hplain (by rw [hk]; nofun)
      rw [loadValue_word (.inl hk)] at hload
      exact ⟨_, (hexec (by rw [hk]; rfl)).trans (congrArg _ hload), rfl, harrived _ _ _⟩
    · obtain ⟨hthere, hrest⟩ := ldfw_beside hk hround (hq ▸ hr) hls hb hlt haddr hkp hrest hwf
      exact ⟨_, hexec (by rw [hk]; rfl), fun e he hseq => hthere e he (hseq.trans hq.symm), hrest⟩
    · obtain ⟨hthere, hrest⟩ := ldfw_alone hk hround (hq ▸ hr) hnone
      exact ⟨_, hexec (by rw [hk]; rfl), fun e he hseq => hthere e he (hseq.trans hq.symm), hrest⟩
  · refine ⟨_, exec_result hls hrecvs hfind he ha hneed, rfl, rfl, ?_, ?_⟩
    · rw [ctxOf_setCtx_same, resultThere, hu]
      rfl
    · intro d hmem hd
      rw [ctxOf_setCtx_same] at hmem
      exact resultThere_mat hu _ hmem (hd.trans (hseqOf e hfind).symm)
  · rw [exec_result hls hrecvs hfind he ha hneed, noStore hstores, resultThere_unit hu, hseqOf e hfind]
    rfl
  · have hfault : ((storesOf (ctxOf s c).going ++ storesOf (ctxOf s c).held).filter (·.seq == q)).findSome? (storeFault s c) =
        some { code := .softError } := by
      have hone : (storesOf (ctxOf s c).going ++ storesOf (ctxOf s c).held).filter (·.seq == q) = [o] := by
        rw [hgoing, hheld]
        simp [storesOf, hseq]
      rw [hone, List.findSome?_cons, storeFault_part hround hw hpoison hpart]
    rw [exec_result hls hrecvs hfind he ha hneed, hfault, resultThere_unit hu, hseqOf e hfind]
    rfl

/-- Settles O37: a load is one reading of the banks, with what an LDFW leaves of the stores before it; a landing acts on one register. -/
theorem resultsAndLandings : Obligations.ResultsAndLandings := ⟨resultsArrive_holds, asyncLands_holds⟩

end Sys2Proof.Machine
end

section
/-! PROOFS for O34. Seeds: how a context starts from one (R76, R77, R346, R349, R350), and how they enter their shards (R347, R348, R354,
R357, R358, R369). -/

namespace Sys2Proof.Machine

/-! ## Seeds enter a shard -/

/-- The machine without its contexts. -/
def sansCtxs (s : State) : State := { s with ctxs := [] }

/-- Waking the contexts that wait for a seed touches contexts only (R349). -/
theorem wakeSeekers_sansCtxs (s : State) (l j : Nat) (d : Seed) : sansCtxs (wakeSeekers s l j d) = sansCtxs s := by
  unfold wakeSeekers
  cases launchOf s l with
  | none => rfl
  | some y =>
    refine foldl_keeps sansCtxs _ _ s fun t c => ?_
    dsimp only
    split <;> rfl

/-- The launch with a seed behind those of a shard. -/
def shardFed (y : Launch) (j : Nat) (d : Seed) : Launch := { y with shards := y.shards.modify j (· ++ [d]) }

/-- What a seed's entry into a shard of `y` leaves: that launch fed, and contexts woken. -/
def Enters (s : State) (l : Nat) (y : Launch) (j : Nat) (d : Seed) (t : State) : Prop :=
  sansCtxs t = sansCtxs (setLaunch s l (shardFed y j d))

theorem addSeed_enters {s : State} {l : Nat} {y : Launch} (hy : launchOf s l = some y) (j : Nat) (d : Seed) :
    Enters s l y j d (addSeed s l j d) := by
  have hmod : modLaunch s l (fun y => { y with shards := y.shards.modify j (· ++ [d]) }) = setLaunch s l (shardFed y j d) := by
    simp only [modLaunch, hy, shardFed]
  rw [Enters, addSeed, wakeSeekers_sansCtxs, hmod]

/-- A seed whose kernel the cores cover enters its shard (R344). -/
theorem placeSeed_enters {s : State} {l : Nat} {y : Launch} (hy : launchOf s l = some y) {j : Nat} {d : Seed}
    (h : covers s.feat (kernelFeat y d.slot) = true) : Enters s l y j d (placeSeed s l j d) := by
  simp only [placeSeed, hy, h, if_true]
  exact addSeed_enters hy j d

section
variable {s t : State} {l : Nat} {y : Launch} {j : Nat} {d : Seed} (h : Enters s l y j d t)
include h

theorem Enters.launch : launchOf t l = some (shardFed y j d) := by
  have hl : t.launches = (setLaunch s l (shardFed y j d)).launches := (congrArg State.launches h :)
  rw [← launchOf_setLaunch_same s l (shardFed y j d)]
  simp only [launchOf, hl]

theorem Enters.mem : t.mem = s.mem := (congrArg State.mem h :)
theorem Enters.conts : t.conts = s.conts := (congrArg State.conts h :)
theorem Enters.moves : t.moves = s.moves := (congrArg State.moves h :)

end

/-- A unit of SEEDB taken changes no launch. -/
theorem launchOf_takeSeedUnit (s : State) (r l : Nat) : launchOf (takeSeedUnit s r) l = launchOf s l := by
  simp only [launchOf, takeSeedUnit, modRegion_launches]

theorem seedsDead_eq {s : State} {l : Nat} {y : Launch} (hy : launchOf s l = some y) : seedsDead s l = y.faulted := by
  simp only [seedsDead, hy, Option.any_some]

/-! ### The walker, continuations, and seeds that move -/

theorem walker_enters {s : State} {l : Nat} {y : Launch} (hy : launchOf s l = some y) (ha : s.args.a = l) (hstage : y.stage = .placed)
    (hf : y.faulted = false) (hk : y.kind = .operator) (hroom : seedRoom s y.region = true) (hnext : y.walker.next < y.walker.total)
    (hcov : covers s.feat (kernelFeat y y.walker.slot) = true) :
    let w : Walker := { y.walker with next := y.walker.next + 1 }
    let d := walkSeed y.walker y.walker.next
    ∃ t, exec .walkerStep s = .next t ∧ t.mem = s.mem ∧ launchOf t l = some (shardFed { y with walker := w } (shardOf y d.key 0) d) := by
  intro w d
  let y1 : Launch := { y with walker := w }
  have hmod : modLaunch s l (fun y => { y with walker := { y.walker with next := y.walker.next + 1 } }) = setLaunch s l y1 := by
    simp only [modLaunch, hy]; rfl
  have hgo : (y.stage != .placed || y.faulted || !seedRoom s y.region) = false := by rw [hstage, hf, hroom]; rfl
  have hexec : exec .walkerStep s = .next (placeSeed (takeSeedUnit (setLaunch s l y1) y.region) l (shardOf y d.key 0) d) := by
    show execWalkerStep s = _
    simp only [execWalkerStep, ha, hy, hgo, Bool.false_eq_true, if_false, hk, if_neg (Nat.not_le.mpr hnext), hmod]
    rfl
  have henters := placeSeed_enters (s := takeSeedUnit (setLaunch s l y1) y.region) (y := y1) (j := shardOf y d.key 0) (d := d)
    ((launchOf_takeSeedUnit _ _ _).trans (launchOf_setLaunch_same _ _ _))
    (by rw [takeSeedUnit, modRegion_feat]; exact hcov)
  exact ⟨_, hexec, henters.mem.trans (by rw [takeSeedUnit, modRegion_mem]; rfl), henters.launch⟩

/-- The round in which a continuation's or a peer's seed runs (R354). -/
def forNextRound (y : Launch) (d : Seed) : Seed := { d with round := if y.det then (y.round + 1) % 2 ^ 32 else d.round }

/-- The shard of a continuation: its context's own where it waits for a tag (R352). -/
def contShard (y : Launch) (k : Cont) : Nat :=
  match k.cond with
  | .tag _ _ => virtualBangle y k.ctx
  | _ => shardOf y k.seed.key (virtualBangle y k.ctx)

/-- A continuation leaves the list and its seed enters. -/
theorem enterCont_enters {s : State} {y : Launch} {k : Cont} (hy : launchOf s k.launch = some y) (v : D64) :
    Enters { s with conts := s.conts.filter fun q => q.id != k.id } k.launch y (contShard y k) (forNextRound y { k.seed with g6 := some v })
      (enterCont s k v) := by
  have hy' : launchOf { s with conts := s.conts.filter fun q => q.id != k.id } k.launch = some y := hy
  unfold enterCont
  dsimp only
  rw [hy']
  exact addSeed_enters hy' _ _

/-- A continuation with no watch status of its own is judged by its condition (R354). -/
theorem exec_continuationEnter {s : State} {y : Launch} {k : Cont} (hk : s.conts.find? (fun k => k.id == s.args.a) = some k)
    (hy : launchOf s k.launch = some y) (hst : k.status = none) (hf : y.faulted = false) {r : Option D64}
    (hr : condTest (contView s k.launch y) k.region k.cond = r) : exec .continuationEnter s = .next (r.elim
      { s with conts := s.conts.map fun q => if q.id = k.id then { q with armed := true } else q } (enterCont s k)) := by
  show execContinuationEnter s = _
  simp only [execContinuationEnter, hk, seedsDead_eq hy, hf, hy, hst, Bool.false_eq_true, if_false]
  rw [hr]
  cases r <;> rfl

/-- A peer module's seed without tiles enters its shard (R369, log entry 16). -/
theorem peerSeed_enters {s : State} {l own : Nat} {y : Launch} {bs : List Byte} (hy : launchOf s l = some y) (hclean : seedClean bs = true)
    (hmove : (seedOf bs).move = true) (htiles : tilesOf ((bs.drop 64).take 64) = ([], true)) (hnode : moveNode ((bs.drop 64).take 64) = s.node)
    (hslot : (seedOf bs).slot ∈ y.klist) (hstage : y.stage = .placed) (hf : y.faulted = false)
    (hcov : covers s.feat (kernelFeat y (seedOf bs).slot) = true) :
    Enters (takeSeedUnit s y.region) l y (shardOf y (seedOf bs).key own) (forNextRound y (seedOf bs)) (peerSeed s l own bs) := by
  have hgo : (!seedClean bs || !(seedOf bs).move || !(tilesOf ((bs.drop 64).take 64)).2 || moveNode ((bs.drop 64).take 64) != s.node ||
      !y.klist.contains (seedOf bs).slot || y.stage != .placed || y.faulted) = false := by
    rw [hclean, hmove, htiles, hnode, hstage, hf, List.contains_iff_mem.mpr hslot]
    simp
  have hseed : peerSeed s l own bs = placeSeed (takeSeedUnit s y.region) l (shardOf y (seedOf bs).key own) (forNextRound y (seedOf bs)) := by
    simp only [peerSeed, hy, hgo, Bool.false_eq_true, if_false]
    simp only [htiles, landTiles]
    rfl
  rw [hseed]
  refine placeSeed_enters ((launchOf_takeSeedUnit _ _ _).trans hy) ?_
  rw [takeSeedUnit, modRegion_feat]
  exact hcov

/-- The machine without a moving seed. -/
def withoutMove (s : State) (m : MoveSeed) : State := { s with moves := s.moves.filter fun k => k.id != m.id }

/-- A moving seed of this node enters its shard. -/
theorem landSeed_enters {s : State} {y : Launch} {m : MoveSeed} (hy : launchOf s m.launch = some y) (hnode : m.node = s.node)
    (hcov : covers s.feat (kernelFeat y m.seed.slot) = true) : Enters s m.launch y m.shard m.seed (landSeed s m) := by
  simp only [landSeed, hy, hnode, if_true]
  exact placeSeed_enters hy hcov

section
variable {s : State} {y : Launch} {m : MoveSeed} (hd : s.args.d = 0) (hm : s.moves.find? (fun m => m.id == s.args.a) = some m)
  (hy : launchOf s m.launch = some y) (hf : y.faulted = false)
include hd hm hy hf

/-- A moving seed of no tile, whose node can be reached, is copied at once (R369). -/
theorem exec_moveSeed_bare (hc : m.copied = false) (ht : m.tiles = []) (hu : NatSet.mem s.unreach m.node = false)
    (hg : (spaceOf s (asidOf s m.region)).gen = m.gen) : exec .moveSeedArrive s = .next (if m.ov.isSome then
      { s with moves := s.moves.map fun k => if k.id = m.id then { k with copied := true } else k } else landSeed (withoutMove s m) m) := by
  have hcut : moveCut s (asidOf s m.region) m = false := by simp only [moveCut, hu, ht, List.any_nil, Bool.or_self]
  have hcopy : copyTiles (withoutMove s m) m = some (withoutMove s m) := by
    have hgen : (spaceOf (withoutMove s m) (asidOf (withoutMove s m) m.region)).gen = m.gen := hg
    simp only [copyTiles, hgen, ht, ne_eq, not_true_eq_false, if_false, List.foldl_nil]
  rw [withoutMove] at hcopy
  show execMoveSeedArrive s = _
  simp only [execMoveSeedArrive, hd, ne_eq, not_true_eq_false, if_false, hm, seedsDead_eq hy, hf, hc, hcut, hcopy, Bool.false_eq_true]
  split <;> rfl

/-- One whose tiles have been copied waits for its round (R327, R361). -/
theorem exec_moveSeed_copied (hc : m.copied = true) :
    exec .moveSeedArrive s = .next (if y.round < m.seed.round then s else landSeed (withoutMove s m) m) := by
  show execMoveSeedArrive s = _
  simp only [execMoveSeedArrive, hd, ne_eq, not_true_eq_false, if_false, hm, seedsDead_eq hy, hf, hc, hy, Bool.false_eq_true, if_true]
  split <;> rfl

end

theorem seedsEnter_holds : seedsEnter := by
  intro s l y hy
  refine ⟨fun ha hstage hf hk hroom hnext hcov => ?_, fun k hfind hl hst => ⟨fun hf => ?_, fun hf => ⟨fun hdet => ?_, fun hnone => ?_, fun v hv => ?_⟩⟩,
    ?_, ?_⟩
  · obtain ⟨t, hexec, hmem, hlaunch⟩ := walker_enters hy ha hstage hf hk hroom hnext hcov
    exact ⟨t, _, hexec, hmem, hlaunch, rfl, rfl, rfl, rfl⟩
  · subst hl
    show execContinuationEnter s = _
    simp only [execContinuationEnter, hfind, seedsDead_eq hy, hf, if_true]
  · simp only [contView, hdet, Bool.false_and, Bool.false_eq_true, if_false]
  · subst hl
    exact exec_continuationEnter hfind hy hst hf hnone
  · subst hl
    have henters := enterCont_enters hy v
    exact ⟨_, _, exec_continuationEnter hfind hy hst hf hv, henters.launch, henters.conts, rfl⟩
  · intro bs d list ha hd hclean hmove htiles hnode hslot hstage hf hcov
    have henters := peerSeed_enters (own := s.args.b) hy hclean hmove htiles hnode hslot hstage hf hcov
    refine ⟨_, _, ?_, henters.mem.trans (by rw [takeSeedUnit, modRegion_mem]), henters.launch, rfl⟩
    show execMoveSeedArrive s = _
    rw [execMoveSeedArrive, if_pos hd, ha]
  · intro m hd hm hl hf lands
    subst hl
    have hlands : exec .moveSeedArrive s = .next (landSeed (withoutMove s m) m) → lands := fun hexec hnode hcov => by
      have henters := landSeed_enters (s := withoutMove s m) hy hnode hcov
      exact ⟨_, _, hexec, henters.launch, henters.moves, rfl⟩
    refine ⟨fun hc ht hu hg => ⟨fun hov => hlands ?_, fun hov => ?_⟩, fun hc => ⟨fun hlt => ?_, fun hle => hlands ?_⟩⟩
    · rw [exec_moveSeed_bare hd hm hy hf hc ht hu hg, hov]
      rfl
    · rw [exec_moveSeed_bare hd hm hy hf hc ht hu hg, if_pos hov]
    · rw [exec_moveSeed_copied hd hm hy hf hc, if_pos hlt]
    · rw [exec_moveSeed_copied hd hm hy hf hc, if_neg (Nat.not_lt.mpr hle)]

/-! ## A context starts from a seed -/

/-- A context at its start, before its first checkpoint (R76, R346). -/
def begun (s : State) (c l : Nat) (y : Launch) (k : Option Kernel) (kslot pos : Nat) (gang initial en : Bool) (live : List D64) (task : Task) :
    Ctx :=
  let retimed : Bool := match k with | some k => k.retimed | none => false
  { status := .running, launch := some l, kslot := kslot, gang := gang, task := task, pc := startPos k pos initial, regs := startRegs y.args live
    sys := { ckmode := if en then 1 else 0, scb := scbPolicy s y.region, retimed := retimed, ltb := if retimed then s.stepB else y.image.ltb }
    seq := (ctxOf s c).seq, bundle := (ctxOf s c).bundle, ls := (ctxOf s c).ls }

/-- The first checkpoint, where checkpoint mode is on. -/
def firstCheckpoint (x : Ctx) (en : Bool) : Ctx := if en then capture x x.pc 0 [] [] else x

/-- The kernel of a slot that the core holds for a launch. -/
def kernelAt (s : State) (c l kslot : Nat) : Option Kernel :=
  (coreOf s (ctxCore c)).kernels.find? fun k => k.launch == l && k.kslot == kslot

/-- A started context's demand for a segment, and its segment faults, are gone. -/
def demandCleared (s : State) (c l kslot : Nat) : State :=
  modKernel s (ctxCore c) l kslot fun k => { k with demand := k.demand.filter (fun d => d.1 != c), faulted := k.faulted.filter (· != c) }

theorem startCtx_eq {s : State} {l : Nat} {y : Launch} (hy : launchOf s l = some y) (c kslot pos : Nat) (gang ckEn initial : Bool)
    (live : List D64) (task : Task) : startCtx s c l kslot pos gang ckEn initial live task = setCtx (demandCleared s c l kslot) c
      (firstCheckpoint (begun s c l y (kernelAt s c l kslot) kslot pos gang initial (ckEn || ckptPolicy s y.region) live task)
        (ckEn || ckptPolicy s y.region)) := by
  unfold startCtx
  rw [hy]
  rfl

/-- The first checkpoint records, and leaves what the context starts with. -/
theorem firstCheckpoint_eq {x : Ctx} (en : Bool) (h : x.shadow = none) : ∃ sh bk ld as rpc, firstCheckpoint x en =
    { x with shadow := sh, banks := bk, landed := ld, async := as, sys := { x.sys with rpc := rpc } } ∧ sh.isSome = en := by
  cases en
  · exact ⟨x.shadow, x.banks, x.landed, x.async, x.sys.rpc, rfl, by rw [h]; rfl⟩
  · exact ⟨_, _, _, _, _, rfl, rfl⟩

/-- Code that is not residual begins at the seed's position (R371). -/
theorem startPos_plain {k : Option Kernel} (h : ∀ q, k = some q → q.resids = []) (pos : Nat) (initial : Bool) : startPos k pos initial = pos := by
  cases k with
  | none => rfl
  | some q => cases initial <;> simp [startPos, h q rfl]

theorem startRegs_k (args : List Byte) (live : List D64) (i : Nat) (h : i < 32) :
    (startRegs args live).k[i] = { vis := word64 args i, hid := word64 args i } := by simp [startRegs, face, word64]

/-- `g1` to `g5` from the seed, `g6` from the watch of its continuation (R346, R354). -/
theorem startRegs_g (args : List Byte) {live : List D64} (hlive : live.length = 5) (g6 : Option D64) (i : Nat) (h : i < 64) :
    (startRegs args (live ++ g6.toList)).g[i] =
      let w := if 1 ≤ i ∧ i ≤ 5 then live.getD (i - 1) 0 else if i = 6 then g6.getD 0 else 0
      { vis := w, hid := w } := by
  have hg : (startRegs args (live ++ g6.toList)).g[i] = if 1 ≤ i ∧ i ≤ 6 then face ((live ++ g6.toList).getD (i - 1) 0) else {} := by
    simp [startRegs]
  rw [hg]
  by_cases h5 : 1 ≤ i ∧ i ≤ 5
  · rw [if_pos (by omega), if_pos h5, List.getD_append _ _ _ _ (by omega)]
    rfl
  · rw [if_neg h5]
    by_cases h6 : i = 6
    · subst h6
      rw [if_pos (by omega), if_pos rfl, List.getD_append_right _ _ _ _ (by omega), hlive]
      cases g6 <;> rfl
    · rw [if_neg (by omega), if_neg h6]

/-- The seeds of a shard once one of them is taken. -/
def shardTaken (y : Launch) (j i : Nat) : Launch := { y with shards := y.shards.modify j (·.eraseIdx i) }

/-- The shard that a context asks next (R349). -/
def askedShard (s : State) (y : Launch) (n : Nat) : Nat := (virtualBangle y s.args.a + n) % max 1 y.shards.length

section
variable {s : State} {l n : Nat} {y : Launch} {again : Bool} (hst : (ctxOf s s.args.a).status = .seeking n again)
  (hl : (ctxOf s s.args.a).launch = some l) (hy : launchOf s l = some y) (hstage : y.stage = .placed) (hf : y.faulted = false)
  (hheld : (regionOf s (budgetRegion s y.region 8)).heldC = false) (hask : canAsk s s.args.a = true)
  (hfirst : firstAsker s y s.args.a (askedShard s y n) = true)

include hstage hf hheld hask hfirst in
/-- Nothing keeps the context from asking. -/
theorem asks_freely : (y.stage != .placed || y.faulted || (regionOf s (budgetRegion s y.region 8)).heldC || !canAsk s s.args.a ||
    !firstAsker s y s.args.a (askedShard s y n)) = false := by
  rw [hstage, hf, hheld, hask, hfirst]; rfl

include hst hl hy hstage hf hheld hask hfirst

/-- The context takes the first seed of the shard that it may take, and starts from it (R346, R349). -/
theorem exec_seedPickup_takes {i : Nat} {d : Seed} (hi : (y.shards.getD (askedShard s y n) []).findIdx? (mayTake s y s.args.a (n == 0)) = some i)
    (hd : (y.shards.getD (askedShard s y n) [])[i]? = some d) :
    exec .seedPickup s = .next (startCtx (setLaunch s l (shardTaken y (askedShard s y n) i)) s.args.a l d.slot d.pos false d.ckEn d.initial
      ((d.live ++ [0, 0, 0, 0, 0]).take 5 ++ d.g6.toList) { seed := some d, id := d.task, round := d.round }) := by
  have hgo := asks_freely hstage hf hheld hask hfirst
  have hmod : modLaunch s l (fun y => { y with shards := y.shards.modify (askedShard s y n) (·.eraseIdx i) }) =
      setLaunch s l (shardTaken y (askedShard s y n) i) := by simp only [modLaunch, hy, shardTaken]
  unfold askedShard at hgo hi hd hmod
  show execSeedPickup s = _
  simp only [execSeedPickup, hst, hl, hy, hgo, Bool.false_eq_true, if_false, hi, hd, modLaunch]
  rfl

/-- A shard without such a seed makes it ask the next, and a whole turn ends its search (R349). -/
theorem exec_seedPickup_none (hi : (y.shards.getD (askedShard s y n) []).findIdx? (mayTake s y s.args.a (n == 0)) = none) :
    exec .seedPickup s = .next (setCtx s s.args.a { ctxOf s s.args.a with
      status := if n + 1 < max 1 y.shards.length then .seeking (n + 1) again else if again then .seeking 0 false else .halted }) := by
  have hgo := asks_freely hstage hf hheld hask hfirst
  unfold askedShard at hgo hi
  show execSeedPickup s = _
  simp only [execSeedPickup, hst, hl, hy, hgo, Bool.false_eq_true, if_false, hi]

end

/-- Where checkpoint mode is asked for by a region is a matter of the regions (R334). -/
theorem ckptPolicy_congr {s t : State} (h : t.regions = s.regions) (r : Nat) : ckptPolicy t r = ckptPolicy s r := by
  simp only [ckptPolicy, fieldRegion_congr h, rcbWord_congr h]

theorem scbPolicy_congr {s t : State} (h : t.regions = s.regions) (r : Nat) : scbPolicy t r = scbPolicy s r := by
  simp only [scbPolicy, fieldRegion_congr h, rcbWord_congr h]

theorem seedPickupStarts_holds : seedPickupStarts := by
  intro s c l y n again ha hst hl hy hstage hf hheld hc hsave hstop j hfirst
  subst ha
  have hask : canAsk s s.args.a = true := by rw [canAsk, hsave, hstop, decide_eq_true hc]; rfl
  refine ⟨fun i d hi hd hlive hres => ?_, fun hi => exec_seedPickup_none hst hl hy hstage hf hheld hask hfirst hi⟩
  have hexec := exec_seedPickup_takes hst hl hy hstage hf hheld hask hfirst hi hd
  let y1 := shardTaken y (askedShard s y n) i
  let s1 := setLaunch s l y1
  have hy1 : launchOf s1 l = some y1 := launchOf_setLaunch_same _ _ _
  have htake : (d.live ++ [0, 0, 0, 0, 0]).take 5 = d.live := by rw [← hlive]; exact List.take_left
  rw [htake, startCtx_eq hy1] at hexec
  have hpos : startPos (kernelAt s1 s.args.a l d.slot) d.pos d.initial = d.pos := startPos_plain (fun q hq => by
    have hmem : q ∈ (coreOf s (ctxCore s.args.a)).kernels := List.mem_of_find?_eq_some hq
    have hmine := List.find?_some hq
    simp only [Bool.and_eq_true, beq_iff_eq] at hmine
    exact hres q hmem hmine.1) _ _
  have hen : (d.ckEn || ckptPolicy s1 y1.region) = true ↔ d.ckEn = true ∨ ckptPolicy s y.region = true := by
    rw [Bool.or_eq_true, show ckptPolicy s1 y1.region = ckptPolicy s y.region from ckptPolicy_congr (s := s) (t := s1) rfl _]
  have hscb : scbPolicy s1 y1.region = scbPolicy s y.region := scbPolicy_congr (s := s) (t := s1) rfl _
  refine ⟨_, hexec, rfl, ⟨y1, hy1, rfl⟩, ?_⟩
  rw [ctxOf_setCtx_same]
  generalize (d.ckEn || ckptPolicy s1 y1.region) = en at hen ⊢
  obtain ⟨sh, bk, ld, as, rpc, hx, hsh⟩ := firstCheckpoint_eq (x := begun s1 s.args.a l y1 (kernelAt s1 s.args.a l d.slot) d.slot d.pos false d.initial
    en (d.live ++ d.g6.toList) { seed := some d, id := d.task, round := d.round }) en rfl
  rw [hx]
  refine ⟨rfl, rfl, rfl, hpos, rfl, rfl, rfl, rfl, rfl, rfl, rfl, rfl, if_congr hen rfl rfl, ?_, hscb, rfl, rfl, rfl,
    fun i h => startRegs_g _ hlive _ i h, fun i h => startRegs_k _ _ i h, rfl, rfl, rfl⟩
  rw [hsh]
  exact hen

/-- Settles O34: a context starts with what its seed and the argument block give; a seed that enters a shard stands behind the others. -/
theorem seedsStart : Obligations.SeedsStart := ⟨seedPickupStarts_holds, seedsEnter_holds⟩

end Sys2Proof.Machine
end

section
/-! PROOFS for O57, O2 and O4. What `br.r` and `br.st` hold (R128), the end of a bundle (R116, R127), and the branch operations (R126 to
R130). -/

namespace Sys2Proof.Machine

/-! ## The ports of the branch unit (R128) -/

/-- A field of a number of 64 bits that a move carries (R52). -/
theorem field_moved {n : Nat} (h : n < 2 ^ 64) (i k : Nat) :
    (((BitVec.ofNat 64 n).setWidth 4096).extractLsb' i k).toNat = n / 2 ^ i % 2 ^ k := by
  rw [BitVec.extractLsb'_toNat, Nat.shiftRight_eq_div_pow, BitVec.toNat_setWidth_of_le (by omega), BitVec.toNat_ofNat, Nat.mod_eq_of_lt h]

theorem field_moved_zero {n i k : Nat} (h : n < 2 ^ 64) (hz : n / 2 ^ i % 2 ^ k = 0) :
    ((BitVec.ofNat 64 n).setWidth 4096).extractLsb' i k = 0 :=
  BitVec.eq_of_toNat_eq ((field_moved h i k).trans (hz.trans BitVec.toNat_zero.symm))

/-- Settles O57: the frame takes the depths and the iteration when the bundle issues, and each field of `br.st` is its own depth. -/
theorem liveBranchPorts : Obligations.LiveBranchPorts := by
  intro x ws len n todo hloops hlink f hr hst
  have hsrc : (sourceVal f 0x204 n).1 = (BitVec.ofNat 64 (x.loops.length + x.link.length * 256)).setWidth 4096 :=
    congrArg (BitVec.setWidth 4096) hst
  have hlt : x.loops.length + x.link.length * 256 < 2 ^ 14 := by omega
  have hlt64 := hlt.trans (show 2 ^ 14 < 2 ^ 64 by decide)
  rw [hsrc, field_moved hlt64, field_moved hlt64]
  refine ⟨congrArg (BitVec.setWidth 4096) hr, by omega, by omega, field_moved_zero hlt64 (by omega), field_moved_zero hlt64 ?_⟩
  rw [Nat.div_eq_of_lt hlt, Nat.zero_mod]

/-! ## The end of a bundle (R116, R127) -/

section
variable {x : Ctx} {f : Frame} {e : LoopEnt}

/-- A loop that closes here with no iteration left goes, and the check goes on with the next one. -/
theorem loopCheck_leaves (he : LoopCloses e x f) (hleft : e.left ≤ 1) (es : List LoopEnt) :
    loopCheck x.link.length f.next (e :: es) = loopCheck x.link.length f.next es :=
  (if_pos he).trans (if_neg (Nat.not_lt.mpr hleft))

/-- Several loops that share an exit go in one check. -/
theorem loopCheck_leavesAll (ends rest : List LoopEnt) (h : ∀ e ∈ ends, LoopCloses e x f ∧ e.left ≤ 1) :
    loopCheck x.link.length f.next (ends ++ rest) = loopCheck x.link.length f.next rest := by
  induction ends with
  | nil => rfl
  | cons e es ih =>
    obtain ⟨⟨he, hleft⟩, hes⟩ := List.forall_mem_cons.mp h
    rw [List.cons_append, loopCheck_leaves he hleft, ih hes]

/-- A loop that closes here with iterations left starts its next one. -/
theorem loopCheck_again (he : LoopCloses e x f) (hleft : 1 < e.left) (es : List LoopEnt) :
    loopCheck x.link.length f.next (e :: es) = ({ e with left := e.left - 1, iter := e.iter + 1 } :: es, e.start) :=
  (if_pos he).trans (if_pos hleft)

/-- At a loop that does not close here the context falls through. -/
theorem loopCheck_falls (he : ¬ LoopCloses e x f) (es : List LoopEnt) : loopCheck x.link.length f.next (e :: es) = (e :: es, f.next) :=
  if_neg he

end

/-- The end of the bundle of a context: its stacks and position are settled, and the position's kernel decides whether it is foreign. -/
theorem endBundle_eq {s : State} {c : Nat} {x : Ctx} {f : Frame} (hx : ctxOf s c = x) (hf : x.frame = some f) :
    endBundle s c = { setCtx s c { closeBundle x f (settled x f) (x.lsc + 1) (hdrIdle f.header).toNat with
      foreign := illTransfer (kernelOf s c) f.pos (settled x f).2 } with active := none } := by
  simp only [endBundle, hx, hf, closeBundle]

/-- Settles O2: the bundle closes with the settled stacks and position, which the loop check gives where no branch set one. -/
theorem bundleEnds : Obligations.BundleEnds := by
  intro s c x f hc htodo
  obtain ⟨ha, hx, hf⟩ := current_some hc
  refine ⟨_, step_end ha (by rw [hx]; exact hf) htodo, ?_⟩
  rw [endBundle_eq hx hf, ctxOf_leave]
  refine ⟨rfl, rfl, rfl, fun d hd => ctxOf_setCtx_ne _ _ hd, rfl, rfl, rfl, rfl, rfl, fun hset => ?_, fun ends rest hset hloops hends => ?_⟩
  · have hsettled : settled x f = (x.loops, f.next) := if_pos hset
    exact ⟨congrArg Prod.snd hsettled, congrArg Prod.fst hsettled⟩
  · have hcheck : settled x f = loopCheck x.link.length f.next rest := by
      rw [settled, if_neg (by rw [hset]; exact Bool.false_ne_true), hloops, loopCheck_leavesAll ends rest hends]
    have goes : ∀ p, loopCheck x.link.length f.next rest = p → (settled x f).2 = p.2 ∧ (settled x f).1 = p.1 := by
      rintro p rfl
      rw [hcheck]
      exact ⟨rfl, rfl⟩
    refine ⟨fun hrest => goes ([], f.next) (by rw [hrest]; rfl), fun l ls hrest hopen => goes (l :: ls, f.next) ?_,
      fun l ls hrest hcloses hleft => goes (_ :: ls, l.start) ?_⟩
    · rw [hrest, loopCheck_falls hopen]
    · rw [hrest, loopCheck_again hcloses hleft]

/-! ## The branch operations (R126 to R130) -/

/-- Setting the position of a context whose bundle is being carried out. -/
theorem goto_eq {x : Ctx} {f : Frame} (hf : x.frame = some f) (pos : Nat) : goto x pos = goesTo x f pos := by
  simp only [goto, modFrame, hf, goesTo, Option.map_some]

theorem posCheck_ok {s : State} {c : Nat} {o : Opnds} (h : o.a64.toNat < 2 ^ 20) : posCheck s c o = none :=
  if_neg (not_not.mpr (high_zero 20 44 h))

theorem posCheck_bounds {s : State} {c : Nat} {o : Opnds} (h : 2 ^ 20 ≤ o.a64.toNat) : posCheck s c o = some .bounds :=
  if_pos (high_ne 20 44 rfl h)

/-- CALL's checks: a position, and room on the link stack. -/
theorem callCheck_ok {s : State} {c : Nat} {o : Opnds} (ha : o.a64.toNat < 2 ^ 20) (hlink : (ctxOf s c).link.length < 32) :
    callCheck s c o = none := by
  have hroom : ¬ (ctxOf s c).link.length ≥ Config.linkDepth := Nat.not_le.mpr hlink
  simp only [callCheck, firstOf, List.findSome?, posCheck_ok ha, if_neg hroom]

theorem callCheck_bounds {s : State} {c : Nat} {o : Opnds} (h : 2 ^ 20 ≤ o.a64.toNat ∨ 32 ≤ (ctxOf s c).link.length) :
    callCheck s c o = some .bounds := by
  by_cases ha : o.a64.toNat < 2 ^ 20
  · have hfull : (ctxOf s c).link.length ≥ Config.linkDepth := h.resolve_left (by omega)
    simp only [callCheck, firstOf, List.findSome?, posCheck_ok ha, if_pos hfull]
  · simp only [callCheck, firstOf, List.findSome?, posCheck_bounds (by omega : 2 ^ 20 ≤ o.a64.toNat)]

theorem frameNext_eq {x : Ctx} {f : Frame} (hf : x.frame = some f) : frameNext x = f.next := by rw [frameNext, hf]

/-- LOOP's checks, as bounds on its operands: the trip count, the exit position, which is ahead, and room on the loop stack. -/
theorem loopOpCheck_ok {s : State} {c : Nat} {x : Ctx} {f : Frame} (hx : ctxOf s c = x) (hf : x.frame = some f) {o : Opnds}
    (ha : o.a64.toNat < 2 ^ 32) (hb : o.b64.toNat < 2 ^ 20) (hahead : f.next < o.b64.toNat) (hroom : o.a64 = 0 ∨ x.loops.length < 4) :
    loopOpCheck s c o = none := by
  have hnext := frameNext_eq hf
  simp only [loopOpCheck, hx, hnext]
  rw [if_neg, if_neg]
  · rintro ⟨hne, hfull⟩
    exact absurd (hroom.resolve_left hne) (Nat.not_lt.mpr hfull)
  · rintro (h | h | h)
    · exact h (high_zero 32 32 ha)
    · exact h (high_zero 20 44 hb)
    · omega

theorem loopOpCheck_bounds {s : State} {c : Nat} {x : Ctx} {f : Frame} (hx : ctxOf s c = x) (hf : x.frame = some f) {o : Opnds}
    (h : 2 ^ 32 ≤ o.a64.toNat ∨ 2 ^ 20 ≤ o.b64.toNat ∨ o.b64.toNat ≤ f.next ∨ (o.a64 ≠ 0 ∧ 4 ≤ x.loops.length)) :
    loopOpCheck s c o = some .bounds := by
  have hnext := frameNext_eq hf
  simp only [loopOpCheck, hx, hnext]
  obtain h | h | h | h := h
  · rw [if_pos (Or.inl (high_ne 32 32 rfl h))]
  · rw [if_pos (Or.inr (Or.inl (high_ne 20 44 rfl h)))]
  · rw [if_pos (Or.inr (Or.inr h))]
  · split
    · rfl
    · exact if_pos h

/-- A branch operation that passes its checks changes its context, in which its operand is latched, alone. -/
theorem branch_acts {m : Mv} {s : State} {c : Nat} {x z : Ctx} {f : Frame} (h : Acts s m c x f) {sock : BitVec 12} {chk : Check}
    {g : Opnds → Ctx → Ctx} (hk : chk s c (opndsAt x f m .br) = none)
    (hg : g (opndsAt x f m .br) (latched x .br (opndsAt x f m .br).a) = z) :
    trigger s m .br sock chk (fun s c o => modCtx s c (g o)) = .next (setCtx s c z) := by
  rw [h.run hk, modCtx, ctxOf_setCtx_same, setCtx_setCtx, hg]

theorem branchResults_hold : branchResults := by
  intro m s c x f h o y a ex
  have hy : y.frame = some f := h.frame
  have hnext : frameNext y = f.next := frameNext_eq hy
  refine ⟨fun ha => ?jmp, fun ha hlink => ?call, fun p ps hlink => ?ret, fun ha hex hahead hzero => ?loopSkipped,
    fun ha hex hahead hne hroom => ?loop, fun l ls hloops => ?breakl, ?halt, ?yield⟩
  case jmp =>
    show execBrJmp m s = _
    exact branch_acts h (posCheck_ok ha) (goto_eq hy a)
  case call =>
    show execBrCall m s = _
    refine branch_acts h (callCheck_ok ha (by rw [h.ctx]; exact hlink)) ?_
    exact (congrArg (fun n => goto { y with link := n :: y.link } a) hnext).trans (goto_eq (by exact hy) a)
  case ret =>
    show execBrRet m s = _
    refine branch_acts h (if_neg (by rw [h.ctx, hlink]; exact List.cons_ne_nil p ps)) ?_
    rw [← goto_eq (by exact hy), latched_link, hlink]
    rfl
  case loopSkipped =>
    have hzero' : o.a64 = 0 := BitVec.eq_of_toNat_eq hzero
    show execBrLoop m s = _
    exact branch_acts h (loopOpCheck_ok h.ctx h.frame ha hex hahead (Or.inl hzero')) ((if_pos hzero').trans (goto_eq hy ex))
  case loop =>
    have hne' : o.a64 ≠ 0 := fun e => hne (congrArg BitVec.toNat e)
    show execBrLoop m s = _
    refine branch_acts h (loopOpCheck_ok h.ctx h.frame ha hex hahead (Or.inr hroom)) ?_
    exact (if_neg hne').trans (congrArg (fun n => { y with loops := ⟨n, ex, a, 0, x.link.length⟩ :: x.loops }) hnext)
  case breakl =>
    show execBrBreakl m s = _
    refine branch_acts h (if_neg (by rw [h.ctx, hloops]; exact List.cons_ne_nil l ls)) ?_
    rw [← goto_eq (by exact hy), latched_loops, hloops]
  case halt =>
    show execBrHalt m s = _
    refine branch_acts h rfl ?_
    simp only [modFrame, latched_frame, h.frame, Option.map_some]
    rfl
  case yield =>
    show execBrYield m s = _
    exact h.runs

theorem branchTraps_hold : branchTraps := by
  intro m s c x f h o trap
  refine ⟨fun ha => ?jmp, fun hbad => ?call, fun hlink => ?ret, fun hbad => ?loop, fun hloops => ?breakl⟩
  case jmp =>
    show execBrJmp m s = _
    exact h.trap (posCheck_bounds ha)
  case call =>
    show execBrCall m s = _
    exact h.trap (callCheck_bounds (by rw [h.ctx]; exact hbad))
  case ret =>
    show execBrRet m s = _
    exact h.trap (if_pos (by rw [h.ctx]; exact hlink))
  case loop =>
    show execBrLoop m s = _
    exact h.trap (loopOpCheck_bounds h.ctx h.frame hbad)
  case breakl =>
    show execBrBreakl m s = _
    exact h.trap (if_pos (by rw [h.ctx]; exact hloops))

/-- Settles O4: a branch operation within its bounds changes the position and the stacks of its latched context, and traps elsewhere. -/
theorem branches : Obligations.Branches := ⟨branchResults_hold, branchTraps_hold⟩

end Sys2Proof.Machine
end

section
/-! PROOFS for O29. Triggers of the semaphore unit (R95, R99, R123, R288 to R295, R320, R360). -/

namespace Sys2Proof.Machine

/-! ## A semaphore operation that its context sends -/

/-- A semaphore operation as it sets out: it takes its number, and the die where its context is then (R292). -/
def SemOp.sentAs (o : SemOp) (id c : Nat) : SemOp := { o with id := id, die := ctxDie c }

/-- An operation that no round holds to its merge sets out; the context of a release form waits until it is sent (R292, R294). -/
theorem issueSemOp_sets_out {s : State} {c : Nat} {y : Ctx} {o : SemOp} (h : (inRound (setCtx s c y) c && o.kind.withheld) = false) :
    issueSemOp (setCtx s c y) c o =
      { setCtx s c { y with waits := y.waits ++ (if o.rel then [.semSent s.count] else []) } with
        count := s.count + 1, semOps := s.semOps ++ [o.sentAs s.count c] } := by
  have hround : inRound { setCtx s c y with count := s.count + 1 } c = inRound (setCtx s c y) c := inRound_congr rfl rfl rfl rfl
  have hctx : ∀ l, ctxOf { setCtx s c y with count := s.count + 1, semOps := l } c = y := fun _ => ctxOf_setCtx_same s c y
  simp only [issueSemOp, fresh, setCtx_count, hround, h, Bool.false_eq_true, if_false, modCtx, hctx]
  exact congrArg (fun t : State => { t with count := s.count + 1, semOps := s.semOps ++ [o.sentAs s.count c] }) (setCtx_setCtx s c y _)

/-- Inside a deterministic round an operation that changes an entry is held to the merge (R360). -/
theorem issueSemOp_held {s : State} {c : Nat} {y : Ctx} {o : SemOp} (h : (inRound (setCtx s c y) c && o.kind.withheld) = true) :
    issueSemOp (setCtx s c y) c o =
      { setCtx s c { y with ov := { y.ov with sems := y.ov.sems ++ [o.sentAs s.count c] } } with count := s.count + 1 } := by
  have hround : inRound { setCtx s c y with count := s.count + 1 } c = inRound (setCtx s c y) c := inRound_congr rfl rfl rfl rfl
  have hctx : ctxOf { setCtx s c y with count := s.count + 1 } c = y := ctxOf_setCtx_same s c y
  simp only [issueSemOp, fresh, setCtx_count, hround, h, if_true, modCtx, hctx]
  exact congrArg (fun t : State => { t with count := s.count + 1 }) (setCtx_setCtx s c y _)

/-- An operation that is not withheld issues at once where nothing waits before it (R98). -/
theorem issueCmd_sem {s : State} {c : Nat} {y : Ctx} {o : SemOp} {hold : Bool} (hgoing : y.going = []) (hhold : (hold && ckOn y) = false) :
    issueCmd (setCtx s c y) c (.sem o) hold = issueSemOp (setCtx s c y) c o := by
  have hsame : ({ y with going := [] } : Ctx) = y := by rw [← hgoing]
  have hpump := pump_fits (s := s) (c := c) (y := y) (w := .sem o) rfl
  simp only [issueCmd, ctxOf_setCtx_same, hhold, Bool.false_eq_true, if_false, modCtx_eq, setCtx_setCtx, hgoing, List.nil_append]
  rw [hpump, hsame]
  rfl

/-! ## Operations that deliver a result -/

/-- The operation of a trigger that delivers a result, as it sets out from `s`. -/
def returning (s : State) (c : Nat) (o : Opnds) (k : SemKind) (rel : Bool) : SemOp :=
  { id := s.count, ctx := c, die := ctxDie c, region := ctxRegion s c, kind := k
    addr := match k with | .stx sl => (sl.headD (0, 0, 0, 0)).2.1 | _ => o.a64.toNat
    b := o.b64, c := o.c64, result := some (ctxOf s c).seq, rel := rel, relSt := (ctxOf s c).seq }

/-- An acquire form makes its context wait for its result (R294). -/
def awaited (acq : Bool) (c q : Nat) (s : State) : State :=
  if acq then modCtx s c fun x => { x with waits := x.waits ++ [.semDone q] } else s

theorem awaited_sent (acq : Bool) (s : State) (c q n : Nat) (y : Ctx) (l : List SemOp) :
    awaited acq c q { setCtx s c y with count := n, semOps := l } =
      { setCtx s c { y with waits := y.waits ++ (if acq then [.semDone q] else []) } with count := n, semOps := l } := by
  have hctx : ctxOf { setCtx s c y with count := n, semOps := l } c = y := ctxOf_setCtx_same s c y
  cases acq
  · simp only [awaited, Bool.false_eq_true, if_false, List.append_nil]
  · simp only [awaited, if_true, modCtx, hctx]
    exact congrArg (fun t : State => { t with count := n, semOps := l }) (setCtx_setCtx s c y _)

/-- A trigger that delivers a result and passes its checks, where what it releases leaves nothing waiting (R123, R288, R292 to R295). -/
theorem semReturn_acts {s : State} {m : Mv} {c : Nat} {x : Ctx} {f : Frame} (h : Acts s m c x f) {sock : BitVec 12} {chk : Check}
    {kind : State → Nat → Opnds → SemKind} (acq rel : Bool) (hkind : ∀ s c o, (kind s c o).withheld = false)
    (hk : chk s c (opndsAt x f m .sem) = none) :
    let o := opndsAt x f m .sem
    let s0 := setCtx s c (latched x .sem o.a)
    let s1 := if rel ∧ ckOn x then releaseAll s0 c else s0
    let x1 := ctxOf s1 c
    x1.going = [] → semReturn s m sock chk kind acq rel =
      .next { setCtx s1 c { addResult x1 .sem 12 (full64 0) (some 0) 0 [] true with
          waits := x1.waits ++ (if rel then [.semSent s1.count] else []) ++ (if acq then [.semDone x1.seq] else []) } with
        count := s1.count + 1, semOps := s1.semOps ++ [returning s1 c o (kind s1 c o) rel] } := by
  intro o s0 s1 x1 hgoing
  have hs1 : (if (rel && ckOn (ctxOf s0 c)) = true then releaseAll s0 c else s0) = s1 := by
    have hon : ckOn (ctxOf s0 c) = ckOn x := (congrArg ckOn (ctxOf_setCtx_same s c (latched x .sem o.a))).trans rfl
    simp only [hon, Bool.and_eq_true, s1]
  rw [semReturn, h.run hk]
  dsimp only
  rw [hs1, ← full64_zero]
  have hsend := (issueCmd_sem (s := s1) (c := c) (y := addResult x1 .sem 12 (full64 0) (some 0) 0 [] true) (hold := false)
    (o := { returning s1 c o (kind s1 c o) rel with id := 0 }) hgoing rfl).trans
    (issueSemOp_sets_out ((Bool.and_eq_false_iff).mpr (Or.inr (hkind s1 c o))))
  refine congrArg Host.Outcome.next (Eq.trans (congrArg (awaited acq c x1.seq) hsend) ?_)
  exact awaited_sent acq s1 c x1.seq _ _ _

/-- The checks of a row: an eager one's placement and round come before its own (R99, R360, log entry 22). -/
def semRowCheck (p : SemRow) : Check := if p.eager then eagerSem p.check else p.check

theorem formAcq_eq (g : BitVec 2) : formAcq g = g.getLsbD 0 := by revert g; decide

theorem formRel_eq (g : BitVec 2) : formRel g = g.getLsbD 1 := by revert g; decide

theorem formLow_eq (g : BitVec 2) : (g.setWidth 1 == 1) = g.getLsbD 0 := by revert g; decide

/-- Every row is a trigger that delivers a result, with its row's checks, kind and form; no round holds its operation. -/
theorem exec_semReturn : ∀ p ∈ semReturns, (∀ s c o, (p.kind s c o).withheld = false) ∧ ∃ sock : BitVec 2 → BitVec 12, ∀ m g s,
    exec (p.op m g) s = semReturn s m (sock g) (semRowCheck p) p.kind (p.acq g) (p.rel g) := by
  simp only [semReturns, List.forall_mem_cons]
  refine ⟨⟨fun _ _ _ => rfl, fun g => 0x408#12 + (g.setWidth 1).setWidth 12, fun m g s => ?_⟩,
    ⟨fun _ _ _ => rfl, fun g => 0x40C#12 + g.setWidth 12, fun m g s => ?_⟩,
    ⟨fun _ _ _ => rfl, fun g => 0x410#12 + g.setWidth 12, fun m g s => ?_⟩,
    ⟨fun _ _ _ => rfl, fun g => 0x414#12 + g.setWidth 12, fun m g s => ?_⟩,
    ⟨fun _ _ _ => rfl, fun g => 0x418#12 + g.setWidth 12, fun m g s => ?_⟩,
    ⟨fun _ _ _ => rfl, fun g => 0x41C#12 + g.setWidth 12, fun m g s => ?_⟩,
    ⟨fun _ _ _ => rfl, fun _ => 0x420, fun _ _ _ => rfl⟩, ⟨fun _ _ _ => rfl, fun _ => 0x423, fun _ _ _ => rfl⟩,
    ⟨fun _ _ _ => rfl, fun _ => 0x424, fun _ _ _ => rfl⟩, ⟨fun _ _ _ => rfl, fun _ => 0x425, fun _ _ _ => rfl⟩,
    ⟨fun _ _ _ => rfl, fun _ => 0x426, fun _ _ _ => rfl⟩, ⟨fun _ _ _ => rfl, fun _ => 0x427, fun _ _ _ => rfl⟩,
    ⟨fun _ _ _ => rfl, fun _ => 0x428, fun _ _ _ => rfl⟩, ⟨fun _ _ _ => rfl, fun _ => 0x429, fun _ _ _ => rfl⟩,
    ⟨fun _ _ _ => rfl, fun _ => 0x42A, fun _ _ _ => rfl⟩, ⟨fun _ _ _ => rfl, fun _ => 0x42F, fun _ _ _ => rfl⟩, List.forall_mem_nil _⟩
  · rw [← formLow_eq]; rfl
  all_goals rw [← formAcq_eq, ← formRel_eq]; rfl

/-- Where an eager row may stand, its own checks decide. -/
theorem semRowCheck_ok {s : State} {m : Mv} {c : Nat} {x : Ctx} {f : Frame} (h : Acts s m c x f) {p : SemRow}
    (he : p.eager = true → EagerOk s c x f) (o : Opnds) : semRowCheck p s c o = p.check s c o := by
  unfold semRowCheck
  split
  · next heager => exact eager_ok h (he heager) _ o
  · rfl

theorem semReturn_traps {s : State} {m : Mv} {c : Nat} {x : Ctx} {f : Frame} (h : Acts s m c x f) {sock : BitVec 12} {chk : Check}
    {kind : State → Nat → Opnds → SemKind} {acq rel : Bool} {t : Trap} (hk : chk s c (opndsAt x f m .sem) = some t) :
    semReturn s m sock chk kind acq rel = .next (preciseTrap s c { code := t, sock := sock.toNat, slot := f.cur }) := h.trap hk

theorem semaphoreReturns_hold : semaphoreReturns := by
  intro p hp m g s c x f h
  obtain ⟨hkind, sock, hexec⟩ := exec_semReturn p hp
  have traps : ∀ t, semRowCheck p s c (opndsAt x f m .sem) = some t →
      ∃ n, exec (p.op m g) s = .next (preciseTrap s c { code := t, sock := n, slot := f.cur }) :=
    fun t ht => ⟨_, (hexec m g s).trans (semReturn_traps h ht)⟩
  refine ⟨fun heager => ⟨fun hon hlt => traps _ ?_, fun hplace hround => traps _ ?_⟩,
    fun he => ⟨fun hk hgoing => ?_, fun t hk => traps t ?_⟩⟩
  · rw [semRowCheck, if_pos heager, eagerSem, eager_misplaced h hon hlt]
  · rw [semRowCheck, if_pos heager, eagerSem, eager_denied h hplace hround]
  · exact (hexec m g s).trans (semReturn_acts h _ _ hkind ((semRowCheck_ok h he _).trans hk) hgoing)
  · exact (semRowCheck_ok h he _).trans hk

/-! ## Operations that deliver no result -/

/-- The operation of a trigger that delivers no result (R288). -/
def quietOp (s : State) (c : Nat) (x : Ctx) (o : Opnds) (k : SemKind) (rel : Bool) : SemOp :=
  { id := 0, ctx := c, die := ctxDie c, region := ctxRegion s c, kind := k, addr := o.a64.toNat, b := o.b64, c := o.c64, rel := rel
    relSt := x.seq }

/-- A trigger that delivers no result and passes its checks: its ports, and its operation on its way (R288). -/
theorem semQuiet_eq {s : State} {m : Mv} {c : Nat} {x : Ctx} {f : Frame} (h : Acts s m c x f) {sock : BitVec 12} {chk : Check}
    (kind : SemKind) (rel hold : Bool) (hk : chk s c (opndsAt x f m .sem) = none) :
    let o := opndsAt x f m .sem
    semQuiet s m sock chk kind rel hold =
      .next (issueCmd (setCtx s c (started x .sem o.a 2 none (some 0))) c (.sem (quietOp s c x o kind rel)) hold) := by
  intro o
  have hregion : ctxRegion (setCtx s c (latched x .sem (opndsAt x f m .sem).a)) c = ctxRegion s c := ctxRegion_set s c _ (by rw [h.ctx]; rfl)
  rw [semQuiet, h.run hk]
  simp only [hregion, modCtx_eq, ctxOf_setCtx_same, setCtx_setCtx, addResult_latched, latched_seq]
  rfl

/-- The checks of a row: SINIT's placement comes before its own (R99, R288). -/
def quietCheck (p : SemRow) : Check := if p.eager then firstOf [eagerCheck, p.check] else p.check

/-- Checks in order, grouped. -/
theorem firstOf_grouped (a b d : Check) : firstOf [a, firstOf [b, d]] = firstOf [a, b, d] := by
  funext s c o
  simp only [firstOf, List.findSome?]
  cases a s c o <;> cases b s c o <;> cases d s c o <;> rfl

/-- Every row is a trigger that delivers no result; a round holds its operation to the merge. -/
theorem exec_semQuiet : ∀ p ∈ semQuiets, ∃ (k : SemKind) (sock : BitVec 2 → BitVec 12), k.withheld = true ∧ (∀ s c o, p.1.kind s c o = k) ∧
    ∀ m g s, exec (p.1.op m g) s = semQuiet s m (sock g) (quietCheck p.1) k (p.1.rel g) p.2 := by
  simp only [semQuiets, List.forall_mem_cons]
  refine ⟨⟨.sst, fun g => 0x40A#12 + (g.setWidth 1).setWidth 12, rfl, fun _ _ _ => rfl, fun m g s => ?_⟩,
    ⟨.barr, fun _ => 0x421, rfl, fun _ _ _ => rfl, fun _ _ _ => rfl⟩, ⟨.bexp, fun _ => 0x422, rfl, fun _ _ _ => rfl, fun _ _ _ => rfl⟩,
    ⟨.cfloor, fun _ => 0x42B, rfl, fun _ _ _ => rfl, fun _ _ _ => rfl⟩, ⟨.cmint, fun _ => 0x42C, rfl, fun _ _ _ => rfl, fun _ _ _ => rfl⟩,
    ⟨.cburn, fun _ => 0x42D, rfl, fun _ _ _ => rfl, fun _ _ _ => rfl⟩,
    ⟨.sinit, fun _ => 0x42E, rfl, fun _ _ _ => rfl, fun m g s => ?_⟩,
    List.forall_mem_nil _⟩
  · rw [← formLow_eq]; rfl
  · rw [quietCheck, if_pos rfl, firstOf_grouped]; rfl

/-- Where a row may stand, its own checks decide. -/
theorem quietCheck_ok {s : State} {m : Mv} {c : Nat} {x : Ctx} {f : Frame} (h : Acts s m c x f) {p : SemRow}
    (he : p.eager = true → ckOn x = true → 3 ≤ (hdrSpan f.header).toNat) (o : Opnds) : quietCheck p s c o = p.check s c o := by
  unfold quietCheck
  split
  · next heager =>
    simp only [firstOf, List.findSome?, eagerCheck_ok h.ctx h.frame (he heager)]
    cases p.check s c o <;> rfl
  · rfl

theorem quietCheck_misplaced {s : State} {m : Mv} {c : Nat} {x : Ctx} {f : Frame} (h : Acts s m c x f) {p : SemRow} (heager : p.eager = true)
    (hon : ckOn x = true) (hlt : (hdrSpan f.header).toNat < 3) (o : Opnds) : quietCheck p s c o = some .eagerPlacement := by
  rw [quietCheck, if_pos heager]
  simp only [firstOf, List.findSome?, eagerCheck_misplaced h.ctx h.frame hon hlt]

theorem semQuiet_traps {s : State} {m : Mv} {c : Nat} {x : Ctx} {f : Frame} (h : Acts s m c x f) {sock : BitVec 12} {chk : Check}
    {kind : SemKind} {rel hold : Bool} {t : Trap} (hk : chk s c (opndsAt x f m .sem) = some t) :
    semQuiet s m sock chk kind rel hold = .next (preciseTrap s c { code := t, sock := sock.toNat, slot := f.cur }) := h.trap hk

theorem semaphoreQuiet_holds : semaphoreQuiet := by
  intro p hp m g s c x f h
  obtain ⟨k, sock, hheld, hkind, hexec⟩ := exec_semQuiet p hp
  have traps : ∀ t, quietCheck p.1 s c (opndsAt x f m .sem) = some t →
      ∃ n, exec (p.1.op m g) s = .next (preciseTrap s c { code := t, sock := n, slot := f.cur }) :=
    fun t ht => ⟨_, (hexec m g s).trans (semQuiet_traps h ht)⟩
  refine ⟨fun heager hon hlt => traps _ (quietCheck_misplaced h heager hon hlt _),
    fun he => ⟨fun hk => ?_, fun t hk => traps t ?_⟩⟩
  · rw [hkind, hexec, semQuiet_eq h k _ _ ((quietCheck_ok h he _).trans hk)]
    set y := started x .sem (opndsAt x f m .sem).a 2 none (some 0)
    have hround : inRound (setCtx s c y) c = inRound s c := inRound_set (by rw [h.ctx]; exact sameView_started _ _ _ _ _ _)
    refine ⟨fun hhold hon => ?_, fun hoff hgoing hout => ?_, fun hoff hgoing hin => ?_⟩
    · rw [hhold, issueCmd_withheld (y := y) hon]
      rfl
    all_goals rw [issueCmd_sem (y := y) hgoing (Bool.and_eq_false_iff.mpr hoff)]
    · rw [issueSemOp_sets_out (by rw [hround, hout]; rfl)]
      rfl
    · rw [issueSemOp_held (by rw [hround, hin]; exact hheld)]
      rfl
  · exact (quietCheck_ok h he _).trans hk

/-- Settles O29: every trigger of the unit checks, then sends its operation, which a round or checkpoint mode may hold. -/
theorem semaphoreTriggers : Obligations.SemaphoreTriggers := ⟨semaphoreReturns_hold, semaphoreQuiet_holds⟩

end Sys2Proof.Machine
end

section
/-! PROOFS for O33. The end of a task or a context: what it waits for, what it leaves, and what the last context of a core frees (R72, R129,
R133, R196, R340, R343, R347, R353, R361). -/

namespace Sys2Proof.Machine

/-! ## The end of a task, and what it waits for (R129) -/

/-- A step at the end of a task. -/
theorem step_endTask {s : State} {c : Nat} {x : Ctx} {f : Frame} {ts : List Todo} {k : EndKind} (hc : current s = some (c, x, f))
    (ht : f.todo = .endTask k :: ts) :
    step s = .next (endTask (setCtx s c { x with frame := some { f with todo := ts } }) c k) := by
  obtain ⟨ha, hx, hf⟩ := current_some hc
  subst hx
  simp only [step, ha, runActive, hf, ht, runTodo, withFrame, modCtx]

theorem seedRoom_congr {s t : State} (h : t.regions = s.regions) (r : Nat) : seedRoom t r = seedRoom s r := by
  have hregion : ∀ b, regionOf t b = regionOf s b := fun b => by rw [regionOf, h, regionOf]
  unfold seedRoom
  dsimp only
  rw [budgetRegion_congr h, rcbWord_congr h, hregion]

/-- What the end waits for behind its release does not depend on the frame. -/
theorem endReady_frame {s : State} {c : Nat} {x : Ctx} (hx : ctxOf s c = x) (g : Option Frame) (k : EndKind) :
    endReady (setCtx s c { x with frame := g }) c k = endReady s c k := by
  have hround : inRound (setCtx s c { x with frame := g }) c = inRound s c :=
    inRound_congr (by rw [ctxOf_setCtx_same, hx]) (by rw [ctxOf_setCtx_same, hx]) rfl rfl
  have hregion : ctxRegion (setCtx s c { x with frame := g }) c = ctxRegion s c := ctxRegion_set s c _ (by rw [hx])
  have hroom := seedRoom_congr (setCtx_regions s c { x with frame := g })
  simp only [endReady, hround, hregion, hroom, ctxOf_setCtx_same, hx]
  rfl

/-- Putting an item back into the frame from which it was taken (R82, R129). -/
theorem suspend_eq {s : State} {c : Nat} {x : Ctx} {f : Frame} (hx : ctxOf s c = x) (hf : x.frame = some f) (t : Todo) :
    suspend s c t = { setCtx s c { x with frame := some { f with todo := t :: f.todo } } with active := none } := by
  simp only [suspend, modCtx, hx, hf, Option.map_some]

/-- The end while an asynchronous write has not landed. -/
theorem endTask_owed {s : State} {c : Nat} {x : Ctx} {f : Frame} (hx : ctxOf s c = x) (hf : x.frame = some f) (hfreed : f.freed = false)
    (howed : endWrites x = false) (k : EndKind) : endTask s c k = suspend s c (.endTask k) := by
  simp only [endTask, hx, hf, hfreed, howed, Bool.not_false, Bool.and_true, if_true]

/-- The end once it has made its release. -/
theorem endTask_freed {s : State} {c : Nat} {x : Ctx} {f : Frame} (hx : ctxOf s c = x) (hf : x.frame = some f) (hfreed : f.freed = true)
    (k : EndKind) : endTask s c k = if endReady s c k then finishTask s c k else suspend s c (.endTask k) := by
  simp only [endTask, hx, hf, hfreed, Bool.not_true, Bool.false_and, Bool.false_eq_true, if_false, if_true]
  cases endReady s c k <;> rfl

/-- The end when its writes have landed: it makes its release, with checkpoint mode on of everything withheld. -/
theorem endTask_releases {s : State} {c : Nat} {x : Ctx} {f : Frame} (hx : ctxOf s c = x) (hf : x.frame = some f) (hfreed : f.freed = false)
    (hlanded : endWrites x = true) (k : EndKind) :
    let u := setCtx s c { x with frame := some { f with freed := true } }
    let v := if x.sys.ckmode = 1 then releaseAll u c else u
    endTask s c k = if endReady v c k then finishTask v c k else suspend v c (.endTask k) := by
  intro u v
  have hv : (if (ctxOf u c).sys.ckmode = 1 then releaseAll u c else u) = v := by
    rw [show ctxOf u c = _ from ctxOf_setCtx_same s c _]
  simp only [endTask, hx, hf, hfreed, hlanded, Bool.not_true, Bool.and_false, Bool.false_eq_true, if_false, modCtx, modFrame, Option.map_some]
  rw [hv]
  cases endReady v c k <;> rfl

/-! ## Releases keep the frame (R98) -/

/-- A context with nothing withheld, in the bundle of `g`. -/
def Emptied (s : State) (c : Nat) (g : Option Frame) : Prop := (ctxOf s c).held = [] ∧ (ctxOf s c).frame = g

theorem issueAsync_keeps (x : Ctx) (id : Nat) (d : BitVec 12) (sb handler eager : Bool) (twin : Option Nat) :
    (issueAsync x id d sb handler eager twin).held = x.held ∧ (issueAsync x id d sb handler eager twin).frame = x.frame := by
  unfold issueAsync
  split
  · exact ⟨rfl, rfl⟩
  · dsimp only
    split <;> exact ⟨rfl, rfl⟩

theorem releaseStore_keeps (x : Ctx) (o : LsOp) : (releaseStore x o).held = x.held ∧ (releaseStore x o).frame = x.frame := by
  unfold releaseStore
  split
  · split <;> exact ⟨rfl, rfl⟩
  · exact ⟨rfl, rfl⟩

/-- The issue of a command. -/
theorem emptied_issueItem {s : State} {c : Nat} {g : Option Frame} (h : Emptied s c g) (w : Withheld) : Emptied (issueItem s c w) c g := by
  obtain ⟨hheld, hframe⟩ := h
  cases w with
  | store o =>
    obtain ⟨h1, h2⟩ := releaseStore_keeps (ctxOf s c) o
    exact ⟨by simp only [issueItem, modCtx, ctxOf_setCtx_same, h1, hheld], by simp only [issueItem, modCtx, ctxOf_setCtx_same, h2, hframe]⟩
  | job j =>
    obtain ⟨h1, h2⟩ := issueAsync_keeps (ctxOf s c) (s.count + 1) (BitVec.ofNat 12 j.token) false j.handler false none
    have hctx : ctxOf (issueItem s c (.job j)) c = issueAsync (ctxOf s c) (s.count + 1) (BitVec.ofNat 12 j.token) false j.handler false :=
      ctxOf_setCtx_same _ c _
    exact ⟨by rw [hctx, h1, hheld], by rw [hctx, h2, hframe]⟩
  | sem o =>
    simp only [issueItem, issueSemOp, Emptied]
    split <;> simp only [modCtx, ctxOf_setCtx_same] <;> exact ⟨hheld, hframe⟩
  | send pipe data => exact ⟨hheld, hframe⟩

theorem emptied_pumpGo {c : Nat} {g : Option Frame} (n : Nat) {s : State} (h : Emptied s c g) : Emptied (pumpGo c n s) c g := by
  induction n generalizing s with
  | zero => exact h
  | succ n ih =>
    rw [pumpGo]
    split
    · exact h
    · next w ws hgoing =>
      split
      · refine ih (emptied_issueItem ?_ w)
        simpa only [Emptied, modCtx, ctxOf_setCtx_same] using h
      · exact h

theorem emptied_releaseAll {s : State} {c : Nat} {x : Ctx} (hx : ctxOf s c = x) : Emptied (releaseAll s c) c x.frame := by
  refine emptied_pumpGo _ ?_
  simp only [Emptied, modCtx, ctxOf_setCtx_same, hx, and_self]

/-! ## The order of the end (R129, R353) -/

theorem setCtx_self {s : State} {c : Nat} {x : Ctx} (hx : ctxOf s c = x) (d : Nat) : ctxOf (setCtx s c x) d = ctxOf s d := by
  rw [ctxOf_setCtx]
  split
  · next hd => rw [hd, hx]
  · rfl

/-- An end that waits puts its item back: the machine stands as before, and other agents move. -/
theorem suspend_endTask {s : State} {c : Nat} {x : Ctx} {f : Frame} {k : EndKind} (hf : x.frame = some f)
    (htodo : f.todo = [.endTask k]) :
    suspend (setCtx s c { x with frame := some { f with todo := [] } }) c (.endTask k) = { setCtx s c x with active := none } := by
  have hsame : ({ x with frame := some { f with todo := [.endTask k] } } : Ctx) = x := by rw [← htodo, ← hf]
  rw [suspend_eq (f := { f with todo := [] }) (ctxOf_setCtx_same _ _ _) rfl, setCtx_setCtx]
  exact congrArg (fun z => { setCtx s c z with active := none }) hsame

theorem taskEndWaits_holds : taskEndWaits := by
  intro s c x f k hc htodo waits u
  obtain ⟨-, hx, hf⟩ := current_some hc
  have hstep := step_endTask hc htodo
  let x0 : Ctx := { x with frame := some { f with todo := [] } }
  have hx0 : ctxOf (setCtx s c x0) c = x0 := ctxOf_setCtx_same _ _ _
  have suspends : endTask (setCtx s c x0) c k = suspend (setCtx s c x0) c (.endTask k) → waits := fun h => by
    refine ⟨_, hstep.trans (congrArg _ (h.trans (suspend_endTask hf htodo))), rfl, setCtx_self hx, rfl, rfl, rfl, rfl⟩
  refine ⟨fun hfreed howed => suspends (endTask_owed hx0 rfl hfreed howed k), fun hfreed hready => suspends ?_,
    fun hfreed hlanded hck hready => ?_⟩
  · rw [endTask_freed hx0 rfl hfreed, endReady_frame hx, if_neg (by rw [hready]; exact Bool.false_ne_true)]
  · have hend := endTask_releases hx0 rfl hfreed hlanded k
    dsimp only at hend
    rw [if_pos hck, setCtx_setCtx] at hend
    have hempty := emptied_releaseAll (ctxOf_setCtx_same s c { x with frame := some { f with todo := [], freed := true } })
    have hwait : endTask (setCtx s c x0) c k = suspend u c (.endTask k) := hend.trans (if_neg (by rw [hready]; exact Bool.false_ne_true))
    refine ⟨_, hstep.trans (congrArg _ (hwait.trans (suspend_eq rfl hempty.2 _))), rfl, rfl, rfl, ?_, ?_⟩
    · rw [ctxOf_leave]
      exact hempty.1
    · rw [ctxOf_leave, ← htodo]

/-! ## What an end records -/

/-- The state is the same but for its launches, regions, continuations and the count of operations. -/
def SameButBooks (s t : State) : Prop :=
  t = { s with launches := t.launches, regions := t.regions, conts := t.conts, count := t.count }

theorem SameButBooks.refl (s : State) : SameButBooks s s := rfl

theorem SameButBooks.trans {s t u : State} (h : SameButBooks s t) (g : SameButBooks t u) : SameButBooks s u := by
  unfold SameButBooks at *
  rw [g, h]

theorem sameButBooks_modRegion (s : State) (r : Nat) (g : Region → Region) : SameButBooks s (modRegion s r g) := by
  unfold modRegion
  split <;> rfl

theorem SameButBooks.ctx {s t : State} (h : SameButBooks s t) (c : Nat) : ctxOf t c = ctxOf s c := by rw [h]; rfl

/-- The state is the same but for contexts and what runs, and for launches, regions, continuations and the count of operations: all
that the end of a task changes itself. -/
def SameButEnd (s t : State) : Prop := t = { s with
  active := t.active, ctxs := t.ctxs, launches := t.launches, regions := t.regions, conts := t.conts, count := t.count }

theorem SameButEnd.trans {s t u : State} (h : SameButEnd s t) (g : SameButEnd t u) : SameButEnd s u := by
  unfold SameButEnd at *
  rw [g, h]

section
variable {s t : State} (h : SameButEnd s t)
include h

theorem SameButEnd.mem : t.mem = s.mem := (congrArg State.mem h :)
theorem SameButEnd.host : t.host = s.host := (congrArg State.host h :)
theorem SameButEnd.saves : t.saves = s.saves := (congrArg State.saves h :)
theorem SameButEnd.dies : t.dies = s.dies := (congrArg State.dies h :)

end

theorem SameButBooks.sameButEnd {s t : State} (h : SameButBooks s t) : SameButEnd s t := by
  rw [SameButEnd, h]

/-- What an end leaves behind outside its context: HALT its exit value, WAITC its continuation (R129, R343, R353). -/
def booked (s : State) (c : Nat) (f : Frame) : EndKind → State
  | .halt => match (ctxOf s c).launch with | some l => modLaunch s l fun y => setExit y c f.exit | none => s
  | .waitc => match f.cont with | some q => register s c q | none => s
  | _ => s

/-- The ticks that the end of a context takes (R116, R336). -/
def endTicks (f : Frame) : EndKind → Nat
  | .halt => if f.slots = [] then 0 else 1
  | _ => 1

theorem endTicks_bundle {f : Frame} (h : f.slots ≠ []) (k : EndKind) : endTicks f k = 1 := by
  cases k with
  | halt => exact if_neg h
  | rndcmt | tdone | waitc => rfl

/-- The end of a task that is over, or of its context. -/
theorem finishTask_eq {s : State} {c : Nat} {f : Frame} {k : EndKind} (hf : (ctxOf s c).frame = some f) (hk : k ≠ .rndcmt) :
    finishTask s c k = taskOver (booked s c f k) c (k != .waitc) (endTicks f k) := by
  cases k with
  | rndcmt => exact absurd rfl hk
  | halt | tdone | waitc => simp only [finishTask, hf]; rfl

theorem booked_same (s : State) (c : Nat) (f : Frame) (k : EndKind) : SameButBooks s (booked s c f k) := by
  cases k with
  | rndcmt => exact .refl s
  | tdone => exact .refl s
  | halt =>
    unfold booked
    cases (ctxOf s c).launch with
    | none => exact .refl s
    | some l => dsimp only; unfold modLaunch; split <;> rfl
  | waitc =>
    unfold booked
    cases f.cont with
    | none => exact .refl s
    | some q =>
      dsimp only [register]
      split
      · rfl
      · exact (sameButBooks_modRegion s _ _).trans rfl

/-- HALT's exit value stands with the launch; no other end changes it (R343). -/
theorem launchOf_booked {s : State} {c l : Nat} {y : Launch} (hl : (ctxOf s c).launch = some l) (hy : launchOf s l = some y) (f : Frame)
    (k : EndKind) : launchOf (booked s c f k) l = some (if k = .halt then setExit y c f.exit else y) := by
  cases k with
  | rndcmt => exact hy
  | tdone => exact hy
  | halt => simp [booked, hl, modLaunch, hy]
  | waitc =>
    simp only [booked]
    cases f.cont with
    | none => exact hy
    | some q =>
      simp only [register]
      split
      · exact hy
      · exact (launchOf_takeSeedUnit s q.region l).trans hy

/-- An exit value changes a launch in its exit words alone (R343). -/
theorem setExit_rest (y : Launch) (c : Nat) (v : D64) : setExit y c v = { y with exits := (setExit y c v).exits } := by
  unfold setExit
  split <;> rfl

theorem ctxRegion_booked {s : State} {c l : Nat} {y : Launch} (hl : (ctxOf s c).launch = some l) (hy : launchOf s l = some y) (f : Frame)
    (k : EndKind) : ctxRegion (booked s c f k) c = ctxRegion s c := by
  have hregion : (if k = .halt then setExit y c f.exit else y).region = y.region := by
    split
    · rw [setExit_rest]
    · rfl
  simp only [ctxRegion, (booked_same s c f k).ctx, hl, launchOf_booked hl hy, hy, hregion]

/-- A task that holds a seed's unit takes none, so its end leaves every region (R347, R353). -/
theorem booked_regions {s : State} {c : Nat} (f : Frame) {k : EndKind} (h : k ≠ .waitc ∨ (ctxOf s c).task.seed.isSome = true) :
    (booked s c f k).regions = s.regions := by
  cases k with
  | rndcmt => rfl
  | tdone => rfl
  | halt =>
    unfold booked
    cases (ctxOf s c).launch with
    | none => rfl
    | some l => exact modLaunch_regions s l _
  | waitc =>
    have hseed := h.resolve_left (fun hne => hne rfl)
    unfold booked
    cases f.cont with
    | none => rfl
    | some q => simp only [register, hseed, if_true, fresh]

theorem inRound_booked {s : State} {c l : Nat} {y : Launch} (hl : (ctxOf s c).launch = some l) (hy : launchOf s l = some y) (f : Frame)
    (k : EndKind) (hround : inRound s c = false) : inRound (booked s c f k) c = false := by
  have hctx := (booked_same s c f k).ctx c
  cases hseed : (ctxOf s c).task.seed.isSome with
  | false => rw [inRound, hctx, hseed, Bool.and_false]
  | true => rwa [inRound, ctxRegion_booked hl hy, detOf_congr (booked_regions f (Or.inr hseed)), hctx, ← inRound]

theorem booked_conts {s : State} {c : Nat} {f : Frame} {q : Cont} (hq : f.cont = some q) :
    ∃ n, (booked s c f .waitc).conts = s.conts ++ [{ q with id := n }] := by
  simp only [booked, hq, register, fresh]
  split
  · exact ⟨_, rfl⟩
  · exact ⟨_, by rw [takeSeedUnit, modRegion_conts]⟩

/-! ## What an end leaves (R129, R347, R349, R353) -/

/-- A context whose task is over: HALTED in a gang, else looking for its next seed. -/
def retired (x : Ctx) (ticks : Nat) : Ctx :=
  { dropWork x true with lsc := x.lsc + ticks, status := if x.gang then .halted else .seeking 0 false, task := {} }

/-- The unit of SEEDB of the seed that the task came from is free, where `free` (R347). -/
def seedFreed (s : State) (c : Nat) (free : Bool) : State :=
  if free && (ctxOf s c).task.seed.isSome then freeSeed s (ctxRegion s c) else s

theorem seedFreed_rest (s : State) (c : Nat) (free : Bool) : seedFreed s c free = { s with regions := (seedFreed s c free).regions } := by
  unfold seedFreed freeSeed modRegion
  split
  · split <;> rfl
  · rfl

/-- The state once the task of context `c` is over, its bundle behind it. -/
def leftTask (s : State) (c : Nat) (free : Bool) (ticks : Nat) : State :=
  { setCtx (seedFreed s c free) c (retired (ctxOf s c) ticks) with active := none }

theorem leftTask_rest (s : State) (c : Nat) (free : Bool) (ticks : Nat) : leftTask s c free ticks =
    { s with active := none, regions := (seedFreed s c free).regions, ctxs := (setCtx s c (retired (ctxOf s c) ticks)).ctxs } := by
  rw [leftTask, seedFreed_rest]
  rfl

/-- A task is over: what the core's kernels demand is served, and what its launch needs no more is free. -/
theorem taskOver_eq {s : State} {c l : Nat} (ha : s.active = some c) (hl : (ctxOf s c).launch = some l) (hround : inRound s c = false)
    (free : Bool) (ticks : Nat) :
    taskOver s c free ticks = reclaim (serveDemands (leftTask s c free ticks) (ctxCore c)) l := by
  have hctx : (ctxOf (serveDemands (leftTask s c free ticks) (ctxCore c)) c).launch = some l := by
    rw [(sameButCode_serveDemands _ _).ctx, leftTask, ctxOf_leave]
    exact hl
  have hsubmit : loseAccs (submitRound s c) c = s := by
    have h : submitRound s c = s := by simp only [submitRound, hround]
    rw [h, loseAccs, hround]
    rfl
  have hactive : (seedFreed s c free).active = some c := by rw [seedFreed_rest]; exact ha
  have hfreed : ctxOf (seedFreed s c free) c = ctxOf s c := by rw [seedFreed_rest]; rfl
  simp only [taskOver, hsubmit]
  show nextWork (modCtx (seedFreed s c free) c _) c = _
  rw [nextWork, modCtx, modCtx, ctxOf_setCtx_same, setCtx_setCtx, hfreed]
  simp only [setCtx_active, hactive, if_true]
  show (match (ctxOf (serveDemands (leftTask s c free ticks) (ctxCore c)) c).launch with
    | some l => reclaim (serveDemands (leftTask s c free ticks) (ctxCore c)) l
    | none => serveDemands (leftTask s c free ticks) (ctxCore c)) = _
  rw [hctx]

theorem leftTask_same (s : State) (c : Nat) (free : Bool) (ticks : Nat) : SameButEnd s (leftTask s c free ticks) := by
  rw [SameButEnd, leftTask_rest]

theorem leftTask_ctx (s : State) (c : Nat) (free : Bool) (ticks d : Nat) :
    ctxOf (leftTask s c free ticks) d = if d = c then retired (ctxOf s c) ticks else ctxOf s d := by
  rw [leftTask_rest]
  exact ctxOf_setCtx s c d _

/-! ### Kernels that other contexts run (R72, R196) -/

/-- Whether a context runs a kernel is a matter of that context, of the saved images, and of the kernel's place. -/
theorem kernelCtxs_congr {s t : State} {n d : Nat} {q p : Kernel} (hsaves : t.saves = s.saves) (hctx : ctxOf t d = ctxOf s d)
    (hl : p.launch = q.launch) (hk : p.kslot = q.kslot) (h : d ∈ kernelCtxs s n q) : d ∈ kernelCtxs t n p := by
  simpa only [kernelCtxs, Saved.on, List.mem_filter, hsaves, hctx, hl, hk] using h

/-- A core of whose kernels of a launch each is run by some context keeps them. -/
theorem reclaimCore_needed {s : State} {l core : Nat} (y : Launch)
    (h : ∀ q ∈ (coreOf s core).kernels, q.launch = l → kernelCtxs s core q ≠ []) : reclaimCore s l y core = s := by
  have hnone : ((coreOf s core).kernels.filter fun k => k.launch == l).filter (fun k => !kernelNeeded s core y k) = [] := by
    rw [List.filter_eq_nil_iff]
    intro q hq
    obtain ⟨hmem, hlaunch⟩ := List.mem_filter.mp hq
    have hruns : (kernelCtxs s core q != []) = true := bne_iff_ne.mpr (h q hmem (beq_iff_eq.mp hlaunch))
    simp only [kernelNeeded, hruns, Bool.true_or, Bool.not_true, Bool.false_eq_true, not_false_eq_true]
  simp only [reclaimCore, hnone, List.map_nil, if_true]

theorem reclaim_needed {s : State} {l : Nat} (h : ∀ n, ∀ q ∈ (coreOf s n).kernels, q.launch = l → kernelCtxs s n q ≠ []) :
    reclaim s l = s := by
  unfold reclaim
  split
  · rfl
  · next y hy =>
    split
    · generalize y.ctxs.map (·.1) = cores
      induction cores with
      | nil => rfl
      | cons n ns ih => rw [List.foldl_cons, reclaimCore_needed y (h n)]; exact ih
    · rfl

/-- Serving demands changes no kernel's place, so it frees none that a context runs. -/
theorem reclaim_served {s : State} {l core : Nat} (h : ∀ n, ∀ q ∈ (coreOf s n).kernels, q.launch = l → ∃ d, d ∈ kernelCtxs s n q) :
    reclaim (serveDemands s core) l = serveDemands s core := by
  refine reclaim_needed fun n q hq hlaunch hnone => ?_
  have hserved := sameButCode_serveDemands s core
  have hfixed : q.fixed ∈ (coreOf s n).kernels.map Kernel.fixed := by
    rw [← hserved.kernels]
    exact List.mem_map_of_mem hq
  obtain ⟨q0, hq0, heq⟩ := List.mem_map.mp hfixed
  have hlaunch0 : q0.launch = q.launch := (congrArg Kernel.launch heq :)
  have hkslot0 : q0.kslot = q.kslot := (congrArg Kernel.kslot heq :)
  obtain ⟨d, hd⟩ := h n q0 hq0 (hlaunch0.trans hlaunch)
  have hmem := kernelCtxs_congr (s := s) (t := serveDemands s core) (by rw [hserved.rest]) (hserved.ctx d) hlaunch0.symm hkslot0.symm hd
  rw [hnone] at hmem
  exact absurd hmem List.not_mem_nil

theorem regionOf_modRegion_same {s : State} {r : Nat} (h : (Tab.find s.regions r).isSome = true) (g : Region → Region) :
    regionOf (modRegion s r g) r = g (regionOf s r) := by
  obtain ⟨a, ha⟩ := Option.isSome_iff_exists.mp h
  have hr : regionOf s r = a := Tab.get_of_find _ _ ha
  simp only [modRegion, ha, hr]
  exact Tab.get_put_same _ _ _ _

/-- The unit that a seed's task gives back (R347). -/
theorem seedFreed_region {s : State} {c : Nat} (hseed : (ctxOf s c).task.seed.isSome = true)
    (h : (Tab.find s.regions (budgetRegion s (ctxRegion s c) 10)).isSome = true) :
    (regionOf (seedFreed s c true) (budgetRegion s (ctxRegion s c) 10)).seeds = (regionOf s (budgetRegion s (ctxRegion s c) 10)).seeds - 1 := by
  rw [seedFreed, hseed, Bool.and_self, if_pos rfl, freeSeed, regionOf_modRegion_same h]

/-- The context in the frame in which its task ends, its release made. -/
def endingCtx (x : Ctx) (f : Frame) : Ctx := { x with frame := some { f with todo := [], freed := true } }

/-- A step at the end of a task that waits for nothing, with checkpoint mode off (R129). -/
theorem step_taskOver {s : State} {c : Nat} {x : Ctx} {f : Frame} {k : EndKind} (hc : current s = some (c, x, f))
    (htodo : f.todo = [.endTask k]) (hck : x.sys.ckmode = 0) (hwrites : f.freed = true ∨ endWrites x = true) (hready : endReady s c k = true)
    (hk : k ≠ .rndcmt) :
    step s = .next (taskOver (booked (setCtx s c (endingCtx x f)) c f k) c (k != .waitc) (endTicks f k)) := by
  obtain ⟨-, hx, -⟩ := current_some hc
  have hoff : x.sys.ckmode ≠ 1 := by rw [hck]; decide
  have hfinish : finishTask (setCtx s c (endingCtx x f)) c k =
      taskOver (booked (setCtx s c (endingCtx x f)) c f k) c (k != .waitc) (endTicks f k) :=
    finishTask_eq (f := { f with todo := [], freed := true }) (by rw [ctxOf_setCtx_same]; rfl) hk
  have hready' : endReady (setCtx s c (endingCtx x f)) c k = true := (endReady_frame hx _ k).trans hready
  rw [step_endTask hc htodo]
  refine congrArg Host.Outcome.next (Eq.trans ?_ hfinish)
  by_cases hfreed : f.freed = true
  · have hsame : ({ f with todo := [] } : Frame) = { f with todo := [], freed := true } := by rw [← hfreed]
    rw [hsame, endTask_freed (ctxOf_setCtx_same _ _ _) rfl rfl]
    exact if_pos hready'
  · have hend := endTask_releases (ctxOf_setCtx_same s c { x with frame := some { f with todo := [] } }) rfl
      (Bool.eq_false_iff.mpr hfreed) (hwrites.resolve_left hfreed) k
    dsimp only at hend
    rw [if_neg hoff, setCtx_setCtx] at hend
    exact hend.trans (if_pos hready')

/-- The machine at the end of a task, with what the end records. -/
def atTaskEnd (s : State) (c : Nat) (x : Ctx) (f : Frame) (k : EndKind) : State := booked (setCtx s c (endingCtx x f)) c f k

/-- The machine once the task is over, before its core and its launch see to what that leaves. -/
def afterTask (s : State) (c : Nat) (x : Ctx) (f : Frame) (k : EndKind) : State :=
  leftTask (atTaskEnd s c x f k) c (k != .waitc) (endTicks f k)

section
variable (s : State) (c : Nat) (x : Ctx) (f : Frame) (k : EndKind)

theorem atTaskEnd_same : SameButBooks (setCtx s c (endingCtx x f)) (atTaskEnd s c x f k) := booked_same _ _ _ _

theorem atTaskEnd_ctx (d : Nat) : ctxOf (atTaskEnd s c x f k) d = if d = c then endingCtx x f else ctxOf s d := by
  rw [(atTaskEnd_same s c x f k).ctx, ctxOf_setCtx]

theorem atTaskEnd_own : ctxOf (atTaskEnd s c x f k) c = endingCtx x f := (atTaskEnd_ctx s c x f k c).trans (if_pos rfl)

theorem afterTask_same : SameButEnd s (afterTask s c x f k) :=
  SameButEnd.trans (t := setCtx s c (endingCtx x f)) rfl ((atTaskEnd_same s c x f k).sameButEnd.trans (leftTask_same _ _ _ _))

theorem afterTask_ctx (d : Nat) : ctxOf (afterTask s c x f k) d = if d = c then retired (endingCtx x f) (endTicks f k) else ctxOf s d := by
  rw [afterTask, leftTask_ctx, atTaskEnd_own, atTaskEnd_ctx]
  split <;> rfl

theorem afterTask_own : ctxOf (afterTask s c x f k) c = retired (endingCtx x f) (endTicks f k) := (afterTask_ctx s c x f k c).trans (if_pos rfl)

theorem afterTask_core (n : Nat) : coreOf (afterTask s c x f k) n = coreOf s n := by
  rw [afterTask_same]
  rfl

end

section
variable {s : State} {c l : Nat} {x : Ctx} {f : Frame} {y : Launch} {k : EndKind} (hc : current s = some (c, x, f))
  (hl : x.launch = some l) (hy : launchOf s l = some y)
include hl hy

theorem atTaskEnd_launch : launchOf (atTaskEnd s c x f k) l = some (if k = .halt then setExit y c f.exit else y) := by
  have hl' : (ctxOf (setCtx s c (endingCtx x f)) c).launch = some l := by rw [ctxOf_setCtx_same]; exact hl
  exact launchOf_booked (s := setCtx s c (endingCtx x f)) hl' hy f k

theorem afterTask_launch : launchOf (afterTask s c x f k) l = some (if k = .halt then setExit y c f.exit else y) := by
  rw [afterTask, leftTask_rest]
  exact atTaskEnd_launch hl hy

include hc

theorem atTaskEnd_region : ctxRegion (atTaskEnd s c x f k) c = ctxRegion s c := by
  obtain ⟨-, hx, -⟩ := current_some hc
  have hl' : (ctxOf (setCtx s c (endingCtx x f)) c).launch = some l := by rw [ctxOf_setCtx_same]; exact hl
  exact (ctxRegion_booked (s := setCtx s c (endingCtx x f)) hl' hy f k).trans (ctxRegion_set s c _ (by rw [hx]; rfl))

theorem atTaskEnd_inRound (hround : inRound s c = false) : inRound (atTaskEnd s c x f k) c = false := by
  obtain ⟨-, hx, -⟩ := current_some hc
  have hctx := ctxOf_setCtx_same s c (endingCtx x f)
  have hl' : (ctxOf (setCtx s c (endingCtx x f)) c).launch = some l := by rw [hctx]; exact hl
  have hround' : inRound (setCtx s c (endingCtx x f)) c = inRound s c :=
    inRound_congr (s := s) (by rw [hctx, hx]; rfl) (by rw [hctx, hx]; rfl) rfl rfl
  exact inRound_booked (s := setCtx s c (endingCtx x f)) hl' hy f k (hround'.trans hround)

/-- The step in which a task ends: its core serves what its kernels demand, and its launch frees what it needs no more. -/
theorem step_afterTask (htodo : f.todo = [.endTask k]) (hck : x.sys.ckmode = 0) (hwrites : f.freed = true ∨ endWrites x = true)
    (hready : endReady s c k = true) (hround : inRound s c = false) (hk : k ≠ .rndcmt) :
    step s = .next (reclaim (serveDemands (afterTask s c x f k) (ctxCore c)) l) := by
  have hactive : (atTaskEnd s c x f k).active = some c := by
    rw [atTaskEnd_same]
    exact (current_some hc).1
  rw [step_taskOver hc htodo hck hwrites hready hk]
  exact congrArg _ (taskOver_eq hactive (by rw [atTaskEnd_own]; exact hl) (atTaskEnd_inRound hc hl hy hround) _ _)

/-- The seed's unit of SEEDB is free after any end but WAITC's (R347, R353). -/
theorem afterTask_seeds (hk : k ≠ .waitc) (hseed : x.task.seed.isSome = true)
    (hregion : (Tab.find s.regions (budgetRegion s (ctxRegion s c) 10)).isSome = true) :
    (regionOf (afterTask s c x f k) (budgetRegion s (ctxRegion s c) 10)).seeds =
      (regionOf s (budgetRegion s (ctxRegion s c) 10)).seeds - 1 := by
  have hregions : (atTaskEnd s c x f k).regions = s.regions := booked_regions f (Or.inl hk)
  have hb : budgetRegion (atTaskEnd s c x f k) (ctxRegion (atTaskEnd s c x f k) c) 10 = budgetRegion s (ctxRegion s c) 10 := by
    rw [atTaskEnd_region hc hl hy, budgetRegion_congr hregions]
  have hsame : ∀ b, regionOf (atTaskEnd s c x f k) b = regionOf s b := fun b => by rw [regionOf, hregions, regionOf]
  have hfreed := seedFreed_region (s := atTaskEnd s c x f k) (c := c) (by rw [atTaskEnd_own]; exact hseed)
    (by rw [hb, hregions]; exact hregion)
  rw [hb, hsame] at hfreed
  rw [afterTask, leftTask_rest, bne_iff_ne.mpr hk]
  exact hfreed

end

theorem taskEnds_holds : taskEnds := by
  intro s c l x f y k hc hl hy htodo hck hwrites hready hround hk hslots hneeded
  let u := afterTask s c x f k
  let t := serveDemands u (ctxCore c)
  have hserved : SameButCode u t := sameButCode_serveDemands u (ctxCore c)
  have hsame : SameButEnd s u := afterTask_same s c x f k
  have hstep : step s = .next t := by
    rw [step_afterTask hc hl hy htodo hck hwrites hready hround hk]
    refine congrArg Host.Outcome.next (reclaim_served fun n q hq hlaunch => ?_)
    rw [afterTask_core] at hq
    obtain ⟨d, hd, hne⟩ := hneeded n q hq hlaunch
    exact ⟨d, kernelCtxs_congr hsame.saves ((afterTask_ctx s c x f k d).trans (if_neg hne)) rfl rfl hd⟩
  have hctx : ctxOf t c = retired (endingCtx x f) 1 := by rw [hserved.ctx, afterTask_own, endTicks_bundle hslots]
  have hlaunch : launchOf t l = some (if k = .halt then setExit y c f.exit else y) := by
    rw [hserved.rest]
    exact afterTask_launch hl hy
  refine ⟨t, hstep, by rw [hserved.rest]; rfl, by rw [hserved.rest]; exact hsame.mem, by rw [hserved.rest]; exact hsame.host,
    ?_, fun hhalt => ⟨_, hlaunch, by rw [if_pos hhalt]⟩,
    fun hne => by rw [hlaunch, if_neg hne], fun hne hseed hregion => ?_, fun q hwaitc hq => ?_⟩
  · rw [hctx]
    exact ⟨rfl, rfl, rfl, rfl, rfl, rfl, rfl, rfl, rfl⟩
  · dsimp only
    rw [hserved.rest]
    exact afterTask_seeds hc hl hy hne hseed hregion
  · subst hwaitc
    obtain ⟨n, hconts⟩ := booked_conts (s := setCtx s c (endingCtx x f)) (c := c) hq
    refine ⟨{ q with id := n }, Eq.trans ?_ hconts, rfl, rfl, rfl⟩
    rw [hserved.rest]
    exact (congrArg State.conts (leftTask_rest (atTaskEnd s c x f .waitc) c false (endTicks f .waitc)) :)

/-! ## What the last context of a core frees (R72, R196, R340) -/

/-- A context that its launch has left. -/
def unheld (x : Ctx) : Ctx := { seq := x.seq, bundle := x.bundle }

theorem ctxOf_freeCtx (s : State) (l d c : Nat) :
    ctxOf (freeCtx s l d) c = if d = c ∧ (ctxOf s c).launch = some l then unheld (ctxOf s c) else ctxOf s c := by
  by_cases hl : (ctxOf s d).launch = some l
  · have hfree : ctxOf (freeCtx s l d) c = ctxOf (setCtx s d (unheld (ctxOf s d))) c := by
      unfold freeCtx
      dsimp only
      rw [if_pos hl]
      rfl
    rw [hfree, ctxOf_setCtx]
    by_cases hd : d = c
    · subst hd
      rw [if_pos rfl, if_pos ⟨rfl, hl⟩]
    · rw [if_neg (Ne.symm hd), if_neg (fun h => hd h.1)]
  · have hkept : freeCtx s l d = s := if_neg hl
    rw [hkept, if_neg]
    rintro ⟨rfl, h⟩
    exact hl h

/-- A context that its launch has left is not freed again. -/
theorem ctxOf_freeCtxs (l c : Nat) (cs : List Nat) (s : State) : ctxOf (cs.foldl (fun s d => freeCtx s l d) s) c =
    if c ∈ cs ∧ (ctxOf s c).launch = some l then unheld (ctxOf s c) else ctxOf s c := by
  induction cs generalizing s with
  | nil => simp
  | cons d ds ih =>
    rw [List.foldl_cons, ih, ctxOf_freeCtx]
    by_cases hl : (ctxOf s c).launch = some l
    · by_cases hd : d = c
      · simp [hd, hl, unheld]
      · simp [hd, Ne.symm hd, hl]
    · simp [hl]

/-- Freeing a context touches neither memory, nor launches, nor the code and area of a core. -/
theorem freeCtxs_keeps (l k : Nat) (cs : List Nat) (s : State) :
    let t := cs.foldl (fun s d => freeCtx s l d) s
    t.mem = s.mem ∧ t.launches = s.launches ∧ (coreOf t k).kernels = (coreOf s k).kernels ∧ (coreOf t k).area = (coreOf s k).area := by
  have hstep : ∀ s d, (freeCtx s l d).mem = s.mem ∧ (freeCtx s l d).launches = s.launches ∧
      (coreOf (freeCtx s l d) k).kernels = (coreOf s k).kernels ∧ (coreOf (freeCtx s l d) k).area = (coreOf s k).area := fun s d => by
    unfold freeCtx
    dsimp only
    split
    · simp only [modCore, coreOf_setCore]
      split
      · next hk => subst hk; exact ⟨rfl, rfl, rfl, rfl⟩
      · exact ⟨rfl, rfl, rfl, rfl⟩
    · exact ⟨rfl, rfl, rfl, rfl⟩
  exact ⟨foldl_keeps (·.mem) _ cs s fun s d => (hstep s d).1, foldl_keeps (·.launches) _ cs s fun s d => (hstep s d).2.1,
    foldl_keeps (fun s => (coreOf s k).kernels) _ cs s fun s d => (hstep s d).2.2.1,
    foldl_keeps (fun s => (coreOf s k).area) _ cs s fun s d => (hstep s d).2.2.2⟩

/-- A launch leaves a die: nothing but the die's specialisation cache changes (R383). -/
theorem leaveDie_rest (s : State) (l d : Nat) : leaveDie s l d = { s with dies := (leaveDie s l d).dies } := by
  unfold leaveDie
  split <;> rfl

/-- A launch that leaves a core frees its area and its contexts there, and nothing else. -/
theorem leaveCore_eq {s : State} {l core : Nat} {z : Launch} {cs : List Nat} (hz : launchOf s l = some z) (hctxs : z.ctxs = [(core, cs)]) :
    leaveCore s l z core = setLaunch (cs.foldl (fun s d => freeCtx s l d) (freeArea s l core)) l { z with ctxs := [(core, [])] } := by
  have hhere : (z.ctxs.filter fun q => q.1 == core).flatMap (·.2) = cs := by simp [hctxs]
  obtain ⟨-, hlaunches, -⟩ := freeCtxs_keeps l core cs (freeArea s l core)
  have hz' : launchOf (cs.foldl (fun s d => freeCtx s l d) (freeArea s l core)) l = some z := by rw [launchOf, hlaunches]; exact hz
  simp only [leaveCore, hhere, modLaunch, hz']
  simp only [hctxs, List.map_cons, List.map_nil, if_true]

/-- A launch leaves the last of its cores, which holds no code but one kernel of it: code, area and contexts there are free. -/
theorem leavesCore {s : State} {l core c n : Nat} {z : Launch} {q : Kernel} {cs : List Nat} (hk : (coreOf s core).kernels = [q])
    (hq : q.launch = l) (harea : (coreOf s core).area = some (l, n)) (hz : launchOf s l = some z) (hctxs : z.ctxs = [(core, cs)]) (hc : c ∈ cs)
    (hl : (ctxOf s c).launch = some l) :
    let t := leaveDie (leaveCore (freeKernels s l core [q.kslot]) l z core) l (coreDie core)
    (coreOf t core).kernels = [] ∧ (coreOf t core).area = none ∧ t.mem = s.mem ∧ ctxOf t c = unheld (ctxOf s c) ∧
      ∃ w, launchOf t l = some w ∧ w.exits = z.exits := by
  intro t
  let u := freeArea (freeKernels s l core [q.kslot]) l core
  let v := cs.foldl (fun s d => freeCtx s l d) u
  have hu : (coreOf u core).kernels = [] ∧ (coreOf u core).area = none := by
    simp only [u, freeArea, freeKernels, modCore, coreOf_setCore_same, setCore_setCore, hk, harea]
    simp [hq]
  obtain ⟨hmem, -, hkernels, harea'⟩ := freeCtxs_keeps l core cs u
  have ht : t = { setLaunch v l { z with ctxs := [(core, [])] } with dies := t.dies } := by
    have hleave : leaveCore (freeKernels s l core [q.kslot]) l z core = setLaunch v l { z with ctxs := [(core, [])] } := leaveCore_eq hz hctxs
    rw [← hleave]
    exact leaveDie_rest _ _ _
  have hctx : ctxOf v c = unheld (ctxOf s c) := (ctxOf_freeCtxs l c cs u).trans (if_pos ⟨hc, hl⟩)
  rw [ht]
  exact ⟨hkernels.trans hu.1, harea'.trans hu.2, hmem, hctx, _, launchOf_setLaunch_same _ _ _, rfl⟩

/-- No context runs a kernel on a core all of whose contexts have halted, where none is saved. -/
theorem kernelCtxs_halted {s : State} {core : Nat} (q : Kernel) (hsaves : s.saves = []) (h : ∀ d, d / 4 = core → (ctxOf s d).status = .halted) :
    kernelCtxs s core q = [] := by
  simp only [kernelCtxs, hsaves, List.filter_nil, List.flatMap_nil, List.append_nil, List.filter_eq_nil_iff]
  intro d hd
  rw [h d (mem_coreCtxs.mp hd)]
  simp

/-- Nothing of a launch is to touch a core whose contexts owe nothing, where no copy work of the launch is left. -/
theorem areaQuiet_done {s : State} {l core : Nat} (hls : ∀ d, d / 4 = core → (ctxOf s d).ls = [])
    (hjobs : ∀ d ∈ s.dies, ∀ j ∈ d.2.jobs, j.launch ≠ l) : areaQuiet s l core = true := by
  simp only [areaQuiet, Bool.and_eq_true, List.all_eq_true, Bool.not_eq_true', List.any_eq_false]
  refine ⟨fun d hd => ?_, fun d hd h => ?_⟩
  · rw [storesDone, hls d (mem_coreCtxs.mp hd), Bool.or_true]
  · obtain ⟨j, hj, hmine⟩ := List.any_eq_true.mp h
    exact hjobs d hd j hj (beq_iff_eq.mp (Bool.and_eq_true_iff.mp hmine).1)

/-- A gang's only core, none of whose contexts runs the one kernel any more, is freed. -/
theorem reclaim_last {s : State} {l core : Nat} {z : Launch} {q : Kernel} {cs : List Nat} (hz : launchOf s l = some z)
    (hstage : z.stage = .placed) (hctxs : z.ctxs = [(core, cs)]) (htasks : z.tasks = []) (hgang : z.kind = .gang)
    (hk : (coreOf s core).kernels = [q]) (hq : q.launch = l) (hidle : kernelCtxs s core q = []) (hquiet : areaQuiet s l core = true) :
    reclaim s l = leaveDie (leaveCore (freeKernels s l core [q.kslot]) l z core) l (coreDie core) := by
  have hone : reclaim s l = reclaimCore s l z core := by simp [reclaim, hz, hstage, hctxs]
  have hneeded : kernelNeeded s core z q = false := by simp [kernelNeeded, hidle, htasks, hgang]
  rw [hone]
  simp [reclaimCore, hk, hq, hneeded, hquiet]

/-- A context that has retired owes the banks nothing where it owed nothing before its end. -/
theorem retired_ls {x : Ctx} (h : x.ls = []) (f : Frame) (ticks : Nat) : (retired (endingCtx x f) ticks).ls = [] := by
  show x.ls.filter _ = []
  rw [h, List.filter_nil]

theorem lastContextFreesCore_holds : lastContextFreesCore := by
  intro s c l x f y q cs n hc hl hgang hy hkind hstage hctxs hmem htodo hck hwrites hready hround hls hk hq harea hdemand htasks hsaves
    hothers hjobs
  let u := afterTask s c x f .halt
  have hsame : SameButEnd s u := afterTask_same s c x f .halt
  have hku : (coreOf u (ctxCore c)).kernels = [q] := by rw [afterTask_core]; exact hk
  have hau : (coreOf u (ctxCore c)).area = some (l, n) := by rw [afterTask_core]; exact harea
  have hx : ctxOf u c = retired (endingCtx x f) (endTicks f .halt) := afterTask_own s c x f .halt
  have hz : launchOf u l = some (setExit y c f.exit) := afterTask_launch hl hy
  have hrest := setExit_rest y c f.exit
  generalize setExit y c f.exit = z at hz hrest ⊢
  have hstagez : z.stage = .placed := by rw [hrest]; exact hstage
  have hctxsz : z.ctxs = [(ctxCore c, cs)] := by rw [hrest]; exact hctxs
  have hover : ∀ d, d / 4 = ctxCore c → (ctxOf u d).status = .halted ∧ (ctxOf u d).ls = [] := fun d hd => by
    by_cases hdc : d = c
    · rw [hdc, hx]
      exact ⟨if_pos hgang, retired_ls hls f _⟩
    · rw [afterTask_ctx, if_neg hdc]
      exact hothers d hd hdc
  have hserved : serveDemands u (ctxCore c) = u := serveDemands_undemanded fun p hp => by
    rw [hku, List.mem_singleton] at hp
    rw [hp, hdemand]
  have hidle := kernelCtxs_halted (s := u) q (hsame.saves.trans hsaves) fun d hd => (hover d hd).1
  have hquiet := areaQuiet_done (s := u) (l := l) (fun d hd => (hover d hd).2) (by rw [hsame.dies]; exact hjobs)
  have hstep := step_afterTask hc hl hy htodo hck (Or.inr hwrites) hready hround (by decide)
  rw [hserved, reclaim_last hz hstagez hctxsz (by rw [hrest]; exact htasks) (by rw [hrest]; exact hkind) hku hq hidle hquiet] at hstep
  obtain ⟨hkernels, hfree, hmem', hleft, w, hw, hexits⟩ := leavesCore hku hq hau hz hctxsz hmem (by rw [hx]; exact hl)
  exact ⟨_, hstep, hkernels, hfree, hmem'.trans hsame.mem, hleft.trans (by rw [hx]; rfl), w, hw, hexits⟩

/-- Settles O33: an end waits for its writes, releases once, and leaves its context retired; the last one of a core frees the core. -/
theorem taskEnds : Obligations.TaskEnds := ⟨taskEnds_holds, taskEndWaits_holds, lastContextFreesCore_holds⟩

end Sys2Proof.Machine
end

section
/-! PROOFS for O15. What the lane-wise operations, compares and conversions of `vec` deliver (R139, R147 to R150, R173 to R183). -/

namespace Sys2Proof.Machine

/-! ## Lane functions that agree on lanes -/

/-- On codes of width `w`, `g` gives what `g'` gives, which is a code of that width. -/
def SameLanes (w : Nat) (g g' : Nat → Nat → Nat → Nat × FlagSet) : Prop :=
  ∀ a b d, a < 2 ^ w → b < 2 ^ w → d < 2 ^ w → g a b d = g' a b d ∧ (g' a b d).1 < 2 ^ w

section
variable {w : Nat}

theorem sameLanes_add : SameLanes w (fun a b _ => quiet ((a + b) % 2 ^ w)) (iAdd w) := fun a b _ _ _ _ =>
  ⟨by simp [quiet, iAdd], BitVec.isLt _⟩

theorem sameLanes_sub : SameLanes w (fun a b _ => quiet ((a + 2 ^ w - b) % 2 ^ w)) (iSub w) := fun a b _ ha hb _ => by
  have hsum : a + 2 ^ w - b = 2 ^ w - b + a := by omega
  exact ⟨by simp [quiet, iSub, Nat.mod_eq_of_lt hb, hsum], BitVec.isLt _⟩

theorem sameLanes_mul : SameLanes w (fun a b _ => quiet (a * b % 2 ^ w)) (iMul w) := fun a b _ _ _ _ =>
  ⟨by simp [quiet, iMul], BitVec.isLt _⟩

theorem sameLanes_min (hw : 0 < w) : SameLanes w (fun a b _ => quiet (if intLess w b a then b else a)) (iMin w) :=
  fun a b _ ha hb _ => ⟨by simp only [quiet, iMin, min_eq hw ha hb], by simp only [iMin]; split <;> assumption⟩

theorem sameLanes_max (hw : 0 < w) : SameLanes w (fun a b _ => quiet (if intLess w b a then a else b)) (iMax w) :=
  fun a b _ ha hb _ => ⟨by simp only [quiet, iMax, max_eq hw ha hb], by simp only [iMax]; split <;> assumption⟩

theorem sameLanes_minNat : SameLanes w (fun a b _ => quiet (min a b)) nMin := fun _ _ _ ha _ _ => ⟨rfl, (min_le_left _ _).trans_lt ha⟩

theorem sameLanes_maxNat : SameLanes w (fun a b _ => quiet (max a b)) nMax := fun _ _ _ ha hb _ => ⟨rfl, max_lt ha hb⟩

theorem sameLanes_shl : SameLanes w (fun a b _ => quiet (shlLane w a b)) (iShl w) := fun _ _ _ _ _ _ =>
  ⟨by simp only [quiet, iShl, shl_eq], BitVec.isLt _⟩

theorem sameLanes_shr : SameLanes w (fun a b _ => quiet (shrLane w a b)) (iShr w) := fun _ _ _ ha _ _ =>
  ⟨by simp only [quiet, iShr, shr_eq ha], BitVec.isLt _⟩

theorem sameLanes_sar (hw : 0 < w) : SameLanes w (fun a b _ => quiet (sarLane w a b)) (iSar w) := fun _ _ _ ha _ _ =>
  ⟨by simp only [quiet, iSar, sar_eq hw ha], BitVec.isLt _⟩

theorem sameLanes_abs (hw : 0 < w) : SameLanes w (fun a _ _ => quiet (intCode w (intOf w a).natAbs)) (iAbs w) := fun a _ _ ha _ _ =>
  ⟨by simp only [quiet, iAbs, iabs_eq hw ha], by simp only [iAbs]; split; exacts [BitVec.isLt _, ha]⟩

theorem sameLanes_and : SameLanes w (fun a b _ => quiet (a &&& b)) (fun a b _ => (a &&& b, 0)) := fun _ _ _ ha _ _ =>
  ⟨rfl, Nat.and_le_left.trans_lt ha⟩

theorem sameLanes_or : SameLanes w (fun a b _ => quiet (a ||| b)) (fun a b _ => (a ||| b, 0)) := fun _ _ _ ha hb _ =>
  ⟨rfl, Nat.or_lt_two_pow ha hb⟩

theorem sameLanes_xor : SameLanes w (fun a b _ => quiet (a ^^^ b)) (fun a b _ => (a ^^^ b, 0)) := fun _ _ _ ha hb _ =>
  ⟨rfl, Nat.xor_lt_two_pow ha hb⟩

theorem intCode_lt (w : Nat) (v : Int) : intCode w v < 2 ^ w := by rw [intCode_eq]; exact BitVec.isLt _

/-- A value of an unsigned lane is its own code. -/
theorem intCode_natCast {n : Nat} (h : n < 2 ^ w) : intCode w n = n := by
  rw [intCode_eq, BitVec.ofInt_natCast, BitVec.toNat_ofNat, Nat.mod_eq_of_lt h]

/-- The least value of a signed lane has the code of the sign bit alone (R141). -/
theorem intCode_least (hw : 0 < w) : intCode w (-(2 ^ (w - 1))) = 2 ^ (w - 1) := by
  obtain ⟨k, rfl⟩ := Nat.exists_eq_add_one.mpr hw
  have hwrap : (-(2 ^ k) : Int) = 2 ^ k + 2 ^ (k + 1) * (-1) := by ring
  have hlt : (2 : Int) ^ k < 2 ^ (k + 1) := pow_lt_pow_right₀ one_lt_two (Nat.lt_succ_self k)
  rw [Nat.add_sub_cancel, intCode, hwrap, Int.add_mul_emod_self_left, Int.emod_eq_of_lt (by positivity) hlt]
  exact Int.toNat_natCast (2 ^ k)

/-- The sum of two unsigned codes, clamped (R141). -/
theorem clamp_add_nat (a b : Nat) : clampTo (.nat w) ((a : Int) + b) = if 2 ^ w ≤ a + b then (2 ^ w - 1, fSAT) else (a + b, 0) := by
  have hpos := Nat.two_pow_pos w
  have htop : ((2 : Int) ^ w - 1) = ((2 ^ w - 1 : Nat) : Int) := by push_cast [hpos]; rfl
  rw [clamp_nat, if_neg (by omega), htop, ← Nat.cast_add, intCode_natCast (by omega)]
  by_cases h : 2 ^ w ≤ a + b
  · rw [if_pos (by omega), if_pos h]
  · rw [if_neg (by omega), if_neg h, intCode_natCast (by omega)]

/-- A signed value, clamped (R141). -/
theorem clamp_signed (hw : 0 < w) (t : Int) : clampTo (.int w) t =
    if t < -(2 ^ (w - 1)) then (2 ^ (w - 1), fSAT) else if 2 ^ (w - 1) ≤ t then (2 ^ (w - 1) - 1, fSAT)
    else ((BitVec.ofInt w t).toNat, 0) := by
  have hpos := Nat.two_pow_pos (w - 1)
  have hhalf : 2 ^ (w - 1) < 2 ^ w := Nat.pow_lt_pow_right (by omega) (by omega)
  have htop : ((2 : Int) ^ (w - 1) - 1) = ((2 ^ (w - 1) - 1 : Nat) : Int) := by push_cast [hpos]; rfl
  have hiff : (2 : Int) ^ (w - 1) - 1 < t ↔ 2 ^ (w - 1) ≤ t := by omega
  simp only [clamp_int, intCode_least hw, hiff]
  rw [htop, intCode_natCast (by omega), intCode_eq]

theorem sameLanes_addsInt (hw : 0 < w) : SameLanes w (fun a b _ => addsLane (.int w) a b) (iAdds w) := fun a b _ ha hb _ => by
  have hhalf : 2 ^ (w - 1) < 2 ^ w := Nat.pow_lt_pow_right (by omega) (by omega)
  constructor
  · simp only [addsLane, Kind.width, intOf_eq hw ha, intOf_eq hw hb, clamp_signed hw]
    rfl
  · simp only [iAdds]
    split_ifs
    exacts [hhalf, (Nat.sub_le _ _).trans_lt hhalf, BitVec.isLt _]

theorem sameLanes_addsNat : SameLanes w (fun a b _ => addsLane (.nat w) a b) (nAdds w) := fun a b _ _ _ _ => by
  refine ⟨clamp_add_nat a b, ?_⟩
  simp only [nAdds]
  split_ifs with h
  exacts [Nat.sub_lt (Nat.two_pow_pos w) one_pos, Nat.lt_of_not_le h]

end

section
variable {f : Fmt}

theorem sameLanes_fpAdd (hf : Fits f) : SameLanes f.width (fun a b _ => f.add a b) (fpAdd f) := fun _ _ _ _ _ _ => ⟨rfl, round_lt hf ..⟩
theorem sameLanes_fpSub (hf : Fits f) : SameLanes f.width (fun a b _ => f.sub a b) (fpSub f) := fun _ _ _ _ _ _ => ⟨rfl, round_lt hf ..⟩
theorem sameLanes_fpMul (hf : Fits f) : SameLanes f.width (fun a b _ => f.mul a b) (fpMul f) := fun _ _ _ _ _ _ => ⟨rfl, round_lt hf ..⟩
theorem sameLanes_fpFma (hf : Fits f) : SameLanes f.width (fun a b c => f.fma a b c) (fpFma f) := fun _ _ _ _ _ _ => ⟨rfl, round_lt hf ..⟩

theorem Fits.nan_lt (hf : Fits f) : f.nan < 2 ^ f.width := by
  have := hf.nan; have := hf.w; omega

/-- MIN and MAX: a NaN where an operand is one, else the operand that the order picks (R178). -/
theorem minmax_eq (f : Fmt) (max : Bool) (a b : Nat) : f.minmax max a b =
    if isNan f a || isNan f b then f.nan
    else if max then (if (f.decode a).less (f.decode b) then b else a) else (if (f.decode b).less (f.decode a) then b else a) := by
  unfold Fmt.minmax isNan
  cases f.decode a <;> cases f.decode b <;> rfl

theorem sameLanes_fpMin (hf : Fits f) : SameLanes f.width (fun a b _ => quiet (f.minmax false a b)) (fpMin f) := fun a b _ ha hb _ => by
  refine ⟨congrArg quiet (minmax_eq f _ a b), ?_⟩
  simp only [fpMin]
  split_ifs
  exacts [hf.nan_lt, hb, ha]

theorem sameLanes_fpMax (hf : Fits f) : SameLanes f.width (fun a b _ => quiet (f.minmax true a b)) (fpMax f) := fun a b _ ha hb _ => by
  refine ⟨congrArg quiet (minmax_eq f _ a b), ?_⟩
  simp only [fpMax]
  split_ifs
  exacts [hf.nan_lt, hb, ha]

theorem signBit_eq (f : Fmt) : f.signBit = 2 ^ (f.width - 1) := by
  rw [Fmt.signBit, Fmt.width, Nat.add_assoc, Nat.add_sub_cancel_left]

theorem sameLanes_fpAbs (hf : Fits f) : SameLanes f.width (fun a _ _ => quiet (f.abs a)) (fpAbs f) := fun a _ _ ha _ _ => by
  have habs : f.abs a = if isNan f a then f.nan else a % 2 ^ (f.width - 1) := by
    rw [← signBit_eq]
    unfold Fmt.abs isNan
    cases f.decode a <;> rfl
  refine ⟨congrArg quiet habs, ?_⟩
  simp only [fpAbs]
  split_ifs
  exacts [hf.nan_lt, (Nat.mod_le _ _).trans_lt ha]

end

/-! ## What the moulds deliver -/

/-- A lane-wise operation delivers the lane operation of its row (R173 to R176). -/
def RowDelivers (p : (Mv → Instr) × Nat × Nat × (Nat → Nat → Nat → Nat × FlagSet)) : Prop :=
  ∀ (m : Mv) (s : State) (c : Nat) (x : Ctx) (f : Frame), Acts s m c x f →
    let o := opndsAt x f m .vec
    let w := p.2.2.1
    ∃ v : VecOut, Delivers (p.1 m) s c x o.a p.2.1 v ∧
      LaneWise w (4096 / w) (f.regs.m[0]).read v fun i => p.2.2.2 (lane w o.a.toNat i) (lane w o.b.toNat i) (lane w o.c.toNat i)

theorem rowDelivers {i : Mv → Instr} (sock : BitVec 12) {lat w : Nat} {g g' : Nat → Nat → Nat → Nat × FlagSet} (hg : SameLanes w g g')
    (hi : ∀ m s, exec (i m) s = vecMap s m sock lat w g := by intro _ _; rfl) : RowDelivers (i, lat, w, g') := by
  intro m s c x f h
  obtain ⟨v, hv, hl⟩ := vecMap_row (sock := sock) (lat := lat) h (Nat.mul_div_le 4096 w) hg
  exact ⟨v, (hi m s).trans hv, hl⟩

theorem delivers_vecSel {i : Instr} {s : State} {m : Mv} {c : Nat} {x : Ctx} {f : Frame} (sock : BitVec 12) {w : Nat} (h : Acts s m c x f)
    (hi : exec i s = vecTrigger s m sock 3 3 noCheck fun inh a b c =>
      vecOut w (perLane (4096 / w) inh fun i => quiet (if c.testBit i then lane w a i else lane w b i))) :
    let o := opndsAt x f m .vec
    ∃ v : VecOut, Delivers i s c x o.a 3 v ∧ LaneWise w (4096 / w) (f.regs.m[0]).read v
      fun i => (if o.c.getLsbD i then lane w o.a.toNat i else lane w o.b.toNat i, 0) :=
  ⟨_, (ite_self (c := (x.sys.ltb = true)) 3) ▸ delivers_vecTrigger sock h hi rfl,
    laneWise_vecOut w _ _ _ (Nat.mul_div_le 4096 w) fun i _ => by dsimp only; split <;> exact lane_lt _ _ _⟩

theorem vecIntRows_deliver : ∀ p ∈ vecIntRows, RowDelivers p := by
  simp only [vecIntRows, List.forall_mem_cons]
  exact ⟨
    rowDelivers 0x30B sameLanes_add, rowDelivers 0x30C sameLanes_add, rowDelivers 0x30D sameLanes_add,
    rowDelivers 0x311 sameLanes_sub, rowDelivers 0x312 sameLanes_sub, rowDelivers 0x313 sameLanes_sub,
    rowDelivers 0x317 sameLanes_mul, rowDelivers 0x318 sameLanes_mul, rowDelivers 0x319 sameLanes_mul,
    rowDelivers 0x320 (sameLanes_min (by decide)), rowDelivers 0x321 (sameLanes_min (by decide)), rowDelivers 0x322 (sameLanes_min (by decide)),
    rowDelivers 0x323 sameLanes_minNat, rowDelivers 0x324 sameLanes_minNat, rowDelivers 0x325 sameLanes_minNat,
    rowDelivers 0x329 (sameLanes_max (by decide)), rowDelivers 0x32A (sameLanes_max (by decide)), rowDelivers 0x32B (sameLanes_max (by decide)),
    rowDelivers 0x32C sameLanes_maxNat, rowDelivers 0x32D sameLanes_maxNat, rowDelivers 0x32E sameLanes_maxNat,
    rowDelivers 0x32F (sameLanes_addsInt (by decide)), rowDelivers 0x330 (sameLanes_addsInt (by decide)),
    rowDelivers 0x331 (sameLanes_addsInt (by decide)),
    rowDelivers 0x332 sameLanes_addsNat, rowDelivers 0x333 sameLanes_addsNat, rowDelivers 0x334 sameLanes_addsNat,
    rowDelivers 0x34A sameLanes_shl, rowDelivers 0x34B sameLanes_shl, rowDelivers 0x34C sameLanes_shl,
    rowDelivers 0x34D sameLanes_shr, rowDelivers 0x34E sameLanes_shr, rowDelivers 0x34F sameLanes_shr,
    rowDelivers 0x350 (sameLanes_sar (by decide)), rowDelivers 0x351 (sameLanes_sar (by decide)), rowDelivers 0x352 (sameLanes_sar (by decide)),
    rowDelivers 0x371 (sameLanes_abs (by decide)), rowDelivers 0x372 (sameLanes_abs (by decide)), rowDelivers 0x373 (sameLanes_abs (by decide)),
    rowDelivers 0x347 sameLanes_and, rowDelivers 0x348 sameLanes_or,
    rowDelivers 0x349 sameLanes_xor, List.forall_mem_nil _⟩

theorem vecFloatRows_deliver : ∀ p ∈ vecFloatRows, RowDelivers p := by
  obtain ⟨h32, h16, hb16⟩ := fits
  simp only [vecFloatRows, List.forall_mem_cons]
  exact ⟨
    rowDelivers 0x308 (sameLanes_fpAdd h32), rowDelivers 0x309 (sameLanes_fpAdd h16), rowDelivers 0x30A (sameLanes_fpAdd hb16),
    rowDelivers 0x30E (sameLanes_fpSub h32), rowDelivers 0x30F (sameLanes_fpSub h16), rowDelivers 0x310 (sameLanes_fpSub hb16),
    rowDelivers 0x314 (sameLanes_fpMul h32), rowDelivers 0x315 (sameLanes_fpMul h16), rowDelivers 0x316 (sameLanes_fpMul hb16),
    rowDelivers 0x31A (sameLanes_fpFma h32), rowDelivers 0x31B (sameLanes_fpFma h16), rowDelivers 0x31C (sameLanes_fpFma hb16),
    rowDelivers 0x31D (sameLanes_fpMin h32), rowDelivers 0x31E (sameLanes_fpMin h16), rowDelivers 0x31F (sameLanes_fpMin hb16),
    rowDelivers 0x326 (sameLanes_fpMax h32), rowDelivers 0x327 (sameLanes_fpMax h16), rowDelivers 0x328 (sameLanes_fpMax hb16),
    rowDelivers 0x36E (sameLanes_fpAbs h32), rowDelivers 0x36F (sameLanes_fpAbs h16), rowDelivers 0x370 (sameLanes_fpAbs hb16),
    List.forall_mem_nil _⟩

theorem vectorIntegerLanes_holds : vectorIntegerLanes := by
  refine ⟨vecIntRows_deliver, fun p hp m s c x f ha => ?_⟩
  simp only [List.mem_cons, List.not_mem_nil, or_false] at hp
  rcases hp with rfl | rfl | rfl
  · exact delivers_vecSel 0x344 ha rfl
  · exact delivers_vecSel 0x345 ha rfl
  · exact delivers_vecSel 0x346 ha rfl

/-! ## Compares (R180) -/

/-- On codes of width `w`, the comparison `g` says what `g'` says. -/
def SameTest (w : Nat) (g g' : Nat → Nat → Bool) : Prop := ∀ a b, a < 2 ^ w → b < 2 ^ w → g a b = g' a b

theorem sameTest_fpEq (f : Fmt) : SameTest f.width (fpEq f) fun a b => Fp.cmp (f.decode a) (f.decode b) == some .eq := fun a b _ _ => by
  simp only [fpEq]
  rcases Fp.cmp (f.decode a) (f.decode b) with _ | o
  · rfl
  · cases o <;> rfl

theorem sameTest_fpLess (f : Fmt) : SameTest f.width (fpLess f) fun a b => Fp.cmp (f.decode a) (f.decode b) == some .lt := fun a b _ _ => by
  simp only [fpLess]
  rcases Fp.cmp (f.decode a) (f.decode b) with _ | o
  · rfl
  · cases o <;> rfl

theorem sameTest_intLess {w : Nat} (hw : 0 < w) : SameTest w (intLess w) fun a b => (BitVec.ofNat w a).slt (BitVec.ofNat w b) :=
  fun _ _ ha hb => less_eq hw ha hb

theorem sameTest_rfl (w : Nat) (g : Nat → Nat → Bool) : SameTest w g g := fun _ _ _ _ => rfl

/-- Bit `i` of the bits of `n` lanes. -/
theorem getLsbD_pack_bits {n : Nat} (hn : n ≤ 4096) (b : Nat → Bool) (i : Nat) :
    (BitVec.ofNat 4096 (pack 1 ((List.range n).map fun i => if b i then 1 else 0))).getLsbD i = (decide (i < n) && b i) := by
  have hbit := lane_ofNat_pack 1 ((List.range n).map fun i => if b i then 1 else 0) (by simpa using hn) i
  rw [lane, Nat.mul_one, Nat.pow_one] at hbit
  rw [BitVec.getLsbD, Nat.testBit_eq_decide_div_mod_eq, hbit]
  by_cases hi : i < n
  · cases hb : b i <;> simp [List.getD, hi, hb]
  · simp [List.getD, hi]

/-- A compare delivers the bits of its row (R180). -/
def CompareDelivers (p : (Mv → Instr) × Nat × (Nat → Nat → Bool)) : Prop :=
  ∀ (m : Mv) (s : State) (c : Nat) (x : Ctx) (f : Frame), Acts s m c x f →
    let o := opndsAt x f m .vec
    ∃ v : VecOut, Delivers (p.1 m) s c x o.a 3 v ∧ v.en = BitVec.allOnes 4096 ∧ v.lanes = [] ∧
      ∀ i, v.val.getLsbD i = (decide (i < 4096 / p.2.1) && !((f.regs.m[0]).read.getLsbD i) &&
        p.2.2 (lane p.2.1 o.a.toNat i) (lane p.2.1 o.b.toNat i))

theorem compareDelivers {i : Mv → Instr} (sock : BitVec 12) {w : Nat} {g g' : Nat → Nat → Bool} (hg : SameTest w g g')
    (hi : ∀ m s, exec (i m) s = vecCompare s m sock w g := by intro _ _; rfl) : CompareDelivers (i, w, g') := by
  intro m s c x f h o
  have hd := delivers_vecTrigger sock h (hi m s) rfl
  rw [ite_self] at hd
  refine ⟨_, hd, by dsimp only, by dsimp only, fun i => ?_⟩
  rw [getLsbD_pack_bits (Nat.div_le_self 4096 w), hg _ _ (lane_lt _ _ _) (lane_lt _ _ _), Bool.and_assoc]

theorem vectorCompares_holds : vectorCompares := by
  have hrows : ∀ p ∈ vecCompareRows, CompareDelivers p := by
    simp only [vecCompareRows, List.forall_mem_cons]
    exact ⟨
      compareDelivers 0x335 (sameTest_fpEq f32), compareDelivers 0x336 (sameTest_fpEq f16),
      compareDelivers 0x337 (sameTest_fpEq bf16),
      compareDelivers 0x33B (sameTest_fpLess f32), compareDelivers 0x33C (sameTest_fpLess f16),
      compareDelivers 0x33D (sameTest_fpLess bf16),
      compareDelivers 0x338 (sameTest_rfl _ _), compareDelivers 0x339 (sameTest_rfl _ _),
      compareDelivers 0x33A (sameTest_rfl _ _),
      compareDelivers 0x33E (sameTest_intLess (by decide)), compareDelivers 0x33F (sameTest_intLess (by decide)),
      compareDelivers 0x340 (sameTest_intLess (by decide)),
      compareDelivers 0x341 (sameTest_rfl _ _), compareDelivers 0x342 (sameTest_rfl _ _),
      compareDelivers 0x343 (sameTest_rfl _ _), List.forall_mem_nil _⟩
  exact hrows

/-! ## Conversions (R183) -/

/-- CVT's check of its `b` by the fields of the word (R183). -/
theorem cvtCheck_eq (s : State) (c : Nat) (dst : Kind) (o : Opnds) : cvtCheck dst s c o =
    let b := o.b64.toNat
    (cvtSource (b % 16)).elim (some .bounds) fun k =>
      if 64 ≤ b ∨ cvtRatio (4096 / k.width) (4096 / dst.width) ≤ b / 16 % 4 then some .bounds else none := by
  have hlow : (o.b64.extractLsb' 0 4).toNat = o.b64.toNat % 16 := by simp
  have hpart : (o.b64.extractLsb' 4 2).toNat = o.b64.toNat / 16 % 4 := by simp [Nat.shiftRight_eq_div_pow]
  have hhigh : o.b64.extractLsb' 6 58 ≠ 0 ↔ 64 ≤ o.b64.toNat := by
    have := o.b64.isLt
    rw [ne_eq, BitVec.toNat_eq]
    simp [Nat.shiftRight_eq_div_pow]
    omega
  simp only [cvtCheck, hlow, hpart, hhigh, ge_iff_le]
  cases cvtSource (o.b64.toNat % 16) <;> rfl

theorem cvtRatio_eq (ns nd : Nat) : cvtRatio ns nd = max nd ns / min nd ns := by
  rw [cvtRatio]
  split
  · next h => rw [max_eq_left h, min_eq_right h]
  · next h => rw [max_eq_right (by omega), min_eq_left (by omega)]

/-- Lanes of which some are disabled: the others hold their value and raise their flags (R174 to R176). -/
def chosenLanes (n : Nat) (here : Nat → Bool) (g : Nat → Nat × FlagSet) : List LaneOut :=
  (List.range n).map fun j => if here j then { val := (g j).1, flags := (g j).2 } else { val := 0, en := false }

theorem vecOut_chosenLanes {w n : Nat} (hn : w * n ≤ 4096) (here : Nat → Bool) (g : Nat → Nat × FlagSet) :
    let v := vecOut w (chosenLanes n here g)
    (∀ j, j < n → lane w v.val.toNat j = if here j then (g j).1 % 2 ^ w else 0) ∧
    (∀ j, j < n → lane w v.en.toNat j = if here j then 2 ^ w - 1 else 0) ∧
    (∀ j fl, (j, fl) ∈ v.lanes ↔ j < n ∧ here j = true ∧ fl = (g j).2 ∧ fl ≠ 0) := by
  have hlen : (chosenLanes n here g).length = n := by simp [chosenLanes]
  have hget : ∀ j (hj : j < (chosenLanes n here g).length), (chosenLanes n here g)[j] =
      if here j then { val := (g j).1, flags := (g j).2 } else { val := 0, en := false } := fun j hj => by simp [chosenLanes]
  refine ⟨fun j hj => ?_, fun j hj => ?_, fun j fl => ?_⟩
  · rw [lane_vecOut_val w _ (by rwa [hlen]) j (by rwa [hlen]), hget]
    cases here j <;> simp
  · rw [lane_vecOut_en w _ (by rwa [hlen]) j (by rwa [hlen]), hget]
    cases here j <;> simp
  · rw [mem_vecOut_lanes]
    constructor
    · rintro ⟨hj, hen, hfl, h0⟩
      rw [hget] at hen hfl
      cases hh : here j with
      | false => simp [hh] at hen
      | true => exact ⟨hlen ▸ hj, rfl, by simpa [hh] using hfl.symm, h0⟩
    · rintro ⟨hj, hh, hfl, h0⟩
      refine ⟨hlen.symm ▸ hj, ?_, ?_, h0⟩ <;> rw [hget, if_pos hh]
      exact hfl.symm

/-- The lanes of a CVT: those of its part where it narrows, all where it widens, under the inhibit mask (R183). -/
def cvtHere (ns nd part : Nat) (inh : BitVec 512) (j : Nat) : Bool :=
  !inh.getLsbD j && (decide (nd < ns) || (decide (part * ns ≤ j) && decide (j < part * ns + ns)))

/-- Lane `j` of a CVT: the lane of the source that its part names, converted (R183). -/
def cvtLane (src dst : Kind) (sat : Option Bool) (a part j : Nat) : Nat × FlagSet :=
  let ns := 4096 / src.width
  let nd := 4096 / dst.width
  convert src dst sat (lane src.width a (if ns ≤ nd then j - part * ns else part * nd + j))

theorem cvtLanes_eq (inh : BitVec 512) (src dst : Kind) (sat : Option Bool) (a p : Nat) :
    let ns := 4096 / src.width
    let nd := 4096 / dst.width
    chosenLanes nd (cvtHere ns nd p inh) (cvtLane src dst sat a p) = (List.range nd).map fun j =>
      if inh.getLsbD j then ({ val := 0, en := false } : LaneOut)
      else if nd ≥ ns then
        if p * ns ≤ j ∧ j < p * ns + ns then
          let x := convert src dst sat (lane src.width a (j - p * ns)); { val := x.1, flags := x.2 }
        else { val := 0, en := false }
      else let x := convert src dst sat (lane src.width a (p * nd + j)); { val := x.1, flags := x.2 } := by
  refine List.map_congr_left fun j _ => ?_
  simp only [cvtHere, cvtLane]
  generalize 4096 / src.width = ns
  generalize 4096 / dst.width = nd
  by_cases hinh : inh.getLsbD j = true
  · simp [hinh]
  by_cases hn : ns ≤ nd
  · by_cases hj : p * ns ≤ j ∧ j < p * ns + ns
    · simp [hinh, hn, hj, not_lt.mpr hn]
    · have hout : (decide (p * ns ≤ j) && decide (j < p * ns + ns)) = false := by
        simpa using fun h => not_lt.mp fun h' => hj ⟨h, h'⟩
      simp [hn, hj, hout, not_lt.mpr hn]
  · simp [hinh, hn, not_le.mp hn]

section
variable {s : State} {m : Mv} {c : Nat} {x : Ctx} {f : Frame}

theorem delivers_vecCvt {i : Instr} (sock : BitVec 12) {dst src : Kind} {sat : Option Bool} (h : Acts s m c x f)
    (hi : exec i s = vecCvt s m sock dst sat) :
    let o := opndsAt x f m .vec
    let b := o.b64.toNat
    let ns := 4096 / src.width
    let nd := 4096 / dst.width
    cvtSource (b % 16) = some src → b < 64 → b / 16 % 4 < cvtRatio ns nd →
    Delivers i s c x o.a (if x.sys.ltb then 4 else 3) (vecOut dst.width (chosenLanes nd
      (cvtHere ns nd (b / 16 % 4) (f.regs.m[0]).read) (cvtLane src dst sat o.a.toNat (b / 16 % 4)))) := by
  intro o b ns nd hsrc hb hpart
  have hcheck : cvtCheck dst s c o = none := by
    rw [cvtCheck_eq]
    change (cvtSource (b % 16)).elim _ _ = _
    rw [hsrc]
    exact if_neg fun h => h.elim (Nat.not_le.mpr hb) (Nat.not_le.mpr hpart)
  have hfield : b = o.b.toNat % 2 ^ 64 := BitVec.toNat_setWidth ..
  have hp : b / 16 % 4 = o.b.toNat / 16 % 4 := by omega
  rw [show b % 16 = o.b.toNat % 16 by omega] at hsrc
  obtain rfl : (cvtSource (o.b.toNat % 16)).getD (.fp f32) = src := by rw [hsrc, Option.getD_some]
  rw [hp, cvtLanes_eq]
  exact delivers_vecTrigger sock h hi hcheck

theorem traps_vecCvt {i : Instr} (sock : BitVec 12) {dst : Kind} {sat : Option Bool} (h : Acts s m c x f)
    (hi : exec i s = vecCvt s m sock dst sat) :
    let b := (opndsAt x f m .vec).b64.toNat
    (cvtSource (b % 16) = none ∨ 64 ≤ b ∨
      ∃ src, cvtSource (b % 16) = some src ∧ cvtRatio (4096 / src.width) (4096 / dst.width) ≤ b / 16 % 4) →
    exec i s = .next (preciseTrap s c { code := .bounds, sock := sock.toNat, slot := f.cur }) := by
  intro b hbad
  refine traps_vecTrigger sock h hi ?_
  rw [cvtCheck_eq]
  change (cvtSource (b % 16)).elim _ _ = _
  rcases hbad with hnone | hlarge | ⟨src, hsrc, hpart⟩
  · rw [hnone]; rfl
  · cases hs : cvtSource (b % 16) with
    | none => rfl
    | some src => exact if_pos (Or.inl hlarge)
  · rw [hsrc]
    exact if_pos (Or.inr hpart)

end

/-- A CVT delivers the lanes of its part, or traps (R183). -/
def CvtDelivers (p : (Mv → Instr) × Kind × Option Bool × Nat) : Prop :=
  ∀ (m : Mv) (s : State) (c : Nat) (x : Ctx) (f : Frame), Acts s m c x f →
    let o := opndsAt x f m .vec
    let b := o.b64.toNat
    let dst := p.2.1
    let nd := 4096 / dst.width
    let part := b / 16 % 4
    (∀ src, cvtSource (b % 16) = some src → b < 64 → part < max nd (4096 / src.width) / min nd (4096 / src.width) →
      ∃ v : VecOut, Delivers (p.1 m) s c x o.a (if x.sys.ltb then 4 else 3) v ∧
        let ns := 4096 / src.width
        let inh := (f.regs.m[0]).read
        let g := cvtLane src dst p.2.2.1 o.a.toNat part
        let here := cvtHere ns nd part inh
        (∀ j, j < nd → lane dst.width v.val.toNat j = if here j then (g j).1 % 2 ^ dst.width else 0) ∧
        (∀ j, j < nd → lane dst.width v.en.toNat j = if here j then 2 ^ dst.width - 1 else 0) ∧
        (∀ j fl, (j, fl) ∈ v.lanes ↔ j < nd ∧ here j = true ∧ fl = (g j).2 ∧ fl ≠ 0)) ∧
    (cvtSource (b % 16) = none ∨ 64 ≤ b ∨ (∃ src, cvtSource (b % 16) = some src ∧
        max nd (4096 / src.width) / min nd (4096 / src.width) ≤ part) →
      exec (p.1 m) s = .next (preciseTrap s c { code := .bounds, sock := p.2.2.2, slot := f.cur }))

theorem cvtDelivers {i : Mv → Instr} (sock : BitVec 12) {dst : Kind} {sat : Option Bool}
    (hi : ∀ m s, exec (i m) s = vecCvt s m sock dst sat := by intro _ _; rfl) : CvtDelivers (i, dst, sat, sock.toNat) := by
  intro m s c x f h o b dst nd part
  simp only [← cvtRatio_eq]
  exact ⟨fun src hsrc hb hpart => ⟨_, delivers_vecCvt sock h (hi m s) hsrc hb hpart,
    vecOut_chosenLanes (Nat.mul_div_le 4096 dst.width) _ _⟩, traps_vecCvt sock h (hi m s)⟩

theorem vectorConversions_holds : vectorConversions := by
  have hrows : ∀ p ∈ vecCvtRows, CvtDelivers p := by
    simp only [vecCvtRows, List.forall_mem_cons]
    exact ⟨
      cvtDelivers 0x353, cvtDelivers 0x354, cvtDelivers 0x355,
      cvtDelivers 0x356, cvtDelivers 0x357, cvtDelivers 0x358,
      cvtDelivers 0x359, cvtDelivers 0x35A, cvtDelivers 0x35B,
      cvtDelivers 0x35C, List.forall_mem_nil _⟩
  exact hrows

/-- Settles O15: every row is its mould with a lane function, test or conversion that agrees on the codes of its lanes. -/
theorem vectorLanes : Obligations.VectorLanes :=
  ⟨vectorIntegerLanes_holds, vecFloatRows_deliver, vectorCompares_holds, vectorConversions_holds⟩

end Sys2Proof.Machine
end

section
/-! PROOFS for O14, codes. What a code of a format reads as (R137, R138, R151), and the magnitudes of FP32 codes in their order. -/

namespace Sys2Proof.Machine

/-! ## Codes and their classes -/

/-- The value of a code, in the words of the rule on groups (R151). -/
def groupRead (g : GroupFmt) (c : Nat) : Fp :=
  if g.nanAt ≤ g.mag c then .nan else if g.infAt = some (g.mag c) then .inf (g.neg c) else .fin (g.neg c) (g.sig c) (g.exp c)

/-- The two descriptions of a format agree: field widths, bias, and the codes at which infinity and the NaNs stand. -/
structure SameFmt (g : GroupFmt) (f : Fmt) : Prop where
  ebits : g.eb = f.ebits
  fbits : g.fb = f.fbits
  bias : g.bias = f.bias
  inf : g.infAt = f.inf
  nan : g.nanAt = (f.inf.getD f.max) + 1

/-- FP32 in the words of the rule on groups. -/
def groupF32 : GroupFmt := ⟨8, 23, 127, 0x7F800001, some 0x7F800000⟩

theorem sameFmt_f32 : SameFmt groupF32 f32 := ⟨rfl, rfl, rfl, rfl, rfl⟩
theorem sameFmt_e4m3 : SameFmt groupE4m3 e4m3 := ⟨rfl, rfl, rfl, rfl, rfl⟩
theorem sameFmt_e5m2 : SameFmt groupE5m2 e5m2 := ⟨rfl, rfl, rfl, rfl, rfl⟩
theorem sameFmt_bf16 : SameFmt groupBf16 bf16 := ⟨rfl, rfl, rfl, rfl, rfl⟩

theorem decode_eq_groupRead {g : GroupFmt} {f : Fmt} (h : SameFmt g f) (c : Nat) : f.decode c = groupRead g c := by
  have hneg : ((c / f.signBit) % 2 == 1) = g.neg c := by
    rw [GroupFmt.neg, Nat.testBit_eq_decide_div_mod_eq, h.ebits, h.fbits]
    rfl
  have hmag : c % f.signBit = g.mag c := by rw [GroupFmt.mag, h.ebits, h.fbits]; rfl
  have hfin : (if g.mag c / 2 ^ f.fbits = 0 then Fp.fin (g.neg c) (g.mag c % 2 ^ f.fbits) (f.emin - f.fbits)
      else .fin (g.neg c) (g.mag c % 2 ^ f.fbits + 2 ^ f.fbits) ((g.mag c / 2 ^ f.fbits : Nat) - f.bias - f.fbits)) =
      .fin (g.neg c) (g.sig c) (g.exp c) := by
    rw [GroupFmt.sig, GroupFmt.exp, h.fbits, h.bias]
    by_cases hsub : g.mag c < 2 ^ f.fbits
    · simp [hsub, Nat.mod_eq_of_lt hsub, Fmt.emin]
    · simp [hsub, Nat.add_comm]
  rw [Fmt.decode, groupRead, h.nan, h.inf]
  simp only [hneg, hmag, hfin, Nat.succ_le_iff]
  cases hi : f.inf with
  | none => simp
  | some i =>
    by_cases heq : g.mag c = i
    · simp [heq]
    · simp [heq, Ne.symm heq]

/-! ## The magnitudes of FP32 codes (R138) -/

/-- A code splits into the number of its binade and the significand there. -/
theorem exists_binade (k : Nat) : ∃ t sig, k = t * 2 ^ 23 + sig ∧ sig < 2 ^ 24 ∧ (t = 0 ∨ 2 ^ 23 ≤ sig) := by
  by_cases h : k < 2 ^ 23
  · exact ⟨0, k, by omega, by omega, Or.inl rfl⟩
  · exact ⟨k / 2 ^ 23 - 1, k % 2 ^ 23 + 2 ^ 23, by omega, by omega, Or.inr (by omega)⟩

theorem magOf_binade {t sig : Nat} (hs : sig ≤ 2 ^ 24) (ht : t = 0 ∨ 2 ^ 23 ≤ sig) :
    magOf (t * 2 ^ 23 + sig) = sig * 2 ^ (t - 149 : ℤ) := by
  rcases Nat.lt_or_ge sig (2 ^ 23) with hsub | hnorm
  · obtain rfl : t = 0 := ht.resolve_right (by omega)
    rw [magOf, if_pos (by omega)]
    norm_num [zpow_neg, div_eq_mul_inv]
  rcases Nat.lt_or_ge sig (2 ^ 24) with hlt | hge
  · rw [magOf, if_neg (by omega), show (t * 2 ^ 23 + sig) / 2 ^ 23 = t + 1 by omega,
      show 2 ^ 23 + (t * 2 ^ 23 + sig) % 2 ^ 23 = sig by omega]
    congr 2
    push_cast
    ring
  · obtain rfl : sig = 2 ^ 24 := by omega
    rw [magOf, if_neg (by omega), show (t * 2 ^ 23 + 2 ^ 24) / 2 ^ 23 = t + 2 by omega,
      show 2 ^ 23 + (t * 2 ^ 23 + 2 ^ 24) % 2 ^ 23 = 2 ^ 23 by omega,
      show ((t + 2 : Nat) : ℤ) - 150 = t - 149 + 1 by push_cast; ring, zpow_add_one₀ two_ne_zero]
    push_cast
    ring

/-- The next code stands one unit of its binade higher. -/
theorem magOf_succ {t sig : Nat} (hs : sig < 2 ^ 24) (ht : t = 0 ∨ 2 ^ 23 ≤ sig) :
    magOf (t * 2 ^ 23 + sig + 1) = magOf (t * 2 ^ 23 + sig) + 2 ^ (t - 149 : ℤ) := by
  rw [Nat.add_assoc, magOf_binade (by omega) (by omega), magOf_binade hs.le ht]
  push_cast
  ring

theorem magOf_strictMono : StrictMono magOf := strictMono_nat_of_lt_succ fun k => by
  obtain ⟨t, sig, rfl, hs, ht⟩ := exists_binade k
  rw [magOf_succ hs ht]
  exact lt_add_of_pos_right _ (by positivity)

theorem magOf_zero : magOf 0 = 0 := by norm_num [magOf]

theorem magOf_nonneg (k : Nat) : 0 ≤ magOf k := magOf_zero ▸ magOf_strictMono.monotone (Nat.zero_le k)

theorem magOf_pos {k : Nat} (h : 0 < k) : 0 < magOf k := magOf_zero ▸ magOf_strictMono h

theorem magOf_top : magOf 0x7F800000 = 2 ^ 128 := by norm_num [magOf]

/-- A power of two within the range has a code. -/
theorem exists_magOf_two_pow {n : ℤ} (h0 : -149 ≤ n) (h1 : n ≤ 128) : ∃ k ≤ 0x7F800000, magOf k = 2 ^ n := by
  rcases lt_or_ge n (-126) with hsub | hnorm
  · obtain ⟨b, hb⟩ := Int.eq_ofNat_of_zero_le (show 0 ≤ n + 149 by omega)
    have hle : 2 ^ b ≤ 2 ^ 23 := Nat.pow_le_pow_right two_pos (by omega)
    have hmag := magOf_binade (t := 0) (sig := 2 ^ b) (by omega) (Or.inl rfl)
    refine ⟨2 ^ b, by omega, ?_⟩
    rw [Nat.zero_mul, Nat.zero_add] at hmag
    rw [hmag, Nat.cast_pow, Nat.cast_two, ← zpow_natCast, ← zpow_add₀ two_ne_zero]
    congr 1
    omega
  · obtain ⟨t, ht⟩ := Int.eq_ofNat_of_zero_le (show 0 ≤ n + 126 by omega)
    refine ⟨t * 2 ^ 23 + 2 ^ 23, by omega, ?_⟩
    rw [magOf_binade (by omega) (Or.inr le_rfl), Nat.cast_pow, Nat.cast_two, ← zpow_natCast, ← zpow_add₀ two_ne_zero]
    congr 1
    omega

/-- The magnitude of a code is its significand at its exponent. -/
theorem magOf_mag (c : Nat) : magOf (groupF32.mag c) = groupF32.sig c * 2 ^ groupF32.exp c := by
  have hsig : groupF32.sig c = if groupF32.mag c < 2 ^ 23 then groupF32.mag c else 2 ^ 23 + groupF32.mag c % 2 ^ 23 := rfl
  have hexp : groupF32.exp c = (if groupF32.mag c < 2 ^ 23 then 1 else (groupF32.mag c / 2 ^ 23 : Nat)) - 127 - 23 := rfl
  rw [hsig, hexp, magOf]
  by_cases hsub : groupF32.mag c < 2 ^ 23
  · rw [if_pos (by omega), if_pos hsub, if_pos hsub]
    norm_num [zpow_neg, div_eq_mul_inv]
  · rw [if_neg (by omega), if_neg hsub, if_neg hsub, sub_sub]
    norm_num

/-- A finite FP32 code decodes to a significand of at most 24 bits at the exponent of its binade. -/
theorem decode_f32_finite {c : Nat} (hc : c % 2 ^ 31 < 0x7F800000) : ∃ m e, f32.decode c = .fin (c.testBit 31) m e ∧
    magOf (c % 2 ^ 31) = m * 2 ^ e ∧ m < 2 ^ 24 ∧ -149 ≤ e ∧ (0 ≤ e → 2 ^ 23 ≤ m) := by
  have hsig : groupF32.sig c = if c % 2 ^ 31 < 2 ^ 23 then c % 2 ^ 31 else 2 ^ 23 + c % 2 ^ 31 % 2 ^ 23 := rfl
  have hexp : groupF32.exp c = (if c % 2 ^ 31 < 2 ^ 23 then 1 else (c % 2 ^ 31 / 2 ^ 23 : Nat)) - 127 - 23 := rfl
  refine ⟨groupF32.sig c, groupF32.exp c, ?_, magOf_mag c, ?_, ?_, fun h => ?_⟩
  · rw [decode_eq_groupRead sameFmt_f32, groupRead]
    have hnan : ¬groupF32.nanAt ≤ groupF32.mag c := fun h => by
      have : 0x7F800001 ≤ c % 2 ^ 31 := h
      omega
    have hinf : ¬groupF32.infAt = some (groupF32.mag c) := fun h => by
      have : 0x7F800000 = c % 2 ^ 31 := Option.some.inj h
      omega
    rw [if_neg hnan, if_neg hinf]
    rfl
  · rw [hsig]; split <;> omega
  · rw [hexp]; split <;> omega
  · rw [hexp] at h
    rw [hsig]
    split_ifs at h ⊢ <;> omega

theorem decode_f32_nan {c : Nat} (hc : 0x7F800000 < c % 2 ^ 31) : f32.decode c = .nan := by
  rw [decode_eq_groupRead sameFmt_f32, groupRead, if_pos]
  exact hc

theorem decode_f32_inf {c : Nat} (hc : c % 2 ^ 31 = 0x7F800000) : f32.decode c = .inf (c.testBit 31) := by
  have hmag : groupF32.mag c = 0x7F800000 := hc
  rw [decode_eq_groupRead sameFmt_f32, groupRead, hmag]
  rfl

end Sys2Proof.Machine
end

section
/-! PROOFS for O14, rounding. FP32 rounding to nearest, ties to even, in the words of the statement: the value nearest to the exact
one, also where the exact one is known by its leading bits and a sticky bit alone (R146, R147). -/

namespace Sys2Proof.Machine

/-! ## The nearest code -/

theorem closer_left_iff {v a b : ℝ} (h : a < b) : |v - a| < |v - b| ↔ 2 * v < a + b := by
  rw [← sq_lt_sq]
  constructor <;> intro h' <;> nlinarith

theorem closer_right_iff {v a b : ℝ} (h : a < b) : |v - b| < |v - a| ↔ a + b < 2 * v := by
  rw [← sq_lt_sq]
  constructor <;> intro h' <;> nlinarith

theorem tie_iff {v a b : ℝ} (h : a < b) : |v - a| = |v - b| ↔ 2 * v = a + b := by
  rw [← sq_eq_sq_iff_abs_eq_abs]
  constructor <;> intro h' <;> nlinarith

/-- Of the codes up to `top`, `k` is the nearest to `v`, and it is the even one of two. -/
def NearestCode (top k : Nat) (v : ℝ) : Prop :=
  ∀ j ≤ top, j ≠ k → |v - (magOf k : ℝ)| < |v - (magOf j : ℝ)| ∨ (|v - (magOf k : ℝ)| = |v - (magOf j : ℝ)| ∧ k % 2 = 0)

/-- A code is the nearest one where it is at least as near as the codes beside it. -/
theorem nearestCode_of_neighbours {top k : Nat} {v : ℝ}
    (hup : k < top → 2 * v < (magOf k : ℝ) + magOf (k + 1) ∨ 2 * v = (magOf k : ℝ) + magOf (k + 1) ∧ k % 2 = 0)
    (hdown : ∀ j, j + 1 = k → (magOf j : ℝ) + magOf k < 2 * v ∨ (magOf j : ℝ) + magOf k = 2 * v ∧ k % 2 = 0) :
    NearestCode top k v := by
  have hmono : ∀ {i j : Nat}, i ≤ j → (magOf i : ℝ) ≤ magOf j := fun h => Rat.cast_le.mpr (magOf_strictMono.monotone h)
  have hlt : ∀ {i j : Nat}, i < j → (magOf i : ℝ) < magOf j := fun h => Rat.cast_lt.mpr (magOf_strictMono h)
  intro j hj hne
  rcases Nat.lt_or_gt_of_ne hne with hjk | hkj
  · rw [closer_right_iff (hlt hjk), @eq_comm ℝ, tie_iff (hlt hjk)]
    have hpred := hmono (show j ≤ k - 1 by omega)
    rcases hdown (k - 1) (by omega) with h | ⟨h, heven⟩
    · exact Or.inl (by linarith)
    · rcases hpred.lt_or_eq with h' | h'
      · exact Or.inl (by linarith)
      · exact Or.inr ⟨by linarith, heven⟩
  · rw [closer_left_iff (hlt hkj), tie_iff (hlt hkj)]
    have hsucc := hmono (show k + 1 ≤ j by omega)
    rcases hup (by omega) with h | ⟨h, heven⟩
    · exact Or.inl (by linarith)
    · rcases hsucc.lt_or_eq with h' | h'
      · exact Or.inl (by linarith)
      · exact Or.inr ⟨by linarith, heven⟩

/-! ## Rounding a significand -/

/-- `sig` is `v` in units of `u`, rounded to nearest, a tie to the even number. -/
structure RoundsTo (v u : ℝ) (sig : Nat) : Prop where
  above : (2 * sig - 1) * u < 2 * v ∨ (2 * sig - 1) * u = 2 * v ∧ sig % 2 = 0
  below : 2 * v < (2 * sig + 1) * u ∨ 2 * v = (2 * sig + 1) * u ∧ sig % 2 = 0

/-- `m / 2^(k+1)` rounded: the two half-way marks about the result, and when the result is exact. -/
theorem roundShift_rne (neg : Bool) (m k : Nat) : let r := roundShift .rne neg m (k + 1)
    (2 ^ (k + 1) * r.1 < m + 2 ^ k ∨ 2 ^ (k + 1) * r.1 = m + 2 ^ k ∧ r.1 % 2 = 0) ∧
    (m < 2 ^ (k + 1) * r.1 + 2 ^ k ∨ m = 2 ^ (k + 1) * r.1 + 2 ^ k ∧ r.1 % 2 = 0) ∧ (r.2 = false ↔ m = 2 ^ (k + 1) * r.1) := by
  have hsplit := Nat.div_add_mod m (2 ^ (k + 1))
  have hlt := Nat.mod_lt m (Nat.two_pow_pos (k + 1))
  have hpos := Nat.two_pow_pos k
  simp only [roundShift]
  generalize m / 2 ^ (k + 1) = q at *
  generalize m % 2 ^ (k + 1) = r at *
  have hpow : 2 ^ (k + 1) = 2 * 2 ^ k := Nat.pow_succ'
  have hnext : 2 ^ (k + 1) * (q + 1) = 2 ^ (k + 1) * q + 2 ^ (k + 1) := Nat.mul_succ ..
  by_cases hup : 2 * r > 2 ^ (k + 1) ∨ 2 * r = 2 ^ (k + 1) ∧ q % 2 = 1
  · rw [if_pos (by simpa using hup), hnext, bne_eq_false_iff_eq]
    omega
  · rw [if_neg (by simpa using hup), bne_eq_false_iff_eq]
    omega

/-! ## A value known by its leading bits -/

/-- `v` is `m * 2^e`, or `m` holds at least 26 of its bits of which the last is a sticky one. -/
def Stands (m : Nat) (e : ℤ) (v : ℝ) : Prop :=
  v = m * 2 ^ e ∨ (2 ^ 25 ≤ m ∧ m % 2 = 1 ∧ (m - 1) * (2 : ℝ) ^ e < v ∧ v < (m + 1) * 2 ^ e)

/-- `v` stands to the even multiples of the unit as `m` does. -/
theorem Stands.compare {m : Nat} {e : ℤ} {v : ℝ} (h : Stands m e v) {a : ℤ} (ha : v = m * 2 ^ e ∨ a % 2 = 0) :
    (m < a → v < a * 2 ^ e) ∧ (m = a → v = a * 2 ^ e) ∧ (a < m → a * (2 : ℝ) ^ e < v) := by
  have hpos : (0 : ℝ) < 2 ^ e := by positivity
  by_cases hexact : v = m * 2 ^ e
  · rw [hexact]
    refine ⟨fun h => mul_lt_mul_of_pos_right (by exact_mod_cast h) hpos, fun h => by rw [← h, Int.cast_natCast],
      fun h => mul_lt_mul_of_pos_right (by exact_mod_cast h) hpos⟩
  · obtain ⟨-, hodd, hlo, hhi⟩ := h.resolve_left hexact
    have heven := ha.resolve_left hexact
    refine ⟨fun h => hhi.trans_le (mul_le_mul_of_nonneg_right ?_ hpos.le), fun h => by omega,
      fun h => (mul_le_mul_of_nonneg_right ?_ hpos.le).trans_lt hlo⟩
    · exact_mod_cast (show (m : ℤ) + 1 ≤ a by omega)
    · have : a ≤ (m : ℤ) - 1 := by omega
      exact_mod_cast this

theorem Stands.binade {m : Nat} {e : ℤ} {v : ℝ} (h : Stands m e v) (hm : m ≠ 0) :
    2 ^ ((Nat.log2 m : ℤ) + e) ≤ v ∧ v < 2 ^ ((Nat.log2 m : ℤ) + e + 1) := by
  have hlo : 2 ^ Nat.log2 m ≤ m := Nat.log2_self_le hm
  have hhi : m < 2 ^ (Nat.log2 m + 1) := Nat.lt_log2_self
  have hcut : v = m * 2 ^ e ∨ ((2 ^ Nat.log2 m : Nat) : ℤ) % 2 = 0 ∧ ((2 ^ (Nat.log2 m + 1) : Nat) : ℤ) % 2 = 0 := by
    refine h.imp_right fun ⟨hbits, _⟩ => ?_
    obtain ⟨n, hn⟩ : ∃ n, Nat.log2 m = n + 1 := Nat.exists_eq_add_one.mpr ((Nat.le_log2 hm).mpr (show 2 ^ 1 ≤ m by omega))
    rw [hn, pow_succ, pow_succ]
    omega
  obtain ⟨-, heq, hgt⟩ := h.compare (hcut.imp_right And.left)
  obtain ⟨hlt, -, -⟩ := h.compare (hcut.imp_right And.right)
  rw [add_right_comm, zpow_add₀ two_ne_zero, zpow_add₀ two_ne_zero]
  constructor
  · rcases hlo.eq_or_lt with h' | h'
    · exact (heq (by exact_mod_cast h'.symm)).symm.le.trans' (by push_cast; rfl)
    · exact (hgt (by exact_mod_cast h')).le.trans' (by push_cast; rfl)
  · exact (hlt (by exact_mod_cast hhi)).trans_eq (by push_cast; rfl)

/-- Rounding `m` rounds the value it stands for, where the sticky bit is below the half-way mark. -/
theorem Stands.roundShift {m k : Nat} {e : ℤ} {v : ℝ} (h : Stands m e v) (hk : v = m * 2 ^ e ∨ k ≠ 0) (neg : Bool) :
    let r := roundShift .rne neg m (k + 1)
    RoundsTo v (2 ^ (e + k + 1)) r.1 ∧ (r.2 = false ↔ v = r.1 * 2 ^ (e + k + 1)) := by
  intro r
  obtain ⟨habove, hbelow, hexact⟩ := roundShift_rne neg m k
  have hunit : (2 : ℝ) ^ (e + k + 1) = 2 * 2 ^ k * 2 ^ e := by
    rw [zpow_add_one₀ two_ne_zero, zpow_add₀ two_ne_zero, zpow_natCast]
    ring
  have heven : ∀ n : ℤ, v = m * 2 ^ e ∨ (2 ^ k * n) % 2 = 0 := fun n => hk.imp_right fun hk => by
    obtain ⟨j, rfl⟩ := Nat.exists_eq_succ_of_ne_zero hk
    rw [pow_succ, mul_comm _ (2 : ℤ), mul_assoc]
    exact Int.mul_emod_right ..
  obtain ⟨-, haeq, hagt⟩ := h.compare (heven (2 * r.1 - 1))
  obtain ⟨hblt, hbeq, -⟩ := h.compare (heven (2 * r.1 + 1))
  obtain ⟨hxlt, hxeq, hxgt⟩ := h.compare (heven (2 * r.1))
  have hpow : 2 ^ (k + 1) * r.1 = 2 * 2 ^ k * r.1 := by rw [pow_succ']
  change _ < _ ∨ _ ∧ r.1 % 2 = 0 at habove hbelow
  rw [show (Machine.roundShift .rne neg m (k + 1)).1 = r.1 from rfl, hpow] at habove hbelow hexact
  push_cast at haeq hagt hblt hbeq hxlt hxeq hxgt
  rw [hunit]
  refine ⟨⟨?_, ?_⟩, ?_⟩
  · refine habove.imp (fun h' => ?_) (And.imp_left fun h' => ?_)
    · have := hagt (by zify at h'; linarith)
      linarith
    · have := haeq (by zify at h'; linarith)
      linarith
  · refine hbelow.imp (fun h' => ?_) (And.imp_left fun h' => ?_)
    · have := hblt (by zify at h'; linarith)
      linarith
    · have := hbeq (by zify at h'; linarith)
      linarith
  · rw [show r.2 = (Machine.roundShift .rne neg m (k + 1)).2 from rfl, hexact]
    rcases lt_trichotomy m (2 * 2 ^ k * r.1) with h' | h' | h'
    · have := hxlt (by zify at h'; linarith)
      exact iff_of_false h'.ne fun h => by linarith
    · have := hxeq (by zify at h'; linarith)
      exact iff_of_true h' (by linarith)
    · have := hxgt (by zify at h'; linarith)
      exact iff_of_false h'.ne' fun h => by linarith

/-! ## Rounding into FP32 -/

/-- The exponent of the last bit that FP32 keeps of a value whose leading bit has exponent `top` (R146). -/
def lastBit (top : ℤ) : ℤ := max (top - 23) (-149)

/-- The significand of `m * 2^e` in units of `2^q`, and whether it is inexact. -/
def sigAt (neg : Bool) (m : Nat) (e q : ℤ) : Nat × Bool :=
  if q ≤ e then (m * 2 ^ (e - q).toNat, false) else roundShift .rne neg m (q - e).toNat

/-- The code and the flags of a rounded significand in units of `2^q`, with `tiny` where the exact value is below the normal ones. -/
def codeOf (neg tiny : Bool) (q : ℤ) (r : Nat × Bool) : Nat × FlagSet :=
  let code := (q + 149).toNat * 2 ^ 23 + r.1
  let s := if neg then 2 ^ 31 else 0
  if 0x7F7FFFFF < code then (s + 0x7F800000, fOF ||| fNX) else (s + code, flagIf (r.2 && tiny) fUF ||| flagIf r.2 fNX)

theorem roundMag_f32 (neg : Bool) (m : Nat) (e : ℤ) : f32.roundMag .rne neg m e =
    let top := (Nat.log2 m : ℤ) + e
    codeOf neg (decide (top < -126)) (lastBit top) (sigAt neg m e (lastBit top)) := by
  dsimp only
  generalize htop : (Nat.log2 m : ℤ) + e = top
  have hq : (if top ≥ f32.emin then top - f32.fbits else f32.emin - f32.fbits) = lastBit top := by
    have hemin : f32.emin = -126 := rfl
    have hfbits : (f32.fbits : ℤ) = 23 := rfl
    rw [hemin, hfbits, lastBit]
    split <;> omega
  have hcode : lastBit top - (f32.emin - f32.fbits) = lastBit top + 149 := rfl
  rw [Fmt.roundMag]
  dsimp only
  rw [htop, hq, hcode]
  rfl

theorem Stands.sigAt {m : Nat} {e q : ℤ} {v : ℝ} (h : Stands m e v) (hq : q = lastBit (Nat.log2 m + e)) (neg : Bool) :
    let r := sigAt neg m e q
    RoundsTo v (2 ^ q) r.1 ∧ (r.2 = false ↔ v = r.1 * 2 ^ q) := by
  have hsticky : v = m * 2 ^ e ∨ e + 2 ≤ q := h.imp_right fun ⟨hbits, _⟩ => by
    have : 25 ≤ Nat.log2 m := (Nat.le_log2 (by omega)).mpr hbits
    rw [hq, lastBit]
    omega
  rw [Machine.sigAt]
  split
  · next hle =>
    have hexact : v = (m * 2 ^ (e - q).toNat : Nat) * 2 ^ q := by
      rw [hsticky.resolve_right (by omega), Nat.cast_mul, Nat.cast_pow, mul_assoc, Nat.cast_two, ← zpow_natCast,
        ← zpow_add₀ two_ne_zero]
      congr 2
      omega
    have hpos : (0 : ℝ) < 2 ^ q := by positivity
    dsimp only
    exact ⟨⟨Or.inl (by rw [hexact]; linarith), Or.inl (by rw [hexact]; linarith)⟩, iff_of_true rfl hexact⟩
  · next hlt =>
    obtain ⟨k, hk⟩ : ∃ k : Nat, (q - e).toNat = k + 1 := Nat.exists_eq_add_one.mpr (by omega)
    have hunit : q = e + k + 1 := by omega
    rw [hk, hunit]
    exact h.roundShift (hsticky.imp_right fun _ => by omega) neg

theorem RoundsTo.bracket {v u : ℝ} {sig : Nat} (h : RoundsTo v u sig) : (2 * sig - 1) * u ≤ 2 * v ∧ 2 * v ≤ (2 * sig + 1) * u :=
  ⟨h.above.elim LT.lt.le fun h => h.1.le, h.below.elim LT.lt.le fun h => h.1.le⟩

theorem RoundsTo.le_of_lt {v u : ℝ} {sig n : Nat} (h : RoundsTo v u sig) (hu : 0 < u) (hv : v < n * u) : sig ≤ n := by
  have hlt : (2 * sig - 1 : ℝ) < 2 * n := lt_of_mul_lt_mul_right (by linarith [h.bracket.1]) hu.le
  have : (sig : ℝ) < n + 1 := by linarith
  exact Nat.lt_succ_iff.mp (by exact_mod_cast this)

theorem RoundsTo.le_of_le {v u : ℝ} {sig n : Nat} (h : RoundsTo v u sig) (hu : 0 < u) (hv : n * u ≤ v) : n ≤ sig := by
  have hlt : (2 * n : ℝ) ≤ 2 * sig + 1 := le_of_mul_le_mul_right (by linarith [h.bracket.2]) hu
  have : (n : ℝ) < sig + 1 := by linarith
  exact Nat.lt_succ_iff.mp (by exact_mod_cast this)

/-- The rounded significand of a value whose last bit it keeps has at most 24 bits or is the power of two behind them (R146). -/
theorem RoundsTo.bounds {v : ℝ} {top : ℤ} {sig : Nat} (h : RoundsTo v (2 ^ lastBit top) sig) (hlo : 2 ^ top ≤ v)
    (hhi : v < 2 ^ (top + 1)) : sig ≤ 2 ^ 24 ∧ (lastBit top = -149 ∨ lastBit top = top - 23 ∧ 2 ^ 23 ≤ sig) := by
  have hpos : (0 : ℝ) < 2 ^ lastBit top := by positivity
  constructor
  · refine h.le_of_lt hpos (hhi.trans_le ?_)
    rw [Nat.cast_pow, Nat.cast_two, ← zpow_natCast, ← zpow_add₀ two_ne_zero]
    exact zpow_le_zpow_right₀ one_le_two (by rw [lastBit]; omega)
  · refine or_iff_not_imp_left.mpr fun hsub => ?_
    have hq : lastBit top = top - 23 := by rw [lastBit] at hsub ⊢; omega
    refine ⟨hq, h.le_of_le hpos ((le_of_eq ?_).trans hlo)⟩
    rw [Nat.cast_pow, Nat.cast_two, ← zpow_natCast, ← zpow_add₀ two_ne_zero, hq]
    congr 1
    omega

theorem magOf_binade_real {t sig : Nat} (hs : sig ≤ 2 ^ 24) (ht : t = 0 ∨ 2 ^ 23 ≤ sig) :
    (magOf (t * 2 ^ 23 + sig) : ℝ) = sig * 2 ^ (t - 149 : ℤ) := by
  rw [magOf_binade hs ht]
  push_cast
  rfl

/-- The code of a rounded significand is the nearest one (R146). -/
theorem RoundsTo.nearestCode {v : ℝ} {t sig : Nat} (h : RoundsTo v (2 ^ (t - 149 : ℤ)) sig) (hs : sig ≤ 2 ^ 24)
    (ht : t = 0 ∨ 2 ^ 23 ≤ sig ∧ 2 ^ 23 * 2 ^ (t - 149 : ℤ) ≤ v) (top : Nat) : NearestCode top (t * 2 ^ 23 + sig) v := by
  have hpos : (0 : ℝ) < 2 ^ (t - 149 : ℤ) := by positivity
  have hcode := magOf_binade_real hs (ht.imp_right And.left)
  have hpar : (t * 2 ^ 23 + sig) % 2 = sig % 2 := by omega
  refine nearestCode_of_neighbours (fun _ => ?_) fun j hj => ?_ <;> rw [hpar, hcode]
  · rcases hs.lt_or_eq with hlt | rfl
    · rw [Nat.add_assoc, magOf_binade_real (by omega) (by omega), Nat.cast_add_one]
      exact h.below.imp (fun h => by linarith) (And.imp_left fun h => by linarith)
    · have hnext := magOf_binade_real (t := t + 1) (sig := 2 ^ 23 + 1) (by omega) (by omega)
      rw [show (t + 1) * 2 ^ 23 + (2 ^ 23 + 1) = t * 2 ^ 23 + 2 ^ 24 + 1 by ring, Nat.cast_add_one, Nat.cast_add_one,
        add_sub_right_comm, zpow_add_one₀ two_ne_zero] at hnext
      rw [hnext]
      have := h.bracket.2
      push_cast at this ⊢
      exact Or.inl (by linarith)
  · by_cases hmin : t = 0 ∨ 2 ^ 23 < sig
    · obtain ⟨s, rfl⟩ : ∃ s, sig = s + 1 := Nat.exists_eq_add_one.mpr (by omega)
      rw [show j = t * 2 ^ 23 + s by omega, magOf_binade_real (by omega) (by omega)]
      have := h.above
      push_cast at this ⊢
      exact this.imp (fun h => by linarith) (And.imp_left fun h => by linarith)
    · obtain ⟨hnorm, hv⟩ := ht.resolve_left (by omega)
      have hlt : (magOf j : ℝ) < magOf (t * 2 ^ 23 + sig) := Rat.cast_lt.mpr (magOf_strictMono (by omega))
      obtain rfl : sig = 2 ^ 23 := by omega
      rw [hcode] at hlt
      push_cast at hlt ⊢
      exact Or.inl (by linarith)

/-- A value past the half-way mark above the largest finite magnitude is nearest to the code after it. -/
theorem nearestCode_top {v : ℝ} (h : (2 ^ 24 - 1 / 2) * 2 ^ (104 : ℤ) ≤ v) : NearestCode 0x7F800000 0x7F800000 v := by
  refine nearestCode_of_neighbours (fun h => absurd h (lt_irrefl _)) fun j hj => ?_
  have hlast := magOf_binade_real (t := 253) (sig := 2 ^ 24 - 1) (by omega) (by omega)
  rw [show j = 253 * 2 ^ 23 + (2 ^ 24 - 1) by omega, hlast, magOf_top]
  norm_num at h ⊢
  exact (lt_or_eq_of_le h).imp (fun h => by linarith) fun h => by linarith

/-- What `f32.roundMag` gives is the value it stands for, rounded once to nearest, ties to even (R146, R147). -/
theorem Stands.roundsEven {m : Nat} {e : ℤ} {v : ℝ} (h : Stands m e v) (hm : m ≠ 0) (neg : Bool) :
    RoundsEven neg v (f32.roundMag .rne neg m e) := by
  rw [roundMag_f32]
  obtain ⟨hlo, hhi⟩ := h.binade hm
  obtain ⟨hrounds, hexact⟩ := h.sigAt rfl neg
  dsimp only
  generalize (Nat.log2 m : ℤ) + e = top at *
  generalize Machine.sigAt neg m e (lastBit top) = r at *
  obtain ⟨sig, inexact⟩ := r
  change RoundsTo v _ sig at hrounds
  change inexact = false ↔ v = sig * 2 ^ lastBit top at hexact
  obtain ⟨hs, hnorm⟩ := hrounds.bounds hlo hhi
  obtain ⟨t, ht, hq⟩ : ∃ t : Nat, (lastBit top + 149).toNat = t ∧ lastBit top = t - 149 := ⟨_, rfl, by rw [lastBit]; omega⟩
  have hbinade : t = 0 ∨ 2 ^ 23 ≤ sig ∧ 2 ^ 23 * (2 : ℝ) ^ (t - 149 : ℤ) ≤ v := by
    refine hnorm.imp (fun h => by omega) fun ⟨hq', hsig⟩ => ⟨hsig, (le_of_eq ?_).trans hlo⟩
    rw [← zpow_natCast, ← zpow_add₀ two_ne_zero]
    congr 1
    omega
  rw [hq] at hrounds hexact
  rw [codeOf]
  dsimp only
  rw [ht]
  split
  · next hover =>
    have hv : (2 ^ 24 - 1 / 2) * 2 ^ (104 : ℤ) ≤ v := by
      rcases (show 253 ≤ t by omega).eq_or_lt with rfl | ht254
      · obtain rfl : sig = 2 ^ 24 := by omega
        have := hrounds.bracket.1
        norm_num at this ⊢
        linarith
      · have hlarge : (2 : ℝ) ^ (105 : ℤ) ≤ 2 ^ (t - 149 : ℤ) := zpow_le_zpow_right₀ one_le_two (by omega)
        have := (hbinade.resolve_left (by omega)).2
        norm_num at this hlarge ⊢
        linarith
    refine ⟨0x7F800000, le_rfl, nearestCode_top hv, Nat.add_comm .., fun _ => rfl, ?_, ?_, ?_⟩ <;> exact fun h => absurd h (lt_irrefl _)
  · next hcode =>
    have hexact : (magOf (t * 2 ^ 23 + sig) : ℝ) = v ↔ inexact = false := by
      rw [magOf_binade_real hs (hbinade.imp_right And.left), eq_comm, hexact]
    refine ⟨t * 2 ^ 23 + sig, by omega, hrounds.nearestCode hs hbinade _, Nat.add_comm .., fun h => by omega, fun _ h => ?_,
      fun _ h hv => ?_, fun _ h hv => ?_⟩ <;> dsimp only
    · rw [hexact.mp h, Bool.false_and]
      rfl
    · have htop : ¬top < -126 := fun h => hhi.not_ge (hv.trans' (zpow_le_zpow_right₀ one_le_two (by omega)))
      rw [eq_true_of_ne_false (mt hexact.mpr h), decide_eq_false htop]
      rfl
    · have htop : top < -126 := (zpow_lt_zpow_iff_right₀ one_lt_two).mp (hlo.trans_lt hv)
      rw [eq_true_of_ne_false (mt hexact.mpr h), decide_eq_true htop]
      rfl

end Sys2Proof.Machine
end

section
/-! PROOFS for O14, special functions. RCP and RSQ hold enough bits and a sticky one; EXP2's fixed-point evaluation stays between the
powers of two about its value (R186). -/

namespace Sys2Proof.Machine

/-! ## Reciprocals -/

/-- The quotient `q` with a sticky bit stands for a ratio whose integer part it is. -/
theorem stands_sticky {q : Nat} {ρ : ℝ} (e : ℤ) {P : Prop} [Decidable P] (hlo : q ≤ ρ) (hhi : ρ < q + 1) (hP : P ↔ ρ = q)
    (hq : 2 ^ 24 ≤ q) :
    Stands (2 * q + if P then 0 else 1) e (ρ * 2 ^ (e + 1)) := by
  have hpos : (0 : ℝ) < 2 ^ e := by positivity
  rw [zpow_add_one₀ two_ne_zero]
  by_cases h : P
  · rw [if_pos h, hP.mp h]
    exact Or.inl (by push_cast; ring)
  · have hlt : (q : ℝ) < ρ := lt_of_le_of_ne hlo fun h' => h (hP.mpr h'.symm)
    rw [if_neg h]
    refine Or.inr ⟨by omega, by omega, ?_, ?_⟩ <;> push_cast <;> nlinarith

/-- R186: 1/x of a finite magnitude, rounded once. -/
theorem rcp_rounds {m : Nat} (hm : m ≠ 0) (hlt : m < 2 ^ 24) (neg : Bool) (e : ℤ) :
    RoundsEven neg (1 / (m * 2 ^ e)) (f32.roundMag .rne neg (2 * (2 ^ 96 / m) + if 2 ^ 96 % m = 0 then 0 else 1) (-97 - e)) := by
  have hpos : (0 : ℝ) < m := by exact_mod_cast Nat.pos_of_ne_zero hm
  have hq : 2 ^ 24 ≤ 2 ^ 96 / m := (Nat.le_div_iff_mul_le (Nat.pos_of_ne_zero hm)).mpr (by omega)
  have hdiv := Nat.div_add_mod (2 ^ 96) m
  have hmod := Nat.mod_lt (2 ^ 96) (Nat.pos_of_ne_zero hm)
  have hratio : (1 : ℝ) / (m * 2 ^ e) = 2 ^ 96 / m * 2 ^ (-97 - e + 1) := by
    rw [show -97 - e + 1 = -e + -96 by ring, zpow_add₀ two_ne_zero, zpow_neg, zpow_neg]
    field_simp
  rw [hratio]
  generalize 2 ^ 96 / m = q at *
  generalize 2 ^ 96 % m = r at *
  have hreal : (2 : ℝ) ^ 96 = m * q + r := by exact_mod_cast hdiv.symm
  have hr : (r : ℝ) < m := by exact_mod_cast hmod
  refine (stands_sticky _ ?_ ?_ ?_ hq).roundsEven (by omega) neg
  · rw [le_div_iff₀ hpos, hreal]
    linarith [r.cast_nonneg (α := ℝ)]
  · rw [div_lt_iff₀ hpos, hreal]
    linarith
  · rw [div_eq_iff hpos.ne', hreal, mul_comm, add_eq_left, Nat.cast_eq_zero]

/-! ## Square roots -/

/-- The search for the root by its bits finds the root that it starts below. -/
theorem isqrtGo_eq (n k r : Nat) (hlo : r * r ≤ n) (hhi : n < (r + 2 ^ (k + 1)) * (r + 2 ^ (k + 1))) : isqrtGo n k r = Nat.sqrt n := by
  induction k generalizing r with
  | zero =>
    rw [isqrtGo]
    split
    · next h => exact Nat.eq_sqrt.mpr ⟨h, hhi⟩
    · next h => exact Nat.eq_sqrt.mpr ⟨hlo, not_le.mp h⟩
  | succ k ih =>
    rw [isqrtGo]
    split
    · next h => exact ih _ h (by rwa [Nat.add_assoc, ← Nat.two_mul, ← Nat.pow_succ'])
    · next h => exact ih _ hlo (not_le.mp h)

theorem isqrt_eq (n : Nat) : isqrt n = Nat.sqrt n := by
  refine isqrtGo_eq n _ 0 (Nat.zero_le n) ?_
  rw [Nat.zero_add, ← Nat.pow_add]
  exact Nat.lt_log2_self.trans_le (Nat.pow_le_pow_right two_pos (by omega))

/-- R186: 1/√x of a finite magnitude whose power of two is even, rounded once. -/
theorem rsq_rounds {m : Nat} (hm : m ≠ 0) (hlt : m < 2 ^ 25) (h : ℤ) :
    let q := isqrt (2 ^ 192 / m)
    RoundsEven false (1 / √(m * 2 ^ (2 * h))) (f32.roundMag .rne false (2 * q + if q * q * m = 2 ^ 192 then 0 else 1) (-97 - h)) := by
  intro q
  have hpos : (0 : ℝ) < m := by exact_mod_cast Nat.pos_of_ne_zero hm
  have hroot : q = Nat.sqrt (2 ^ 192 / m) := isqrt_eq _
  have hlo : q * q * m ≤ 2 ^ 192 :=
    (Nat.le_div_iff_mul_le (Nat.pos_of_ne_zero hm)).mp (hroot ▸ Nat.sqrt_le _)
  have hhi : 2 ^ 192 < (q + 1) * (q + 1) * m :=
    (Nat.div_lt_iff_lt_mul (Nat.pos_of_ne_zero hm)).mp (hroot ▸ Nat.lt_succ_sqrt _)
  have hq : 2 ^ 24 ≤ q := by
    by_contra hsmall
    have : (q + 1) * (q + 1) * m ≤ 2 ^ 24 * 2 ^ 24 * 2 ^ 25 := by gcongr <;> omega
    omega
  clear_value q
  have hsqrt : 0 < √(m : ℝ) := Real.sqrt_pos.mpr hpos
  have hratio : 1 / √(m * 2 ^ (2 * h) : ℝ) = 2 ^ 96 / √m * 2 ^ (-97 - h + 1) := by
    rw [Real.sqrt_mul hpos.le, mul_comm 2 h, zpow_mul, zpow_ofNat, Real.sqrt_sq (by positivity), show -97 - h + 1 = -h + -96 by ring,
      zpow_add₀ two_ne_zero, zpow_neg, zpow_neg]
    field_simp
  have hsq : ∀ n : ℕ, (n * √m) ^ 2 = ((n * n * m : ℕ) : ℝ) := fun n => by
    rw [mul_pow, Real.sq_sqrt hpos.le]
    push_cast
    ring
  have hbound : ((2 : ℝ) ^ 96) ^ 2 = ((2 ^ 192 : ℕ) : ℝ) := by norm_num
  rw [hratio]
  refine (stands_sticky _ ?_ ?_ ?_ hq).roundsEven (by omega) false
  · rw [le_div_iff₀ hsqrt, ← sq_le_sq₀ (by positivity) (by positivity), hsq, hbound]
    exact_mod_cast hlo
  · rw [div_lt_iff₀ hsqrt, ← Nat.cast_add_one, ← sq_lt_sq₀ (by positivity) (by positivity), hsq, hbound]
    exact_mod_cast hhi
  · rw [div_eq_iff hsqrt.ne', ← sq_eq_sq₀ (a := (2 ^ 96 : ℝ)) (by positivity) (by positivity), hsq, hbound, Nat.cast_inj, eq_comm]

/-! ## The fixed-point evaluation of EXP2 -/

/-- The series of ln 2 in units of 1/N, cut off and each term rounded down, stays below ln 2. -/
theorem ln2Series_le (N n : Nat) :
    (((List.range n).foldl (fun s k => s + N / ((k + 1) * 2 ^ (k + 1))) 0 : ℕ) : ℝ) ≤ N * Real.log 2 := by
  have hterms : (((List.range n).foldl (fun s k => s + N / ((k + 1) * 2 ^ (k + 1))) 0 : ℕ) : ℝ) ≤
      N * ∑ k ∈ Finset.range n, (1 / 2 : ℝ) ^ (k + 1) / (k + 1) := by
    induction n with
    | zero => simp
    | succ n ih =>
      rw [List.range_succ, List.foldl_append, Finset.sum_range_succ, mul_add, List.foldl_cons, List.foldl_nil, Nat.cast_add]
      refine add_le_add ih (Nat.cast_div_le.trans (le_of_eq ?_))
      rw [one_div, inv_pow]
      push_cast
      field_simp
  have hsum := Real.hasSum_pow_div_log_of_abs_lt_one (x := 1 / 2) (by norm_num [abs_of_pos])
  rw [show (1 : ℝ) - 1 / 2 = 2⁻¹ by norm_num, Real.log_inv, neg_neg] at hsum
  exact hterms.trans (mul_le_mul_of_nonneg_left (sum_le_hasSum _ (fun _ _ => by positivity) hsum) (by positivity))

/-- The partial sum and the last term of exp's series in units of 1/N, each term rounded down. -/
theorem expSeries_bounds (N y n : Nat) :
    let p := (List.range n).foldl (fun (p : Nat × Nat) k => let t := p.2 * y / N / (k + 1); (p.1 + t, t)) (N, N)
    N ≤ p.1 ∧ (p.1 : ℝ) ≤ N * ∑ k ∈ Finset.range (n + 1), (y / N : ℝ) ^ k / k.factorial ∧
      (p.2 : ℝ) ≤ N * ((y / N) ^ n / n.factorial) := by
  induction n with
  | zero => simp
  | succ n ih =>
    rw [List.range_succ, List.foldl_append, List.foldl_cons, List.foldl_nil]
    generalize (List.range n).foldl _ _ = p at *
    obtain ⟨hge, hsum, hterm⟩ := ih
    dsimp only
    have ht : ((p.2 * y / N / (n + 1) : ℕ) : ℝ) ≤ N * ((y / N) ^ (n + 1) / (n + 1).factorial) := by
      calc ((p.2 * y / N / (n + 1) : ℕ) : ℝ) ≤ p.2 * (y / N) / (n + 1) := by
            rw [Nat.div_div_eq_div_mul, ← mul_div_assoc, div_div]
            exact_mod_cast Nat.cast_div_le (α := ℝ) (m := p.2 * y) (n := N * (n + 1))
        _ ≤ N * ((y / N) ^ n / n.factorial) * (y / N) / (n + 1) := by gcongr
        _ = N * ((y / N) ^ (n + 1) / (n + 1).factorial) := by
            rw [pow_succ, Nat.factorial_succ]
            push_cast
            field_simp
    refine ⟨hge.trans (Nat.le_add_right _ _), ?_, ht⟩
    rw [Finset.sum_range_succ, mul_add, Nat.cast_add]
    exact add_le_add hsum ht

/-- exp's evaluation for the fraction `f` of an argument of EXP2 lies between 1 and 1 + f. -/
theorem expFix_bounds {f : Nat} (hf : f ≤ 2 ^ expBits) :
    2 ^ expBits ≤ expFix (f * ln2Fix / 2 ^ expBits) ∧ expFix (f * ln2Fix / 2 ^ expBits) ≤ 2 ^ expBits + f := by
  have hln : (ln2Fix : ℝ) ≤ (2 ^ expBits : ℕ) * Real.log 2 := ln2Series_le _ _
  have hpos : (0 : ℝ) < (2 ^ expBits : ℕ) := by exact_mod_cast Nat.two_pow_pos expBits
  obtain ⟨hge, hsum, -⟩ := expSeries_bounds (2 ^ expBits) (f * ln2Fix / 2 ^ expBits) 70
  rw [← expFix] at hge hsum
  generalize 2 ^ expBits = N at *
  refine ⟨hge, ?_⟩
  have hy : ((f * ln2Fix / N : ℕ) : ℝ) / N ≤ Real.log 2 * (f / N) := by
    rw [div_le_iff₀ hpos]
    calc ((f * ln2Fix / N : ℕ) : ℝ) ≤ f * ln2Fix / N := by exact_mod_cast Nat.cast_div_le (α := ℝ) (m := f * ln2Fix) (n := N)
      _ ≤ f * (N * Real.log 2) / N := by gcongr
      _ = Real.log 2 * (f / N) * N := by field_simp
  have hf1 : (f : ℝ) / N ≤ 1 := (div_le_one hpos).mpr (by exact_mod_cast hf)
  have hexp : Real.exp (Real.log 2 * (f / N)) ≤ 1 + f / N := by
    rw [← Real.rpow_def_of_pos two_pos]
    have := rpow_one_add_le_one_add_mul_self (s := 1) (by norm_num) (p := (f / N : ℝ)) (by positivity) hf1
    rwa [one_add_one_eq_two, mul_one] at this
  have hle : (expFix (f * ln2Fix / N) : ℝ) ≤ N * (1 + f / N) :=
    hsum.trans (mul_le_mul_of_nonneg_left ((Real.sum_le_exp_of_nonneg (by positivity) _).trans ((Real.exp_le_exp.mpr hy).trans hexp))
      hpos.le)
  rw [mul_add, mul_one, mul_div_cancel₀ _ hpos.ne'] at hle
  exact_mod_cast hle

end Sys2Proof.Machine
end

section
/-! PROOFS for O14, the values of EXP2, RCP and RSQ for every FP32 code (R186). -/

namespace Sys2Proof.Machine

/-! ## What the nearest code says -/

theorem NearestCode.not_closer {top k j : Nat} {v : ℝ} (h : NearestCode top k v) (hj : j ≤ top) :
    |v - (magOf k : ℝ)| ≤ |v - (magOf j : ℝ)| := by
  by_cases hkj : j = k
  · rw [hkj]
  · exact (h j hj hkj).elim LT.lt.le fun h => h.1.le

theorem NearestCode.le_of_le {top k j : Nat} {v : ℝ} (h : NearestCode top k v) (hj : j ≤ top) (hv : v ≤ magOf j) : k ≤ j := by
  by_contra hlt
  have hmag : (magOf j : ℝ) < magOf k := Rat.cast_lt.mpr (magOf_strictMono (not_le.mp hlt))
  refine (h.not_closer hj).not_gt ((closer_left_iff hmag).mpr ?_)
  linarith

theorem NearestCode.le_of_ge {top k j : Nat} {v : ℝ} (h : NearestCode top k v) (hj : j ≤ top) (hv : magOf j ≤ v) : j ≤ k := by
  by_contra hlt
  have hmag : (magOf k : ℝ) < magOf j := Rat.cast_lt.mpr (magOf_strictMono (not_le.mp hlt))
  refine (h.not_closer hj).not_gt ((closer_right_iff hmag).mpr ?_)
  linarith

theorem cast_two_zpow (n : ℤ) : (((2 : ℚ) ^ n : ℚ) : ℝ) = 2 ^ n := by push_cast; rfl

/-- The result of EXP2 for an argument whose floor is `n`, where the exact power has no code: inexact, and between the two powers. -/
def Between (n : ℤ) (r : Nat × FlagSet) : Prop :=
  r.1 < 0x7F800000 ∧ r.2 = (if n < -126 then fUF ||| fNX else fNX) ∧ magOf r.1 ≤ 2 ^ (n + 1) ∧ (-149 ≤ n → 2 ^ n ≤ magOf r.1)

theorem between_of_roundsEven {n : ℤ} {v : ℝ} {r : Nat × FlagSet} (h : RoundsEven false v r) (hlo : 2 ^ n ≤ v) (hhi : v < 2 ^ (n + 1))
    (hne : ∀ k, (magOf k : ℝ) ≠ v) (hmax : v ≤ magOf 0x7F7FFFFF) (hn : n ≤ 127) : Between n r := by
  obtain ⟨k, hk, hnear, hcode, -, -, hnormal, htiny⟩ := h
  change NearestCode 0x7F800000 k v at hnear
  have hlt : k < 0x7F800000 := Nat.lt_succ_of_le (hnear.le_of_le (by omega) hmax)
  have hr : r.1 = k := by simpa using hcode
  rw [Between, hr]
  refine ⟨hlt, ?_, ?_, fun hsub => ?_⟩
  · split
    · next hn => exact htiny hlt (hne k) (hhi.trans_le (zpow_le_zpow_right₀ one_le_two (by omega)))
    · next hn => exact hnormal hlt (hne k) (hlo.trans' (zpow_le_zpow_right₀ one_le_two (by omega)))
  · by_cases hsub : -149 ≤ n + 1
    · obtain ⟨j, hj, hmag⟩ := exists_magOf_two_pow hsub (by omega)
      have hle := hnear.le_of_le hj (hhi.le.trans_eq (by rw [hmag, cast_two_zpow]))
      exact hmag ▸ magOf_strictMono.monotone hle
    · have hhalf : v < 2 ^ (-150 : ℤ) := hhi.trans_le (zpow_le_zpow_right₀ one_le_two (by omega))
      have hzero : k = 0 := by
        by_contra hpos
        have hone : (magOf 1 : ℝ) ≤ magOf k := Rat.cast_le.mpr (magOf_strictMono.monotone (Nat.pos_of_ne_zero hpos))
        have hlt : (magOf 0 : ℝ) < magOf k := Rat.cast_lt.mpr (magOf_strictMono (Nat.pos_of_ne_zero hpos))
        refine (hnear.not_closer (j := 0) (by omega)).not_gt ((closer_left_iff hlt).mpr ?_)
        norm_num [magOf] at hhalf hone ⊢
        linarith
      rw [hzero, magOf_zero]
      positivity
  · obtain ⟨j, hj, hmag⟩ := exists_magOf_two_pow hsub (by omega)
    have hle := hnear.le_of_ge hj ((le_of_eq (by rw [hmag, cast_two_zpow])).trans hlo)
    exact hmag ▸ magOf_strictMono.monotone hle

/-- No code has the magnitude of an odd number of more than 24 bits, in units of any power of two. -/
theorem magOf_ne_odd {m : Nat} {e : ℤ} (hodd : m % 2 = 1) (hbits : 2 ^ 24 ≤ m) (k : Nat) : (magOf k : ℝ) ≠ m * 2 ^ e := by
  obtain ⟨t, sig, rfl, hs, ht⟩ := exists_binade k
  rw [magOf_binade_real hs.le ht]
  intro h
  rcases lt_or_ge e (t - 149 : ℤ) with hlt | hge
  · obtain ⟨j, hj⟩ : ∃ j : Nat, (t - 149 : ℤ) = e + (j + 1 : ℕ) := ⟨((t - 149 : ℤ) - e - 1).toNat, by omega⟩
    rw [hj, zpow_add₀ two_ne_zero, mul_left_comm, mul_comm (m : ℝ), zpow_natCast] at h
    have hm : sig * 2 ^ (j + 1) = m := by exact_mod_cast mul_left_cancel₀ (zpow_ne_zero e two_ne_zero) h
    rw [pow_succ, ← mul_assoc] at hm
    omega
  · obtain ⟨j, hj⟩ : ∃ j : Nat, e = (t - 149 : ℤ) + j := ⟨(e - (t - 149 : ℤ)).toNat, by omega⟩
    rw [hj, zpow_add₀ two_ne_zero, mul_left_comm, mul_comm (sig : ℝ), zpow_natCast] at h
    have hm : sig = m * 2 ^ j := by exact_mod_cast mul_left_cancel₀ (zpow_ne_zero _ two_ne_zero) h
    have := Nat.le_mul_of_pos_right m (Nat.two_pow_pos j)
    omega

/-- No code has a magnitude of a power of two below the smallest one. -/
theorem magOf_ne_two_pow {n : ℤ} (hn : n < -149) (k : Nat) : (magOf k : ℝ) ≠ 2 ^ n := by
  have hpos : (0 : ℝ) < 2 ^ n := by positivity
  have hlt : (2 : ℝ) ^ n < magOf 1 := (zpow_lt_zpow_right₀ one_lt_two hn).trans_eq (by norm_num [magOf])
  rcases Nat.eq_zero_or_pos k with rfl | hk
  · rw [magOf_zero]
    exact_mod_cast hpos.ne
  · have hone : (magOf 1 : ℝ) ≤ magOf k := Rat.cast_le.mpr (magOf_strictMono.monotone hk)
    linarith

/-- Nothing above 0: EXP2's result far below the range. -/
theorem between_zero {n : ℤ} (hn : n < -149) : Between n (0, fUF ||| fNX) :=
  ⟨by decide, (if_pos (by omega)).symm, magOf_zero.trans_le (by positivity), fun h => absurd hn (by omega)⟩

/-! ## EXP2 -/

/-- R186: EXP2 of an integer within the range is the code of that power of two, exactly. -/
theorem exp2Integer_exact {n : ℤ} (hlo : -149 ≤ n) (hhi : n ≤ 127) :
    (f32.roundMag .rne false 1 n).1 < 0x7F800000 ∧ magOf (f32.roundMag .rne false 1 n).1 = 2 ^ n ∧ (f32.roundMag .rne false 1 n).2 = 0 := by
  have hrounds := (show Stands 1 n (2 ^ n) from Or.inl (by rw [Nat.cast_one, one_mul])).roundsEven one_ne_zero false
  generalize f32.roundMag .rne false 1 n = r at *
  obtain ⟨k, hk, hnear, hcode, -, hexact, -, -⟩ := hrounds
  change NearestCode 0x7F800000 k _ at hnear
  obtain ⟨j, hj, hmag⟩ := exists_magOf_two_pow hlo (by omega)
  have hreal : (magOf j : ℝ) = 2 ^ n := by rw [hmag, cast_two_zpow]
  obtain rfl : k = j := le_antisymm (hnear.le_of_le hj hreal.ge) (hnear.le_of_ge hj hreal.le)
  have hlt : k < 0x7F800000 := by
    rw [← magOf_strictMono.lt_iff_lt, hmag, magOf_top, ← zpow_ofNat]
    exact zpow_lt_zpow_right₀ one_lt_two (by omega)
  have hr : r.1 = k := by simpa using hcode
  rw [hr]
  exact ⟨hlt, hmag, hexact hlt hreal⟩

/-- EXP2 of an integer below the range. -/
theorem exp2Integer_between {n : ℤ} (hn : n < -149) : Between n (f32.roundMag .rne false 1 n) := by
  have hstands : Stands 1 n (2 ^ n) := Or.inl (by rw [Nat.cast_one, one_mul])
  refine between_of_roundsEven (hstands.roundsEven one_ne_zero false) le_rfl (zpow_lt_zpow_right₀ one_lt_two (by omega))
    (magOf_ne_two_pow hn) ?_ (by omega)
  exact (zpow_le_zpow_right₀ one_le_two hn.le).trans (by norm_num [magOf])

/-- EXP2 of an argument with floor `n` and fraction `f`, in units of 2^-256: as the argument is a code, its fraction leaves room below 2^128. -/
theorem exp2Fraction_between {n : ℤ} {f : Nat} (hf : f < 2 ^ expBits) (hn : n ≤ 127)
    (hmax : n = 127 → f + 2 ^ (expBits - 17) ≤ 2 ^ expBits) :
    Between n (f32.roundMag .rne false (2 * expFix (f * ln2Fix / 2 ^ expBits) + 1) (n - expBits - 1)) := by
  obtain ⟨hlo, hhi⟩ := expFix_bounds hf.le
  have hstands : Stands (2 * expFix (f * ln2Fix / 2 ^ expBits) + 1) (n - expBits - 1) _ := Or.inl rfl
  have hrounds := hstands.roundsEven (Nat.succ_ne_zero _) false
  have hbits : 2 ^ 24 ≤ 2 ^ expBits := Nat.pow_le_pow_right two_pos (by decide)
  have hodd := magOf_ne_odd (m := 2 * expFix (f * ln2Fix / 2 ^ expBits) + 1) (e := n - expBits - 1) (by omega) (by omega)
  have hroom : 2 ^ (expBits - 17) * 2 ^ 17 = 2 ^ expBits := by rw [← pow_add]; rfl
  have hunit : ((2 ^ expBits : ℕ) : ℝ) * 2 * 2 ^ (n - expBits - 1) = 2 ^ n := by
    rw [Nat.cast_pow, Nat.cast_two, ← zpow_natCast, mul_assoc, ← zpow_one_add₀ two_ne_zero, ← zpow_add₀ two_ne_zero]
    congr 1
    ring
  have hpos : (0 : ℝ) < 2 ^ (n - expBits - 1) := by positivity
  generalize f32.roundMag .rne false (2 * expFix (f * ln2Fix / 2 ^ expBits) + 1) (n - expBits - 1) = r at *
  generalize expFix (f * ln2Fix / 2 ^ expBits) = x at *
  generalize (2 : ℝ) ^ (n - expBits - 1) = u at *
  generalize 2 ^ (expBits - 17) = M at *
  generalize 2 ^ expBits = N at *
  have hsucc : (2 : ℝ) ^ (n + 1) = (4 * N : ℕ) * u := by rw [zpow_add_one₀ two_ne_zero, ← hunit]; push_cast; ring
  have hscale : ∀ {a b : ℕ}, a ≤ b → (a : ℝ) * u ≤ b * u := fun h => mul_le_mul_of_nonneg_right (Nat.cast_le.mpr h) hpos.le
  refine between_of_roundsEven hrounds ?_ ?_ hodd ?_ hn
  · rw [← hunit]
    exact (le_of_eq (by push_cast; ring)).trans (hscale (show 2 * N ≤ 2 * x + 1 by omega))
  · rw [hsucc]
    exact mul_lt_mul_of_pos_right (Nat.cast_lt.mpr (by omega)) hpos
  · rcases hn.eq_or_lt with rfl | hlt
    · have hle := hscale (show 2 * x + 1 + M ≤ 4 * N by have := hmax rfl; omega)
      have hlast : (magOf 0x7F7FFFFF : ℝ) = 2 ^ 128 - 2 ^ 104 := by norm_num [magOf]
      have hM : (M : ℝ) * 2 ^ 17 = N := by exact_mod_cast hroom
      rw [← hM] at hunit
      rw [← hsucc, Nat.cast_add _ M] at hle
      rw [hlast]
      norm_num at hunit hle ⊢
      linarith
    · have hle : (2 : ℝ) ^ (n + 1) ≤ magOf 0x7F7FFFFF :=
        (zpow_le_zpow_right₀ one_le_two (show n + 1 ≤ 127 by omega)).trans (by norm_num [magOf])
      exact (hscale (show 2 * x + 1 ≤ 4 * N by omega)).trans (hsucc.symm.le.trans hle)

/-- What R186 says of EXP2 of a finite argument `x`. -/
def Exp2Says (x : ℚ) (r : Nat × FlagSet) : Prop :=
  (128 ≤ x → r = (0x7F800000, fOF ||| fNX)) ∧
  (∀ n : ℤ, x = n → -149 ≤ n → n ≤ 127 → r.1 < 0x7F800000 ∧ magOf r.1 = 2 ^ n ∧ r.2 = 0) ∧
  (x < 128 → (∀ n : ℤ, x = n → n < -149) → Between ⌊x⌋ r)

theorem exp2Says_above {x : ℚ} (h : 128 ≤ x) : Exp2Says x (0x7F800000, fOF ||| fNX) := by
  refine ⟨fun _ => rfl, fun n hn _ hle => ?_, fun hlt => absurd h (not_le.mpr hlt)⟩
  have : (128 : ℤ) ≤ n := by exact_mod_cast hn ▸ h
  omega

theorem exp2Says_below {x : ℚ} (h : ⌊x⌋ < -149) : Exp2Says x (0, fUF ||| fNX) := by
  have hx : x < -149 := by exact_mod_cast Int.floor_lt.mp h
  refine ⟨fun h => by linarith, fun n hn hge _ => ?_, fun _ _ => between_zero h⟩
  rw [hn, Int.floor_intCast] at h
  omega

theorem exp2Says_integer {n : ℤ} (hn : n < 128) : Exp2Says n (f32.roundMag .rne false 1 n) := by
  refine ⟨fun h => ?_, fun k hk hlo hhi => ?_, fun _ hsub => ?_⟩
  · have : 128 ≤ n := by exact_mod_cast h
    omega
  · obtain rfl : n = k := by exact_mod_cast hk
    exact exp2Integer_exact hlo hhi
  · rw [Int.floor_intCast]
    exact exp2Integer_between (hsub n rfl)

theorem exp2Says_fraction {n : ℤ} {f : Nat} (hf : f < 2 ^ expBits) (h0 : f ≠ 0) (hn : n < 128)
    (hmax : (n + f / (2 ^ expBits : ℕ) : ℚ) < 128 → (n + f / (2 ^ expBits : ℕ) : ℚ) ≤ 128 - 1 / 2 ^ 17) :
    Exp2Says (n + f / (2 ^ expBits : ℕ)) (f32.roundMag .rne false (2 * expFix (f * ln2Fix / 2 ^ expBits) + 1) (n - expBits - 1)) := by
  have hbetween := exp2Fraction_between (n := n) hf (by omega)
  have hroom : 2 ^ (expBits - 17) * 2 ^ 17 = 2 ^ expBits := by rw [← pow_add]; rfl
  generalize f32.roundMag .rne false (2 * expFix (f * ln2Fix / 2 ^ expBits) + 1) (n - expBits - 1) = r at *
  generalize 2 ^ (expBits - 17) = M at *
  generalize 2 ^ expBits = N at *
  have hN : (0 : ℚ) < N := by exact_mod_cast hf.pos
  have hpos : (0 : ℚ) < f / N := div_pos (by exact_mod_cast Nat.pos_of_ne_zero h0) hN
  have hlt1 : (f / N : ℚ) < 1 := (div_lt_one hN).mpr (by exact_mod_cast hf)
  have hfloor : ⌊(n + f / N : ℚ)⌋ = n := Int.floor_eq_iff.mpr ⟨by linarith, by linarith⟩
  have hn' : (n : ℚ) ≤ 127 := by exact_mod_cast Int.lt_add_one_iff.mp hn
  refine ⟨fun h => by linarith, fun k hk _ _ => ?_, fun hlt _ => ?_⟩
  · rw [hk, Int.floor_intCast] at hfloor
    rw [hfloor] at hk
    linarith
  · rw [hfloor]
    refine hbetween fun h127 => ?_
    have hM : (M : ℚ) * 2 ^ 17 = N := by exact_mod_cast hroom
    have hle : (f : ℚ) ≤ (1 - 1 / 2 ^ 17) * N := (div_le_iff₀ hN).mp (by
      have := hmax hlt
      rw [h127] at this
      push_cast at this
      linarith)
    have : (f + M : ℚ) ≤ N := by
      rw [← hM] at hle ⊢
      linarith
    exact_mod_cast this

/-- A ratio is its floor and a fraction. -/
theorem div_eq_floor_add {N : Nat} (hN : 0 < N) (A : ℤ) :
    (A / N : ℚ) = (A / (N : ℤ) : ℤ) + ((A % N).toNat : ℚ) / N ∧ (A % N).toNat < N ∧ ⌊(A / N : ℚ)⌋ = A / N := by
  have hpos : (N : ℚ) ≠ 0 := by exact_mod_cast hN.ne'
  have hnonneg := Int.emod_nonneg A (b := N) (by omega)
  have hlt := Int.emod_lt_of_pos A (b := N) (by omega)
  have hcast : ((A % N).toNat : ℚ) = (A % N : ℤ) := by exact_mod_cast Int.toNat_of_nonneg hnonneg
  refine ⟨?_, by omega, Rat.floor_intCast_div_natCast A N⟩
  rw [hcast, eq_comm, eq_div_iff hpos, add_mul, div_mul_cancel₀ _ hpos]
  exact_mod_cast Int.ediv_mul_add_emod A N

theorem exp2_says {c m : Nat} {neg : Bool} {e : ℤ} (hdec : f32.decode c = .fin neg m e) (hm : m ≠ 0) (he : -149 ≤ e)
    (hnorm : 0 ≤ e → 2 ^ 23 ≤ m) {x : ℚ} (hx : x = if neg then -(m * 2 ^ e : ℚ) else m * 2 ^ e)
    (hmax : x < 128 → x ≤ 128 - 1 / 2 ^ 17) :
    Exp2Says x (exp2F32 c) := by
  have hlarge : 0 ≤ e → (2 ^ 23 : ℚ) ≤ m * 2 ^ e := fun h => by
    have h1 : (2 ^ 23 : ℚ) ≤ m := by exact_mod_cast hnorm h
    nlinarith [one_le_zpow₀ (one_le_two (α := ℚ)) h]
  rw [exp2F32, hdec]
  dsimp only
  rw [if_neg hm]
  split
  · next hbig =>
    have := hlarge hbig.1
    cases neg
    · exact exp2Says_above (by rw [hx, if_neg Bool.false_ne_true]; linarith)
    · exact exp2Says_below (Int.floor_lt.mpr (by rw [hx, if_pos rfl]; push_cast; linarith))
  generalize hA : signed neg (m * 2 ^ (e + 256).toNat) = A
  have hscaled : (m * 2 ^ (e + 256).toNat : ℚ) / (2 ^ expBits : ℕ) = m * 2 ^ e := by
    rw [Nat.cast_pow, Nat.cast_two, ← zpow_natCast, ← zpow_natCast, mul_div_assoc, ← zpow_sub₀ two_ne_zero]
    congr 2
    rw [expBits]
    omega
  have hxA : x = A / (2 ^ expBits : ℕ) := by
    rw [hx, ← hA, ← hscaled]
    cases neg
    · simp [signed]
    · simp [signed, neg_div]
  obtain ⟨hsplit, hf, hfloor⟩ := div_eq_floor_add (Nat.two_pow_pos expBits) A
  rw [← hxA] at hsplit hfloor
  rw [Nat.cast_pow, Nat.cast_two] at hsplit hf hfloor
  split
  · next hge =>
    exact exp2Says_above (by rw [← Int.cast_ofNat, ← Int.le_floor, hfloor]; exact hge)
  split
  · next hlt => exact exp2Says_below (by rw [hfloor]; omega)
  split
  · next hint =>
    rw [hint, Nat.cast_zero, zero_div, add_zero] at hsplit
    rw [hsplit]
    exact exp2Says_integer (by omega)
  · next hfrac =>
    rw [hsplit] at hmax ⊢
    exact exp2Says_fraction hf hfrac (by omega) hmax

/-- Below 128, the last code before it is the largest (R138). -/
theorem magOf_le_of_lt_128 {k : Nat} (h : magOf k < 128) : magOf k ≤ 128 - 1 / 2 ^ 17 := by
  have h128 : magOf 0x43000000 = 128 := by norm_num [magOf]
  have hlast : magOf 0x42FFFFFF = 128 - 1 / 2 ^ 17 := by norm_num [magOf]
  rw [← h128, magOf_strictMono.lt_iff_lt] at h
  exact hlast ▸ magOf_strictMono.monotone (by omega)

/-! ## The special functions of a code -/

section
variable {c : Nat}

theorem specials_nan (hc : 0x7F800000 < c % 2 ^ 31) :
    exp2F32 c = (0x7FC00000, 0) ∧ rcpF32 c = (0x7FC00000, 0) ∧ rsqF32 c = (0x7FC00000, 0) := by
  rw [exp2F32, rcpF32, rsqF32, decode_f32_nan hc]
  exact ⟨rfl, rfl, rfl⟩

theorem specials_inf (hc : c % 2 ^ 31 = 0x7F800000) : exp2F32 c = (if c.testBit 31 then 0 else 0x7F800000, 0) ∧
    rcpF32 c = (if c.testBit 31 then 0x80000000 else 0, 0) ∧ rsqF32 c = if c.testBit 31 then (0x7FC00000, fIV) else (0, 0) := by
  rw [exp2F32, rcpF32, rsqF32, decode_f32_inf hc]
  cases c.testBit 31 <;> exact ⟨rfl, rfl, rfl⟩

theorem specials_zero (hc : c % 2 ^ 31 = 0) : exp2F32 c = (0x3F800000, 0) ∧
    rcpF32 c = (if c.testBit 31 then 0xFF800000 else 0x7F800000, fDZ) ∧
    rsqF32 c = (if c.testBit 31 then 0xFF800000 else 0x7F800000, fDZ) := by
  obtain ⟨m, e, hdec, hmag, -⟩ := decode_f32_finite (c := c) (by omega)
  have hm : m = 0 := by
    rw [hc, magOf_zero, eq_comm, mul_eq_zero] at hmag
    exact_mod_cast hmag.resolve_right (zpow_ne_zero e two_ne_zero)
  simp [exp2F32, rcpF32, rsqF32, hdec, hm]

variable (hc : c % 2 ^ 31 < 0x7F800000) (h0 : 0 < c % 2 ^ 31)
include hc h0

/-- A finite code other than zero: what it decodes to, with its magnitude in the reals. -/
theorem decode_f32_nonzero : ∃ m e, f32.decode c = .fin (c.testBit 31) m e ∧ m ≠ 0 ∧ magOf (c % 2 ^ 31) = m * 2 ^ e ∧
    (magOf (c % 2 ^ 31) : ℝ) = m * 2 ^ e ∧ m < 2 ^ 24 ∧ -149 ≤ e ∧ (0 ≤ e → 2 ^ 23 ≤ m) := by
  obtain ⟨m, e, hdec, hmag, hrest⟩ := decode_f32_finite hc
  refine ⟨m, e, hdec, ?_, hmag, by rw [hmag]; push_cast; rfl, hrest⟩
  rintro rfl
  exact (magOf_pos h0).ne' (by rw [hmag, Nat.cast_zero, zero_mul])

theorem rcp_finite : RoundsEven (c.testBit 31) (1 / (magOf (c % 2 ^ 31) : ℝ)) (rcpF32 c) := by
  obtain ⟨m, e, hdec, hm, -, hmag, hlt, -⟩ := decode_f32_nonzero hc h0
  rw [rcpF32, hdec, hmag]
  dsimp only
  rw [if_neg hm]
  exact rcp_rounds hm hlt _ e

theorem rsq_finite : if c.testBit 31 then rsqF32 c = (0x7FC00000, fIV)
    else RoundsEven false (1 / √(magOf (c % 2 ^ 31) : ℝ)) (rsqF32 c) := by
  obtain ⟨m, e, hdec, hm, -, hmag, hlt, -⟩ := decode_f32_nonzero hc h0
  rw [rsqF32, hdec, hmag]
  cases c.testBit 31
  · dsimp only
    rw [if_neg Bool.false_ne_true, if_neg hm, if_neg Bool.false_ne_true]
    by_cases heven : e % 2 = 0
    · obtain ⟨h, rfl⟩ : ∃ h, e = 2 * h := ⟨e / 2, by omega⟩
      rw [if_pos heven, Int.mul_ediv_cancel_left h two_ne_zero]
      exact rsq_rounds hm (by omega) h
    · obtain ⟨h, rfl⟩ : ∃ h, e = 2 * h + 1 := ⟨e / 2, by omega⟩
      have hscaled : (m : ℝ) * 2 ^ (2 * h + 1) = (2 * m : ℕ) * 2 ^ (2 * h) := by
        rw [zpow_add_one₀ two_ne_zero]
        push_cast
        ring
      rw [if_neg heven, hscaled, add_sub_cancel_right, Int.mul_ediv_cancel_left h two_ne_zero]
      exact rsq_rounds (by omega) (by omega) h
  · dsimp only
    rw [if_pos rfl, if_neg hm, if_pos rfl]
    rfl

theorem exp2_finite : Exp2Says (if c.testBit 31 then -magOf (c % 2 ^ 31) else magOf (c % 2 ^ 31)) (exp2F32 c) := by
  obtain ⟨m, e, hdec, hm, hmag, -, hlt, he, hnorm⟩ := decode_f32_nonzero hc h0
  refine exp2_says hdec hm he hnorm (by rw [hmag]) fun hx => ?_
  by_cases hneg : c.testBit 31 = true
  · rw [if_pos hneg]
    exact (neg_nonpos.mpr (magOf_nonneg _)).trans (by norm_num)
  · rw [if_neg hneg] at hx ⊢
    exact magOf_le_of_lt_128 hx

end

theorem specialFunctions_holds : specialFunctions := by
  intro c _ neg k x
  refine ⟨specials_nan, specials_inf, specials_zero, fun h0 hc => ⟨rcp_finite hc h0, rsq_finite hc h0, ?_⟩⟩
  obtain ⟨habove, hexact, hbetween⟩ := exp2_finite hc h0
  refine ⟨habove, hexact, fun hlt hint => ?_⟩
  obtain ⟨hcode, hflags, hle, hge⟩ := hbetween hlt hint
  have hsub : ⌊x⌋ < -126 ↔ x < -126 := by
    rw [Int.floor_lt]
    norm_num
  exact ⟨hcode, hflags.trans (if_congr hsub rfl rfl), hle, hge⟩

end Sys2Proof.Machine
end

section
/-! PROOFS for O14, dot groups. The cases of an aligned group sum in their order (R151 to R153), and the groups of VDOT16 and VDOT8. -/

namespace Sys2Proof.Machine

/-! ## The sum of a group, case by case -/

/-- What a product adds to the sum under the alignment exponent `top` (R153). -/
def prodTerm (f : Nat) (top : ℤ) (p : Prod) : ℤ := if p.q = 0 then 0 else signed p.neg (p.q * 2 ^ f / 2 ^ (top - p.u).toNat)

theorem foldl_add_eq_sum {α : Type} (g : α → ℤ) (l : List α) (s : ℤ) : l.foldl (fun s p => s + g p) s = s + (l.map g).sum := by
  induction l generalizing s with
  | nil => simp
  | cons p l ih => rw [List.foldl_cons, ih, List.map_cons, List.sum_cons, add_assoc]

theorem foldl_max_le_iff {u top : ℤ} {us : List ℤ} : us.foldl max u ≤ top ↔ ∀ v ∈ u :: us, v ≤ top := by
  induction us generalizing u with
  | nil => simp
  | cons v us ih => rw [List.foldl_cons, ih]; simp [and_assoc]

/-- The alignment exponent is the largest of the exponents (R153). -/
theorem foldl_max_eq {u top : ℤ} {us : List ℤ} (hmem : top ∈ u :: us) (hle : ∀ v ∈ u :: us, v ≤ top) : us.foldl max u = top :=
  le_antisymm (foldl_max_le_iff.mpr hle) (foldl_max_le_iff.mp le_rfl top hmem)

section
variable {f : Nat} {l : List Prod}

theorem not_any {q : Prod → Bool} (h : ∀ p ∈ l, ¬q p = true) : ¬l.any q = true := fun h' => by
  obtain ⟨p, hp, hq⟩ := List.any_eq_true.mp h'
  exact h p hp hq

theorem groupSum_nan (h : ∃ p ∈ l, p.nan = true) : groupSum f l = (.nan, 0) := if_pos (List.any_eq_true.mpr h)

variable (hnan : ∀ p ∈ l, ¬p.nan = true)
include hnan

theorem groupSum_invalid (h : ∃ p ∈ l, p.iv = true) : groupSum f l = (.nan, fIV) := by
  rw [groupSum, if_neg (not_any hnan), if_pos (List.any_eq_true.mpr h)]

variable (hiv : ∀ p ∈ l, ¬p.iv = true)
include hiv

theorem groupSum_infs (hneg : ∃ p ∈ l, p.inf = true ∧ p.neg = true) (hpos : ∃ p ∈ l, p.inf = true ∧ p.neg = false) :
    groupSum f l = (.nan, fIV) := by
  rw [groupSum, if_neg (not_any hnan), if_neg (not_any hiv), if_pos]
  simpa using ⟨hneg, hpos⟩

theorem groupSum_inf {b : Bool} (h : ∃ p ∈ l, p.inf = true) (hb : ∀ p ∈ l, p.inf = true → p.neg = b) :
    groupSum f l = (.inf b, 0) := by
  obtain ⟨p, hp, hinf⟩ := h
  have hone : ¬((l.any fun p => p.inf && p.neg) && (l.any fun p => p.inf && !p.neg)) = true := fun h => by
    obtain ⟨⟨r, hr, h1, h2⟩, q, hq, h3, h4⟩ : (∃ p ∈ l, p.inf = true ∧ p.neg = true) ∧
        ∃ p ∈ l, p.inf = true ∧ p.neg = false := by
      simpa using h
    rw [hb r hr h1] at h2
    rw [hb q hq h3, h2] at h4
    cases h4
  have hsign : (l.any fun p => p.inf && p.neg) = b := by
    cases b
    · exact Bool.eq_false_iff.mpr (not_any fun q hq h => by
        obtain ⟨h1, h2⟩ := Bool.and_eq_true_iff.mp h
        rw [hb q hq h1] at h2
        cases h2)
    · exact List.any_eq_true.mpr ⟨p, hp, by rw [hinf, hb p hp hinf]; rfl⟩
  rw [groupSum, if_neg (not_any hnan), if_neg (not_any hiv), if_neg hone, if_pos (List.any_eq_true.mpr ⟨p, hp, hinf⟩), hsign]

variable (hinf : ∀ p ∈ l, ¬p.inf = true)
include hinf

/-- Where no product is special, the sum is the live ones'. -/
theorem groupSum_finite : groupSum f l =
    match (l.filter fun p => p.q != 0).map (·.u) with
    | [] => (.fin false 0 0, 0)
    | u :: us =>
      let s := (l.map (prodTerm f (us.foldl max u))).sum
      (.fin (decide (s < 0)) s.natAbs (us.foldl max u - f), 0) := by
  have hone : ¬((l.any fun p => p.inf && p.neg) && (l.any fun p => p.inf && !p.neg)) = true := by
    simp only [Bool.and_eq_true, not_and]
    exact fun h => absurd h (not_any fun p hp h => hinf p hp (Bool.and_eq_true_iff.mp h).1)
  rw [groupSum, if_neg (not_any hnan), if_neg (not_any hiv), if_neg hone, if_neg (not_any hinf)]
  cases (l.filter fun p => p.q != 0).map (·.u) with
  | nil => rfl
  | cons u us =>
    have hsum : l.foldl (fun s p => if p.q = 0 then s else s + signed p.neg (p.q * 2 ^ f / 2 ^ (us.foldl max u - p.u).toNat)) 0 =
        (l.map (prodTerm f (us.foldl max u))).sum := by
      rw [← zero_add (l.map _).sum, ← foldl_add_eq_sum]
      congr 1
      funext s p
      rw [prodTerm]
      split <;> simp
    simp only [hsum]

theorem groupSum_zero (h : ∀ p ∈ l, p.q = 0) : groupSum f l = (.fin false 0 0, 0) := by
  have hlive : l.filter (fun p => p.q != 0) = [] := List.filter_eq_nil_iff.mpr fun p hp => by simp [h p hp]
  rw [groupSum_finite hnan hiv hinf, hlive]
  rfl

theorem groupSum_sum {top : ℤ} (hmem : ∃ p ∈ l, p.q ≠ 0 ∧ p.u = top) (hle : ∀ p ∈ l, p.q ≠ 0 → p.u ≤ top) :
    let s := (l.map (prodTerm f top)).sum
    groupSum f l = (.fin (decide (s < 0)) s.natAbs (top - f), 0) := by
  have htop : top ∈ (l.filter fun p => p.q != 0).map (·.u) := by simpa [and_assoc] using hmem
  have hmax : ∀ u ∈ (l.filter fun p => p.q != 0).map (·.u), u ≤ top := fun u hu => by
    obtain ⟨p, hp, rfl⟩ := List.mem_map.mp hu
    obtain ⟨hp, hq⟩ := List.mem_filter.mp hp
    exact hle p hp (by simpa using hq)
  rw [groupSum_finite hnan hiv hinf]
  cases hus : (l.filter fun p => p.q != 0).map (·.u) with
  | nil => rw [hus] at htop; cases htop
  | cons u us =>
    rw [hus] at htop hmax
    simp only [foldl_max_eq htop hmax]

end

/-! ## The products of codes -/

/-- Infinity, where a format has one, stands below the NaNs and is not zero. -/
def InfApart (g : GroupFmt) : Prop := ∀ i, g.infAt = some i → 0 < i ∧ i < g.nanAt

section
variable {g : GroupFmt}

theorem sig_eq_zero_iff {c : Nat} : g.sig c = 0 ↔ g.mag c = 0 := by
  have := Nat.two_pow_pos g.fb
  rw [GroupFmt.sig]
  split <;> omega

theorem groupRead_nan {c : Nat} (h : g.isNan c) : groupRead g c = .nan := if_pos h

theorem groupRead_inf {c : Nat} (h : g.isInf c) (hn : ¬g.isNan c) : groupRead g c = .inf (g.neg c) := (if_neg hn).trans (if_pos h)

theorem groupRead_fin {c : Nat} (h : ¬g.isInf c) (hn : ¬g.isNan c) : groupRead g c = .fin (g.neg c) (g.sig c) (g.exp c) :=
  (if_neg hn).trans (if_neg h)

/-- The product of a pair of codes. -/
def codeProd (g : GroupFmt) (t : Nat × Nat) : Prod := prodOf (groupRead g t.1) (groupRead g t.2)

theorem codeProd_nan {t : Nat × Nat} (h : g.isNan t.1 ∨ g.isNan t.2) : (codeProd g t).nan = true := by
  rw [codeProd]
  rcases h with h | h <;> rw [groupRead_nan h]
  · rfl
  · cases groupRead g t.1 <;> rfl

/-- The product of two operands that are not NaNs (R152): its class by theirs; where neither is infinite, its magnitude and exponent. -/
theorem codeProd_read (hg : InfApart g) {t : Nat × Nat} (hx : ¬g.isNan t.1) (hy : ¬g.isNan t.2) :
    ¬(codeProd g t).nan = true ∧ (codeProd g t).neg = (g.neg t.1).xor (g.neg t.2) ∧
    ((codeProd g t).iv = true ↔ (g.isInf t.1 ∨ g.isInf t.2) ∧ (g.mag t.1 = 0 ∨ g.mag t.2 = 0)) ∧
    ((codeProd g t).inf = true ↔ (g.isInf t.1 ∨ g.isInf t.2) ∧ g.mag t.1 ≠ 0 ∧ g.mag t.2 ≠ 0) ∧
    (¬(g.isInf t.1 ∨ g.isInf t.2) → (codeProd g t).q = g.sig t.1 * g.sig t.2 ∧ (codeProd g t).u = g.exp t.1 + g.exp t.2) := by
  rw [codeProd]
  have hmag : ∀ {c}, g.isInf c → g.mag c ≠ 0 := fun h => (hg _ h).1.ne'
  by_cases hix : g.isInf t.1 <;> by_cases hiy : g.isInf t.2
  · rw [groupRead_inf hix hx, groupRead_inf hiy hy]
    simp [prodOf, hix, hiy, hmag hix, hmag hiy]
  · rw [groupRead_inf hix hx, groupRead_fin hiy hy]
    simp [prodOf, hix, hmag hix, sig_eq_zero_iff]
  · rw [groupRead_fin hix hx, groupRead_inf hiy hy]
    simp [prodOf, hiy, hmag hiy, sig_eq_zero_iff]
  · rw [groupRead_fin hix hx, groupRead_fin hiy hy]
    simp [prodOf, hix, hiy]

end

/-! ## The groups -/

/-- The truncated product of a pair in the sum (R153). -/
theorem prodTerm_eq_term {g : GroupFmt} {f : Nat} {top : ℤ} {t : Nat × Nat} {p : Prod} (hneg : p.neg = (g.neg t.1).xor (g.neg t.2))
    (hq : p.q = g.sig t.1 * g.sig t.2) (hu : p.u = g.exp t.1 + g.exp t.2) (hle : p.q ≠ 0 → p.u ≤ top) :
    prodTerm f top p = g.term f top t := by
  have hmag : (g.sig t.1 * g.sig t.2 : ℚ) = (p.q : ℚ) := by rw [hq, Nat.cast_mul]
  simp only [prodTerm, GroupFmt.term, ← hu, ← hneg, hmag, signed]
  by_cases h0 : p.q = 0
  · simp [h0]
  · obtain ⟨d, hd⟩ := Int.eq_ofNat_of_zero_le (sub_nonneg.mpr (hle h0))
    have hscaled : (p.q : ℚ) * 2 ^ (f - (top - p.u) : ℤ) = (p.q * 2 ^ f : ℕ) / (2 ^ d : ℕ) := by
      rw [hd, zpow_sub₀ two_ne_zero, Nat.cast_mul, Nat.cast_pow, Nat.cast_pow, Nat.cast_two, mul_div_assoc]
      rfl
    rw [if_neg h0, hscaled, Rat.floor_natCast_div_natCast, hd]
    rfl

/-- R151 to R153: the sum of a group of codes is the group's outcome, and where it is finite it is the sum itself. -/
theorem groupSum_is {g : GroupFmt} (hg : InfApart g) (f : Nat) (ps : List (Nat × Nat)) :
    GroupIs g f ps (fun S U r => r = (.fin (decide (S < 0)) S.natAbs (U - f), 0)) (groupSum f (ps.map (codeProd g))) := by
  refine ⟨fun ⟨t, ht, hnan⟩ => groupSum_nan ⟨_, List.mem_map_of_mem ht, codeProd_nan hnan⟩, fun hnan => ?_⟩
  have hread := fun t ht => codeProd_read hg (hnan t ht).1 (hnan t ht).2
  have hnan' : ∀ p ∈ ps.map (codeProd g), ¬p.nan = true := List.forall_mem_map.mpr fun t ht => (hread t ht).1
  refine ⟨fun ⟨t, ht, hinf, hzero⟩ => ?_, fun hapart => ?_⟩
  · obtain ⟨-, -, hiv, -⟩ := hread t ht
    exact groupSum_invalid hnan' ⟨_, List.mem_map_of_mem ht, hiv.mpr ⟨hinf, hzero⟩⟩
  have hiv' : ∀ p ∈ ps.map (codeProd g), ¬p.iv = true := List.forall_mem_map.mpr fun t ht h => by
    obtain ⟨-, -, hiv, -⟩ := hread t ht
    obtain ⟨hinf, hzero⟩ := hiv.mp h
    exact hzero.elim (hapart t ht hinf).1 (hapart t ht hinf).2
  have hinf' : ∀ t ∈ ps, g.isInf t.1 ∨ g.isInf t.2 → (codeProd g t).inf = true ∧ (codeProd g t).neg = (g.neg t.1).xor (g.neg t.2) :=
    fun t ht h => by
      obtain ⟨-, hneg, -, hinf, -⟩ := hread t ht
      exact ⟨hinf.mpr ⟨h, hapart t ht h⟩, hneg⟩
  refine ⟨fun ⟨t, ht, hit, hst⟩ ⟨r, hr, hir, hsr⟩ => ?_, fun b ⟨t, ht, hit⟩ hb => ?_, fun hfin => ?_⟩
  · obtain ⟨hinft, hnegt⟩ := hinf' t ht hit
    obtain ⟨hinfr, hnegr⟩ := hinf' r hr hir
    exact groupSum_infs hnan' hiv' ⟨_, List.mem_map_of_mem ht, hinft, hnegt.trans hst⟩
      ⟨_, List.mem_map_of_mem hr, hinfr, hnegr.trans hsr⟩
  · refine groupSum_inf hnan' hiv' ⟨_, List.mem_map_of_mem ht, (hinf' t ht hit).1⟩ (List.forall_mem_map.mpr fun r hr h => ?_)
    obtain ⟨-, hneg, -, hinf, -⟩ := hread r hr
    exact hneg.trans (hb r hr (hinf.mp h).1)
  have hnone : ∀ p ∈ ps.map (codeProd g), ¬p.inf = true := List.forall_mem_map.mpr fun t ht h => by
    obtain ⟨-, -, -, hinf, -⟩ := hread t ht
    exact hfin t ht (hinf.mp h).1
  have hmag : ∀ t ∈ ps, (codeProd g t).q = g.sig t.1 * g.sig t.2 ∧ (codeProd g t).u = g.exp t.1 + g.exp t.2 := fun t ht => by
    obtain ⟨-, -, -, -, h⟩ := hread t ht
    exact h (hfin t ht)
  refine ⟨fun hdead => ⟨0, groupSum_zero hnan' hiv' hnone (List.forall_mem_map.mpr fun t ht => ?_)⟩,
    fun U ⟨t, ht, hlive, hU⟩ hmax => ?_⟩
  · rw [(hmag t ht).1]
    exact not_not.mp (hdead t ht)
  · have hle : ∀ t ∈ ps, (codeProd g t).q ≠ 0 → (codeProd g t).u ≤ U := fun t ht h => by
      rw [(hmag t ht).1] at h
      rw [(hmag t ht).2]
      exact hmax t ht h
    have hterms : (ps.map (codeProd g)).map (prodTerm f U) = ps.map (g.term f U) := by
      rw [List.map_map]
      refine List.map_congr_left fun t ht => ?_
      obtain ⟨-, hneg, -⟩ := hread t ht
      exact prodTerm_eq_term hneg (hmag t ht).1 (hmag t ht).2 (hle t ht)
    rw [← hterms]
    exact groupSum_sum hnan' hiv' hnone ⟨_, List.mem_map_of_mem ht, by rw [(hmag t ht).1]; exact hlive, by rw [(hmag t ht).2]; exact hU⟩
      (List.forall_mem_map.mpr hle)

/-- A function that keeps the special outcomes and zero takes a group's outcome to that of the same group, with finite sums as it makes them. -/
theorem groupIs_map {g : GroupFmt} {f : Nat} {ps : List (Nat × Nat)} {Fin Fin' : ℤ → ℤ → Fp × FlagSet → Prop} {r : Fp × FlagSet}
    (h : GroupIs g f ps Fin r) (k : Fp × FlagSet → Fp × FlagSet) (hnan : ∀ fl, k (.nan, fl) = (.nan, fl))
    (hinf : ∀ b, k (.inf b, 0) = (.inf b, 0))
    (hzero : ∀ e, ∃ e', k (.fin false 0 e, 0) = (.fin false 0 e', 0)) (hfin : ∀ S U r, Fin S U r → Fin' S U (k r)) :
    GroupIs g f ps Fin' (k r) := by
  obtain ⟨h1, h2⟩ := h
  refine ⟨fun h => by rw [h1 h, hnan], fun hn => ⟨fun h => by rw [(h2 hn).1 h, hnan], fun ha => ?_⟩⟩
  obtain ⟨h3, h4, h5⟩ := (h2 hn).2 ha
  refine ⟨fun hp hq => by rw [h3 hp hq, hnan], fun b hp hq => by rw [h4 b hp hq, hinf], fun hf => ⟨fun hd => ?_, fun U hu hle => ?_⟩⟩
  · obtain ⟨e, he⟩ := (h5 hf).1 hd
    rw [he]
    exact hzero e
  · exact hfin _ _ _ ((h5 hf).2 U hu hle)

theorem dotFp8_codes {g : GroupFmt} {f : Fmt} (h : SameFmt g f) (ps : List (Nat × Nat)) :
    dotFp8 (ps.map fun t => (f.decode t.1, f.decode t.2)) = groupSum 12 (ps.map (codeProd g)) := by
  simp only [dotFp8, List.map_map, decode_eq_groupRead h]
  rfl

/-- A group's sum rounded into FP32 (R155). -/
def roundedSum (r : Fp × FlagSet) : Fp × FlagSet := (f32.decode (f32.round .rne r.1).1, r.2 ||| (f32.round .rne r.1).2)

theorem dotBf16_codes (ps : List (Nat × Nat)) :
    dotBf16 (ps.map fun t => (bf16.decode t.1, bf16.decode t.2)) = roundedSum (groupSum 20 (ps.map (codeProd groupBf16))) := by
  simp only [dotBf16, List.map_map, decode_eq_groupRead sameFmt_bf16]
  rfl

theorem roundsEven_zero : RoundsEven false 0 (0, 0) := by
  have hnear : NearestCode 0x7F800000 0 0 := fun j _ hj => by
    have hpos : (0 : ℝ) < magOf j := by exact_mod_cast magOf_pos (Nat.pos_of_ne_zero hj)
    refine Or.inl ?_
    rw [magOf_zero, Rat.cast_zero, sub_zero, abs_zero, zero_sub, abs_neg]
    exact abs_pos.mpr hpos.ne'
  exact ⟨0, by omega, hnear, rfl, fun h => by omega, fun _ _ => rfl, fun _ h => absurd (by rw [magOf_zero, Rat.cast_zero]) h,
    fun _ h => absurd (by rw [magOf_zero, Rat.cast_zero]) h⟩

/-- An exact sum `S * 2^e`, rounded into FP32 (R146, R148). -/
theorem round_sum (S e : ℤ) : RoundsEven (decide (S < 0)) ((S.natAbs : ℝ) * 2 ^ e) (f32.round .rne (.fin (decide (S < 0)) S.natAbs e)) := by
  rw [Fmt.round]
  split
  · next h0 =>
    obtain rfl : S = 0 := Int.natAbs_eq_zero.mp h0
    rw [Int.natAbs_zero, Nat.cast_zero, zero_mul]
    exact roundsEven_zero
  · next h0 => exact (show Stands S.natAbs e _ from Or.inl rfl).roundsEven h0 _

theorem infApart_of_none {g : GroupFmt} (h : g.infAt = none) : InfApart g := fun i hi => by rw [h] at hi; cases hi

theorem infApart_of_some {g : GroupFmt} {i : Nat} (h : g.infAt = some i) (h0 : 0 < i) (hn : i < g.nanAt) : InfApart g := fun j hj => by
  obtain rfl : i = j := Option.some.inj (h.symm.trans hj)
  exact ⟨h0, hn⟩

theorem dotFp8_is {g : GroupFmt} {f : Fmt} (h : SameFmt g f) (hg : InfApart g) (ps : List (Nat × Nat)) :
    GroupIs g 12 ps (fun S U r => ∃ e : ℤ, r = (.fin (decide (S < 0)) S.natAbs e, 0) ∧ (S ≠ 0 → e = U - 12))
      (dotFp8 (ps.map fun t => (f.decode t.1, f.decode t.2))) := by
  rw [dotFp8_codes h]
  exact groupIs_map (groupSum_is hg 12 ps) id (fun _ => rfl) (fun _ => rfl) (fun e => ⟨e, rfl⟩)
    fun S U r hr => ⟨U - 12, hr, fun _ => rfl⟩

theorem dotBf16_is (ps : List (Nat × Nat)) :
    GroupIs groupBf16 20 ps (fun S U r => ∃ c fl, r = (f32.decode c, fl) ∧
        RoundsEven (decide (S < 0)) ((S.natAbs : ℝ) * 2 ^ (U - 20)) (c, fl))
      (dotBf16 (ps.map fun t => (bf16.decode t.1, bf16.decode t.2))) := by
  rw [dotBf16_codes]
  refine groupIs_map (groupSum_is (infApart_of_some rfl (by decide) (by decide)) 20 ps) roundedSum (fun fl => ?_) (fun b => ?_) (fun e => ?_)
    fun S U r hr => ?_
  · rw [roundedSum, show f32.round .rne .nan = (0x7FC00000, 0) from rfl, decode_f32_nan (by decide)]
    exact congrArg (fun fl => (Fp.nan, fl)) BitVec.or_zero
  · cases b
    · rw [roundedSum, show f32.round .rne (.inf false) = (0x7F800000, 0) from rfl, decode_f32_inf (by decide)]
      rfl
    · rw [roundedSum, show f32.round .rne (.inf true) = (0xFF800000, 0) from rfl, decode_f32_inf (by decide)]
      rfl
  · rw [roundedSum, show f32.round .rne (.fin false 0 e) = (0, 0) from rfl, show f32.decode 0 = .fin false 0 (-149) by decide]
    exact ⟨-149, congrArg (fun fl => (Fp.fin false 0 (-149), fl)) BitVec.or_zero⟩
  · rw [hr]
    refine ⟨_, _, rfl, ?_⟩
    have hflags : (0 : FlagSet) ||| (f32.round .rne (.fin (decide (S < 0)) S.natAbs (U - 20))).2 =
        (f32.round .rne (.fin (decide (S < 0)) S.natAbs (U - 20))).2 := BitVec.zero_or
    rw [Nat.cast_ofNat, hflags]
    exact round_sum S (U - 20)

theorem dotGroups_holds : dotGroups := by
  refine ⟨fun p hp ps _ => ?_, fun ps _ => dotBf16_is ps⟩
  simp only [List.mem_cons, List.not_mem_nil, or_false] at hp
  rcases hp with rfl | rfl
  · exact dotFp8_is sameFmt_e4m3 (infApart_of_none rfl) ps
  · exact dotFp8_is sameFmt_e5m2 (infApart_of_some rfl (by decide) (by decide)) ps

end Sys2Proof.Machine
end

section
/-! PROOFS for O14, D8. The fold of ROUND_D8 picks the nearest canonical byte (R143 to R145, R188). -/

namespace Sys2Proof.Machine

/-! ## The value of a byte -/

theorem d8Val_eq (b : Nat) : d8Val b = d8Value b / 2 ^ 6 := by
  have hterm : ∀ s e : Nat, (if e % 8 = 7 then (0 : ℚ) else (if s % 2 = 1 then -1 else 1) / 2 ^ (e % 8)) =
      (if e % 8 = 7 then (0 : ℤ) else signed (s % 2 == 1) (2 ^ (6 - e % 8)) : ℤ) / 2 ^ 6 := fun s e => by
    have he : e % 8 < 8 := Nat.mod_lt _ (by decide)
    rcases Nat.mod_two_eq_zero_or_one s with hs | hs <;> rw [hs] <;> interval_cases e % 8 <;> norm_num [signed]
  simp only [d8Val, d8Value]
  rw [hterm, hterm, Int.cast_add, add_div]

theorem canonicalD8_iff (b : Nat) : CanonicalD8 b ↔ b < 256 ∧ d8Canonical b = true := by
  have hval : d8Val b ≠ 0 ↔ d8Value b ≠ 0 := by rw [d8Val_eq]; simp
  have hbytes : ∀ b < 256, (b / 16 % 8 ≤ b % 8 ∧ (b / 16 % 8 = 7 → b / 128 % 2 = 0) ∧ (b % 8 = 7 → b / 8 % 2 = 0) ∧
      (b / 16 % 8 ≠ 7 → b % 8 ≠ 7 → d8Value b ≠ 0)) ↔ d8Canonical b = true := by decide +kernel
  rw [CanonicalD8, hval]
  exact and_congr_right (hbytes b)

theorem mem_d8Table {p : ℤ × Nat} : p ∈ d8Table ↔ CanonicalD8 p.2 ∧ p.1 = d8Value p.2 := by
  rw [canonicalD8_iff, d8Table]
  simp only [List.mem_map, List.mem_filter, List.mem_range]
  constructor
  · rintro ⟨c, hc, rfl⟩
    exact ⟨hc, rfl⟩
  · exact fun ⟨hc, hv⟩ => ⟨p.2, hc, by rw [← hv]⟩

/-- 0x77 is the canonical byte of zero, and no other is as small. -/
theorem canonicalD8_zero : CanonicalD8 0x77 ∧ d8Val 0x77 = 0 ∧ ∀ d, CanonicalD8 d → d8Val d = 0 → 0x77 ≤ d := by
  have hzero : ∀ d < 256, d8Canonical d = true → d8Value d = 0 → 0x77 ≤ d := by decide +kernel
  refine ⟨(canonicalD8_iff _).mpr (by decide), by rw [d8Val_eq]; norm_num [show d8Value 0x77 = 0 by decide], fun d hd hv => ?_⟩
  obtain ⟨hlt, hcan⟩ := (canonicalD8_iff d).mp hd
  exact hzero d hlt hcan (by rw [d8Val_eq] at hv; simpa using hv)

/-! ## The best of a list -/

/-- A fold that takes each element that is better than the best so far ends at an element with the least key. -/
theorem foldl_best {α κ : Type} [LinearOrder κ] (key : α → κ) {better : α → α → Bool}
    (hb : ∀ p q, better p q = true ↔ key p < key q) (l : List α) (b : α) : let r := l.foldl (fun b p => if better p b then p else b) b
    r ∈ b :: l ∧ ∀ p ∈ b :: l, key r ≤ key p := by
  induction l generalizing b with
  | nil => simp
  | cons p l ih =>
    obtain ⟨hmem, hle⟩ := ih (if better p b then p else b)
    rw [List.foldl_cons]
    by_cases h : better p b = true
    · rw [if_pos h] at hmem hle ⊢
      refine ⟨List.mem_cons_of_mem _ hmem, fun q hq => ?_⟩
      rcases List.mem_cons.mp hq with rfl | hq
      · exact (hle p List.mem_cons_self).trans ((hb p q).mp h).le
      · exact hle q hq
    · rw [if_neg h] at hmem hle ⊢
      refine ⟨?_, fun q hq => ?_⟩
      · rcases List.mem_cons.mp hmem with h' | h'
        · exact List.mem_cons.mpr (Or.inl h')
        · exact List.mem_cons_of_mem _ (List.mem_cons_of_mem _ h')
      · rcases List.mem_cons.mp hq with rfl | hq
        · exact hle q List.mem_cons_self
        · rcases List.mem_cons.mp hq with rfl | hq
          · exact (hle b List.mem_cons_self).trans (not_lt.mp fun h' => h ((hb q b).mpr h'))
          · exact hle q (List.mem_cons_of_mem _ hq)

/-! ## ROUND_D8 -/

/-- How good a byte is for `y` in units of 2^-(6+s) (R145, R188): its distance, then its magnitude, then its code. -/
def d8Key (s : Nat) (y : ℤ) (p : ℤ × Nat) : ℕ ×ₗ ℕ ×ₗ ℕ := toLex ((p.1 * 2 ^ s - y).natAbs, toLex (p.1.natAbs, p.2))

theorem d8Key_lt_iff (s : Nat) (y : ℤ) (p q : ℤ × Nat) : d8Key s y p < d8Key s y q ↔
    (p.1 * 2 ^ s - y).natAbs < (q.1 * 2 ^ s - y).natAbs ∨ (p.1 * 2 ^ s - y).natAbs = (q.1 * 2 ^ s - y).natAbs ∧
      (p.1.natAbs < q.1.natAbs ∨ p.1.natAbs = q.1.natAbs ∧ p.2 < q.2) := by
  simp only [d8Key, Prod.Lex.toLex_lt_toLex]

/-- The scale of ROUND_D8's comparison: enough fraction bits for `2^e` beside the bytes' 2^-6. -/
def d8Shift (e : ℤ) : Nat := if e < -6 then (-6 - e).toNat else 0

/-- ROUND_D8's argument in units of 2^-(6+s). -/
def d8Scaled (neg : Bool) (m : Nat) (e : ℤ) : ℤ := signed neg (m * 2 ^ (e + 6 + d8Shift e).toNat)

theorem d8Scaled_eq (neg : Bool) (m : Nat) (e : ℤ) :
    (if neg then -(m * 2 ^ e : ℚ) else m * 2 ^ e) = d8Scaled neg m e / (2 ^ 6 * 2 ^ d8Shift e) := by
  have hscaled : (m * 2 ^ e : ℚ) = (m * 2 ^ (e + 6 + d8Shift e).toNat : ℕ) / (2 ^ 6 * 2 ^ d8Shift e) := by
    rw [Nat.cast_mul, Nat.cast_pow, Nat.cast_two, ← zpow_natCast, ← pow_add, ← zpow_natCast, mul_div_assoc, ← zpow_sub₀ two_ne_zero]
    congr 2
    rw [d8Shift]
    split <;> omega
  rw [hscaled, d8Scaled]
  cases neg
  · simp [signed]
  · simp [signed, neg_div]

/-- The order of ROUND_D8's comparison (R145, R188). -/
def d8Better (s : Nat) (y : ℤ) (p q : ℤ × Nat) : Bool :=
  let dp := (p.1 * 2 ^ s - y).natAbs; let dq := (q.1 * 2 ^ s - y).natAbs
  if dp < dq then true else if dq < dp then false
  else if p.1.natAbs < q.1.natAbs then true else if q.1.natAbs < p.1.natAbs then false else decide (p.2 < q.2)

theorem d8Better_iff (s : Nat) (y : ℤ) (p q : ℤ × Nat) : d8Better s y p q = true ↔ d8Key s y p < d8Key s y q := by
  rw [d8Key_lt_iff, d8Better]
  split_ifs <;> simp <;> omega

/-- The byte that ROUND_D8 picks within the range: one with the least key. -/
theorem exists_best (s : Nat) (y : ℤ) :
    ∃ b, d8Table.foldl (fun b p => if d8Better s y p b then p else b) (0, 0x77) = (d8Value b, b) ∧ CanonicalD8 b ∧
      ∀ d, CanonicalD8 d → d8Key s y (d8Value b, b) ≤ d8Key s y (d8Value d, d) := by
  have hzero : ((0, 0x77) : ℤ × Nat) ∈ d8Table := mem_d8Table.mpr ⟨canonicalD8_zero.1, by decide⟩
  obtain ⟨hmem, hle⟩ := foldl_best (d8Key s y) (d8Better_iff s y) d8Table (0, 0x77)
  generalize d8Table.foldl (fun b p => if d8Better s y p b then p else b) (0, 0x77) = r at *
  obtain ⟨hcan, hval⟩ := mem_d8Table.mp (List.mem_cons.mp hmem |>.elim (· ▸ hzero) id)
  have hr : r = (d8Value r.2, r.2) := by rw [← hval]
  exact ⟨r.2, hr, hcan, fun d hd => hr ▸ hle _ (List.mem_cons_of_mem _ (mem_d8Table.mpr ⟨hd, rfl⟩))⟩

/-- A distance in units of 2^-(6+s). -/
theorem d8Distance (y : ℤ) (s b : Nat) :
    |(y / (2 ^ 6 * 2 ^ s) : ℚ) - d8Val b| = ((d8Value b * 2 ^ s - y).natAbs : ℚ) / (2 ^ 6 * 2 ^ s) := by
  have hdiff : (y / (2 ^ 6 * 2 ^ s) : ℚ) - d8Val b = -((d8Value b * 2 ^ s - y : ℤ) / (2 ^ 6 * 2 ^ s)) := by
    rw [d8Val_eq]
    push_cast
    field_simp
    ring
  rw [hdiff, abs_neg, abs_div, abs_of_pos (show (0 : ℚ) < 2 ^ 6 * 2 ^ s by positivity), Nat.cast_natAbs, Int.cast_abs]

theorem d8Size (b : Nat) : |d8Val b| = ((d8Value b).natAbs : ℚ) / 2 ^ 6 := by
  rw [d8Val_eq, abs_div, abs_of_pos (show (0 : ℚ) < 2 ^ 6 by positivity), Nat.cast_natAbs, Int.cast_abs]

theorem d8Key_le {y : ℤ} {s b d : Nat} (h : d8Key s y (d8Value b, b) ≤ d8Key s y (d8Value d, d)) :
    let x : ℚ := y / (2 ^ 6 * 2 ^ s)
    |x - d8Val b| < |x - d8Val d| ∨ (|x - d8Val b| = |x - d8Val d| ∧ (|d8Val b| < |d8Val d| ∨ (|d8Val b| = |d8Val d| ∧ b ≤ d))) := by
  intro x
  have hpos : (0 : ℚ) < 2 ^ 6 * 2 ^ s := by positivity
  have hpos' : (0 : ℚ) < 2 ^ 6 := by positivity
  simp only [d8Key, Prod.Lex.toLex_le_toLex] at h
  simp only [x, d8Distance, d8Size, div_lt_div_iff_of_pos_right hpos, div_lt_div_iff_of_pos_right hpos', div_left_inj' hpos.ne',
    div_left_inj' hpos'.ne', Nat.cast_lt, Nat.cast_inj]
  exact h

theorem roundD8_eq (neg : Bool) (m : Nat) (e : ℤ) : roundD8 neg m e =
    let s := d8Shift e
    let y := d8Scaled neg m e
    if 128 * 2 ^ s < y then (0x00, fSAT ||| fNX) else if y < -(128 * 2 ^ s) then (0x88, fSAT ||| fNX)
    else
      let best := d8Table.foldl (fun b p => if d8Better s y p b then p else b) (0, 0x77)
      (best.2, flagIf (best.1 * 2 ^ s != y) fNX) := rfl

/-- R145, R188: ROUND_D8. -/
theorem roundD8_is (neg : Bool) (m : Nat) (e : ℤ) :
    IsRoundD8 (if neg then -(m * 2 ^ e : ℚ) else m * 2 ^ e) (roundD8 neg m e).1 (roundD8 neg m e).2 := by
  rw [d8Scaled_eq, roundD8_eq]
  generalize d8Scaled neg m e = y
  generalize d8Shift e = s
  have hpos : (0 : ℚ) < 2 ^ 6 * 2 ^ s := by positivity
  have habove : (2 : ℚ) < y / (2 ^ 6 * 2 ^ s) ↔ 128 * 2 ^ s < y := by
    rw [lt_div_iff₀ hpos, ← mul_assoc]
    norm_num
    norm_cast
  have hbelow : (y / (2 ^ 6 * 2 ^ s) : ℚ) < -2 ↔ y < -(128 * 2 ^ s) := by
    rw [div_lt_iff₀ hpos, neg_mul, ← mul_assoc]
    norm_num
    norm_cast
  have hout : (2 : ℚ) < |(y / (2 ^ 6 * 2 ^ s) : ℚ)| ↔ 128 * 2 ^ s < y ∨ y < -(128 * 2 ^ s) := by
    rw [lt_abs, habove, ← hbelow, lt_neg]
  rw [IsRoundD8]
  dsimp only
  by_cases hhi : 128 * 2 ^ s < y
  · have hx : (0 : ℚ) < y / (2 ^ 6 * 2 ^ s) := lt_trans (by norm_num) (habove.mpr hhi)
    rw [if_pos (hout.mpr (Or.inl hhi)), if_pos hhi, if_pos hx]
    exact ⟨rfl, rfl⟩
  by_cases hlo : y < -(128 * 2 ^ s)
  · have hx : ¬(0 : ℚ) < y / (2 ^ 6 * 2 ^ s) := not_lt.mpr ((hbelow.mpr hlo).le.trans (by norm_num))
    rw [if_pos (hout.mpr (Or.inr hlo)), if_neg hhi, if_pos hlo, if_neg hx]
    exact ⟨rfl, rfl⟩
  obtain ⟨b, hbest, hcan, hmin⟩ := exists_best s y
  have hexact : d8Val b = y / (2 ^ 6 * 2 ^ s) ↔ d8Value b * 2 ^ s = y := by
    rw [d8Val_eq, ← mul_div_mul_right _ _ (pow_ne_zero s (two_ne_zero (α := ℚ))), div_left_inj' hpos.ne']
    exact ⟨fun h => by exact_mod_cast h, fun h => by rw [← h]; push_cast; rfl⟩
  rw [if_neg (mt hout.mp (not_or.mpr ⟨hhi, hlo⟩)), if_neg hhi, if_neg hlo, hbest]
  refine ⟨hcan, ?_, fun d hd => d8Key_le (hmin d hd)⟩
  by_cases h : d8Value b * 2 ^ s = y
  · simp [flagIf, hexact.mpr h, h]
  · simp [flagIf, mt hexact.mp h, h]

end Sys2Proof.Machine
end

section
/-! PROOFS for O14, VQNT. The lanes and the scale byte of each block of 32 lanes (R145, R188). -/

namespace Sys2Proof.Machine

/-- ROUND_D8 of zero is the canonical zero, exactly (R145). -/
theorem isRoundD8_zero : IsRoundD8 0 0x77 0 := by
  obtain ⟨hcan, hval, hmin⟩ := canonicalD8_zero
  rw [IsRoundD8, if_neg (by norm_num), hval, if_pos rfl, sub_zero, abs_zero]
  refine ⟨hcan, rfl, fun d hd => ?_⟩
  by_cases h : d8Val d = 0
  · exact Or.inr ⟨by rw [h, sub_zero, abs_zero], Or.inr ⟨by rw [h, abs_zero], hmin d hd h⟩⟩
  · exact Or.inl (abs_pos.mpr (sub_ne_zero.mpr (Ne.symm h)))

theorem isRoundD8_lt {y : ℚ} {b : Nat} {fl : FlagSet} (h : IsRoundD8 y b fl) : b < 2 ^ 8 := by
  rw [IsRoundD8] at h
  split at h
  · rw [h.1]
    split <;> decide
  · exact h.1.1

/-! ## The scale of a block (R188) -/

theorem blockExp_le_iff {m : Nat} (hm : m ≠ 0) (x d : ℤ) : (m * 2 ^ x : ℚ) ≤ 2 ^ (d + 1) ↔ blockExp m x ≤ d := by
  have hlo : (2 ^ Nat.log2 m : ℚ) ≤ m := by exact_mod_cast Nat.log2_self_le hm
  have hhi : (m : ℚ) < 2 ^ (Nat.log2 m + 1) := by exact_mod_cast Nat.lt_log2_self
  have hpos : (0 : ℚ) < 2 ^ x := by positivity
  have hpow : ∀ n : ℕ, (2 ^ n : ℚ) * 2 ^ x = 2 ^ (n + x : ℤ) := fun n => by rw [zpow_add₀ two_ne_zero, zpow_natCast]
  rw [blockExp]
  split
  · next h =>
    have hm : (m : ℚ) = 2 ^ Nat.log2 m := by exact_mod_cast h
    rw [hm, hpow, zpow_le_zpow_iff_right₀ one_lt_two]
    omega
  · next h =>
    have hlt : (2 ^ Nat.log2 m : ℚ) < m := lt_of_le_of_ne hlo fun h' => h (by exact_mod_cast h'.symm)
    have hlo' : (2 : ℚ) ^ (Nat.log2 m + x : ℤ) < m * 2 ^ x := hpow _ ▸ mul_lt_mul_of_pos_right hlt hpos
    have hhi' : (m * 2 ^ x : ℚ) < 2 ^ ((Nat.log2 m + 1 : ℕ) + x : ℤ) := hpow _ ▸ mul_lt_mul_of_pos_right hhi hpos
    constructor
    · intro hle
      have := (zpow_lt_zpow_iff_right₀ one_lt_two).mp (hlo'.trans_le hle)
      omega
    · intro hle
      exact hhi'.le.trans (zpow_le_zpow_right₀ one_le_two (by omega))

/-- The largest of the exponents seen so far (R188). -/
def maxSeen (t : Option ℤ) (p : Nat × ℤ) : Option ℤ :=
  let e := blockExp p.1 p.2; match t with | none => some e | some u => some (max u e)

theorem foldl_maxSeen (ps : List (Nat × ℤ)) (u : ℤ) :
    ∃ v, ps.foldl maxSeen (some u) = some v ∧ ∀ d, v ≤ d ↔ u ≤ d ∧ ∀ p ∈ ps, blockExp p.1 p.2 ≤ d := by
  induction ps generalizing u with
  | nil => exact ⟨u, rfl, by simp⟩
  | cons p ps ih =>
    obtain ⟨v, hv, hle⟩ := ih (max u (blockExp p.1 p.2))
    exact ⟨v, hv, fun d => by rw [hle, max_le_iff, List.forall_mem_cons, and_assoc]⟩

/-- The scale byte of a block whose live magnitudes are `mags` (R188). -/
def scaleByte (mags : List (Nat × ℤ)) : Nat :=
  match mags with
  | [] => 127
  | _ => (min (max (127 + (mags.foldl maxSeen none).getD 0) 0) 254).toNat

theorem scaleByte_le (mags : List (Nat × ℤ)) : scaleByte mags ≤ 254 := by
  unfold scaleByte
  split
  · decide
  · omega

/-- The scale is the least exponent that bounds the magnitudes, clamped (R188). -/
theorem scaleByte_least {mags : List (Nat × ℤ)} {S : Set ℤ} (hS : ∀ d, d ∈ S ↔ ∀ p ∈ mags, blockExp p.1 p.2 ≤ d) {e : ℤ}
    (he : IsLeast S e) : (scaleByte mags : ℤ) = min (max (127 + e) 0) 254 := by
  cases mags with
  | nil =>
    have : e ≤ e - 1 := he.2 ((hS _).mpr (by simp))
    omega
  | cons p ps =>
    obtain ⟨v, hv, hle⟩ := foldl_maxSeen ps (blockExp p.1 p.2)
    have hS' : ∀ d, d ∈ S ↔ v ≤ d := fun d => by rw [hS, hle, List.forall_mem_cons]
    obtain rfl : e = v := le_antisymm (he.2 ((hS' v).mpr le_rfl)) ((hS' e).mp he.1)
    have hfold : (p :: ps).foldl maxSeen none = some e := hv
    rw [scaleByte, hfold, Option.getD_some]
    · omega
    · simp

/-! ## Lanes and bytes -/

theorem eq_flagIf_iff {b : Bool} {f fl : FlagSet} (hf : f ≠ 0) : fl = flagIf b f ∧ fl ≠ 0 ↔ b = true ∧ fl = f := by
  cases b
  · exact ⟨fun h => absurd h.1 h.2, fun h => absurd h.1 Bool.false_ne_true⟩
  · exact ⟨fun h => ⟨rfl, h.1⟩, fun h => ⟨h.2, h.2 ▸ hf⟩⟩

/-- Not a finite value (R188). -/
def badFp (v : Fp) : Bool := match v with | .fin _ _ _ => false | _ => true

/-- The value of lane `i`. -/
def laneFp (a i : Nat) : Fp := f32.decode (lane 32 a i)

def blockBad (inh : BitVec 512) (a q : Nat) : Bool :=
  (List.range 32).any fun r => !inh.getLsbD (32 * q + r) && badFp (laneFp a (32 * q + r))

/-- What lane `i` adds to the magnitudes of its block. -/
def liveMag (inh : BitVec 512) (a i : Nat) : Option (Nat × ℤ) :=
  match laneFp a i with
  | .fin _ m e => if inh.getLsbD i || m == 0 then none else some (m, e)
  | _ => none

/-- The magnitudes of a block that count for its scale. -/
def blockMags (inh : BitVec 512) (a q : Nat) : List (Nat × ℤ) := (List.range 32).filterMap fun r => liveMag inh a (32 * q + r)

def blockScale (inh : BitVec 512) (a q : Nat) : Nat := if blockBad inh a q then 255 else scaleByte (blockMags inh a q)

/-- What VQNT makes of lane `i`. -/
def byteOf (inh : BitVec 512) (a i : Nat) : LaneOut :=
  if blockBad inh a (i / 32) then { val := 0x77, flags := flagIf (!inh.getLsbD i && badFp (laneFp a i)) fIV }
  else if inh.getLsbD i then { val := 0x77 }
  else match laneFp a i with
    | .fin neg m e =>
      if m = 0 then { val := 0x77 } else let r := roundD8 neg m (e + 127 - scaleByte (blockMags inh a (i / 32))); { val := r.1, flags := r.2 }
    | _ => { val := 0x77 }

theorem quantBlock_eq (inh : BitVec 512) (a q : Nat) :
    quantBlock inh a q = ((List.range 32).map fun r => byteOf inh a (32 * q + r), blockScale inh a q) := by
  have hblock : ∀ r ∈ List.range 32, (32 * q + r) / 32 = q := fun r hr => by
    have := List.mem_range.mp hr
    omega
  rw [quantBlock, blockScale]
  simp only [List.any_map, List.map_map, List.filterMap_map]
  change (if blockBad inh a q = true then _ else _) = _
  split
  · next hbad =>
    refine congrArg (·, 255) (List.map_congr_left fun r hr => ?_)
    rw [byteOf, hblock r hr, if_pos hbad]
    rfl
  · next hgood =>
    refine congrArg (·, scaleByte (blockMags inh a q)) (List.map_congr_left fun r hr => ?_)
    rw [byteOf, hblock r hr, if_neg hgood]
    rfl

theorem flatMap_blocks {α : Type} (g : Nat → α) (w n : Nat) :
    ((List.range n).flatMap fun q => (List.range w).map fun r => g (w * q + r)) = (List.range (w * n)).map g := by
  induction n with
  | zero => simp
  | succ n ih =>
    rw [List.range_succ, List.flatMap_append, ih, Nat.mul_succ, List.range_add, List.map_append]
    simp

theorem quantise_eq (inh : BitVec 512) (a : Nat) : quantise inh a =
    { val := BitVec.ofNat 4096 (pack 8 ((List.range 128).map (fun i => (byteOf inh a i).val) ++ (List.range 4).map (blockScale inh a)))
      en := BitVec.allOnes 4096
      lanes := ((List.range 128).map (byteOf inh a)).zipIdx.filterMap fun (p : LaneOut × Nat) =>
        if p.1.flags = 0 then none else some (p.2, p.1.flags) } := by
  have hbytes : ((List.range 4).map (quantBlock inh a)).flatMap (·.1) = (List.range 128).map (byteOf inh a) := by
    rw [List.flatMap_map]
    simp only [quantBlock_eq]
    exact flatMap_blocks (byteOf inh a) 32 4
  have hscales : ((List.range 4).map (quantBlock inh a)).map (·.2) = (List.range 4).map (blockScale inh a) := by
    rw [List.map_map]
    exact List.map_congr_left fun q _ => congrArg Prod.snd (quantBlock_eq inh a q)
  rw [quantise]
  simp only [hbytes, hscales, List.map_map]
  rfl

theorem blockScale_lt (inh : BitVec 512) (a q : Nat) : blockScale inh a q < 2 ^ 8 := by
  have := scaleByte_le (blockMags inh a q)
  rw [blockScale]
  split <;> omega

section
variable (inh : BitVec 512) (a : Nat)

theorem quantise_en : (quantise inh a).en = BitVec.allOnes 4096 := by rw [quantise]

/-- The bytes of VQNT's value in their order. -/
theorem lane_quantise (i : Nat) : lane 8 (quantise inh a).val.toNat i =
    ((List.range 128).map (fun i => (byteOf inh a i).val) ++ (List.range 4).map (blockScale inh a)).getD i 0 % 2 ^ 8 := by
  rw [quantise_eq]
  exact lane_ofNat_pack 8 _ (by simp) i

theorem lane_quantise_byte {i : Nat} (hi : i < 128) : lane 8 (quantise inh a).val.toNat i = (byteOf inh a i).val % 2 ^ 8 := by
  rw [lane_quantise, List.getD_append _ _ _ _ (by simpa using hi)]
  simp [List.getD, hi]

theorem lane_quantise_scale {q : Nat} (hq : q < 4) : lane 8 (quantise inh a).val.toNat (128 + q) = blockScale inh a q := by
  rw [lane_quantise, List.getD_append_right _ _ _ _ (by simp)]
  simpa [List.getD, hq] using blockScale_lt inh a q

theorem lane_quantise_rest {i : Nat} (hi : 132 ≤ i) : lane 8 (quantise inh a).val.toNat i = 0 := by
  rw [lane_quantise, List.getD_eq_default _ _ (by simpa using hi)]
  rfl

theorem mem_quantise_lanes (i : Nat) (fl : FlagSet) :
    (i, fl) ∈ (quantise inh a).lanes ↔ i < 128 ∧ fl = (byteOf inh a i).flags ∧ fl ≠ 0 := by
  rw [quantise_eq]
  simp only [List.mem_filterMap]
  constructor
  · rintro ⟨⟨o, j⟩, hmem, hsome⟩
    obtain ⟨hj, ho⟩ := List.getElem?_eq_some_iff.mp (List.mem_zipIdx_iff_getElem?.mp hmem)
    rw [List.getElem_map, List.getElem_range] at ho
    dsimp only at hsome ho
    split at hsome
    · cases hsome
    · next h0 =>
      cases hsome
      exact ⟨by simpa using hj, by rw [ho], h0⟩
  · rintro ⟨hi, hfl, h0⟩
    refine ⟨(byteOf inh a i, i), ?_, ?_⟩
    · simp [List.mem_zipIdx_iff_getElem?, hi]
    · rw [if_neg (hfl ▸ h0), hfl]

end

/-! ## The blocks (R188) -/

/-- The magnitude bits of lane `i`. -/
def laneMag (a i : Nat) : Nat := lane 32 a i % 2 ^ 31

/-- Lane `i` is in block `q`. -/
def InBlock (q i : Nat) : Prop := 32 * q ≤ i ∧ i < 32 * q + 32

theorem inBlock_iff {q i : Nat} : InBlock q i ↔ ∃ r < 32, i = 32 * q + r :=
  ⟨fun ⟨hlo, hhi⟩ => ⟨i - 32 * q, by omega, by omega⟩, fun ⟨r, hr, hi⟩ => ⟨by omega, by omega⟩⟩

theorem InBlock.div {q i : Nat} (h : InBlock q i) : i / 32 = q := by
  obtain ⟨hlo, hhi⟩ := h
  omega

theorem badFp_iff (a i : Nat) : badFp (laneFp a i) = true ↔ 0x7F800000 ≤ laneMag a i := by
  rcases lt_trichotomy (laneMag a i) 0x7F800000 with h | h | h
  · obtain ⟨m, e, hdec, -⟩ := decode_f32_finite h
    rw [laneFp, hdec]
    exact iff_of_false Bool.false_ne_true (not_le.mpr h)
  · rw [laneFp, decode_f32_inf h]
    exact iff_of_true rfl h.ge
  · rw [laneFp, decode_f32_nan h]
    exact iff_of_true rfl h.le

section
variable {inh : BitVec 512} {a q : Nat}

theorem blockBad_iff : blockBad inh a q = true ↔ ∃ i, InBlock q i ∧ inh.getLsbD i = false ∧ 0x7F800000 ≤ laneMag a i := by
  simp only [blockBad, List.any_eq_true, List.mem_range, Bool.and_eq_true, Bool.not_eq_true', badFp_iff, inBlock_iff]
  constructor
  · rintro ⟨r, hr, h⟩
    exact ⟨_, ⟨r, hr, rfl⟩, h⟩
  · rintro ⟨_, ⟨r, hr, rfl⟩, h⟩
    exact ⟨r, hr, h⟩

theorem byteOf_bad (hbad : blockBad inh a q = true) {i : Nat} (hi : InBlock q i) :
    byteOf inh a i = { val := 0x77, flags := flagIf (!inh.getLsbD i && badFp (laneFp a i)) fIV } := by
  rw [byteOf, hi.div, if_pos hbad]

theorem byteOf_inhibited (hgood : ¬blockBad inh a q = true) {i : Nat} (hi : InBlock q i) (h : inh.getLsbD i = true) :
    byteOf inh a i = { val := 0x77 } := by
  rw [byteOf, hi.div, if_neg hgood, if_pos h]

variable (hgood : ∀ i, InBlock q i → inh.getLsbD i = false → laneMag a i < 0x7F800000)
include hgood

theorem not_blockBad : ¬blockBad inh a q = true := fun h => by
  obtain ⟨i, hi, hact, hbad⟩ := blockBad_iff.mp h
  exact absurd (hgood i hi hact) (not_lt.mpr hbad)

omit hgood in
theorem mem_blockMags {p : Nat × ℤ} : p ∈ blockMags inh a q ↔ ∃ i, InBlock q i ∧ liveMag inh a i = some p := by
  simp only [blockMags, List.mem_filterMap, List.mem_range, inBlock_iff]
  constructor
  · rintro ⟨r, hr, h⟩
    exact ⟨_, ⟨r, hr, rfl⟩, h⟩
  · rintro ⟨_, ⟨r, hr, rfl⟩, h⟩
    exact ⟨r, hr, h⟩

/-- A lane that is not inhibited, in a block of finite values. -/
theorem laneFp_active {i : Nat} (hi : InBlock q i) (hact : inh.getLsbD i = false) : ∃ m e,
    laneFp a i = .fin ((lane 32 a i).testBit 31) m e ∧ magOf (laneMag a i) = m * 2 ^ e ∧
    liveMag inh a i = if m = 0 then none else some (m, e) := by
  obtain ⟨m, e, hdec, hmag, -⟩ := decode_f32_finite (hgood i hi hact)
  refine ⟨m, e, hdec, hmag, ?_⟩
  rw [liveMag, show laneFp a i = _ from hdec, hact]
  by_cases hm : m = 0 <;> simp [hm]

omit hgood in
theorem liveMag_inhibited {i : Nat} (h : inh.getLsbD i = true) : liveMag inh a i = none := by
  rw [liveMag, h]
  cases laneFp a i <;> rfl

/-- The magnitudes of a block say of a bound what its lanes say. -/
theorem blockMags_le_iff (d : ℤ) :
    (∀ p ∈ blockMags inh a q, blockExp p.1 p.2 ≤ d) ↔
      ∀ i, InBlock q i → inh.getLsbD i = false → magOf (laneMag a i) ≤ 2 ^ (d + 1) := by
  constructor
  · intro h i hi hact
    obtain ⟨m, e, -, hmag, hlive⟩ := laneFp_active hgood hi hact
    rw [hmag]
    by_cases hm : m = 0
    · rw [hm, Nat.cast_zero, zero_mul]
      positivity
    · rw [if_neg hm] at hlive
      exact (blockExp_le_iff hm e d).mpr (h _ (mem_blockMags.mpr ⟨i, hi, hlive⟩))
  · intro h p hp
    obtain ⟨i, hi, hlive⟩ := mem_blockMags.mp hp
    cases hinh : inh.getLsbD i with
    | true => rw [liveMag_inhibited hinh] at hlive; cases hlive
    | false =>
      obtain ⟨m, e, -, hmag, hsome⟩ := laneFp_active hgood hi hinh
      rw [hsome] at hlive
      split at hlive
      · cases hlive
      · next hm =>
        cases hlive
        exact (blockExp_le_iff hm e d).mp (hmag ▸ h i hi hinh)

theorem blockMags_zero (h : ∀ i, InBlock q i → inh.getLsbD i = false → laneMag a i = 0) : blockMags inh a q = [] := by
  refine List.eq_nil_iff_forall_not_mem.mpr fun p hp => ?_
  obtain ⟨i, hi, hlive⟩ := mem_blockMags.mp hp
  cases hinh : inh.getLsbD i with
  | true => rw [liveMag_inhibited hinh] at hlive; cases hlive
  | false =>
    obtain ⟨m, e, -, hmag, hsome⟩ := laneFp_active hgood hi hinh
    rw [h i hi hinh, magOf_zero, eq_comm, mul_eq_zero, Nat.cast_eq_zero] at hmag
    rw [hsome, if_pos (hmag.resolve_right (zpow_ne_zero e two_ne_zero))] at hlive
    cases hlive

/-- R145, R188: the byte of a lane that is not inhibited, at the scale of its block. -/
theorem byteOf_round {i : Nat} (hi : InBlock q i) (hact : inh.getLsbD i = false) :
    IsRoundD8 ((if (lane 32 a i).testBit 31 then -magOf (laneMag a i) else magOf (laneMag a i)) *
      2 ^ (127 - scaleByte (blockMags inh a q) : ℤ))
      (byteOf inh a i).val (byteOf inh a i).flags := by
  obtain ⟨m, e, hdec, hmag, -⟩ := laneFp_active hgood hi hact
  rw [byteOf, hi.div, if_neg (not_blockBad hgood), hact, if_neg Bool.false_ne_true, hdec, hmag]
  generalize scaleByte (blockMags inh a q) = X
  by_cases hm : m = 0
  · simp only [if_pos hm]
    rw [hm, Nat.cast_zero, zero_mul, neg_zero, ite_self, zero_mul]
    exact isRoundD8_zero
  · have hscaled : (if (lane 32 a i).testBit 31 then -(m * 2 ^ e : ℚ) else m * 2 ^ e) * 2 ^ (127 - X : ℤ) =
        if (lane 32 a i).testBit 31 then -(m * 2 ^ (e + 127 - X) : ℚ) else m * 2 ^ (e + 127 - X) := by
      rw [ite_mul, neg_mul, mul_assoc, ← zpow_add₀ two_ne_zero, add_sub_assoc]
    rw [hscaled]
    simp only [if_neg hm]
    exact roundD8_is _ m _

end

theorem vqntBlocks_holds : vqntBlocks := by
  intro inh a v k x act
  refine ⟨quantise_en inh a, fun i hi => lane_quantise_rest inh a hi, fun i fl h => ?_, fun q hq => ?_⟩
  · obtain ⟨hi, -, h0⟩ := (mem_quantise_lanes inh a i fl).mp h
    exact ⟨hi, h0⟩
  intro X block
  have hX : X = blockScale inh a q := lane_quantise_scale inh a hq
  have hlt : ∀ {i}, block i → i < 128 := fun h => h.2.trans_le (by omega)
  have hbyte : ∀ {i}, block i → lane 8 v.val.toNat i = (byteOf inh a i).val % 2 ^ 8 := fun h => lane_quantise_byte inh a (hlt h)
  have hflags : ∀ {i}, block i → ∀ fl, (i, fl) ∈ v.lanes ↔ fl = (byteOf inh a i).flags ∧ fl ≠ 0 := fun h fl =>
    (mem_quantise_lanes inh a _ fl).trans (and_iff_right (hlt h))
  refine ⟨fun ⟨j, hj, hact, hbig⟩ => ?bad, fun hgood => ?good⟩
  case bad =>
    have hbad : blockBad inh a q = true := blockBad_iff.mpr ⟨j, hj, hact, hbig⟩
    refine ⟨hX.trans (if_pos hbad), fun i hi => ⟨by rw [hbyte hi, byteOf_bad hbad hi]; rfl, fun fl => ?_⟩⟩
    rw [hflags hi, byteOf_bad hbad hi, eq_flagIf_iff (by decide), Bool.and_eq_true, Bool.not_eq_true', badFp_iff, and_assoc]
    exact Iff.rfl
  case good =>
    have hscale : X = scaleByte (blockMags inh a q) := hX.trans (if_neg (not_blockBad hgood))
    refine ⟨fun hzero => by rw [hscale, blockMags_zero hgood hzero]; rfl,
      fun e he => by rw [hscale]; exact scaleByte_least (fun d => (blockMags_le_iff hgood d).symm) he,
      fun i hi => ⟨fun hinh => ?_, fun hact => ?_⟩⟩
    · have hbyteOf := byteOf_inhibited (not_blockBad hgood) hi (by simpa [act] using hinh)
      refine ⟨by rw [hbyte hi, hbyteOf]; rfl, fun fl h => ?_⟩
      rw [hflags hi, hbyteOf] at h
      exact h.2 h.1
    · have hround := byteOf_round hgood hi hact
      refine ⟨(byteOf inh a i).flags, ?_, fun f => ?_⟩
      · rw [hbyte hi, Nat.mod_eq_of_lt (isRoundD8_lt hround), hscale]
        exact hround
      · rw [hflags hi]
        exact and_congr_right fun h => by rw [h]

/-- Settles O14: a group's cases in their order, each function as one rounding of a value that its integers stand for, and each byte of
VQNT as the nearest at the scale of its block. -/
theorem vectorFunctionValues : Obligations.VectorFunctionValues := ⟨dotGroups_holds, specialFunctions_holds, vqntBlocks_holds⟩

end Sys2Proof.Machine
end

section
/-! PROOFS for O9. What the operations of `al0` and `al1` deliver, row by row (R162, R164 to R166). -/

namespace Sys2Proof.Machine

/-- What a row says, as an outcome of the model. -/
def outOf (y : AluSays) : AluOut := ⟨y.r, y.c, y.v, y.flags⟩

/-- A row that delivers a result and leaves V, C and the flags 0. -/
theorem outOf_result {r q : D64} (h : r = q) : ({ r := r } : AluOut) = outOf { r := q } := congrArg (AluOut.mk · false false 0) h

/-! ## The values of R165 -/

theorem bmod_ne_eq_tooBig (v : Int) : decide (v.bmod (2 ^ 64) ≠ v) = tooBig v := by
  rw [← BitVec.toInt_ofInt]
  exact decide_eq_decide.mpr (toInt_ofInt_ne v)

section
variable (a b : D64)

theorem aluAdd_eq : aluAdd a b =
    outOf { r := a + b, c := decide (2 ^ 64 ≤ a.toNat + b.toNat), v := tooBig (a.toInt + b.toInt) } := by
  rw [aluAdd, BitVec.toInt_add, bmod_ne_eq_tooBig]
  rfl

theorem aluSub_eq : aluSub a b =
    outOf { r := a - b, c := decide (a.toNat < b.toNat), v := tooBig (a.toInt - b.toInt) } := by
  rw [aluSub, BitVec.toInt_sub, bmod_ne_eq_tooBig]
  rfl

theorem clamp64_eq (v : Int) : clamp64 v = outOf (clampSays v) := by
  have hhi : v > 2 ^ 63 - 1 ↔ 2 ^ 63 ≤ v := by omega
  simp only [clamp64, clampSays, hhi, apply_ite outOf]
  rfl

theorem bne_zero_eq_decide (n : Nat) : (n != 0) = decide (n ≠ 0) := by
  rw [decide_not]; rfl

theorem aluShl_eq : aluShl a b =
    outOf { r := BitVec.ofNat 64 (a.toNat * 2 ^ (b.toNat % 64))
            c := decide (b.toNat % 64 ≠ 0) && a.getLsbD (64 - b.toNat % 64) } := by
  have hr : a <<< (b.toNat % 64) = BitVec.ofNat 64 (a.toNat * 2 ^ (b.toNat % 64)) := by
    rw [← Nat.shiftLeft_eq]; rfl
  simp only [aluShl, shamt_eq, hr, bne_zero_eq_decide, outOf]

theorem aluShr_eq : aluShr a b =
    outOf { r := BitVec.ofNat 64 (a.toNat / 2 ^ (b.toNat % 64))
            c := decide (b.toNat % 64 ≠ 0) && a.getLsbD (b.toNat % 64 - 1) } := by
  have hr : a >>> (b.toNat % 64) = BitVec.ofNat 64 (a.toNat / 2 ^ (b.toNat % 64)) := by
    rw [← Nat.shiftRight_eq_div_pow, ← BitVec.toNat_ushiftRight, BitVec.ofNat_toNat, BitVec.setWidth_eq]
  simp only [aluShr, shamt_eq, hr, bne_zero_eq_decide, outOf]

theorem aluSar_eq : aluSar a b =
    outOf { r := BitVec.ofInt 64 (a.toInt / 2 ^ (b.toNat % 64))
            c := decide (b.toNat % 64 ≠ 0) && a.getLsbD (b.toNat % 64 - 1) } := by
  have hr : a.sshiftRight (b.toNat % 64) = BitVec.ofInt 64 (a.toInt / 2 ^ (b.toNat % 64)) := by
    rw [BitVec.sshiftRight, Int.shiftRight_eq_div_pow]; norm_cast
  simp only [aluSar, shamt_eq, hr, bne_zero_eq_decide, outOf]

theorem rotateRight_shamt :
    a.rotateRight (shamt b) = (a >>> (b.toNat % 64)) ||| (a <<< (64 - b.toNat % 64)) := by
  rw [BitVec.rotateRight_def, shamt_eq, Nat.mod_mod]

theorem ite_le_eq_min_toInt : (if a.toInt ≤ b.toInt then a else b) = BitVec.ofInt 64 (min a.toInt b.toInt) := by
  rw [min_def, apply_ite (BitVec.ofInt 64), BitVec.ofInt_toInt, BitVec.ofInt_toInt]

theorem ite_ge_eq_max_toInt : (if a.toInt ≥ b.toInt then a else b) = BitVec.ofInt 64 (max a.toInt b.toInt) := by
  rw [max_def', apply_ite (BitVec.ofInt 64), BitVec.ofInt_toInt, BitVec.ofInt_toInt]

theorem ite_le_eq_min_toNat : (if a.toNat ≤ b.toNat then a else b) = BitVec.ofNat 64 (min a.toNat b.toNat) := by
  rw [min_def, apply_ite (BitVec.ofNat 64), BitVec.ofNat_toNat, BitVec.ofNat_toNat, BitVec.setWidth_eq, BitVec.setWidth_eq]

theorem ite_ge_eq_max_toNat : (if a.toNat ≥ b.toNat then a else b) = BitVec.ofNat 64 (max a.toNat b.toNat) := by
  rw [max_def', apply_ite (BitVec.ofNat 64), BitVec.ofNat_toNat, BitVec.ofNat_toNat, BitVec.setWidth_eq, BitVec.setWidth_eq]

theorem b01_decide (p : Prop) [Decidable p] : b01 (decide p) = if p then 1 else 0 := by
  simp only [b01, decide_eq_true_eq]

end

/-! ## The rows of `al0` and `al1` (R164, R165) -/

/-- `op` is a trigger of `al0` and `al1` whose function gives what `y` says of its operands. -/
def IsAluRow (op : Mv → BitVec 1 → Instr) (y : D64 → D64 → D64 → AluSays) : Prop :=
  ∃ off g, (∀ m u s, exec (op m u) s = alTrigger s m u off g) ∧ ∀ a b c, g a b c = outOf (y a b c)

theorem isAluRow_of_mem : ∀ p ∈ aluRows, IsAluRow p.1 p.2 := by
  simp only [aluRows, List.forall_mem_cons]
  exact ⟨
    ⟨0x08, _, fun _ _ _ => rfl, fun a b _ => aluAdd_eq a b⟩,
    ⟨0x09, _, fun _ _ _ => rfl, fun a b _ => aluSub_eq a b⟩,
    ⟨0x0A, _, fun _ _ _ => rfl, fun a b _ => clamp64_eq (a.toInt + b.toInt)⟩,
    ⟨0x0B, _, fun _ _ _ => rfl, fun a b _ => clamp64_eq (a.toInt - b.toInt)⟩,
    ⟨0x0C, _, fun _ _ _ => rfl, fun _ _ _ => rfl⟩,
    ⟨0x0D, _, fun _ _ _ => rfl, fun _ _ _ => rfl⟩,
    ⟨0x0E, _, fun _ _ _ => rfl, fun _ _ _ => rfl⟩,
    ⟨0x0F, _, fun _ _ _ => rfl, fun _ _ _ => rfl⟩,
    ⟨0x10, _, fun _ _ _ => rfl, fun a b _ => aluShl_eq a b⟩,
    ⟨0x11, _, fun _ _ _ => rfl, fun a b _ => aluShr_eq a b⟩,
    ⟨0x12, _, fun _ _ _ => rfl, fun a b _ => aluSar_eq a b⟩,
    ⟨0x13, _, fun _ _ _ => rfl, fun a b _ => outOf_result (rotateRight_shamt a b)⟩,
    ⟨0x14, _, fun _ _ _ => rfl, fun a b _ => outOf_result (ite_le_eq_min_toInt a b)⟩,
    ⟨0x15, _, fun _ _ _ => rfl, fun a b _ => outOf_result (ite_ge_eq_max_toInt a b)⟩,
    ⟨0x16, _, fun _ _ _ => rfl, fun a b _ => outOf_result (ite_le_eq_min_toNat a b)⟩,
    ⟨0x17, _, fun _ _ _ => rfl, fun a b _ => outOf_result (ite_ge_eq_max_toNat a b)⟩,
    ⟨0x18, _, fun _ _ _ => rfl, fun a b _ => outOf_result (b01_decide (a = b))⟩,
    ⟨0x19, _, fun _ _ _ => rfl, fun a b _ => outOf_result (b01_decide (a.toInt < b.toInt))⟩,
    ⟨0x1A, _, fun _ _ _ => rfl, fun a b _ => outOf_result (b01_decide (a.toNat < b.toNat))⟩,
    ⟨0x1B, _, fun _ _ _ => rfl, fun _ _ _ => rfl⟩,
    ⟨0x1C, _, fun _ _ _ => rfl, fun _ _ _ => rfl⟩,
    ⟨0x1D, _, fun _ _ _ => rfl, fun _ _ _ => rfl⟩,
    List.forall_mem_nil _⟩

/-- Settles O9: every row is a trigger of `al0` and `al1` whose function agrees with it. -/
theorem scalarAluResults : Obligations.ScalarAluResults := by
  intro p hp m u s c x f h un o y
  obtain ⟨off, g, hexec, hg⟩ := isAluRow_of_mem p hp
  rw [hexec, alTrigger_says h g, hg, aluStatus_eq]
  rfl

end Sys2Proof.Machine
end

section
/-! PROOFS for O10. What the operations of `mul` and `agu` deliver, and where they trap (R164, R169 to R172). -/

namespace Sys2Proof.Machine

/-! ## The rows of `mul` (R169, R170) -/

/-- The check of a row of `mul`: only a division may trap. -/
def mulCheck : Bool → Check
  | true => divCheck
  | false => noCheck

theorem mulCheck_passes {divides : Bool} {o : Opnds} (h : divides = false ∨ o.b64 ≠ 0) (s : State) (c : Nat) :
    mulCheck divides s c o = none := by
  cases divides with
  | false => rfl
  | true => exact if_neg (h.resolve_left Bool.noConfusion)

theorem mulCheck_traps {o : Opnds} (h : o.b64 = 0) (s : State) (c : Nat) : mulCheck true s c o = some .intDivzero := if_pos h

/-- `op` is a trigger of `mul` with the latencies, check and socket of its row, whose function gives what `y` says. -/
def IsMulRow (op : Mv → Instr) (la lb : Nat) (divides : Bool) (sock : Nat) (y : D64 → D64 → AluSays) : Prop :=
  ∃ (k : BitVec 12) (g : D64 → D64 → AluOut), k.toNat = sock ∧
    (∀ m s, exec (op m) s = mulTrigger s m k la lb (mulCheck divides) g) ∧ ∀ a b, g a b = outOf (y a b)

theorem mul_eq (a b : D64) :
    ({ r := a * b, c := decide (a.toNat * b.toNat ≥ 2 ^ 64)
       v := decide (a.toInt * b.toInt < -(2 ^ 63 : Int) ∨ a.toInt * b.toInt > 2 ^ 63 - 1) } : AluOut) =
    outOf { r := BitVec.ofNat 64 (a.toNat * b.toNat), c := decide (2 ^ 64 ≤ a.toNat * b.toNat), v := tooBig (a.toInt * b.toInt) } := by
  have hr : a * b = BitVec.ofNat 64 (a.toNat * b.toNat) := by
    rw [BitVec.ofNat_mul, BitVec.ofNat_toNat, BitVec.ofNat_toNat, BitVec.setWidth_eq, BitVec.setWidth_eq]
  have hhi : a.toInt * b.toInt > 2 ^ 63 - 1 ↔ 2 ^ 63 ≤ a.toInt * b.toInt := Int.sub_one_lt_iff
  simp only [hr, hhi, outOf, tooBig, ge_iff_le]

theorem rems_eq (a b : D64) : low64 (a.toInt - b.toInt * a.toInt.tdiv b.toInt) = BitVec.ofInt 64 (Int.tmod a.toInt b.toInt) := by
  rw [Int.tmod_def, low64]

theorem remu_eq (a b : D64) : BitVec.ofNat 64 (a.toNat - b.toNat * (a.toNat / b.toNat)) = BitVec.ofNat 64 (a.toNat % b.toNat) := by
  rw [Nat.mod_eq_sub_mul_div]

theorem isMulRow_of_mem : ∀ p ∈ mulRows, IsMulRow p.1 p.2.1 p.2.2.1 p.2.2.2.1 p.2.2.2.2.1 p.2.2.2.2.2 := by
  simp only [mulRows, List.forall_mem_cons]
  exact ⟨
    ⟨0x188, _, rfl, fun _ _ => rfl, mul_eq⟩,
    ⟨0x189, fun a b => { r := low64 (a.toInt * b.toInt / 2 ^ 64) }, rfl, fun _ _ => rfl, fun _ _ => rfl⟩,
    ⟨0x18A, fun a b => { r := BitVec.ofNat 64 (a.toNat * b.toNat / 2 ^ 64) }, rfl, fun _ _ => rfl, fun _ _ => rfl⟩,
    ⟨0x18B, fun a b => { r := low64 (a.toInt.tdiv b.toInt) }, rfl, fun _ _ => rfl, fun _ _ => rfl⟩,
    ⟨0x18C, fun a b => { r := BitVec.ofNat 64 (a.toNat / b.toNat) }, rfl, fun _ _ => rfl, fun _ _ => rfl⟩,
    ⟨0x18D, fun a b => { r := low64 (a.toInt - b.toInt * a.toInt.tdiv b.toInt) }, rfl, fun _ _ => rfl,
      fun a b => outOf_result (rems_eq a b)⟩,
    ⟨0x18E, fun a b => { r := BitVec.ofNat 64 (a.toNat - b.toNat * (a.toNat / b.toNat)) }, rfl, fun _ _ => rfl,
      fun a b => outOf_result (remu_eq a b)⟩,
    List.forall_mem_nil _⟩

theorem multiplyDivideResults_hold : multiplyDivideResults := by
  intro p hp m s c x f h o y
  obtain ⟨k, g, hk, hexec, hg⟩ := isMulRow_of_mem p hp
  refine ⟨fun hpass => ?_, fun ⟨hdivides, hzero⟩ => ?_⟩
  · rw [hexec, mulTrigger_says h g (mulCheck_passes hpass s c), hg, aluStatus_eq]
    rfl
  · rw [hexec, hdivides, ← hk]
    exact h.trap (mulCheck_traps hzero s c)

/-! ## The address unit (R171, R172) -/

theorem low3_eq (a : D64) : (a.extractLsb' 0 3).toNat = a.toNat % 8 := by
  rw [field_eq, pow_zero, Nat.div_one]; rfl

theorem high32_eq (a : D64) : (a.extractLsb' 32 32).toNat = a.toNat / 2 ^ 32 := by
  have hlt := toNat_lt64 a
  rw [field_eq, Nat.mod_eq_of_lt (by omega)]

theorem aguW_eq (v : Int) : aguW v = if 0 ≤ v ∧ v < 2 ^ 56 then 0 else 1 := by
  have hout : (v < 0 ∨ v > 2 ^ 56 - 1) ↔ ¬(0 ≤ v ∧ v < 2 ^ 56) := by omega
  rw [aguW, b01_decide, if_congr hout rfl rfl, ite_not]

/-- OUT, the other way round: the address stands outside the ring of AMOD (R172). -/
theorem amodOut_eq (a base len : Int) :
    (if a < base ∨ a > base + len - 1 then (2 : D64) else 0) = if base ≤ a ∧ a < base + len then 0 else 2 := by
  have hout : (a < base ∨ a > base + len - 1) ↔ ¬(base ≤ a ∧ a < base + len) := by omega
  rw [if_congr hout rfl rfl, ite_not]

/-- A ring of length 0, as AMOD's check finds it (R172). -/
theorem amodLength_eq_zero_iff (c : D64) : c.extractLsb' 32 32 = 0 ↔ c.toNat / 2 ^ 32 = 0 := by
  rw [← BitVec.toNat_inj, high32_eq]
  rfl

/-- Everything a trigger of `agu` does whose function gives the address `v` and the status `st`. -/
theorem aguTrigger_delivers {s : State} {m : Mv} {sock : BitVec 12} {chk : Check} {c : Nat} {x : Ctx} {f : Frame}
    {g : D64 → D64 → D64 → D64 × D64} {v : Int} {st : D64} (h : Acts s m c x f) (hk : chk s c (opndsAt x f m .agu) = none)
    (hg : let o := opndsAt x f m .agu; g o.a64 o.b64 o.c64 = (BitVec.ofInt 64 v, st)) :
    aguTrigger s m sock chk g =
      .next (setCtx s c (started x .agu (opndsAt x f m .agu).a 2 (full64 (BitVec.ofInt 64 v)) (some st))) := by
  rw [aguTrigger_says h g hk, hg]

theorem addressResults_hold : addressResults := by
  intro m s c x f h o a w done
  refine ⟨?ainc, ⟨fun hlen => ?amod, fun hlen => ?amodTraps⟩, ?axy, fun ⟨hlo, hhi⟩ => ?abnd, fun hout => ?abndTraps⟩
  case ainc =>
    change execAguAinc m s = _
    rw [execAguAinc]
    refine aguTrigger_delivers h rfl ?_
    simp only [low64, aguW_eq, low3_eq]
    rfl
  case amod =>
    have hpass : amodCheck s c o = none := if_neg fun hzero => hlen (mod_cast (amodLength_eq_zero_iff _).mp hzero)
    change execAguAmod m s = _
    rw [execAguAmod]
    refine aguTrigger_delivers h hpass ?_
    simp only [low64, amodOut_eq, low32_eq, high32_eq]
    rfl
  case amodTraps =>
    have hfails : amodCheck s c o = some .bounds := if_pos ((amodLength_eq_zero_iff _).mpr (mod_cast hlen))
    change execAguAmod m s = _
    rw [execAguAmod, aguTrigger]
    exact h.trap hfails
  case axy =>
    change execAguAxy m s = _
    rw [execAguAxy]
    refine aguTrigger_delivers h rfl ?_
    simp only [low64, aguW_eq, low32_eq, high32_eq]
    rfl
  case abnd =>
    have hpass : abndCheck s c o = none := if_neg (by omega)
    change execAguAbnd m s = _
    rw [execAguAbnd]
    refine aguTrigger_delivers h hpass ?_
    rw [BitVec.ofInt_natCast, BitVec.ofNat_toNat, BitVec.setWidth_eq]
  case abndTraps =>
    have hfails : abndCheck s c o = some .bounds := if_pos hout
    change execAguAbnd m s = _
    rw [execAguAbnd, aguTrigger]
    exact h.trap hfails

/-- Settles O10: `mul` by its rows, each a trigger with its latencies, check and function; `agu` operation by operation. -/
theorem multiplyDivideAndAddress : Obligations.MultiplyDivideAndAddress := ⟨multiplyDivideResults_hold, addressResults_hold⟩

end Sys2Proof.Machine
end

section
/-! PROOFS for O55. Every move, trigger, span action and mark keeps the stores: the mould of the triggers does, and what each unit does
when it acts (R50, R163); PATSET's loads are kept apart (R319). -/

namespace Sys2Proof.Machine

/-! ## Fields that no store is kept in -/

/-- A state with other bundles, contexts, launches, copy and semaphore work and counters has the same stores. -/
theorem kept_books (s : State) {active args sched free count cycles ctxs feat stepB node nodes unreach lags cxl hbm peers ports retired
    migs semOps xfers conts moves msgs parts loaded launches nlaunch saves spdm} :
    Kept s { s with active := active, args := args, sched := sched, free := free, count := count, cycles := cycles, ctxs := ctxs, feat := feat
                    stepB := stepB, node := node, nodes := nodes, unreach := unreach, lags := lags, cxl := cxl, hbm := hbm, peers := peers
                    ports := ports, retired := retired, migs := migs, semOps := semOps, xfers := xfers, conts := conts, moves := moves
                    msgs := msgs, parts := parts, loaded := loaded, launches := launches, nlaunch := nlaunch, saves := saves, spdm := spdm } :=
  ⟨rfl, rfl, rfl, rfl, rfl, rfl, rfl, rfl, rfl, rfl, rfl, rfl, fun _ => ⟨rfl, rfl⟩, fun _ => rfl, fun _ => rfl⟩

section
variable {s t : State} (h : Kept s t)
include h

theorem Kept.setCtx {c : Nat} {x : Ctx} : Kept s (setCtx t c x) := h.trans (kept_setCtx t c x)

theorem Kept.modCtx {c : Nat} {f : Ctx → Ctx} : Kept s (modCtx t c f) := h.trans (kept_modCtx t c f)

theorem Kept.modLaunch {l : Nat} {f : Launch → Launch} : Kept s (modLaunch t l f) := h.trans (kept_modLaunch t l f)

theorem Kept.modCore {k : Nat} {f : Core → Core} (h1 : ∀ x, (f x).spad = x.spad)
    (h2 : ∀ x, (f x).empty = x.empty) : Kept s (modCore t k f) := h.trans (kept_modCore t k f h1 h2)

theorem Kept.modDie {d : Nat} {f : Die → Die} (h1 : ∀ x, (f x).ws = x.ws) : Kept s (modDie t d f) :=
  h.trans (kept_modDie t d f h1)

theorem Kept.modRegion {r : Nat} {f : Region → Region} (h1 : ∀ x, (f x).rcb = x.rcb) :
    Kept s (modRegion t r f) := h.trans (kept_modRegion t r f h1)

end

/-- A choice between two states that have the stores of `s`. -/
theorem Kept.ite {s t u : State} {p : Prop} [Decidable p] (h : Kept s t) (g : Kept s u) : Kept s (if p then t else u) := by
  split <;> assumption

/-! ## Commands and their release (R95 to R98) -/

theorem kept_issueJob (s : State) (c : Nat) (j : Job) : Kept s (issueJob s c j) := by
  unfold issueJob
  exact (kept_books s).modCtx.modDie (by exact fun _ => rfl)

theorem kept_issueSemOp (s : State) (c : Nat) (o : SemOp) : Kept s (issueSemOp s c o) := by
  unfold issueSemOp
  dsimp only
  split
  · exact (kept_books s).modCtx
  · exact (kept_books s).modCtx

theorem kept_issueItem (s : State) (c : Nat) (w : Withheld) : Kept s (issueItem s c w) := by
  cases w with
  | store o => exact kept_modCtx s c fun x => releaseStore x o
  | job j => exact kept_issueJob s c j
  | sem o => exact kept_issueSemOp s c o
  | send pipe data => exact kept_books s

theorem kept_pumpGo (c n : Nat) (s : State) : Kept s (pumpGo c n s) := by
  induction n generalizing s with
  | zero => exact .refl s
  | succ n ih =>
    rw [pumpGo]
    split
    · exact .refl s
    · exact .ite (((kept_modCtx _ _ _).trans (kept_issueItem _ _ _)).trans (ih _)) (.refl s)

theorem kept_pump (s : State) (c : Nat) : Kept s (pump s c) := kept_pumpGo _ _ _

theorem kept_releaseAll (s : State) (c : Nat) : Kept s (releaseAll s c) := (kept_modCtx _ _ _).trans (kept_pump _ _)

theorem kept_issueCmd (s : State) (c : Nat) (w : Withheld) (b : Bool) : Kept s (issueCmd s c w b) :=
  .ite (kept_modCtx _ _ _) ((kept_modCtx _ _ _).trans (kept_pump _ _))

/-! ## Checkpoints, span actions and the end of a bundle (R82 to R100) -/

theorem kept_checkpointAt (s : State) (c pos tick : Nat) (loops : List LoopEnt) : Kept s (checkpointAt s c pos tick loops) := by
  unfold checkpointAt
  exact Kept.modCtx ((kept_releaseAll s c).modCore (by exact fun _ => rfl) (by exact fun _ => rfl))

theorem kept_checkpoint (s : State) (c : Nat) : Kept s (checkpoint s c) := by
  unfold checkpoint
  dsimp only
  split
  · exact .refl s
  · exact (kept_checkpointAt _ _ _ _ _).trans (kept_modCtx _ _ _)

theorem kept_settleBundle (s : State) (c : Nat) (wide : Bool) : Kept s (settleBundle s c wide) := by
  unfold settleBundle
  dsimp only
  split
  · exact .refl s
  · exact kept_setCtx _ _ _

theorem kept_suspend (s : State) (c : Nat) (t : Todo) : Kept s (suspend s c t) := (kept_modCtx _ _ _).trans (kept_active _ _)

theorem kept_doubleWrite (s : State) (c : Nat) (d : BitVec 12) (code : SpanCode) : Kept s (doubleWrite s c d code) := by
  unfold doubleWrite
  dsimp only
  split
  · exact .refl s
  · refine .ite (kept_enterTrap _ _ _ _ _ _ _) ?_
    split
    · exact ((kept_settleBundle s c true).trans (kept_enterTrap _ _ _ _ _ _ _)).modCtx
    · exact (kept_settleBundle s c true).trans (kept_enterTrap _ _ _ _ _ _ _)

/-! ## What a step answers -/

/-- An answer keeps the stores of `s`. -/
def KeptBy (s : State) (r : Res) : Prop := ∀ t, r = .next t → Kept s t

theorem keptBy_next {s t : State} (h : Kept s t) : KeptBy s (.next t) := fun _ e => by cases e; exact h

theorem keptBy_spanAction (s : State) (code : SpanCode) (again : Todo) : KeptBy s (spanAction s code again) := by
  unfold spanAction
  split
  · exact keptBy_next (.refl s)
  · split
    · exact keptBy_next (kept_suspend _ _ _)
    · split
      · exact keptBy_next (.ite (kept_checkpoint _ _) (.refl s))
      · split
        · exact keptBy_next (kept_doubleWrite _ _ _ _)
        · exact keptBy_next (.ite ((kept_setCtx _ _ _).trans (kept_checkpoint _ _)) (kept_setCtx _ _ _))

theorem keptBy_execMove (m : Mv) (d : BitVec 12) (s : State) : KeptBy s (execMove m d s) := by
  unfold execMove
  split
  · exact keptBy_next (.refl s)
  · split
    · exact keptBy_next (.refl s)
    · exact keptBy_next (kept_setCtx _ _ _)

/-! ## The code store (R69) -/

theorem kept_modKernel (s : State) (core l k : Nat) (f : Kernel → Kernel) : Kept s (modKernel s core l k f) :=
  kept_modCore _ _ _ (fun _ => rfl) fun _ => rfl

theorem kept_startLoad (s : State) (core : Nat) (k : Kernel) (seg : Nat) : Kept s (startLoad s core k seg) := by
  unfold startLoad
  refine .ite (.refl s) ?_
  split
  · exact .refl s
  · exact kept_modKernel _ _ _ _ _

theorem keptBy_execSeg (h : Hd) (p : BitVec 4) (s : State) : KeptBy s (execSeg h p s) := by
  unfold execSeg
  split
  · exact keptBy_next (.refl s)
  · split
    · exact keptBy_next (.refl s)
    · split
      · split
        · exact keptBy_next (.refl s)
        · exact keptBy_next (kept_startLoad _ _ _ _)
      · exact keptBy_next (.refl s)

/-! ## What the triggers of each unit do -/

theorem kept_startLs (s : State) (c : Nat) (u : BitVec 1) (kind : LsKind) (addr la lb : Nat) (r withhold engine : Bool) :
    Kept s (startLs s c u kind addr la lb r withhold engine) := by
  unfold startLs
  exact (kept_books s).modCtx

theorem kept_useBank (s : State) (c n bank : Nat) (u : BankUse) : Kept s (useBank s c n bank u) := kept_modCtx _ _ _

theorem kept_joinArray (s : State) (c acc count : Nat) (kind : ArrayKind) : Kept s (joinArray s c acc count kind) := by
  unfold joinArray
  exact Kept.modCtx ((kept_books s).modCore (by exact fun _ => rfl) (by exact fun _ => rfl))

theorem kept_recvOne (s : State) (c : Nat) (r : Nat × Nat) : Kept s (recvOne s c r) := by
  unfold recvOne
  split
  · exact .refl s
  · split
    · exact (kept_modCtx _ _ _).trans (kept_books _)
    · exact kept_modCtx _ _ _

theorem kept_recvAll (s : State) (c : Nat) : Kept s (recvAll s c) := .foldl (fun t r => kept_recvOne t c r) _ s

theorem kept_dieNow (s : State) (die : Nat) : Kept s (dieNow s die) := by
  unfold dieNow
  exact (kept_books s).modDie (by exact fun _ => rfl)

theorem kept_wakeSeekers (s : State) (l shard : Nat) (d : Seed) : Kept s (wakeSeekers s l shard d) := by
  unfold wakeSeekers
  split
  · exact .refl s
  · exact .foldl (fun t c => .ite (.refl t) (kept_modCtx _ _ _)) _ s

theorem kept_addSeed (s : State) (l shard : Nat) (d : Seed) : Kept s (addSeed s l shard d) :=
  (kept_modLaunch _ _ _).trans (kept_wakeSeekers _ _ _ _)

theorem kept_takeSeedUnit (s : State) (r : Nat) : Kept s (takeSeedUnit s r) := kept_modRegion _ _ _ fun _ => rfl

theorem kept_dispatchFault (s : State) (r l : Nat) (d : Seed) : Kept s (dispatchFault s r l d) :=
  ((kept_freeSeed s r).trans (kept_faultDomain _ _ _ _)).trans (kept_modLaunch _ _ _)

theorem kept_placeSeed (s : State) (l shard : Nat) (d : Seed) : Kept s (placeSeed s l shard d) := by
  unfold placeSeed
  split
  · exact .refl s
  · exact .ite (kept_addSeed _ _ _ _) (kept_dispatchFault _ _ _ _)

/-! ## Triggers by their mould (R50, R162, R163) -/

/-- What every trigger answers: with a false guard the state as it was, and in any case the stores as they were. -/
structure TriggerOf (m : Mv) (s : State) (r : Res) : Prop where
  kept : KeptBy s r
  unguarded : ∀ c x f, current s = some (c, x, f) → guardHolds f.regs m.guard = false → r = .next s

theorem triggerOf_trigger {m : Mv} {s : State} {u : FU} {sock : BitVec 12} {chk : Check} {act : State → Nat → Opnds → State}
    (h : ∀ s c o, Kept s (act s c o)) : TriggerOf m s (trigger s m u sock chk act) :=
  ⟨fun _ e => kept_trigger h e, fun _ _ _ hc hg => trigger_unguarded hc hg⟩

section
variable {m : Mv} {s : State} {sock : BitVec 12} {chk : Check}

theorem triggerOf_al {u : BitVec 1} {off : BitVec 6} {g : D64 → D64 → D64 → AluOut} : TriggerOf m s (alTrigger s m u off g) :=
  triggerOf_trigger fun _ _ _ => kept_modCtx _ _ _

theorem triggerOf_mul {la lb : Nat} {g : D64 → D64 → AluOut} : TriggerOf m s (mulTrigger s m sock la lb chk g) :=
  triggerOf_trigger fun _ _ _ => kept_modCtx _ _ _

theorem triggerOf_agu {g : D64 → D64 → D64 → D64 × D64} : TriggerOf m s (aguTrigger s m sock chk g) :=
  triggerOf_trigger fun _ _ _ => kept_modCtx _ _ _

theorem triggerOf_vec {la lb : Nat} {g : BitVec 512 → Nat → Nat → Nat → VecOut} : TriggerOf m s (vecTrigger s m sock la lb chk g) :=
  triggerOf_trigger fun _ _ _ => kept_modCtx _ _ _

theorem triggerOf_vecMap {lat w : Nat} {g : Nat → Nat → Nat → Nat × FlagSet} : TriggerOf m s (vecMap s m sock lat w g) := triggerOf_vec

theorem triggerOf_vecCompare {w : Nat} {g : Nat → Nat → Bool} : TriggerOf m s (vecCompare s m sock w g) := triggerOf_vec

theorem triggerOf_vecCvt {k : Kind} {sat : Option Bool} : TriggerOf m s (vecCvt s m sock k sat) := triggerOf_vec

theorem triggerOf_vecDot {n : Nat} {g : Fmt} {dot : List (Fp × Fp) → Fp × FlagSet} : TriggerOf m s (vecDot s m sock n g dot) :=
  triggerOf_vec

theorem triggerOf_vecReduce {n : Nat} {g : List Nat → Nat × FlagSet} : TriggerOf m s (vecReduce s m sock n g) := triggerOf_vec

theorem triggerOf_vecSpecial {g : Nat → Nat × FlagSet} : TriggerOf m s (vecSpecial s m sock g) := triggerOf_vec

theorem triggerOf_vecShuf {w : Nat} : TriggerOf m s (vecShuf s m sock w) := triggerOf_vec

theorem triggerOf_vecBcast {w : Nat} : TriggerOf m s (vecBcast s m sock w) := triggerOf_vec

theorem triggerOf_ls {u : BitVec 1} {off : BitVec 6} {act : State → Nat → Opnds → State} (h : ∀ s c o, Kept s (act s c o)) :
    TriggerOf m s (lsTrigger s m u off chk act) := triggerOf_trigger h

theorem triggerOf_load {u : BitVec 1} {off : BitVec 6} {n al la lb : Nat} {sx : Bool} : TriggerOf m s (lsLoad s m u off n al la lb sx) :=
  triggerOf_ls fun _ _ _ => kept_startLs _ _ _ _ _ _ _ _ _ _

theorem triggerOf_store {u : BitVec 1} {off : BitVec 6} {n al : Nat} : TriggerOf m s (lsStore s m u off n al) :=
  triggerOf_ls fun _ _ _ => kept_startLs _ _ _ _ _ _ _ _ _ _

theorem triggerOf_matMul {gemm ov : Bool} : TriggerOf m s (matMul s m sock gemm ov) := by
  refine triggerOf_trigger fun s c o => ?_
  dsimp only
  split
  · next da db _ _ =>
    have hread : Kept s (if da.kind = 2 then
        useBank s c da.base (1 - workBank (coreOf s (ctxCore c)) da.base) .read else s) := .ite (kept_useBank _ _ _ _ _) (.refl s)
    exact (Kept.ite (hread.trans (kept_useBank _ _ _ _ _)).modCtx (hread.trans (kept_useBank _ _ _ _ _))).trans (kept_joinArray _ _ _ _ _)
  · exact .refl s

theorem triggerOf_cpld {sb : Bool} : TriggerOf m s (cpld s m sock sb) :=
  triggerOf_trigger fun s c _ =>
    ((((kept_modCtx s c _).trans (kept_count _ _)).trans (kept_count _ _)).trans (kept_count _ _)).modCtx.modDie (by exact fun _ => rfl)

/-- A trigger of `sem` that returns a result releases, sends its operation, and may wait for the result (R294, R295). -/
theorem triggerOf_semReturn {kind : State → Nat → Opnds → SemKind} {acq rel : Bool} : TriggerOf m s (semReturn s m sock chk kind acq rel) := by
  refine triggerOf_trigger fun s c o => ?_
  have hrel : Kept s (if rel && ckOn (ctxOf s c) then releaseAll s c else s) := .ite (kept_releaseAll s c) (.refl s)
  exact .ite (hrel.modCtx.trans (kept_issueCmd _ _ _ _)).modCtx (hrel.modCtx.trans (kept_issueCmd _ _ _ _))

theorem triggerOf_cxfer {form : Nat} : TriggerOf m s (semCxfer s m sock form) := triggerOf_semReturn

theorem triggerOf_semQuiet {kind : SemKind} {rel hold : Bool} : TriggerOf m s (semQuiet s m sock chk kind rel hold) :=
  triggerOf_trigger fun s c _ => (kept_modCtx s c _).trans (kept_issueCmd _ _ _ _)

theorem triggerOf_sysTrap : TriggerOf m s (execSysTrap m s) := by
  refine triggerOf_trigger fun s c o => ?_
  dsimp only
  split
  · exact .refl s
  · exact (kept_settleBundle s c false).trans (kept_enterTrap _ _ _ _ _ _ _)

theorem triggerOf_sysTret : TriggerOf m s (execSysTret m s) := by
  refine triggerOf_trigger fun s c o => ?_
  dsimp only
  split
  · exact .refl s
  · refine .ite ((kept_settleBundle s c false).trans (kept_enterTrap _ _ _ _ _ _ _)) ?_
    exact .ite (kept_enterTrap _ _ _ _ _ _ _) (.ite (.refl s) (kept_modCtx _ _ _))

theorem triggerOf_sysRdsr : TriggerOf m s (execSysRdsr m s) :=
  triggerOf_trigger fun s c _ => Kept.modCtx (.ite (kept_dieNow s (ctxDie c)) (.refl s))

theorem triggerOf_matApop : TriggerOf m s (execMatApop m s) :=
  triggerOf_trigger fun s c _ => (kept_useBank s c _ _ _).modCtx

theorem triggerOf_rrot {u : BitVec 1} : TriggerOf m s (execLsRrot m u s) :=
  triggerOf_ls fun s c _ => (kept_startLs s c _ _ _ _ _ _ _ _).modCore (by exact fun _ => rfl) (by exact fun _ => rfl)

theorem triggerOf_ldpat {u : BitVec 1} : TriggerOf m s (execLsLdpat m u s) := by
  refine triggerOf_ls fun s c o => ?_
  split
  · exact kept_startLs s c _ _ _ _ _ _ _ _
  · exact .refl s

theorem triggerOf_send : TriggerOf m s (execLnkSend m s) :=
  triggerOf_trigger fun s _ _ => (kept_books s).modCtx.trans (kept_issueCmd _ _ _ _)

theorem triggerOf_recv : TriggerOf m s (execLnkRecv m s) :=
  triggerOf_trigger fun s c _ => (kept_modCtx s c _).trans (kept_recvAll _ _)

theorem triggerOf_lstat : TriggerOf m s (execLnkLstat m s) := by
  refine triggerOf_trigger fun s c o => ?_
  dsimp only [nextFree]
  split
  · exact kept_books s
  · exact (kept_books s).modCtx

theorem triggerOf_post : TriggerOf m s (execTskPost m s) := by
  refine triggerOf_trigger fun s c o => ?_
  extract_lets a r
  split
  · exact .refl s
  · split
    · exact .refl s
    · exact .ite (kept_modCtx _ _ _) (.ite
        (Kept.trans (((kept_modCtx s c _).trans (kept_takeSeedUnit _ _)).modRegion (by exact fun _ => rfl)) (kept_books _))
        (((kept_modCtx s c _).trans (kept_takeSeedUnit _ _)).trans (kept_placeSeed _ _ _ _)))

/-- A command of the copy engines delivers its ports and is sent (R252, R269, R271). -/
theorem kept_command (s : State) (c : Nat) (r : D64) (w : Withheld) (b : Bool) : Kept s (issueCmd (cpyPorts s c r) c w b) :=
  (kept_modCtx s c _).trans (kept_issueCmd _ _ _ _)

end

/-- Every trigger but PATSET, unit by unit. -/
theorem exec_triggerOf {i : Instr} {m : Mv} (h : i.mv? = some m) (hp : ∀ m u, i ≠ .lsPatset m u) (s : State) :
    TriggerOf m s (exec i s) := by
  cases i <;> cases h
  all_goals dsimp only [exec]
  case alAdd | alSub | alAdds | alSubs | alAnd | alOr | alXor | alAndn | alShl | alShr | alSar | alRor | alMin | alMax | alMinu | alMaxu |
      alCmpeq | alCmplt | alCmpltu | alSel | alClz | alPopc => exact triggerOf_al
  case mulMul | mulMulhs | mulMulhu | mulDivs | mulDivu | mulRems | mulRemu => exact triggerOf_mul
  case aguAinc | aguAmod | aguAxy | aguAbnd => exact triggerOf_agu
  case lsLd8 | lsLd8Sx | lsLd16 | lsLd16Sx | lsLd32 | lsLd32Sx | lsLd64 | lsVld => exact triggerOf_load
  case lsSt8 | lsSt16 | lsSt32 | lsSt64 | lsVst => exact triggerOf_store
  case matMmaOv | matMmaAc | matMgemmOv | matMgemmAc => exact triggerOf_matMul
  case cpyCpld | cpyCpldSb => exact triggerOf_cpld
  case semSld | semSadd | semSmin | semSmax | semScas | semStx | semSwaitge | semBwait | semBtest | semCbal | semCtotal |
      semCinfo => exact triggerOf_semReturn
  case semSst | semBarr | semBexp | semCfloor | semCmint | semCburn | semSinit => exact triggerOf_semQuiet
  case vecAddF32 | vecAddF16 | vecAddBf16 | vecAddI32 | vecAddI16 | vecAddI8 | vecSubF32 | vecSubF16 | vecSubBf16 | vecSubI32 | vecSubI16 |
      vecSubI8 | vecMulF32 | vecMulF16 | vecMulBf16 | vecMulI32 | vecMulI16 | vecMulI8 | vecFmaF32 | vecFmaF16 | vecFmaBf16 | vecMinF32 |
      vecMinF16 | vecMinBf16 | vecMinI32 | vecMinI16 | vecMinI8 | vecMinN32 | vecMinN16 | vecMinN8 | vecMaxF32 | vecMaxF16 | vecMaxBf16 |
      vecMaxI32 | vecMaxI16 | vecMaxI8 | vecMaxN32 | vecMaxN16 | vecMaxN8 | vecAddsI32 | vecAddsI16 | vecAddsI8 | vecAddsN32 | vecAddsN16 |
      vecAddsN8 | vecAnd | vecOr | vecXor | vecShlI32 | vecShlI16 | vecShlI8 | vecShrI32 | vecShrI16 | vecShrI8 | vecSarI32 | vecSarI16 |
      vecSarI8 | vecAbsF32 | vecAbsF16 | vecAbsBf16 | vecAbsI32 | vecAbsI16 | vecAbsI8 => exact triggerOf_vecMap
  case vecCmpeqF32 | vecCmpeqF16 | vecCmpeqBf16 | vecCmpeqI32 | vecCmpeqI16 | vecCmpeqI8 | vecCmpltF32 | vecCmpltF16 | vecCmpltBf16 |
      vecCmpltI32 | vecCmpltI16 | vecCmpltI8 | vecCmpltN32 | vecCmpltN16 | vecCmpltN8 => exact triggerOf_vecCompare
  case vecCvtF32 | vecCvtF16 | vecCvtBf16 | vecCvtI32 | vecCvtI16 | vecCvtI8 | vecCvtE4m3Sat | vecCvtE4m3Nsat | vecCvtE5m2Sat |
      vecCvtE5m2Nsat => exact triggerOf_vecCvt
  case vecVdot16E4m3 | vecVdot16E5m2 | vecVdot8Bf16 => exact triggerOf_vecDot
  case vecRsumF32 | vecRsumI32 | vecRmaxF32 | vecRmaxI32 => exact triggerOf_vecReduce
  case vecExp2F32 | vecRcpF32 | vecRsqF32 => exact triggerOf_vecSpecial
  case vecShufI32 | vecShufI16 | vecShufI8 => exact triggerOf_vecShuf
  case vecBcastI32 | vecBcastI16 | vecBcastI8 => exact triggerOf_vecBcast
  case vecSelI32 | vecSelI16 | vecSelI8 | vecVqntD8 => exact triggerOf_vec
  case semCxferQ | semCxferFRn | semCxferFRz | semCxferFRd => exact triggerOf_cxfer
  case lsLdfw | lsLdfk | lsStew | lsStff | lsFeclr | lsFeq => exact triggerOf_ls fun _ _ _ => kept_startLs _ _ _ _ _ _ _ _ _ _
  case brJmp | brCall | brRet | brLoop | brBreakl | brHalt | sysWrsr | sysFence | matMdesc | matMdcv | matMstat | matMfence | tskWaitc |
      tskTdone | tskTid | tskRndcmt | cpyJobq | cpyCpqry | cpySlotq =>
    exact triggerOf_trigger fun _ _ _ => kept_modCtx _ _ _
  case brYield => exact triggerOf_trigger fun s _ _ => (Kept.refl s).modCore (by exact fun _ => rfl) (by exact fun _ => rfl)
  case matMzero | matApush => exact triggerOf_trigger fun s c _ => (kept_useBank s c _ _ _).trans (kept_joinArray _ _ _ _ _)
  case matAswap => exact triggerOf_trigger fun s c _ => (kept_joinArray s c _ _ _).modCtx
  case cpyCpy | cpyCpst | cpyPagereq => exact triggerOf_trigger fun _ _ _ => kept_command _ _ _ _ _
  case cpyDrain => exact triggerOf_trigger fun s c _ => (kept_modCtx s c _).modCtx
  case sysTrap => exact triggerOf_sysTrap
  case sysTret => exact triggerOf_sysTret
  case sysRdsr => exact triggerOf_sysRdsr
  case matApop => exact triggerOf_matApop
  case lsRrot => exact triggerOf_rrot
  case lsLdpat => exact triggerOf_ldpat
  case lnkSend => exact triggerOf_send
  case lnkRecv => exact triggerOf_recv
  case lnkLstat => exact triggerOf_lstat
  case tskPost => exact triggerOf_post
  case lsPatset => exact absurd rfl (hp _ _)

/-! ## PATSET, and the loads of its own bundle (R198, R210, R319) -/

/-- `t` is `s` with other contexts and other cores. -/
def AtBanks (s t : State) : Prop := t = { s with ctxs := t.ctxs, cores := t.cores }

theorem AtBanks.refl (s : State) : AtBanks s s := rfl

section
variable {s t : State} (h : AtBanks s t)
include h

theorem AtBanks.trans {u : State} (g : AtBanks t u) : AtBanks s u := by
  unfold AtBanks at h g ⊢
  rw [g, h]

theorem AtBanks.modCtx {c : Nat} {f : Ctx → Ctx} : AtBanks s (modCtx t c f) := h.trans (t := t) rfl

theorem AtBanks.modCore {k : Nat} {f : Core → Core} : AtBanks s (modCore t k f) := h.trans (t := t) rfl

end

theorem AtBanks.foldl {α : Type} {g : State → α → State} (h : ∀ s a, AtBanks s (g s a)) (l : List α) (s : State) :
    AtBanks s (l.foldl g s) := by
  induction l generalizing s with
  | nil => exact .refl s
  | cons a l ih => exact (h s a).trans (ih _)

theorem atBanks_ctxWrite (s : State) (c a : Nat) (bs : List Byte) : AtBanks s (ctxWrite s c a bs) := by
  unfold ctxWrite
  split
  · exact .refl s
  · split
    · exact (AtBanks.refl s).modCtx
    · exact (AtBanks.refl s).modCore

theorem atBanks_ctxTags (s : State) (c a n : Nat) (full : Bool) : AtBanks s (ctxTags s c a n full) := by
  unfold ctxTags
  split
  · exact (AtBanks.refl s).modCtx
  · exact (AtBanks.refl s).modCore

theorem atBanks_performStore (s : State) (c : Nat) (o : LsOp) : AtBanks s (performStore s c o) := by
  unfold performStore
  refine AtBanks.modCtx (AtBanks.trans (atBanks_ctxWrite s c o.addr o.writes) ?_)
  split
  · exact atBanks_ctxTags _ _ _ _ _
  · exact .refl _

theorem atBanks_takeWord (s : State) (c : Nat) (o : LsOp) : AtBanks s (takeWord s c o) := by
  unfold takeWord
  refine AtBanks.modCtx (AtBanks.trans ?_ (atBanks_ctxTags _ c o.addr 8 false))
  split
  · split
    · split
      · exact atBanks_performStore _ _ _
      · exact .refl s
    · exact .refl s
  · exact .refl s

theorem atBanks_performLoad (s : State) (c : Nat) (o : LsOp) : AtBanks s (performLoad s c o) := by
  unfold performLoad
  dsimp only
  split
  · exact (atBanks_takeWord s c o).modCtx
  · exact (AtBanks.refl s).modCtx

theorem atBanks_ownLoads (s : State) (c : Nat) : AtBanks s (ownLoads s c) := by
  refine .foldl (fun t o => ?_) _ s
  split
  · exact atBanks_performLoad t c o
  · exact .refl t

/-- The latch of a trigger leaves its context's queue and bundle. -/
theorem latchA_queue (s : State) (c : Nat) (u : FU) (a : Val) :
    (ctxOf (latchA s c u a) c).ls = (ctxOf s c).ls ∧ (ctxOf (latchA s c u a) c).bundle = (ctxOf s c).bundle := by
  simp only [latchA, modCtx, ctxOf_setCtx_same, and_self]

/-- A trigger keeps every store, or it acts. -/
theorem trigger_keeps_or_acts {s t : State} {m : Mv} {u : FU} {sock : BitVec 12} {chk : Check} {act : State → Nat → Opnds → State}
    (h : trigger s m u sock chk act = .next t) :
    Kept s t ∨ ∃ c x f, current s = some (c, x, f) ∧ t = act (latchA s c u (opndsAt x f m u).a) c (opndsAt x f m u) := by
  rcases trigger_cases s m u sock chk act with e | ⟨c, x, f, k, -, -, -, e⟩ | ⟨c, x, f, hc, -, -, -, e⟩
  · cases e.symm.trans h
    exact .inl (.refl s)
  · cases e.symm.trans h
    exact .inl (kept_preciseTrap _ _ _)
  · cases e.symm.trans h
    exact .inr ⟨c, x, f, hc, rfl⟩

/-- PATSET keeps every store, and where operations of its own bundle stand in the queue everything but contexts and cores. -/
theorem execLsPatset_keeps {m : Mv} {u : BitVec 1} {s t : State} (h : execLsPatset m u s = .next t) :
    Kept s t ∨ (AtBanks s t ∧ ∃ c x f, current s = some (c, x, f) ∧ ∃ o ∈ x.ls, o.bundle = x.bundle) := by
  unfold execLsPatset lsTrigger at h
  rcases trigger_keeps_or_acts h with hk | ⟨c, x, f, hc, rfl⟩
  · exact .inl hk
  · by_cases hq : ∃ o ∈ x.ls, o.bundle = x.bundle
    · refine .inr ⟨?_, c, x, f, hc, hq⟩
      exact ((AtBanks.refl s).modCtx.trans (atBanks_ownLoads _ c)).modCtx.modCtx
    · left
      obtain ⟨hls, hb⟩ := latchA_queue s c (lsUnit u) (opndsAt x f m (lsUnit u)).a
      rw [(current_some hc).2.1] at hls hb
      rw [ownLoads_none fun p hp e => hq ⟨p, hls ▸ hp, e.trans hb⟩]
      exact (Kept.refl s).modCtx.modCtx.modCtx

/-! ## Everything with a word -/

/-- What an instruction with a word leaves: every store, and PATSET with operations of its own bundle before it all but contexts and cores. -/
theorem exec_word_keeps {i : Instr} {s t : State} (hw : (encode i).isSome) (h : exec i s = .next t) :
    Kept s t ∨ (AtBanks s t ∧ (∃ m u, i = .lsPatset m u) ∧
      ∃ c x f, current s = some (c, x, f) ∧ ∃ o ∈ x.ls, o.bundle = x.bundle) := by
  obtain ⟨w, hw⟩ := Option.isSome_iff_exists.mp hw
  rcases encode_eq_some hw with ⟨hd, e, hspan⟩ | ⟨hd, p, rfl, -⟩ | ⟨m, d, rfl, -⟩ | ⟨m, d, hm, -, -⟩
  · left
    rcases hspan with ⟨rfl, -⟩ | ⟨rfl, -⟩ | ⟨rfl, -⟩ | ⟨rfl, -⟩ | ⟨rfl, -⟩ <;> exact keptBy_spanAction _ _ _ t h
  · exact .inl (keptBy_execSeg hd p s t h)
  · exact .inl (keptBy_execMove _ _ _ t h)
  · by_cases hp : ∃ m u, i = .lsPatset m u
    · obtain ⟨m, u, rfl⟩ := hp
      exact (execLsPatset_keeps h).imp_right fun ⟨hb, hq⟩ => ⟨hb, ⟨m, u, rfl⟩, hq⟩
    · exact .inl ((exec_triggerOf hm (fun m u e => hp ⟨m, u, e⟩) s).kept t h)

/-- A move whose guard is false changes nothing (R50). -/
theorem execMove_unguarded {m : Mv} {d : BitVec 12} {s : State} {c : Nat} {x : Ctx} {f : Frame} (hc : current s = some (c, x, f))
    (hg : guardHolds f.regs m.guard = false) : execMove m d s = .next s := by
  simp [execMove, hc, hg]

/-- A trigger whose guard is false changes nothing (R50). -/
theorem exec_unguarded {i : Instr} {m : Mv} (h : i.mv? = some m) {s : State} {c : Nat} {x : Ctx} {f : Frame}
    (hc : current s = some (c, x, f)) (hg : guardHolds f.regs m.guard = false) : exec i s = .next s := by
  by_cases hp : ∃ m u, i = .lsPatset m u
  · obtain ⟨m, u, rfl⟩ := hp
    cases h
    show execLsPatset m u s = _
    unfold execLsPatset lsTrigger
    exact trigger_unguarded hc hg
  · exact (exec_triggerOf h (fun m u e => hp ⟨m, u, e⟩) s).unguarded c x f hc hg

/-- Settles O55: the mould of every trigger keeps the stores, as moves, span actions and marks do, and a false guard leaves the state;
PATSET with loads of its own bundle before it changes contexts and cores alone. -/
theorem bundleFrames : Obligations.BundleFrames := by
  refine ⟨fun i s t hw h => ?_, fun i m s c x f hi hc hg => ?_⟩
  · rcases exec_word_keeps hw h with hk | ⟨hb, ⟨m, u, rfl⟩, c, x, f, hc, o, ho, hbundle⟩
    · exact ⟨hk.mem, hk.memBad, hk.host, hk.sems, hk.classes, hk.transit, hk.spaces, hk.queues, hk.funcs, hk.images, hk.fw, hk.power,
        fun _ => hk.spad, hk.ws, hk.rcb⟩
    · have hnot : ¬ ((∀ n v, Instr.lsPatset m u ≠ .lsPatset n v) ∨
          ∀ c x f, current s = some (c, x, f) → ∀ o ∈ x.ls, o.bundle ≠ x.bundle) :=
        fun hor => hor.elim (fun hne => hne m u rfl) fun hne => hne c x f hc o ho hbundle
      rw [AtBanks] at hb
      rw [hb]
      exact ⟨rfl, rfl, rfl, rfl, rfl, rfl, rfl, rfl, rfl, rfl, rfl, rfl, fun hor => absurd hor hnot, fun _ => rfl, fun _ => rfl⟩
  · rcases hi with hm | ⟨d, rfl⟩
    · exact exec_unguarded hm hc hg
    · exact execMove_unguarded hc hg

end Sys2Proof.Machine
end

section
/-! PROOFS for O49. The memories at reset. -/

namespace Sys2Proof.Machine

/-! ## Reset -/

/-- Settles O49: at reset every memory is empty. -/
theorem resetIsCanonical : Obligations.ResetIsCanonical := ⟨rfl, rfl, fun _ => rfl, fun _ => rfl⟩

end Sys2Proof.Machine
end

section
/-! PROOFS for O48, first part. What the canonical form of the memories depends on, the writes, and the operations of the banks and of the
array (R189, R197 to R241). -/

namespace Sys2Proof.Machine

/-! ## What the canonical form of the memories depends on -/

/-- The invariant `Canonical`, with its parts named. -/
structure MemWf (s : State) : Prop where
  mem : s.mem.wf = true
  host : s.host.wf = true
  spad : ∀ k, (coreOf s k).spad.wf = true
  ws : ∀ d, (dieOf s d).ws.wf = true

theorem memWf_iff {s : State} : MemWf s ↔ Canonical s :=
  ⟨fun ⟨mem, host, spad, ws⟩ => ⟨mem, host, spad, ws⟩, fun ⟨mem, host, spad, ws⟩ => ⟨mem, host, spad, ws⟩⟩

section
variable {s t : State} (h : MemWf s)
include h

/-- States with the same memories, cores and dies. -/
theorem MemWf.same (e : (t.mem, t.host, t.cores, t.dies) = (s.mem, s.host, s.cores, s.dies)) : MemWf t := by
  simp only [Prod.ext_iff] at e
  obtain ⟨hmem, hhost, hcores, hdies⟩ := e
  exact ⟨hmem ▸ h.mem, hhost ▸ h.host, fun k => by rw [coreOf, hcores]; exact h.spad k, fun d => by rw [dieOf, hdies]; exact h.ws d⟩

/-- What keeps every store keeps their form. -/
theorem MemWf.kept (k : Kept s t) : MemWf t where
  mem := k.mem ▸ h.mem
  host := k.host ▸ h.host
  spad n := (k.spad n).1 ▸ h.spad n
  ws d := k.ws d ▸ h.ws d

/-- So does what only accesses memory. -/
theorem MemWf.accessed (a : Accessed s t) : MemWf t where
  mem := a.wf h.mem
  host := by rw [a.rest]; exact h.host
  spad n := by rw [coreOf, a.cores]; exact h.spad n
  ws d := a.ws d ▸ h.ws d

/-- The books: all that no memory is kept in. -/
theorem MemWf.books {active args sched free count cycles ctxs feat stepB node nodes unreach memBad lags cxl hbm peers ports retired spaces
    migs sems classes transit semOps xfers conts moves msgs regions parts images loaded launches nlaunch saves funcs queues fw spdm power} :
    MemWf { s with
      active := active, args := args, sched := sched, free := free, count := count, cycles := cycles, ctxs := ctxs, feat := feat
      stepB := stepB, node := node, nodes := nodes, unreach := unreach, memBad := memBad, lags := lags, cxl := cxl, hbm := hbm
      peers := peers, ports := ports, retired := retired, spaces := spaces, migs := migs, sems := sems, classes := classes
      transit := transit, semOps := semOps, xfers := xfers, conts := conts, moves := moves, msgs := msgs, regions := regions
      parts := parts, images := images, loaded := loaded, launches := launches, nlaunch := nlaunch, saves := saves, funcs := funcs
      queues := queues, fw := fw, spdm := spdm, power := power } := h.same rfl

theorem MemWf.setCtx {c : Nat} {x : Ctx} : MemWf (setCtx s c x) := h.same rfl

theorem MemWf.modCtx {c : Nat} {f : Ctx → Ctx} : MemWf (modCtx s c f) := h.same rfl

theorem MemWf.setCore {k : Nat} {x : Core} (hx : x.spad.wf = true) : MemWf (setCore s k x) where
  mem := h.mem
  host := h.host
  spad n := by
    rw [coreOf_setCore]
    split
    · exact hx
    · exact h.spad n
  ws := h.ws

theorem MemWf.modCore {k : Nat} {f : Core → Core} (hf : ∀ x, x.spad.wf = true → (f x).spad.wf = true) :
    MemWf (modCore s k f) := h.setCore (hf _ (h.spad k))

theorem MemWf.modDie {n : Nat} {f : Die → Die} (hf : ∀ x, x.ws.wf = true → (f x).ws.wf = true) :
    MemWf (modDie s n f) where
  mem := h.mem
  host := h.host
  spad := h.spad
  ws d := by
    rw [Machine.modDie, dieOf_setDie]
    split
    · exact hf _ (h.ws n)
    · exact h.ws d

theorem MemWf.modLaunch {l : Nat} {f : Launch → Launch} : MemWf (modLaunch s l f) := h.kept (kept_modLaunch s l f)

theorem MemWf.modRegion {r : Nat} {f : Region → Region} : MemWf (modRegion s r f) := by
  unfold Machine.modRegion
  split
  · exact h.same rfl
  · exact h

end

theorem MemWf.ite {s t : State} {p : Prop} [Decidable p] (h : MemWf s) (g : MemWf t) : MemWf (if p then s else t) := by
  split <;> assumption

theorem MemWf.foldl {α : Type} {g : State → α → State} (hg : ∀ s a, MemWf s → MemWf (g s a)) (l : List α) {s : State}
    (h : MemWf s) : MemWf (l.foldl g s) := by
  induction l generalizing s with
  | nil => exact h
  | cons a l ih => exact ih (hg s a h)

/-- The state of a result that comes with one. -/
theorem MemWf.snd {α : Type} {p : α × State} {a : α} {t : State} (h : MemWf p.2) (e : p = (a, t)) : MemWf t := by
  rw [e] at h
  exact h

/-- An outcome that leaves the memories in canonical form. -/
def Sound : Res → Prop
  | .next t => MemWf t
  | _ => True

/-! ## Writes (R189, R241, R278) -/

section
variable {s : State} (h : MemWf s)
include h

theorem memWf_spadWrite {k a : Nat} {bs : List Byte} : MemWf (spadWrite s k a bs) :=
  h.modCore fun _ hx => Memory.wf_writeBytes _ _ _ hx

theorem memWf_setTags {k a n : Nat} {full : Bool} : MemWf (setTags s k a n full) := h.modCore fun _ hx => hx

theorem memWf_ctxWrite {c a : Nat} {bs : List Byte} : MemWf (ctxWrite s c a bs) := by
  unfold ctxWrite
  split
  · exact h
  · exact .ite (h.same rfl) (memWf_spadWrite h)

theorem memWf_ctxTags {c a n : Nat} {full : Bool} : MemWf (ctxTags s c a n full) := .ite (h.same rfl) (memWf_setTags h)

theorem memWf_hostWrite {a : Nat} {bs : List Byte} : MemWf (hostWrite s a bs) :=
  ⟨h.mem, Memory.wf_writeBytes _ _ _ h.host, h.spad, h.ws⟩

theorem memWf_memWrite {key : Nat} {bs : List Byte} : MemWf (memWrite s key bs) := h.accessed (accessed_memWrite _ _ _)

theorem memWf_writable {die chan asid va : Nat} : MemWf (writable s die chan asid va).2 := h.accessed (accessed_writable _ _ _ _ _)

theorem memWf_writeMem {die chan asid va : Nat} {bs : List Byte} : MemWf (writeMem s die chan asid va bs) := by
  have hw : MemWf (writable s die chan asid va).2 := memWf_writable h
  unfold writeMem
  split
  · next heq => exact memWf_memWrite (hw.snd heq)
  · next heq => exact hw.snd heq

theorem memWf_copyStore {die : Nat} {j : Job} {leaf : D64} {sz va : Nat} {bs : List Byte} :
    MemWf (copyStore s die j leaf sz va bs) := by
  unfold copyStore
  split
  · exact h.same rfl
  · exact h.accessed (accessed_copyWrite _ _ _ _ _)

theorem memWf_poisonMem {ov : Option Nat} {leaf : D64} {sz va : Nat} : MemWf (poisonMem s ov leaf sz va) := by
  unfold poisonMem
  split <;> exact h.same rfl

/-! ## Traps (R336, R394, R399) -/

theorem memWf_enterTrap {c : Nat} {t : TrapInfo} {pc : Nat} {span : SpanCode} {halt : Option D64} {from_ : Option Nat} :
    MemWf (enterTrap s c t pc span halt from_) := h.kept (kept_enterTrap _ _ _ _ _ _ _)

theorem memWf_takeLate {c : Nat} : MemWf (takeLate s c) := by
  unfold takeLate
  dsimp only
  split
  · exact h
  · exact memWf_enterTrap (h.same (by rfl))

theorem memWf_endBundle {c : Nat} : MemWf (endBundle s c) := by
  unfold endBundle
  dsimp only
  split <;> exact h.same rfl

theorem memWf_suspend {c : Nat} {t : Todo} : MemWf (suspend s c t) := h.same rfl

/-! ## The banks (R197 to R214) -/

theorem memWf_performStore {c : Nat} {o : LsOp} : MemWf (performStore s c o) := by
  unfold performStore
  dsimp only
  split
  · exact (memWf_ctxTags (memWf_ctxWrite h)).same rfl
  · exact (memWf_ctxWrite h).same rfl

theorem memWf_takeWord {c : Nat} {o : LsOp} : MemWf (takeWord s c o) := by
  unfold takeWord
  refine MemWf.same (s := ctxTags _ c o.addr 8 false) (memWf_ctxTags ?_) rfl
  split
  · split
    · exact .ite (memWf_performStore h) h
    · exact h
  · exact h

theorem memWf_performLoad {c : Nat} {o : LsOp} : MemWf (performLoad s c o) := by
  unfold performLoad
  dsimp only
  split
  · exact (memWf_takeWord h).same rfl
  · exact h.same rfl

theorem memWf_ownLoads {c : Nat} : MemWf (ownLoads s c) :=
  .foldl (fun _ _ ht => .ite (memWf_performLoad ht) ht) _ h

end

end Sys2Proof.Machine
end

section
/-! PROOFS for O48, second part. The events of the banks, of the array, and of the semaphore files (R191 to R239, R281 to R316). -/

namespace Sys2Proof.Machine

section
variable {s : State} (h : MemWf s)
include h

/-! ## Events of the banks and of the array (R191, R199, R213, R224 to R239) -/

theorem sound_storePerform : Sound (execStorePerform s) := by
  unfold execStorePerform
  dsimp only
  split
  · exact memWf_performStore h
  · exact h

theorem sound_bankRefresh : Sound (execBankRefresh s) := h.modCore fun _ hx => hx

theorem memWf_finishRrot {st : D64} {a : RrotArm} : MemWf (finishRrot st s a) := by
  unfold finishRrot
  exact MemWf.modCtx (h.modCore (by exact fun _ hx => hx))

theorem memWf_finishRrots {st : D64} {l : List RrotArm} : MemWf (l.foldl (finishRrot st) s) :=
  .foldl (fun _ _ ht => memWf_finishRrot ht) l h

theorem sound_rrotRotation : Sound (execRrotRotation s) := by
  unfold execRrotRotation
  extract_lets ring arms turn moves t
  split
  · exact h
  · split
    · exact memWf_finishRrots h
    · exact memWf_finishRrots (.foldl (fun _ _ ht => (memWf_setTags (memWf_spadWrite ht)).modCore (by exact fun _ hx => hx)) _ h)

theorem sound_rrotTimeout : Sound (execRrotTimeout s) := .ite (memWf_finishRrots h) h

theorem memWf_product {o : ArrayOp} {ov : Bool} {k : Nat} {da db : Desc} {dcv g0 n : Nat} :
    MemWf (product s o ov k da db dcv g0 n).1 := by
  unfold product
  dsimp only
  split
  · dsimp only
    exact MemWf.modCore (s := (nextFree s).2) (h.same rfl) fun _ hx => hx
  · dsimp only
    exact h.modCore fun _ hx => hx

theorem memWf_streamRow {core i : Nat} : MemWf (streamRow s core i) := by
  unfold streamRow
  split
  · split
    · extract_lets b d
      split
      · exact h
      · exact h.modCore fun _ hx => hx
    · exact h
  · exact h

theorem sound_arrayOpStart : Sound (execArrayOpStart s) := by
  unfold execArrayOpStart
  dsimp only
  split
  · exact memWf_streamRow h
  · split
    · split
      · exact h
      · exact h.modCore fun _ hx => hx
    · exact h

theorem sound_mgemmKStep : Sound (execMgemmKStep s) := by
  unfold execMgemmKStep
  dsimp only
  split
  · split
    · split
      · exact h
      · exact (memWf_product h).modCore fun _ hx => hx
    · exact h
  · exact h

theorem memWf_settleArray {o : ArrayOp} : MemWf (settleArray s o) := by
  unfold settleArray
  exact .ite (h.modCore (by exact fun _ hx => hx)) (MemWf.modCtx (h.modCore (by exact fun _ hx => hx)))

theorem sound_arrayOpComplete : Sound (execArrayOpComplete s) := by
  unfold execArrayOpComplete
  dsimp only
  split
  · split
    · exact h
    · split
      · exact memWf_settleArray (memWf_product h)
      · split
        · exact h
        · exact memWf_settleArray h
      · exact memWf_settleArray (h.modCore (by exact fun _ hx => hx))
      · exact memWf_settleArray (h.modCore (by exact fun _ hx => hx))
      · exact h
  · exact h

theorem sound_aswapPerform : Sound (execAswapPerform s) := by
  unfold execAswapPerform
  dsimp only
  split
  · split
    · exact h.modCore fun _ hx => hx
    · exact MemWf.modCtx (h.modCore (by exact fun _ hx => hx))
  · exact h

end

/-! ## Operations at an entry (R289 to R316) -/

/-- What every change of an entry keeps, the change of a whole table keeps. -/
theorem Tab.get_map_keeps {α : Type} {d : α} {P : α → Prop} {f : Nat → α → α} (hf : ∀ k x, P x → P (f k x))
    (t : List (Nat × α)) {k : Nat} (h : P (Tab.get d t k)) : P (Tab.get d (t.map fun e => (e.1, f e.1 e.2)) k) := by
  induction t with
  | nil => exact h
  | cons e t ih =>
    simp only [Tab.get, Sparse.get, List.map_cons] at ih h ⊢
    split
    · next he =>
      rw [if_pos he] at h
      exact hf _ _ h
    · next he =>
      rw [if_neg he] at h
      exact ih h

theorem MemWf.mapCores {s : State} (h : MemWf s) {f : Nat → Core → Core} (hf : ∀ k x, x.spad.wf = true → (f k x).spad.wf = true) :
    MemWf { s with cores := s.cores.map fun e => (e.1, f e.1 e.2) } :=
  ⟨h.mem, h.host, fun k => Tab.get_map_keeps (P := fun x : Core => x.spad.wf = true) hf s.cores (h.spad k), h.ws⟩

theorem MemWf.mapDies {s : State} (h : MemWf s) {f : Nat → Die → Die} (hf : ∀ k x, x.ws.wf = true → (f k x).ws.wf = true) :
    MemWf { s with dies := s.dies.map fun e => (e.1, f e.1 e.2) } :=
  ⟨h.mem, h.host, h.spad, fun d => Tab.get_map_keeps (P := fun x : Die => x.ws.wf = true) hf s.dies (h.ws d)⟩

section
variable {s : State} (h : MemWf s)
include h

theorem memWf_roundView {b : RoundBase} : MemWf (roundView s b) :=
  MemWf.books (h.mapCores (f := fun k x => { x with empty := (b.core k).2 }) fun _ _ hx => hx)

theorem memWf_readPerform {c : Nat} {f : State → State} (hf : ∀ t, MemWf t → MemWf (f t)) : MemWf (readPerform s c f) := by
  unfold readPerform
  split
  · next b _ =>
    have hv := hf _ (memWf_roundView h (b := b))
    exact ⟨hv.mem, hv.host, h.spad, hv.ws⟩
  · exact hf s h

theorem memWf_semDeliver {o : SemOp} {r st : D64} : MemWf (semDeliver s o r st) := by
  unfold semDeliver
  split
  · exact h
  · exact h.same rfl

theorem memWf_semDrop {o : SemOp} : MemWf (semDrop s o) := h.modDie fun _ hx => hx

theorem memWf_semFail {o : SemOp} {code : Nat} {r : D64} : MemWf (semFail s o code r) :=
  .ite (memWf_semDeliver h) (.ite h (memWf_semDrop h))

theorem memWf_acquire {c : Nat} : MemWf (acquire s c) := h.same rfl

theorem memWf_semWake {a : Nat} : MemWf (semWake s a) := by
  unfold semWake
  refine MemWf.books (MemWf.foldl (fun t o ht => ?_) _ h)
  split
  · exact memWf_acquire (memWf_semDeliver ht)
  · exact ht

theorem memWf_semWrite {a : Nat} {e : SemEntry} : MemWf (semWrite s a e) := memWf_semWake (h.same (by rfl))

theorem memWf_barrierDec {region a n : Nat} : MemWf (barrierDec s region a n) := .ite (memWf_semWrite h) h

theorem memWf_counterOp {o : SemOp} {op : Nat} {opnd : D64} {cmp : Option D64} : MemWf (counterOp s o op opnd cmp) := by
  unfold counterOp
  split
  · exact memWf_semFail h
  · split
    · exact .ite (memWf_semDeliver (memWf_semWrite h)) (memWf_semDeliver h)
    · exact memWf_semDeliver (memWf_semWrite h)

theorem memWf_stxOp {o : SemOp} {slots : List (Nat × Nat × Nat × Nat)} : MemWf (stxOp s o slots) := by
  unfold stxOp
  extract_lets live
  split
  · exact memWf_semDeliver h
  · refine .ite (memWf_semDeliver h) (memWf_semDeliver ?_)
    exact .foldl (fun _ _ ht => memWf_semWake ht) _ (.foldl (fun _ _ ht => ht.same (by rfl)) _ h)

theorem memWf_barrOp {o : SemOp} : MemWf (barrOp s o) := by
  unfold barrOp
  split
  · exact memWf_semDrop h
  · exact .ite (memWf_semDrop h) (memWf_semWrite h)

theorem memWf_bexpOp {o : SemOp} : MemWf (bexpOp s o) := by
  unfold bexpOp
  split
  · exact memWf_semDrop h
  · exact memWf_semWrite h

theorem memWf_btestOp {o : SemOp} : MemWf (btestOp s o) := by
  unfold btestOp
  split
  · exact memWf_semFail h
  · exact memWf_semDeliver h

theorem memWf_addBal {a : Nat} {d : Int} : MemWf (addBal s a d) := memWf_semWrite h

theorem memWf_cbalOp {o : SemOp} : MemWf (cbalOp s o) := by
  unfold cbalOp
  split
  · exact memWf_semFail h
  · exact memWf_semDeliver h

theorem memWf_cfloorOp {o : SemOp} : MemWf (cfloorOp s o) := by
  unfold cfloorOp
  split
  · exact memWf_semDrop h
  · exact memWf_semWrite h

theorem memWf_cmintOp {o : SemOp} {d : Int} : MemWf (cmintOp s o d) := by
  unfold cmintOp
  split
  · exact memWf_semDrop h
  · exact .ite (memWf_semDrop h) (memWf_addBal h)

theorem memWf_totalEnd {o : SemOp} : MemWf (totalEnd s o) :=
  .ite (memWf_semDeliver h) (.ite (memWf_semDeliver h) (.ite (memWf_semDeliver h) (memWf_semDeliver h)))

theorem memWf_cxferOp {o : SemOp} {form : Nat} : MemWf (cxferOp s o form) := by
  unfold cxferOp
  split
  · exact memWf_semDeliver h
  · extract_lets e
    split
    · exact memWf_semDeliver h
    · refine .ite (memWf_semDeliver h) (.ite (memWf_semDeliver h) (.ite (memWf_semDeliver h) (.ite (memWf_semDeliver h) (.ite ?_ ?_))))
      · split
        · exact memWf_semDeliver h
        · exact memWf_semDeliver (memWf_addBal (memWf_addBal h))
      · exact MemWf.books (memWf_addBal h)

theorem memWf_sinitOp {o : SemOp} : MemWf (sinitOp s o) := .ite (memWf_semDrop h) (memWf_semWrite h)

theorem memWf_cinfoOp {o : SemOp} : MemWf (cinfoOp s o) := by
  unfold cinfoOp
  extract_lets cls
  split
  · exact memWf_semDeliver h
  · exact .ite (memWf_semDeliver h) (.ite (memWf_semDeliver h) (.ite (memWf_semDeliver h) (memWf_semDeliver h)))
  · exact memWf_semDeliver h
  · exact .ite (memWf_semDeliver h) (memWf_semDeliver h)

/-- A watch that is judged on its file. -/
theorem memWf_watchOp {o : SemOp} {counter : Bool} : MemWf (readPerform s o.ctx fun s => match watchTest s o.region o.addr counter o.b with
    | some (code, v) => semDeliver s o v (semStatus code)
    | none => s) := by
  refine memWf_readPerform h fun t ht => ?_
  split
  · exact memWf_semDeliver ht
  · exact ht

theorem memWf_semAct {o : SemOp} : MemWf (semAct s o) := by
  unfold semAct
  split
  · exact memWf_semFail h
  · split
    case h_1 =>
      refine memWf_readPerform h fun t ht => ?_
      split
      · exact memWf_semFail ht
      · exact memWf_semDeliver ht
    case h_2 | h_3 | h_4 | h_5 | h_6 => exact memWf_counterOp h
    case h_7 => exact memWf_stxOp h
    case h_8 | h_9 => exact memWf_watchOp h
    case h_10 => exact memWf_barrOp h
    case h_11 => exact memWf_bexpOp h
    case h_12 => exact memWf_readPerform h fun _ ht => memWf_btestOp ht
    case h_13 => exact memWf_cxferOp h
    case h_14 => exact memWf_readPerform h fun _ ht => memWf_cbalOp ht
    case h_15 => exact memWf_totalEnd h
    case h_16 => exact memWf_cfloorOp h
    case h_17 | h_18 => exact memWf_cmintOp h
    case h_19 => exact memWf_sinitOp h
    case h_20 => exact memWf_cinfoOp h
    case h_21 => exact memWf_barrierDec h

theorem memWf_semPerform {o : SemOp} : MemWf (semPerform s o) := .ite (memWf_acquire (memWf_semAct h)) (memWf_semAct h)

theorem memWf_totalArrive {o : SemOp} : MemWf (totalArrive s o) := by
  unfold totalArrive
  extract_lets drop
  split
  · exact .ite h (memWf_semPerform (h.same (by rfl)))
  · dsimp only
    split
    · exact h.same rfl
    · exact .ite (memWf_semPerform (h.same (by rfl))) (h.same (by rfl))

theorem sound_semArrive : Sound (execSemArrive s) := by
  unfold execSemArrive
  split
  · exact h
  · split
    · exact memWf_totalArrive h
    · split
      · exact h
      · split
        · exact h.same rfl
        · exact memWf_semPerform (h.same (by rfl))

/-! ## Transfers between dies (R308 to R313) -/

theorem memWf_xferDeliver {x : Xfer} {r code : Nat} {odrn : Bool} : MemWf (xferDeliver s x r code odrn) := by
  unfold xferDeliver
  split
  · exact h
  · split
    · exact h
    · exact h.same rfl

theorem memWf_xferTell {x : Xfer} : MemWf (xferTell s x) := MemWf.books (memWf_xferDeliver h)

theorem memWf_refundXfer {x : Xfer} {code : Nat} : MemWf (refundXfer s x code) :=
  .ite (memWf_xferDeliver (memWf_addBal h).books).books (memWf_xferDeliver h).books

theorem sound_creditArrive : Sound (execCreditArrive s) := by
  unfold execCreditArrive
  split
  · exact h
  · split
    · exact memWf_xferTell h
    · split
      · exact h
      · split
        · exact h.same rfl
        · exact MemWf.books (memWf_addBal h)

theorem sound_refundArrive : Sound (execRefundArrive s) := by
  unfold execRefundArrive
  split
  · exact h
  · split
    · exact memWf_xferTell h
    · exact memWf_refundXfer h

theorem sound_ackArrive : Sound (execAckArrive s) := by
  unfold execAckArrive
  split
  · exact h
  · split
    · exact memWf_xferTell h
    · exact MemWf.books (memWf_xferDeliver (h.same (by rfl)))

theorem sound_nodeUnreachable : Sound (execNodeUnreachable s) := by
  unfold execNodeUnreachable
  extract_lets n
  split
  · exact h
  · exact MemWf.books (MemWf.foldl (fun _ _ ht => memWf_semFail ht) _ (h.same (by rfl)))

theorem sound_nodeReachable : Sound (execNodeReachable s) := h.same rfl

end

end Sys2Proof.Machine
end

section
/-! PROOFS for O48, third part. Cards, migration, small transfers and paging (R249 to R278). -/

namespace Sys2Proof.Machine

section
variable {s : State} (h : MemWf s)
include h

/-! ## Cards (R249 to R267) -/

theorem memWf_modJob {die id : Nat} {f : Job → Job} : MemWf (modJob s die id f) := h.modDie fun _ hx => hx

theorem memWf_dropJob {die id : Nat} : MemWf (dropJob s die id) := h.modDie fun _ hx => hx

theorem memWf_touchKey {key : Nat} : MemWf (touchKey s key) := h.accessed (accessed_touchKey s key)

theorem memWf_walkVa {asid va : Nat} : MemWf (walkVa s asid va).2 := h.accessed (accessed_walkVa s asid va)

theorem memWf_readMem {ov : Option Nat} {r : Reader} {chan asid va : Nat} : MemWf (readMem s ov r chan asid va).2 :=
  h.accessed (accessed_readMem s ov r chan asid va)

theorem memWf_readUnit {ov : Option Nat} {r : Reader} {chan asid va n : Nat} : MemWf (readUnit s ov r chan asid va n).2 :=
  h.accessed (accessed_readUnit s ov r chan asid va n)

theorem memWf_readMems {ov : Option Nat} {r : Reader} {chan asid va n : Nat} : MemWf (readMems s ov r chan asid va n).2 :=
  h.accessed (accessed_readMems s ov r chan asid va n)

theorem memWf_wfaultScan {j : Job} {die chan : Nat} {k : Card} {ix : List Nat} (l : List Nat) :
    MemWf (wfaultScan j die chan k ix l s).2 := by
  induction l generalizing s with
  | nil => exact h
  | cons n ns ih =>
    rw [wfaultScan]
    split
    · exact h
    · split
      · next heq => exact (memWf_writable h).snd heq
      · next heq => exact ih (memWf_modJob ((memWf_writable h).snd heq))

theorem memWf_failCard {die id code info : Nat} : MemWf (failCard s die id code info) := by
  unfold failCard
  split
  · exact h
  · exact memWf_modJob h.modRegion

theorem memWf_dispatchCard {die : Nat} {j : Job} {k : Card} {chan : Nat} : MemWf (dispatchCard s die j k chan) := by
  have hj : ∀ f, MemWf (modJob s die j.id f) := fun _ => memWf_modJob h
  unfold dispatchCard
  extract_lets t br u v ix
  have hv : MemWf v := memWf_modJob (hj _).modRegion
  refine .ite (memWf_failCard (hj _)) (.ite (memWf_failCard (hj _)) (.ite (memWf_modJob hv) ?_))
  split
  · exact memWf_failCard hv
  · split
    · exact memWf_failCard hv
    · split
      · exact memWf_failCard hv
      · have hscan : MemWf (if k.ds = 0 then wfaultScan j die chan k ix (pageEntries k ix) v else (none, v)).2 := by
          split
          · exact memWf_wfaultScan hv _
          · exact hv
        dsimp only
        split
        · exact memWf_failCard hscan
        · exact memWf_modJob hscan

theorem memWf_readStream {r : Reader} {j : Job} {k : Card} {n : Nat} : MemWf (readStream s r j k n).2 := by
  unfold readStream
  extract_lets a off
  split
  · split
    · exact h
    · exact memWf_readMem h
  · exact h

theorem memWf_readRun {r : Reader} {j : Job} {k : Card} (l : List Nat) : MemWf (readRun r j k l s).2 := by
  induction l generalizing s with
  | nil => exact h
  | cons n ns ih => exact ih (memWf_readStream h)

theorem memWf_readPiece {die : Nat} {j : Job} {k : Card} {n m : Nat} : MemWf (readPiece s die j k n m) :=
  memWf_modJob (memWf_readRun (s := (nextFree s).2) (h.same rfl) _)

theorem memWf_settleJob {die id len : Nat} : MemWf (settleJob s die id len) := memWf_modJob h

theorem memWf_poisonUnit {j : Job} {die : Nat} {k : Card} {a : Int} : MemWf (poisonUnit s j die k a) := by
  unfold poisonUnit
  split
  · exact h.modDie fun _ hx => hx
  · dsimp only
    split
    · exact h.modCtx
    · exact h.modCore fun _ hx => hx

theorem memWf_writeSpad {j : Job} {k : Card} {ps : List Piece} {a : Int} {bs : List Byte} : MemWf (writeSpad s j k ps a bs) := by
  unfold writeSpad
  dsimp only
  split
  · exact h.same rfl
  · exact .foldl (fun _ _ ht => memWf_setTags ht) _ (memWf_spadWrite h)

theorem memWf_cardPage {die : Nat} {j : Job} {va : Nat} : MemWf (cardPage s die j va).2 := by
  unfold cardPage
  split
  · next heq => exact (memWf_writable h).snd heq
  · exact memWf_writable h

theorem memWf_writeRun {die : Nat} {j : Job} {k : Card} {ps : List Piece} {a : Int} {bs : List Byte} {bad : Bool} :
    MemWf (writeRun s die j k ps a bs bad) := by
  unfold writeRun
  extract_lets done
  have hdone : ∀ t, MemWf t → MemWf (done t) := fun _ ht => memWf_modJob ht
  split
  · split
    · next heq => exact memWf_modJob ((memWf_cardPage h).snd heq)
    · next heq => exact (memWf_cardPage h).snd heq
    · next heq =>
      have hw := (memWf_cardPage h).snd heq
      exact hdone _ (.ite (memWf_poisonMem (memWf_copyStore hw)) (memWf_copyStore hw))
  · have hw : MemWf (if k.ds = 3 then modDie s die fun d => { d with
          ws := Memory.writeBytes d.ws a.toNat bs
          wsBad := if a.toNat % 64 = 0 ∧ bs.length = 64 then NatSet.erase d.wsBad (a.toNat / 64) else d.wsBad }
        else writeSpad s j k ps a bs) :=
      .ite (h.modDie fun _ hd => Memory.wf_writeBytes _ _ _ hd) (memWf_writeSpad h)
    exact hdone _ (.ite (memWf_poisonUnit hw) hw)

theorem memWf_writePieces {die : Nat} {j : Job} {k : Card} {ps : List Piece} : MemWf (writePieces s die j k ps) :=
  .foldl (fun _ _ ht => memWf_writeRun ht) _ h

theorem memWf_speculate {die chan asid : Nat} : MemWf (speculate s die chan asid) := by
  unfold speculate
  exact (memWf_walkVa (s := (nextFree (nextFree s).2).2) (h.same rfl)).modDie fun _ hx => hx

theorem sound_cardEvent {kind : Nat} : Sound (cardEvent s kind) := by
  unfold cardEvent
  extract_lets die
  split
  · exact h
  · split
    · extract_lets k
      split
      · exact h
      · split
        · split
          · exact memWf_speculate (memWf_settleJob (memWf_dispatchCard h))
          · exact h
        · split
          · split
            · exact memWf_speculate (memWf_settleJob (memWf_readPiece h))
            · exact h
          · exact h
    · exact h

theorem sound_cardLinear : Sound (execCardLinear s) := sound_cardEvent h

theorem sound_cardStrided : Sound (execCardStrided s) := sound_cardEvent h

theorem sound_cardGather : Sound (execCardGather s) := sound_cardEvent h

theorem sound_cardScatter : Sound (execCardScatter s) := sound_cardEvent h

theorem sound_cardTile : Sound (execCardTile s) := sound_cardEvent h

theorem sound_cardWswrite : Sound (execCardWswrite s) := sound_cardEvent h

theorem sound_cardBytesArrive : Sound (execCardBytesArrive s) := by
  unfold execCardBytesArrive
  extract_lets die
  split
  · exact h
  · split
    · split
      · exact h
      · extract_lets k
        split
        · exact h
        · exact memWf_settleJob (memWf_modJob (memWf_writePieces h))
    · exact h

theorem sound_barDecrement : Sound (execBarDecrement s) := by
  have hd : ∀ id die f, MemWf (modJob (performDomain s id) die id f) := fun id _ _ => memWf_modJob (s := performDomain s id) (h.same rfl)
  unfold execBarDecrement
  extract_lets die
  split
  · exact h
  · split
    · split
      · exact h
      · extract_lets a t
        split
        · exact (hd _ _ _).modCtx
        · exact memWf_barrierDec (hd _ _ _)
    · exact h

theorem memWf_asyncValue {c : Nat} {id : Option Nat} {v : Val} : MemWf (asyncValue s c id v) := by
  unfold asyncValue
  split
  · exact h
  · exact h.modCtx

theorem memWf_widenLag {job n : Nat} : MemWf (widenLag s job n) := by
  unfold widenLag
  split
  · exact h.same rfl
  · exact h

theorem sound_cardComplete : Sound (execCardComplete s) := by
  unfold execCardComplete
  extract_lets die
  split
  · exact h
  · split
    · split
      · exact memWf_widenLag h
      · split
        · exact h
        · refine memWf_dropJob (memWf_asyncValue (.ite ?_ (h.same (by rfl))))
          extract_lets bs own
          split
          · extract_lets t
            exact .ite (MemWf.modCtx (s := t) (h.same rfl)) (h.same rfl)
          · exact .ite (memWf_setTags (memWf_spadWrite (h.same (by rfl)))) (memWf_spadWrite (h.same (by rfl)))
    · exact h

/-! ## Migration, small transfers and paging (R268 to R272) -/

theorem sound_migrateArm : Sound (execMigrateArm s) := by
  unfold execMigrateArm
  extract_lets die
  split
  · exact h
  · split
    · extract_lets k
      split
      · exact h
      · split
        · exact h
        · extract_lets t
          split
          · split
            · exact memWf_dispatchCard h
            · exact memWf_modJob (memWf_dispatchCard h).books
          · exact memWf_dispatchCard h
    · exact h

theorem sound_migrateWait : Sound (execMigrateWait s) := by
  unfold execMigrateWait
  extract_lets die
  split
  · exact h
  · split
    · extract_lets k
      split
      · exact h
      · split
        · split
          · exact memWf_dispatchCard h
          · exact h
        · split
          · exact memWf_modJob h
          · exact h
    · exact h

theorem sound_migrateLinePull : Sound (execMigrateLinePull s) := by
  unfold execMigrateLinePull
  split
  · exact (memWf_touchKey h).accessed (accessed_pullLine _ _ _)
  · exact h

/-- A small transfer or a request ends with its token. -/
theorem memWf_finish {j : Job} {die : Nat} {v : Val} : MemWf (dropJob (asyncValue s j.ctx j.async v) die j.id) :=
  memWf_dropJob (memWf_asyncValue h)

theorem sound_cpstComplete : Sound (execCpstComplete s) := by
  unfold execCpstComplete
  extract_lets die
  split
  · exact h
  · next j _ =>
    split
    · extract_lets finish
      have hfinish : ∀ t code info, MemWf t → MemWf (finish t code info) := fun _ _ _ ht => memWf_finish ht
      split
      · exact .ite (memWf_widenLag h) (hfinish (performWide s j.id) _ _ (h.same rfl))
      · split
        · exact h
        · split
          · exact hfinish s _ _ h
          · split
            · next heq => exact hfinish _ _ _ ((memWf_writable h).snd heq)
            · next heq => exact hfinish _ _ _ ((memWf_writable h).snd heq)
            · next heq =>
              have hs : ∀ die leaf sz va data, MemWf (copyStore _ die j leaf sz va data) :=
                fun _ _ _ _ _ => memWf_copyStore ((memWf_writable h).snd heq)
              extract_lets t
              split
              · exact memWf_modJob (hs _ _ _ _ _)
              · exact hfinish _ _ _ (hs _ _ _ _ _)
    · exact h

theorem memWf_performCpld {die : Nat} {j : Job} {va n : Nat} : MemWf (performCpld s die j va n) := by
  unfold performCpld
  extract_lets stale
  dsimp only
  refine memWf_dropJob (.ite (memWf_asyncValue (memWf_asyncValue ?_)).modCtx (memWf_asyncValue (memWf_asyncValue ?_)))
  all_goals
    split
    · exact h.same rfl
    · exact memWf_readUnit (s := (nextFree s).2) (h.same rfl)

theorem sound_asyncLanding : Sound (execAsyncLanding s) := by
  unfold execAsyncLanding
  dsimp only
  split
  · split
    · split
      · exact h
      · exact memWf_performCpld h
    · exact h
  · split
    · exact h
    · split
      · exact h
      · exact h.modCtx

theorem memWf_pageIn {leaf : D64} {at_ size : Nat} {write : Bool} {frame : Nat} : MemWf (pageIn s leaf at_ size write frame) :=
  memWf_memWrite h

theorem sound_pagerDecision : Sound (execPagerDecision s) := by
  unfold execPagerDecision
  extract_lets die
  split
  · exact h
  · split
    · extract_lets done
      have hdone : ∀ t code info, MemWf t → Sound (done t code info) := fun _ _ _ ht => memWf_finish ht
      split
      · next heq =>
        have hw := (memWf_walkVa h).snd heq
        split
        · exact hw
        · exact hdone _ _ _ hw
      · next heq =>
        have hw := (memWf_walkVa h).snd heq
        split
        · exact hdone _ _ _ hw
        · split
          · exact hw
          · split
            · exact hdone _ _ _ (memWf_pageIn hw)
            · exact hdone _ _ _ hw
      · next heq =>
        have hw := (memWf_walkVa h).snd heq
        split
        · exact hw
        · split
          · exact hdone _ _ _ (memWf_pageIn hw)
          · exact hdone _ _ _ hw
    · exact h

/-! ## The die's calendar (R244, R259) -/

theorem memWf_dieTo {die : Nat} {f : Die → Nat} : MemWf (modDie s die fun d => dieTo d (f d)) := by
  refine h.modDie fun d hd => ?_
  unfold dieTo
  split <;> exact hd

theorem sound_slotAdvance : Sound (execSlotAdvance s) := memWf_dieTo h

theorem sound_wsRefresh : Sound (execWsRefresh s) := memWf_dieTo h

end

end Sys2Proof.Machine
end

section
/-! PROOFS for O48, fourth part. Code, checkpoints, queues, firmware and power (R65 to R101, R396, R413 to R429). -/

namespace Sys2Proof.Machine

section
variable {s : State} (h : MemWf s)
include h

/-! ## Code (R65 to R71) -/

theorem memWf_modKernel {core l k : Nat} {f : Kernel → Kernel} : MemWf (modKernel s core l k f) := h.modCore fun _ hx => hx

theorem memWf_serveDemand {core : Nat} {k : Kernel} : MemWf (serveDemand s core k) := by
  unfold serveDemand
  split
  · exact h.kept (kept_startLoad _ _ _ _)
  · exact h

theorem memWf_serveDemands {core : Nat} : MemWf (serveDemands s core) := .foldl (fun _ _ ht => memWf_serveDemand ht) _ h

theorem memWf_demandSeg {c seg : Nat} : MemWf (demandSeg s c seg) := by
  unfold demandSeg
  split
  · exact h
  · exact memWf_serveDemands (memWf_modKernel h)

theorem memWf_touchFrame {c pos : Nat} : MemWf (touchFrame s c pos) := by
  unfold touchFrame
  split
  · exact h
  · split
    · exact memWf_modKernel h
    · exact h

theorem sound_literalBundleFetch : Sound (execLiteralBundleFetch s) := by
  unfold execLiteralBundleFetch
  extract_lets c
  split
  · exact h
  · split
    · exact h.modCtx
    · exact h

theorem memWf_codeRead {die asid va n : Nat} : MemWf (codeRead s die asid va n).2 := memWf_readMems h

theorem sound_frameLoadComplete : Sound (execFrameLoadComplete s) := by
  unfold execFrameLoadComplete
  extract_lets core
  split
  · exact h
  · split
    · exact h
    · extract_lets seg asid stale
      have hread : MemWf (if stale = true then ([], s) else
          readMems s none { die := coreDie core, core := some core } portChan asid seg.addr (2 * seg.len)).2 := by
        split
        · exact h
        · exact memWf_readMems h
      exact memWf_serveDemands (memWf_modKernel (.ite (.foldl (fun _ _ ht => ht.modCtx) _ hread) hread))

/-! ## Checkpoints and the return from a handler (R93 to R98, R396) -/

theorem memWf_checkpointAt {c pos tick : Nat} {loops : List LoopEnt} : MemWf (checkpointAt s c pos tick loops) :=
  h.kept (kept_checkpointAt _ _ _ _ _)

theorem memWf_releaseAll {c : Nat} : MemWf (releaseAll s c) := h.kept (kept_releaseAll s c)

theorem memWf_settleWaits {c : Nat} : MemWf (settleWaits s c) := h.same rfl

theorem memWf_rearm {c : Nat} {l : List LsOp} : MemWf (rearm s c l) := by
  unfold rearm
  exact h.modCore fun _ hx => hx

theorem memWf_tretStart {c : Nat} : MemWf (tretStart s c) := by
  unfold tretStart
  extract_lets x
  split
  · split
    · exact h.kept (kept_doubleWrite _ _ _ _)
    · exact memWf_rearm h.setCtx
  · exact h

theorem memWf_tretFinish {c : Nat} : MemWf (tretFinish s c) := by
  unfold tretFinish
  extract_lets x
  split
  · exact h
  · exact .ite h.modCtx (MemWf.books (MemWf.modCtx (.ite (memWf_checkpointAt h) h)))

theorem memWf_tretStep {c : Nat} {t : TretStep} : MemWf (tretStep s c t) := by
  cases t with
  | start => exact .ite (memWf_suspend h) (memWf_tretStart h)
  | spanAction =>
    rw [tretStep]
    split
    · exact h
    · refine .ite h.modCtx (.ite (memWf_suspend h.modCtx) ?_)
      split
      · exact memWf_enterTrap h.modCtx
      · exact h.modCtx.setCtx
  | finish => exact memWf_tretFinish h

/-! ## Command queues (R413 to R419) -/

theorem memWf_modQueue {q : Nat} {f : Queue → Queue} : MemWf (modQueue s q f) := by
  unfold modQueue
  split
  · exact h.same rfl
  · exact h

theorem memWf_postRecord {q tag op status info : Nat} : MemWf (postRecord s q tag op status info) := by
  unfold postRecord
  extract_lets x t u
  have hu : MemWf u := memWf_modQueue (memWf_hostWrite h)
  exact .ite h (.ite (hu.same rfl) hu)

theorem memWf_settleSignals {q : Nat} (n : Nat) : MemWf (settleSignals q n s) := by
  induction n generalizing s with
  | zero => exact h
  | succ n ih =>
    rw [settleSignals]
    split
    · exact .ite (ih (memWf_postRecord (memWf_modQueue h))) h
    · exact h

theorem memWf_finishOpen {q : Nat} {p : OpenPacket} {status info : Nat} : MemWf (finishOpen s q p status info) :=
  .ite (memWf_settleSignals (memWf_postRecord (memWf_modQueue h)) _) h

theorem memWf_finishLaunch {l : Nat} {y : Launch} : MemWf (finishLaunch s l y) := by
  unfold finishLaunch
  split
  · exact memWf_finishOpen h
  · exact h

theorem sound_msiXInterrupt : Sound (execMsiXInterrupt s) := by
  unfold execMsiXInterrupt
  extract_lets q
  split
  · exact h
  · exact memWf_modQueue h

/-! ## Firmware and the SPDM responder (R421 to R425) -/

theorem memWf_createAccounts : MemWf (createAccounts s) := .foldl (fun _ _ ht => ht.same (by rfl)) _ h

theorem sound_heartbeat : Sound (execHeartbeat s) := by
  unfold execHeartbeat
  extract_lets k fw
  split
  · exact h.same rfl
  · split
    · exact h
    · split
      · exact memWf_createAccounts (h.same rfl)
      · split
        · exact h.same rfl
        · exact h

theorem sound_firmwareReset : Sound (execFirmwareReset s) := by
  unfold execFirmwareReset
  extract_lets fw
  split
  · exact h.same rfl
  · exact h

theorem sound_liveUpdate : Sound (execLiveUpdate s) := by
  unfold execLiveUpdate
  extract_lets fw
  split
  · exact h
  · split
    · exact h
    · exact h.same rfl

theorem sound_liveUpdateRollback : Sound (execLiveUpdateRollback s) := by
  unfold execLiveUpdateRollback
  extract_lets fw
  split
  · exact h
  · exact h.same rfl

/-- A request that the responder answers, or refuses before (R423). -/
theorem sound_spdmReady {act : State → State} (ha : MemWf (act s)) : Sound (spdmReady s act) := by
  unfold spdmReady
  split
  · exact h
  · split
    · exact h.same rfl
    · exact ha

theorem sound_getVersion : Sound (execGetVersion s) := by
  unfold execGetVersion
  split
  · exact h
  · exact h.same rfl

theorem sound_getCapabilities : Sound (execGetCapabilities s) := by
  unfold execGetCapabilities
  split
  · exact h
  · split
    · exact h.same rfl
    · exact h.same rfl

theorem sound_negotiateAlgorithms : Sound (execNegotiateAlgorithms s) := by
  unfold execNegotiateAlgorithms
  split
  · exact h
  · split
    · exact h.same rfl
    · split
      · exact h.same rfl
      · exact h.same rfl

theorem sound_getDigests : Sound (execGetDigests s) := sound_spdmReady h (h.same rfl)

theorem sound_getCertificate : Sound (execGetCertificate s) := sound_spdmReady h (.ite (h.same rfl) (h.same rfl))

theorem sound_challenge : Sound (execChallenge s) := sound_spdmReady h (.ite (h.same rfl) (h.same rfl))

theorem sound_getMeasurements : Sound (execGetMeasurements s) := sound_spdmReady h (.ite (h.same rfl) (h.same rfl))

/-! ## Failures, resets and power (R5, R282, R400, R426 to R429) -/

theorem sound_uncorrectableError : Sound (execUncorrectableError s) := by
  unfold execUncorrectableError
  extract_lets b c
  split
  case h_3 => exact h.same rfl
  case h_8 => exact h
  all_goals split
  case h_1.isTrue | h_4.isTrue | h_5.isTrue | h_6.isTrue => exact h.modCore fun _ hx => hx
  case h_2.isTrue => exact h.modDie fun _ hx => hx
  case h_7.isTrue => exact memWf_semWrite h
  all_goals exact h

theorem sound_dieReset : Sound (execDieReset s) := by
  unfold execDieReset
  extract_lets die
  split
  · exact h
  · next own t u _ =>
    have ht : MemWf t := .foldl (fun _ _ ht => memWf_semWrite ht) _ h
    have hu : MemWf u := MemWf.books <| ht.mapCores (f := fun k x => if coreDie k = die then { x with cycle := 0 } else x) fun k x hx => by
      split <;> exact hx
    exact .ite (hu.modDie fun _ hx => hx) hu

theorem sound_bangleRetire : Sound (execBangleRetire s) := by
  unfold execBangleRetire
  extract_lets n
  split
  · exact h.same rfl
  · exact h.same rfl
  · exact h.same rfl
  · exact h

theorem memWf_latchSticky : MemWf (latchSticky s) := h.same rfl

theorem sound_capcauseW1c : Sound (execCapcauseW1c s) := h.same rfl

theorem sound_hallCapFrame : Sound (execHallCapFrame s) := by
  unfold execHallCapFrame
  extract_lets l n
  split <;> exact h.same rfl

theorem sound_energyBurn : Sound (execEnergyBurn s) := by
  unfold execEnergyBurn
  extract_lets part q
  split
  · exact h
  · extract_lets e t
    have ht : MemWf t := .ite (memWf_addBal h) h
    exact ht.same rfl

theorem sound_supplySag : Sound (execSupplySag s) := memWf_latchSticky (h.modDie fun _ hx => hx)

theorem sound_thermalLimit : Sound (execThermalLimit s) := memWf_latchSticky (h.modDie fun _ hx => hx)

theorem sound_supplySagEnds : Sound (execSupplySagEnds s) := memWf_latchSticky (h.modDie fun _ hx => hx)

theorem sound_thermalLimitEnds : Sound (execThermalLimitEnds s) := memWf_latchSticky (h.modDie fun _ hx => hx)

end

end Sys2Proof.Machine
end

section
/-! PROOFS for O48, fifth part. Links, tasks, rounds and the issue of bundles (R50, R112 to R119, R346 to R369). -/

namespace Sys2Proof.Machine

/-- A state, where there is one, with its memories in canonical form. -/
def MemWfSome (r : Option State) : Prop := ∀ t, r = some t → MemWf t

theorem memWfSome_some {t : State} (h : MemWf t) : MemWfSome (some t) := fun _ e => by
  cases e
  exact h

theorem memWfSome_none : MemWfSome none := nofun

theorem MemWfSome.bind {r : Option State} {g : State → Option State} (h : MemWfSome r) (hg : ∀ t, MemWf t → MemWfSome (g t)) :
    MemWfSome (r.bind g) := by
  cases r with
  | none => exact memWfSome_none
  | some t => exact hg t (h t rfl)

theorem MemWfSome.foldl {α : Type} {g : Option State → α → Option State} (hg : ∀ r a, MemWfSome r → MemWfSome (g r a)) (l : List α)
    {r : Option State} (h : MemWfSome r) : MemWfSome (l.foldl g r) := by
  induction l generalizing r with
  | nil => exact h
  | cons a l ih => exact ih (hg r a h)

section
variable {s : State} (h : MemWf s)
include h

/-! ## Links and results (R119, R363 to R368) -/

theorem memWf_recvOne {c : Nat} {r : Nat × Nat} : MemWf (recvOne s c r) := h.kept (kept_recvOne s c r)

theorem memWf_recvAll {c : Nat} : MemWf (recvAll s c) := h.kept (kept_recvAll s c)

theorem memWf_peerMessage {l place data n : Nat} : MemWf (peerMessage s l place data n) := by
  unfold peerMessage
  dsimp only
  split
  · split
    · exact h
    · exact h.same rfl
  · exact h

theorem memWf_peerClosed {l place : Nat} : MemWf (peerClosed s l place) := by
  unfold peerClosed
  extract_lets t
  split
  · exact .foldl (fun _ _ ht => memWf_recvAll ht) _ h.modLaunch
  · exact h.modLaunch

theorem sound_messageArrive : Sound (execMessageArrive s) := by
  unfold execMessageArrive
  split
  · exact memWf_peerClosed h
  · split
    · exact memWf_peerMessage h
    · split
      · exact h
      · split
        · exact h
        · extract_lets away
          split
          · exact h.same rfl
          · exact h.same rfl

theorem sound_resultArrival : Sound (execResultArrival s) := by
  unfold execResultArrival
  dsimp only
  split
  · split
    · exact memWf_performLoad h
    · exact h
  · split
    · exact .ite h (memWf_recvOne h)
    · split
      · split
        · exact h
        · exact h.modCtx
      · exact h

/-! ## Seeds, tasks and rounds (R76, R129, R346 to R369) -/

theorem memWf_startCtx {c l kslot pos : Nat} {gang ckEn initial : Bool} {live : List D64} {task : Task} :
    MemWf (startCtx s c l kslot pos gang ckEn initial live task) := by
  unfold startCtx
  split
  · exact h
  · exact (memWf_modKernel h).setCtx

theorem sound_seedPickup : Sound (execSeedPickup s) := by
  unfold execSeedPickup
  extract_lets c x
  split
  · split
    · exact h
    · extract_lets n j
      split
      · exact h
      · split
        · split
          · exact h
          · exact memWf_startCtx h.modLaunch
        · exact h.setCtx
  · exact h

theorem memWf_wakeSeekers {l shard : Nat} {d : Seed} : MemWf (wakeSeekers s l shard d) := h.kept (kept_wakeSeekers s l shard d)

theorem memWf_addSeed {l shard : Nat} {d : Seed} : MemWf (addSeed s l shard d) := h.kept (kept_addSeed s l shard d)

theorem memWf_takeSeedUnit {r : Nat} : MemWf (takeSeedUnit s r) := h.modRegion

theorem memWf_freeSeed {r : Nat} : MemWf (freeSeed s r) := h.modRegion

theorem memWf_placeSeed {l shard : Nat} {d : Seed} : MemWf (placeSeed s l shard d) := h.kept (kept_placeSeed s l shard d)

theorem memWf_killLaunch {l : Nat} : MemWf (killLaunch s l) := h.kept (kept_killLaunch s l)

theorem memWf_faultDomain {r l : Nat} {c : Option Nat} : MemWf (faultDomain s r l c) := h.kept (kept_faultDomain s r l c)

theorem memWf_submitRound {c : Nat} : MemWf (submitRound s c) := by
  unfold submitRound
  extract_lets x
  split
  · exact h.modLaunch.modCtx
  · exact h

theorem memWf_loseAccs {c : Nat} : MemWf (loseAccs s c) := by
  unfold loseAccs
  split
  · exact .foldl (fun t _ ht => MemWf.modCore (s := (nextFree t).2) (ht.same (by rfl)) (by exact fun _ hx => hx)) _ h
  · exact h

theorem memWf_freeKernels {l core : Nat} {slots : List Nat} : MemWf (freeKernels s l core slots) := h.modCore fun _ hx => hx

theorem memWf_freeArea {l core : Nat} : MemWf (freeArea s l core) :=
  h.modCore fun _ hx => by
    split <;> exact hx

theorem memWf_freeCtx {l c : Nat} : MemWf (freeCtx s l c) := .ite (h.setCtx.modCore fun _ hx => hx) h

theorem memWf_leaveCore {l : Nat} {y : Launch} {core : Nat} : MemWf (leaveCore s l y core) := by
  unfold leaveCore
  exact MemWf.modLaunch (.foldl (fun _ _ ht => memWf_freeCtx ht) _ (memWf_freeArea h))

theorem memWf_leaveDie {l die : Nat} : MemWf (leaveDie s l die) := .ite h (h.modDie fun _ hx => hx)

theorem memWf_reclaimCore {l : Nat} {y : Launch} {core : Nat} : MemWf (reclaimCore s l y core) :=
  .ite h (.ite (memWf_freeKernels h) (.ite (memWf_leaveDie (memWf_leaveCore (memWf_freeKernels h))) h))

theorem memWf_reclaim {l : Nat} : MemWf (reclaim s l) := by
  unfold reclaim
  split
  · exact h
  · exact .ite (.foldl (fun _ _ ht => memWf_reclaimCore ht) _ h) h

theorem memWf_nextWork {c : Nat} : MemWf (nextWork s c) := by
  unfold nextWork
  extract_lets t u
  have hu : MemWf u := memWf_serveDemands h.modCtx.books
  split
  · exact memWf_reclaim hu
  · exact hu

theorem memWf_endRound {c : Nat} : MemWf (endRound s c) := by
  unfold endRound
  extract_lets t u v
  have hv : MemWf v := memWf_endBundle (memWf_submitRound h).modCtx
  split
  · exact hv
  · exact hv.modCtx.modLaunch

theorem memWf_register {c : Nat} {k : Cont} : MemWf (register s c k) := by
  have ht : MemWf (if (ctxOf s c).task.seed.isSome then s else takeSeedUnit s k.region) := .ite h (memWf_takeSeedUnit h)
  exact ht.same rfl

theorem memWf_taskOver {c : Nat} {free : Bool} {ticks : Nat} : MemWf (taskOver s c free ticks) := by
  unfold taskOver
  have ht : MemWf (loseAccs (submitRound s c) c) := memWf_loseAccs (memWf_submitRound h)
  exact memWf_nextWork (MemWf.modCtx (.ite (memWf_freeSeed ht) ht))

theorem memWf_finishTask {c : Nat} {k : EndKind} : MemWf (finishTask s c k) := by
  unfold finishTask
  extract_lets x
  split
  · exact h
  · exact memWf_endRound h
  · refine memWf_taskOver ?_
    split
    · exact h.modLaunch
    · exact h
  · exact memWf_taskOver h
  · refine memWf_taskOver ?_
    split
    · exact memWf_register h
    · exact h

theorem memWf_endTask {c : Nat} {k : EndKind} : MemWf (endTask s c k) := by
  unfold endTask
  split
  · exact h
  · split
    · exact memWf_suspend h
    · extract_lets t u
      have ht : MemWf u := .ite h (.ite (memWf_releaseAll h.modCtx) h.modCtx)
      exact .ite (memWf_suspend ht) (memWf_finishTask ht)

theorem memWf_enterCont {k : Cont} {v : D64} : MemWf (enterCont s k v) := by
  unfold enterCont
  extract_lets t
  split
  · exact h.same rfl
  · exact memWf_addSeed (s := t) (h.same rfl)

theorem sound_continuationEnter : Sound (execContinuationEnter s) := by
  unfold execContinuationEnter
  split
  · exact h
  · split
    · exact h
    · extract_lets view
      split
      · exact h.same rfl
      · exact memWf_enterCont h

theorem sound_walkerStep : Sound (execWalkerStep s) := by
  unfold execWalkerStep
  extract_lets l
  split
  · exact h
  · split
    · exact h
    · split
      · split
        · exact h
        · exact memWf_placeSeed (memWf_takeSeedUnit h.modLaunch)
      · exact memWf_placeSeed (memWf_takeSeedUnit h.modLaunch)
      · exact h

theorem memWf_applyUnit {o : Overlay} {space size u : Nat} {write : State → Nat → List Byte → State}
    (hw : ∀ t a bs, MemWf t → MemWf (write t a bs)) : MemWf (applyUnit o space size u write s) := by
  unfold applyUnit
  extract_lets got
  refine .ite (hw _ _ _ h) (.foldl (fun t p ht => ?_) _ h)
  split
  · exact hw _ _ _ ht
  · exact ht

theorem memWf_applyOverlay {asid : Nat} {o : Overlay} : MemWf (applyOverlay s asid o) := by
  unfold applyOverlay
  refine .foldl (fun _ _ ht => memWf_setTags ht) _ (.foldl (fun t u ht => ?_) _ (.foldl (fun _ _ ht => ?_) _ (.foldl (fun _ _ ht => ?_) _ h)))
  · split
    · split
      · next heq => exact memWf_poisonMem ((memWf_writable ht).snd heq)
      · next heq => exact (memWf_writable ht).snd heq
    · exact ht.modCore fun _ hx => hx
  · exact memWf_applyUnit ht fun _ _ _ hu => memWf_spadWrite hu
  · exact memWf_applyUnit ht fun _ _ _ hu => memWf_writeMem hu

theorem memWf_releaseRound {r c : Nat} : MemWf (releaseRound s r c) := .ite (memWf_checkpointAt h.modCtx) h.modCtx

theorem memWf_enterConts {l : Nat} : MemWf (enterConts s l) := by
  refine .foldl (fun _ _ ht => ?_) _ h
  split
  · exact memWf_enterCont ht
  · exact ht

theorem memWf_mergeRound {l : Nat} {y : Launch} : MemWf (mergeRound s l y) := by
  unfold mergeRound
  extract_lets tasks t u v w z
  have hu : MemWf u := .foldl (fun _ _ ht => .foldl (fun _ _ hv => memWf_semPerform hv) _ ht) _
    (.foldl (fun _ _ ht => memWf_applyOverlay ht) _ h)
  have hz : MemWf z := .foldl (fun _ _ ht => memWf_releaseRound ht) _ (memWf_enterConts hu).modLaunch
  split
  · exact hz
  · exact .foldl (fun _ _ ht => .foldl (fun _ _ hv => memWf_wakeSeekers hv) _ ht) _ hz

theorem sound_roundMerge : Sound (execRoundMerge s) := by
  unfold execRoundMerge
  extract_lets l
  split
  · exact h
  · split
    · exact h
    · split
      · exact memWf_killLaunch (memWf_faultDomain h.modLaunch)
      · exact memWf_mergeRound h

theorem memWfSome_landTile {ov : Option Nat} {die asid dst : Nat} {bs : List ByteIn} : MemWfSome (landTile s ov die asid dst bs) := by
  unfold landTile
  refine .foldl (fun r p hr => hr.bind fun t ht => ?_) _ (memWfSome_some h)
  split
  · next heq =>
    have hw := (memWf_writable ht).snd heq
    extract_lets u
    have hu : MemWf u := by
      unfold u
      split
      · exact hw.same rfl
      · exact memWf_memWrite hw
    exact memWfSome_some (.ite (memWf_poisonMem hu) hu)
  · next heq => exact memWfSome_some ((memWf_writable ht).snd heq)
  · exact memWfSome_none

theorem memWfSome_moveTile {ov : Option Nat} {die asid : Nat} {t : Nat × Nat × Nat} : MemWfSome (moveTile s ov die asid t) :=
  memWfSome_landTile (memWf_readMems h)

theorem memWfSome_copyTiles {m : MoveSeed} : MemWfSome (copyTiles s m) := by
  unfold copyTiles
  extract_lets asid
  split
  · exact memWfSome_none
  · exact .foldl (fun _ _ hr => hr.bind fun _ ht => memWfSome_moveTile ht) _ (memWfSome_some h)

theorem memWf_landSeed {m : MoveSeed} : MemWf (landSeed s m) := by
  unfold landSeed
  split
  · exact .ite (memWf_placeSeed h) (memWf_freeSeed h)
  · exact memWf_freeSeed h

theorem memWfSome_landTiles {asid : Nat} (l : List (Nat × Nat × Nat)) {bs : List Byte} : MemWfSome (landTiles asid l bs s) := by
  induction l generalizing s bs with
  | nil => exact memWfSome_some h
  | cons t ts ih => exact (memWfSome_landTile h).bind fun _ ht => ih ht

theorem memWf_peerSeed {l own : Nat} {bs : List Byte} : MemWf (peerSeed s l own bs) := by
  unfold peerSeed
  split
  · exact h
  · extract_lets d list
    split
    · exact h
    · split
      · next heq => exact memWf_placeSeed (memWf_takeSeedUnit (memWfSome_landTiles h _ _ heq))
      · exact h

theorem sound_moveSeedArrive : Sound (execMoveSeedArrive s) := by
  unfold execMoveSeedArrive
  split
  · exact memWf_peerSeed h
  · split
    · exact h
    · next m _ =>
      extract_lets out
      have hout : MemWf out := h.same rfl
      split
      · exact h
      · split
        · split
          · split
            · exact h
            · exact memWf_landSeed hout
          · exact memWf_landSeed hout
        · split
          · exact h
          · split
            · exact hout.kept (kept_dispatchFault _ _ _ _)
            · next heq =>
              have ht := memWfSome_copyTiles hout _ heq
              split
              · exact ht.same rfl
              · exact memWf_landSeed ht

/-! ## The issue of a bundle (R50, R112 to R116) -/

theorem memWf_implicitCheckpoint {c : Nat} : MemWf (implicitCheckpoint s c) := by
  unfold implicitCheckpoint
  exact (memWf_checkpointAt h).modCtx

theorem memWf_issueBundle {c : Nat} {f : Frame} {acting : List Slot} : MemWf (issueBundle s c f acting) :=
  MemWf.books (memWf_touchFrame h.modCtx)

theorem memWf_clearFault {c : Nat} : MemWf (clearFault s c) := by
  unfold clearFault
  split
  · exact h
  · exact memWf_modKernel h

end

/-- What a context would do leaves the memories in canonical form. -/
def Try.Sound : Try → Prop
  | .trap t | .act t => MemWf t
  | _ => True

theorem Try.Sound.acted {r : Try} (h : r.Sound) : MemWfSome r.acted := by
  cases r with
  | wait | stall => exact memWfSome_none
  | trap t | act t => exact memWfSome_some h

section
variable {s : State} (h : MemWf s)
include h

theorem sound_tryBundle {c : Nat} {ws : List Word} {len : Nat} : (tryBundle s c ws len).Sound := by
  unfold tryBundle
  extract_lets x acting
  split
  · trivial
  · split
    · exact memWf_enterTrap h
    · split
      · exact memWf_enterTrap h
      · split
        · exact memWf_enterTrap h
        · split
          · trivial
          · split
            · exact memWf_implicitCheckpoint h
            · exact memWf_issueBundle h.modCtx

theorem sound_tryIssue {c : Nat} : (tryIssue s c).Sound := by
  unfold tryIssue
  extract_lets x
  split
  · trivial
  · split
    · exact memWf_takeLate h
    · split
      · split <;> trivial
      · split
        · trivial
        · split
          · trivial
          · split
            · trivial
            · exact memWf_enterTrap (memWf_clearFault h)
            · exact sound_tryBundle h
            · split
              · trivial
              · split
                · exact memWf_enterTrap h
                · exact sound_tryBundle h

theorem memWf_prepareCtx {c : Nat} : MemWf (prepareCtx s c) := by
  unfold prepareCtx
  extract_lets t x
  have ht : MemWf t := memWf_settleWaits (h.kept (kept_pump s c))
  refine .ite ht ?_
  split
  · exact ht
  · split
    · exact memWf_demandSeg ht
    · exact ht

theorem memWf_selected {core i : Nat} {rival : Bool} : MemWf (selected s core i rival) := h.modCore fun _ hx => hx

theorem memWf_firstAct {core : Nat} (l : List Nat) : ∀ p, firstAct s core l = some p → MemWf p.2 := by
  induction l with
  | nil => exact nofun
  | cons i is ih =>
    intro p hp
    rw [firstAct] at hp
    split at hp
    · next heq =>
      cases hp
      exact (sound_tryIssue h).acted _ heq
    · exact ih p hp

theorem memWf_selectIssue {core : Nat} : MemWf (selectIssue s core) := by
  unfold selectIssue
  extract_lets k n rival idle own
  have hidle : MemWf idle := h.modCore fun _ hx => hx
  split
  · exact hidle
  · next heq _ _ => exact memWf_selected ((sound_tryIssue h).acted _ heq)
  · split
    · next heq => exact memWf_selected (memWf_firstAct h _ _ heq)
    · exact hidle

theorem memWf_trialBundle {c : Nat} : MemWf (trialBundle s c) := h.modCtx

theorem memWf_withdrawBundle {c : Nat} {f : Frame} : MemWf (withdrawBundle s c f) := h.same rfl

theorem memWf_stopTrap {c : Nat} : MemWf (stopTrap s c) := by
  unfold stopTrap
  extract_lets stop back
  have hback : ∀ t, MemWf t → MemWf (back t) := fun _ ht => ht.modCtx
  have htry := sound_tryIssue (c := c) (h.modCtx (c := c) (f := fun x => { x with stop := false }))
  split
  · next heq =>
    rw [heq] at htry
    exact hback _ htry
  · next heq =>
    rw [heq] at htry
    exact .ite (hback _ (memWf_trialBundle htry)) h
  · exact h

theorem memWf_stopping {cs : List Nat} {ev : Nat → Event} : MemWf (stopping s cs ev) := by
  unfold stopping
  exact MemWf.books (.foldl (fun _ _ ht => ht.modCtx) _ h)

theorem memWf_stopCore {core : Nat} : MemWf (stopCore s core) := by
  unfold stopCore
  exact memWf_stopping (h.modCore (by exact fun _ hx => hx))

theorem memWf_stopCtx {c : Nat} : MemWf (stopCtx s c) := memWf_stopping h.modCtx

theorem sound_bundleIssue : Sound (execBundleIssue s) := by
  unfold execBundleIssue
  extract_lets core
  split
  · exact h
  · next cs t due _ =>
    have ht : MemWf t := .foldl (fun _ _ hu => memWf_prepareCtx hu) _ (memWf_serveDemands h)
    clear_value due t
    split
    · exact memWf_takeLate ht
    · exact ht.books
    · split
      · exact ht.books
      · exact memWf_selectIssue ht

end

end Sys2Proof.Machine
end

section
/-! PROOFS for O48, sixth part. Launches: installation, specialisation, placement and retirement (R60, R193, R337 to R387, R430). -/

namespace Sys2Proof.Machine

/-! ## Tables with entries left out -/

/-- What is left of a table in canonical form is in canonical form. -/
theorem Sparse.wf_filter {α : Type} [DecidableEq α] (d : α) (p : Nat × α → Bool) (l : List (Nat × α)) (h : Sparse.wf d l = true) :
    Sparse.wf d (l.filter p) = true := by
  induction l with
  | nil => exact h
  | cons e t ih =>
    obtain ⟨a, v⟩ := e
    rw [Sparse.wf_cons] at h
    obtain ⟨hv, ha, ht⟩ := h
    rw [List.filter_cons]
    split
    · rw [Sparse.wf_cons]
      refine ⟨hv, ?_, ih ht⟩
      rw [List.all_eq_true] at ha ⊢
      exact fun q hq => ha q (List.mem_of_mem_filter hq)
    · exact ih ht

theorem MemWf.filterCores {s : State} (h : MemWf s) {p : Nat → Bool} : MemWf { s with cores := s.cores.filter fun e => p e.1 } where
  mem := h.mem
  host := h.host
  spad k := by
    show (Tab.get {} (s.cores.filter fun e => p e.1) k).spad.wf = true
    rw [Tab.get_filter_key]
    split
    · exact h.spad k
    · rfl
  ws := h.ws

/-- A result with a state whose memories are in canonical form, where it is one. -/
def SoundExcept {α : Type} (r : Except Failure (α × State)) : Prop := ∀ p, r = .ok p → MemWf p.2

theorem soundExcept_ok {α : Type} {a : α} {t : State} (h : MemWf t) : SoundExcept (.ok (a, t)) := fun _ e => by
  cases e
  exact h

theorem soundExcept_error {α : Type} {f : Failure} : SoundExcept (.error f : Except Failure (α × State)) := nofun

theorem SoundExcept.foldl {α β : Type} {g : Except Failure (α × State) → β → Except Failure (α × State)}
    (hg : ∀ r a, SoundExcept r → SoundExcept (g r a)) (l : List β) {r : Except Failure (α × State)} (h : SoundExcept r) :
    SoundExcept (l.foldl g r) := by
  induction l generalizing r with
  | nil => exact h
  | cons a l ih => exact ih (hg r a h)

/-- The state that a fold carries beside a list. -/
theorem MemWf.foldlSnd {α β : Type} {g : β × State → α → β × State} (hg : ∀ r a, MemWf r.2 → MemWf (g r a).2) (l : List α)
    {r : β × State} (h : MemWf r.2) : MemWf (l.foldl g r).2 := by
  induction l generalizing r with
  | nil => exact h
  | cons a l ih => exact ih (hg r a h)

/-- The same where the fold may give up. -/
theorem MemWfSome.foldlSnd {α β : Type} {g : Option (β × State) → α → Option (β × State)}
    (hg : ∀ r a, MemWfSome (r.map Prod.snd) → MemWfSome ((g r a).map Prod.snd)) (l : List α) {r : Option (β × State)}
    (h : MemWfSome (r.map Prod.snd)) : MemWfSome ((l.foldl g r).map Prod.snd) := by
  induction l generalizing r with
  | nil => exact h
  | cons a l ih => exact ih (hg r a h)

section
variable {s : State} (h : MemWf s)
include h

/-! ## Code, areas and specialisation (R60, R193, R371 to R387) -/

theorem memWf_segWords {die asid : Nat} {g : Segment} : MemWf (segWords s die asid g).2 := memWf_codeRead h

theorem memWf_installKernel {l : Nat} {y : Launch} {core slot : Nat} : MemWf (installKernel s l y core slot) := by
  unfold installKernel
  split
  · exact h
  · have hw : ∀ (segs : List Segment), MemWf (match segs with
        | g :: _ => segWords s (coreDie core) (asidOf s y.region) g
        | [] => (none, s)).2 := by
      intro segs
      cases segs with
      | nil => exact h
      | cons g _ => exact memWf_segWords h
    exact (hw _).setCore ((hw _).spad core)

theorem memWf_allotArea {l : Nat} {y : Launch} {core : Nat} : MemWf (allotArea s l y core) := by
  unfold allotArea
  extract_lets n
  refine .ite h (.foldl (fun t slot ht => ?_) _ (h.modCore fun _ hx => Sparse.wf_filter _ _ _ hx))
  split
  · exact .foldl (fun _ _ hu => memWf_spadWrite hu) _ ht
  · exact ht

theorem memWf_installCore {l : Nat} {y : Launch} {core : Nat} : MemWf (installCore s l y core) :=
  memWf_allotArea (.foldl (fun _ _ ht => memWf_installKernel ht) _ h)

theorem memWfSome_loadObjects {y : Launch} {die : Nat} : MemWfSome (loadObjects s y die) := by
  unfold loadObjects
  extract_lets asid units found
  split
  · exact memWfSome_some h
  · have hfound : MemWfSome (found.map Prod.snd) := by
      refine MemWfSome.foldlSnd (fun r u hr => ?_) _ (memWfSome_some h)
      cases r with
      | none => exact memWfSome_none
      | some r =>
        rw [Option.bind_some]
        split
        · next heq => exact memWfSome_some ((memWf_writable (hr _ rfl)).snd heq)
        · exact memWfSome_none
    intro t ht
    obtain ⟨r, hr, rfl⟩ := Option.map_eq_some_iff.mp ht
    exact MemWf.books (.foldl (fun _ _ hu => memWf_memWrite hu) _ (hfound r.2 (by rw [hr]; rfl)))

theorem memWf_readHandlers {y : Launch} {die : Nat} : MemWf (readHandlers s y die).2 := by
  unfold readHandlers
  extract_lets base
  split
  · exact h
  · refine MemWf.foldlSnd (r := (_, s)) (fun r n hr => ?_) _ h
    dsimp only
    refine MemWf.foldlSnd (fun q c hq => ?_) _ hr
    dsimp only
    exact memWf_codeRead hq

theorem memWfSome_evictOne {die r : Nat} : MemWfSome (evictOne s die r) := by
  unfold evictOne
  extract_lets idle own
  split
  · exact memWfSome_none
  · exact memWfSome_some (h.modDie fun _ hx => hx)

theorem memWf_makeRoom {die r n : Nat} (f : Nat) : MemWf (makeRoom die r n f s) := by
  induction f generalizing s with
  | zero => exact h
  | succ f ih =>
    rw [makeRoom]
    split
    · exact h
    · split
      · next heq => exact ih (memWfSome_evictOne h _ heq)
      · exact h

theorem memWf_installResidual {l slot core : Nat} {r : Residual} : MemWf (installResidual s l slot core r) := by
  unfold installResidual
  extract_lets k
  split
  · exact h
  · exact memWf_modKernel (h.setCore (by exact h.spad core))

theorem memWf_installOn {l slot : Nat} {cores : List Nat} {r : Option Residual} : MemWf (installOn s l slot cores r) := by
  unfold installOn
  split
  · exact .foldl (fun _ _ ht => memWf_installResidual ht) _ h
  · exact h

theorem memWf_specEntry {l : Nat} {y : Launch} {die slot entry : Nat} {i : KernelImage} {words : List (List Idx)} {cores : List Nat} :
    MemWf (specEntry s l y die slot entry i words cores).2 := by
  unfold specEntry
  extract_lets key now room
  split
  · exact memWf_installOn (h.modDie (by exact fun _ hx => hx))
  · split
    · exact h
    · exact memWf_installOn ((memWf_makeRoom h _).modDie (by exact fun _ hx => hx))

theorem memWf_kernelWords {die asid : Nat} {i : KernelImage} : MemWf (kernelWords s die asid i).2 := by
  refine MemWf.foldlSnd (fun r g hr => ?_) _ h
  exact memWf_segWords hr

theorem memWf_retimeOn {l : Nat} {y : Launch} {slot : Nat} {words : List (List Idx)} {cores : List Nat} :
    MemWf (retimeOn s l y slot words cores).2 := by
  unfold retimeOn
  extract_lets first
  split
  · exact h
  · split
    · exact h
    · exact .foldl (fun _ _ ht => memWf_modKernel ht) _ h

theorem memWf_specKernel {l : Nat} {y : Launch} {die slot : Nat} {cores : List Nat} : MemWf (specKernel s l y die slot cores).2 := by
  unfold specKernel
  split
  · exact h
  · next i _ =>
    have hw := memWf_kernelWords h (die := die) (asid := asidOf s y.region) (i := i)
    generalize kernelWords s die (asidOf s y.region) i = q at hw ⊢
    obtain ⟨words, t⟩ := q
    dsimp -zeta only
    extract_lets points nofold r must seen bad
    have hr : MemWf r.2 := by
      unfold r
      split
      · exact hw
      · refine MemWf.foldlSnd (fun q p hq => ?_) _ hw
        exact memWf_specEntry hq
    dsimp only
    split
    · exact memWf_retimeOn hr
    · exact hr

theorem soundExcept_specDie {l : Nat} {y : Launch} {die : Nat} {cores : List Nat} : SoundExcept (specDie s l y die cores) := by
  unfold specDie
  extract_lets lead
  refine .foldl (fun r slot hr => ?_) _ (soundExcept_ok h)
  split
  · exact soundExcept_error
  · have hk := memWf_specKernel (hr _ rfl) (l := l) (y := y) (die := die) (slot := slot) (cores := cores)
    dsimp only
    split
    · exact soundExcept_error
    · exact soundExcept_ok hk

/-! ## Launches (R337 to R343, R430) -/

theorem memWf_writeHeader {y : Launch} {code : Nat} {done : Bool} : MemWf (writeHeader s y code done) := .ite h (memWf_hostWrite h)

theorem memWf_concludeLaunch {l : Nat} {y : Launch} {whole : Bool} : MemWf (concludeLaunch s l y whole) := by
  unfold concludeLaunch
  have ht : MemWf (writeHeader (setLaunch s l { y with stage := .retired }) y y.code true) :=
    memWf_writeHeader (h.kept (kept_setLaunch _ _ _))
  exact memWf_finishLaunch (.ite (memWf_hostWrite ht) ht)

theorem memWf_failLaunch {l : Nat} {y : Launch} {f : Failure} : MemWf (failLaunch s l y f) := memWf_concludeLaunch h

theorem memWf_installAll {l : Nat} {y : Launch} {cores : List Nat} : ∀ t, installAll s l y cores = .ok t → MemWf t := by
  intro t ht
  unfold installAll at ht
  split at ht
  · cases ht
  · cases ht
    exact .foldl (fun _ _ ht => memWf_installCore ht) _ h

theorem soundExcept_specAll {l : Nat} {y : Launch} {cores : List Nat} : SoundExcept (specAll s l y cores) := by
  unfold specAll
  refine .foldl (fun r d hr => ?_) _ (soundExcept_ok h)
  split
  · exact soundExcept_error
  · have ht := hr _ rfl
    extract_lets here
    split
    · exact soundExcept_ok ht
    · split
      · exact soundExcept_error
      · next heq => exact soundExcept_ok (soundExcept_specDie ht _ heq)

theorem memWf_startCore {l : Nat} {y : Launch} {ctxs : List Nat} : MemWf (startCore s l y ctxs) := by
  unfold startCore
  split
  · exact .foldl (fun _ _ ht => memWf_startCtx ht) _ h
  · exact .foldl (fun _ _ ht => ht.same (by rfl)) _ h

theorem memWf_startLaunch {l : Nat} {y : Launch} {bangles : List Nat} : MemWf (startLaunch s l y bangles) := by
  unfold startLaunch
  extract_lets cores pol held y' die n
  split
  · exact memWf_failLaunch h
  · next heq1 =>
    have h1 := memWf_installAll h _ heq1
    split
    · exact memWf_failLaunch h
    · next heq2 =>
      have h2 := soundExcept_specAll h1 _ heq2
      split
      · exact memWf_killLaunch (memWf_faultDomain (h.same (by rfl)))
      · next heq3 =>
        have h3 := memWf_readHandlers (memWfSome_loadObjects h2 _ heq3) (y := y') (die := die)
        generalize readHandlers _ y' die = r at h3 ⊢
        obtain ⟨hs, t⟩ := r
        dsimp -zeta only
        extract_lets z u
        have hu : MemWf u := .foldl (fun _ _ ht => memWf_startCore ht) _ (h3.kept (kept_setLaunch _ _ _))
        exact .ite hu.modLaunch hu

theorem memWf_stopLaunch {l : Nat} : MemWf (stopLaunch s l) := by
  unfold stopLaunch
  split
  · exact h
  · refine .foldl (fun _ _ ht => .ite (memWf_stopCore ht) ht) _ (.foldl (fun _ _ ht => ht.modCore (by exact fun _ hx => hx)) _ ?_)
    exact h.kept (kept_setLaunch _ _ _)

theorem memWf_resumeLaunch {l : Nat} {y : Launch} {bangles : List Nat} : MemWf (resumeLaunch s l y bangles) := h.same rfl

theorem memWfSome_takeEntry {l die : Nat} {e : SpecEnt} : MemWfSome (takeEntry l die s e) := by
  unfold takeEntry
  extract_lets t
  have ht : MemWf t := memWf_makeRoom h _
  split
  · exact memWfSome_none
  · exact memWfSome_some (ht.modDie fun _ hx => hx)

theorem memWfSome_takeEntries {l old new : Nat} : MemWfSome (takeEntries s l old new) := by
  unfold takeEntries
  generalize missingEntries s l old new = es
  induction es generalizing s with
  | nil => exact memWfSome_some h
  | cons e es ih => exact (memWfSome_takeEntry h).bind fun _ ht => ih ht

theorem sound_launchPlace : Sound (execLaunchPlace s) := by
  unfold execLaunchPlace
  extract_lets l
  split
  · exact h
  · split
    · exact h
    · split
      · split
        · exact memWf_failLaunch h
        · split
          · exact h
          · split
            · exact memWf_startLaunch h
            · split
              · exact h
              · split
                · exact memWf_stopLaunch h
                · exact h
      · split
        · exact h
        · split
          · split
            · exact memWf_resumeLaunch h
            · exact h
          · exact h
      · exact h

theorem memWf_stopSpenders {b core : Nat} : MemWf (stopSpenders s b core) :=
  .ite h (.ite (memWf_stopCore h) (.foldl (fun _ _ ht => memWf_stopCtx ht) _ h))

theorem memWf_writeHeld {b code : Nat} : MemWf (writeHeld s b code) := .foldl (fun _ _ ht => memWf_writeHeader ht) _ h

theorem sound_cycbExhausted : Sound (execCycbExhausted s) := by
  unfold execCycbExhausted
  extract_lets b
  split
  · exact h
  · split
    · exact h
    · exact memWf_writeHeld (.foldl (fun _ _ ht => .ite (memWf_stopSpenders ht) ht) _ h.modRegion)

theorem memWf_freeCore {l core : Nat} : MemWf (freeCore s l core) := h.modCore fun _ hx => hx

theorem sound_launchRetire : Sound (execLaunchRetire s) := by
  unfold execLaunchRetire
  extract_lets l
  split
  · exact h
  · split
    · exact memWf_reclaim h
    · extract_lets live t u v own w code
      have hv : MemWf v := .foldl (fun _ _ ht => memWf_freeCore ht) _ (.foldl (fun _ _ ht => memWf_freeCtx ht) _
        (.foldl (fun _ _ ht => memWf_freeSeed ht) _ h))
      have hw : MemWf w := MemWf.books <| MemWf.filterCores (p := fun n => !own.any fun i => n == Config.cores + i.1) <|
        hv.mapDies (f := fun _ d => { d with
          cache := (d.cache.map fun e => { e with users := NatSet.erase e.users l }).filter fun e => !e.own || e.users != [] }) fun _ _ hd => hd
      exact memWf_concludeLaunch hw

end

end Sys2Proof.Machine
end

section
/-! PROOFS for O48, seventh part. Saves, restores and packets (R401 to R418). -/

namespace Sys2Proof.Machine

section
variable {s : State} (h : MemWf s)
include h

/-! ## Ticks and checkpoint mode (R93, R115, R118) -/

theorem sound_resultDue : Sound (execResultDue s) := by
  unfold execResultDue
  extract_lets c x due ticks
  split
  · exact h
  · exact h.setCtx

theorem sound_idleTick : Sound (execIdleTick s) := by
  unfold execIdleTick
  extract_lets c x
  split
  · exact h
  · exact h.setCtx.modCore fun _ hk => by
      split <;> exact hk

theorem sound_holderLimit : Sound (execHolderLimit s) := by
  unfold execHolderLimit
  extract_lets k
  split
  · exact h.modCore fun _ hx => hx
  · exact h

/-! ## Saves and restores (R401 to R407) -/

theorem memWf_renumber {l : Nat} {r : Renaming} {core : Nat → Nat} : MemWf (renumber s l r core) := by
  unfold renumber
  exact MemWf.books <| (h.mapDies (f := fun _ d => { d with jobs := d.jobs.map (renameJob r) }) fun _ _ hd => hd).mapCores
    (f := fun _ k => { k with aq := k.aq.map fun o =>
      if (List.lookup o.ctx r).isSome then { o with ctx := r.new o.ctx, view := o.view.map (renameOverlay r core) } else o }) fun _ _ hk => hk

theorem memWf_saveCtx {c : Nat} : MemWf (saveCtx s c) := by
  unfold saveCtx
  exact MemWf.modCtx ((memWf_acquire h).modCore (by exact fun _ hx => hx))

theorem memWf_followCards {region old new : Nat} : MemWf (followCards s region old new) := by
  unfold followCards
  exact MemWf.books <| h.mapDies (f := fun _ d => { d with jobs := d.jobs.map (followJob region old new) }) fun _ _ hd => hd

theorem memWf_moveCore {src dst : Nat} {keep : Bool} : MemWf (moveCore s src dst keep) := by
  unfold moveCore
  exact (h.setCore (by exact h.spad src)).modCore fun _ _ => rfl

theorem memWf_saveLaunch {core l : Nat} : MemWf (saveLaunch s core l) := by
  unfold saveLaunch
  split
  · exact h
  · have ht : ∀ (cs : List Nat) r g, MemWf (renumber (cs.foldl saveCtx s) l r g) :=
      fun _ _ _ => memWf_renumber (.foldl (fun _ _ ht => memWf_saveCtx ht) _ h)
    exact MemWf.books (MemWf.modLaunch (.ite (memWf_moveCore (memWf_followCards (ht _ _ _))) (ht _ _ _)))

theorem memWf_pump {c : Nat} : MemWf (pump s c) := h.kept (kept_pump s c)

theorem sound_coreSave : Sound (execCoreSave s) := by
  unfold execCoreSave
  extract_lets core t
  have ht : MemWf t := .foldl (fun _ _ hu => memWf_pump hu) _ h
  clear_value t
  split
  · exact h
  · split
    · exact memWf_stopTrap h
    · split
      · exact memWf_stopCore h
      · split
        · exact ht.same rfl
        · exact memWf_takeLate ht
        · split
          · exact ht
          · exact MemWf.modCore (.foldl (fun _ _ hu => memWf_saveLaunch hu) _ ht) fun _ hx => hx

theorem sound_contextSave : Sound (execContextSave s) := by
  unfold execContextSave
  extract_lets c x
  split
  · exact h
  · split
    · exact h
    · split
      · exact h.modCtx
      · split
        · exact h
        · split
          · exact memWf_stopTrap h
          · split
            · exact h.same rfl
            · split
              · exact memWf_takeLate h
              · split
                · exact h
                · exact MemWf.books (memWf_renumber (memWf_saveCtx h))

theorem memWf_followKernels {l : Nat} {y : Launch} {img : Saved} {new : Nat} : MemWf (followKernels s l y img new) := by
  unfold followKernels
  extract_lets come t u held v
  have hu : MemWf u := by
    refine .foldl (fun t k ht => ?_) _ (memWf_freeKernels h)
    have hi := memWf_installKernel ht (l := l) (y := y) (core := new) (slot := k.kslot)
    exact memWf_modKernel (hi.setCore (by exact hi.spad new))
  have hv : MemWf v := by
    unfold v
    cases he : takeEntries u l (coreDie img.core) (coreDie new) with
    | none => exact hu
    | some w => exact memWfSome_takeEntries hu w he
  exact hv.modDie fun _ hx => hx

theorem memWf_wakeCtx {c : Nat} : MemWf (wakeCtx s c) := by
  unfold wakeCtx
  exact memWf_rearm (MemWf.modCtx (.foldl (fun _ _ ht => ht.same (by rfl)) _ h))

theorem memWf_restoreCore {n core : Nat} {img : Saved} {y : Launch} : MemWf (restoreCore s n core img y) := by
  unfold restoreCore
  extract_lets l k cs free seats here alone t holds u back v w z
  have hu : MemWf u := memWf_renumber (memWf_followKernels h)
  have hv : MemWf v := .ite ((memWf_moveCore (memWf_followCards hu)).modCore fun _ hx => hx) hu
  have hz : MemWf z := MemWf.books (MemWf.filterCores (p := fun n => n != k) hv.modLaunch)
  exact .foldl (fun _ _ ht => memWf_wakeCtx ht) _ hz

theorem memWf_restoreCtx {n : Nat} {img : Saved} : MemWf (restoreCtx s n img) := by
  unfold restoreCtx
  exact .foldl (fun _ _ ht => memWf_wakeCtx ht) _ (MemWf.books (memWf_renumber h))

theorem sound_restore : Sound (execRestore s) := by
  unfold execRestore
  extract_lets n
  split
  · exact h
  · split
    · exact h
    · split
      · exact h
      · split
        · exact memWf_restoreCore h
        · exact memWf_restoreCtx h

/-! ## Packets (R412 to R418) -/

theorem memWf_pinUnit {q : Nat} : MemWf (pinUnit s q) := by
  unfold pinUnit
  split
  · exact .ite h (memWf_modQueue h)
  · exact h

end

/-- A state beside a flag, carried by a fold. -/
theorem MemWf.foldlFst {α β : Type} {g : State × β → α → State × β} (hg : ∀ r a, MemWf r.1 → MemWf (g r a).1) (l : List α)
    {r : State × β} (h : MemWf r.1) : MemWf (l.foldl g r).1 := by
  induction l generalizing r with
  | nil => exact h
  | cons a l ih => exact ih (hg r a h)

theorem memWf_lookBuffer {q : Nat} (depth : Nat) {s : State} (h : MemWf s) {path : List Nat} {addr off : Nat} {us : List Nat} :
    MemWf (lookBuffer q depth s path addr off us).1 := by
  induction depth generalizing s path addr off us with
  | zero => exact h
  | succ depth ih =>
    rw [lookBuffer]
    refine MemWf.foldlFst (fun r u hr => ?_) _ h
    split
    · exact hr
    · have ht : MemWf (nextFree r.1).2 := hr.same rfl
      refine MemWf.foldlFst (fun r p hr => ?_) _ (.ite (memWf_modQueue ht) ht)
      split
      · exact hr
      · split
        · exact hr
        · split
          · exact ih hr
          · exact hr

section
variable {s : State} (h : MemWf s)
include h

theorem memWf_lookCalls {q : Nat} (l : List CallFrame) : MemWf (lookCalls q s l).1 := by
  induction l generalizing s with
  | nil => exact h
  | cons f fs ih =>
    rw [lookCalls]
    split
    · exact memWf_lookBuffer _ h
    · exact ih (memWf_lookBuffer _ h)

theorem memWf_lookRing {q : Nat} (n : Nat) {at_ : Nat} : MemWf (lookRing q n s at_) := by
  induction n generalizing s at_ with
  | zero => exact h
  | succ n ih =>
    rw [lookRing]
    exact .ite h (.ite h (.ite (.ite (memWf_lookBuffer _ h) (ih (memWf_lookBuffer _ h))) (ih h)))

theorem memWf_lookAhead {q : Nat} : MemWf (lookAhead s q) := .ite (memWf_lookCalls h _) (memWf_lookRing (memWf_lookCalls h _) _)

theorem memWf_leaveCalls {q : Nat} (n : Nat) : MemWf (leaveCalls q n s) := by
  induction n generalizing s with
  | zero => exact h
  | succ n ih =>
    rw [leaveCalls]
    split
    · exact .ite (ih (memWf_settleSignals (memWf_postRecord (memWf_modQueue (memWf_modQueue h))) _)) h
    · exact h

theorem memWf_advance {q : Nat} {p : Packet} : MemWf (advance s q p) := by
  unfold advance
  exact memWf_lookAhead (memWf_leaveCalls (memWf_hostWrite (memWf_modQueue h)) _)

theorem memWf_badPacket {q : Nat} {p : Packet} : MemWf (badPacket s q p) := memWf_modQueue (memWf_postRecord h)

theorem memWf_complete {q : Nat} {p : Packet} : MemWf (complete s q p) := memWf_advance (memWf_postRecord h)

theorem memWf_refuse {q : Nat} {p : Packet} {reason : Nat} : MemWf (refuse s q p reason) := memWf_advance (memWf_postRecord h)

theorem memWf_keepOpen {q : Nat} {p : Packet} {launch asid : Option Nat} : MemWf (keepOpen s q p launch asid) :=
  memWf_advance (memWf_modQueue h)

/-- The mould of a packet (R414). -/
theorem sound_withPacket {isKind clean : Packet → Bool} {act : State → Nat → Packet → State}
    (ha : ∀ t q p, MemWf t → MemWf (act t q p)) : Sound (withPacket s isKind clean act) := by
  unfold withPacket
  extract_lets q t
  have ht : MemWf t := memWf_pinUnit h
  split
  · exact ht
  · split
    · exact ht
    · split
      · exact memWf_badPacket ht
      · exact ha _ _ _ ht

theorem sound_doorbellWrite : Sound (execDoorbellWrite s) := by
  unfold execDoorbellWrite
  extract_lets q t
  have ht : MemWf t := memWf_modQueue h
  split
  · exact ht
  · exact memWf_lookAhead ht

theorem memWf_configureQueue {q func a : Nat} : MemWf (configureQueue s q func a) := .ite (h.same rfl) h

theorem sound_queueReset : Sound (execQueueReset s) := by
  unfold execQueueReset
  split
  · exact .ite (memWf_configureQueue h) h
  · exact memWf_modQueue h

theorem sound_nop : Sound (execNop s) := sound_withPacket h fun _ _ _ ht => memWf_complete ht

theorem sound_call : Sound (execCall s) := by
  unfold execCall
  split
  · exact .ite h (memWf_lookAhead h)
  · refine sound_withPacket h fun t q p ht => ?_
    extract_lets x
    exact .ite (memWf_badPacket ht) (memWf_lookAhead (memWf_leaveCalls (memWf_hostWrite (memWf_modQueue (memWf_modQueue ht))) _))

theorem sound_join : Sound (execJoin s) := sound_withPacket h fun _ _ _ ht => .ite (memWf_complete ht) ht

theorem sound_signal : Sound (execSignal s) := sound_withPacket h fun _ _ _ ht => memWf_settleSignals (memWf_keepOpen ht) _

theorem memWf_regionBytes {region va n : Nat} : MemWf (regionBytes s region va n).2 := memWf_readMems h

theorem memWf_launchOfPacket {q : Nat} {p : Packet} : MemWf (launchOfPacket s q p).2 := by
  unfold launchOfPacket
  dsimp only
  split
  · exact memWf_regionBytes h
  all_goals
    dsimp only
    exact memWf_regionBytes (memWf_regionBytes h)

theorem sound_launch : Sound (execLaunch s) := by
  refine sound_withPacket h fun t q p ht => .ite (memWf_refuse ht) ?_
  exact memWf_keepOpen (MemWf.books (memWf_launchOfPacket ht))

theorem sound_regionCreate : Sound (execRegionCreate s) :=
  sound_withPacket h fun _ _ _ ht => .ite (memWf_refuse ht) (.ite (memWf_refuse ht) (.ite (memWf_refuse ht) (memWf_complete (ht.same (by rfl)))))

theorem sound_regionUpdate : Sound (execRegionUpdate s) := by
  refine sound_withPacket h fun t q p ht => ?_
  extract_lets b n
  split
  · exact memWf_refuse ht
  · refine .ite (memWf_refuse ht) (.ite (memWf_refuse ht) (.ite (memWf_refuse ht) (memWf_complete ?_)))
    exact .ite (memWf_writeHeld (ht.same (by rfl))) (ht.same (by rfl))

theorem sound_regionDestroy : Sound (execRegionDestroy s) := by
  refine sound_withPacket h fun t q p ht => ?_
  extract_lets b n own u asid last
  have hu : MemWf u := .foldl (fun _ _ hv => memWf_semWrite hv) _ ht
  refine .ite (memWf_refuse ht) (.ite (memWf_refuse ht) (.ite (memWf_refuse ht) (memWf_complete ?_)))
  exact MemWf.books <| hu.mapDies (f := fun _ d => { d with drops := Tab.del d.drops n }) fun _ _ hd => hd

theorem sound_grant : Sound (execGrant s) := by
  refine sound_withPacket h fun t q p ht => ?_
  refine .ite (memWf_refuse ht) (.ite (memWf_refuse ht) (.ite (memWf_refuse ht) (memWf_complete ?_)))
  exact .foldl (fun _ _ hu => hu.same (by rfl)) _ ht

theorem memWf_pfOnly {act : State → Nat → Packet → State} {q : Nat} {p : Packet} (ha : MemWf (act s q p)) : MemWf (pfOnly act s q p) :=
  .ite ha (memWf_refuse h)

theorem sound_slottab : Sound (execSlottab s) := by
  refine sound_withPacket h fun t q p ht => memWf_pfOnly ht ?_
  exact .ite (memWf_refuse ht) (.ite (memWf_refuse ht) (memWf_complete (ht.modDie (by exact fun _ hx => hx))))

theorem sound_classdef : Sound (execClassdef s) :=
  sound_withPacket h fun _ _ _ ht => memWf_pfOnly ht (.ite (memWf_refuse ht) (.ite (memWf_refuse ht) (memWf_complete (ht.same (by rfl)))))

theorem sound_capset : Sound (execCapset s) := by
  refine sound_withPacket h fun t q p ht => ?_
  extract_lets part cap
  split
  · exact memWf_refuse ht
  · exact .ite (memWf_refuse ht) (memWf_complete (ht.same (by rfl)))

theorem sound_reconcile : Sound (execReconcile s) := by
  refine sound_withPacket h fun t q p ht => memWf_pfOnly ht ?_
  refine .ite (memWf_refuse ht) (.ite (memWf_refuse ht) (memWf_complete ?_))
  exact MemWf.books (.foldl (fun _ _ hu => memWf_refundXfer hu) _ ht)

theorem sound_genadv : Sound (execGenadv s) :=
  sound_withPacket h fun _ _ _ ht => .ite (memWf_complete ht) (.ite ht (memWf_keepOpen (ht.same (by rfl))))

theorem sound_generationCurrent : Sound (execGenerationCurrent s) := by
  unfold execGenerationCurrent
  extract_lets asid sp gen t
  split
  · exact h
  · split
    · exact h
    · have ht : MemWf t := by
        by_cases hg : gen = 0
        · simp only [t, if_pos hg]
          exact MemWf.books <| h.mapDies (f := fun _ d => { d with tlb := [] }) fun _ _ hd => hd
        · simp only [t, if_neg hg]
          exact h.same rfl
      split
      · exact memWf_finishOpen ht
      · exact ht

end

end Sys2Proof.Machine
end

section
/-! PROOFS for O48, last part. Every instruction and every step. -/

namespace Sys2Proof.Machine

/-! ## Every instruction and every step -/

theorem sound_iff {r : Res} : Sound r ↔ ∀ t, r = .next t → MemWf t := by
  cases r with
  | next t => exact ⟨fun h u e => by cases e; exact h, fun h => h t rfl⟩
  | fault f => exact ⟨fun _ => nofun, fun _ => trivial⟩
  | refused f => exact ⟨fun _ => nofun, fun _ => trivial⟩

theorem KeptBy.sound {s : State} {r : Res} (k : KeptBy s r) (h : MemWf s) : Sound r := sound_iff.mpr fun t e => h.kept (k t e)

section
variable {s : State} (h : MemWf s)
include h

theorem sound_ckmodeEnable : Sound (execCkmodeEnable s) := by
  unfold execCkmodeEnable
  extract_lets c
  split
  · exact h
  · split
    · exact h
    · exact .ite (h.modCtx.kept (kept_checkpoint _ _)) h.modCtx

theorem sound_ckmodeDisable : Sound (execCkmodeDisable s) := by
  unfold execCkmodeDisable
  extract_lets c
  split
  · exact h
  · exact (memWf_releaseAll h).modCtx

/-- PATSET's own loads may write a scratchpad: an STFF performs with the LDFW behind it. -/
theorem sound_lsPatset {m : Mv} {u : BitVec 1} : Sound (execLsPatset m u s) := by
  refine sound_iff.mpr fun t e => ?_
  unfold execLsPatset lsTrigger at e
  rcases trigger_keeps_or_acts e with k | ⟨c, x, f, -, rfl⟩
  · exact h.kept k
  · exact (memWf_ownLoads h.modCtx).modCtx.modCtx

theorem sound_trigger {i : Instr} {m : Mv} (hm : i.mv? = some m) : Sound (exec i s) := by
  by_cases hp : ∃ m u, i = .lsPatset m u
  · obtain ⟨m, u, rfl⟩ := hp
    exact sound_lsPatset h
  · exact (exec_triggerOf hm (fun m u e => hp ⟨m, u, e⟩) s).kept.sound h

/-- Every instruction and every event: a trigger by its mould, the others one by one. -/
theorem sound_exec (i : Instr) : Sound (exec i s) := by
  by_cases hm : ∃ m, i.mv? = some m
  · obtain ⟨m, hm⟩ := hm
    exact sound_trigger h hm
  · cases i
    all_goals dsimp only [exec]
    case move m d => exact (keptBy_execMove m d s).sound h
    case seg hd p => exact (keptBy_execSeg hd p s).sound h
    case flip | flipW | flipC | flipCw | ckpt => exact (keptBy_spanAction s _ _).sound h
    case cardLinear => exact sound_cardLinear h
    case cardStrided => exact sound_cardStrided h
    case cardGather => exact sound_cardGather h
    case cardScatter => exact sound_cardScatter h
    case cardTile => exact sound_cardTile h
    case cardWswrite => exact sound_cardWswrite h
    case bundleIssue => exact sound_bundleIssue h
    case idleTick => exact sound_idleTick h
    case resultDue => exact sound_resultDue h
    case resultArrival => exact sound_resultArrival h
    case holderLimit => exact sound_holderLimit h
    case asyncLanding => exact sound_asyncLanding h
    case literalBundleFetch => exact sound_literalBundleFetch h
    case frameLoadComplete => exact sound_frameLoadComplete h
    case ckmodeEnable => exact sound_ckmodeEnable h
    case ckmodeDisable => exact sound_ckmodeDisable h
    case capcauseW1c => exact sound_capcauseW1c h
    case storePerform => exact sound_storePerform h
    case bankRefresh => exact sound_bankRefresh h
    case rrotRotation => exact sound_rrotRotation h
    case rrotTimeout => exact sound_rrotTimeout h
    case arrayOpStart => exact sound_arrayOpStart h
    case mgemmKStep => exact sound_mgemmKStep h
    case arrayOpComplete => exact sound_arrayOpComplete h
    case aswapPerform => exact sound_aswapPerform h
    case wsRefresh => exact sound_wsRefresh h
    case migrateArm => exact sound_migrateArm h
    case migrateWait => exact sound_migrateWait h
    case migrateLinePull => exact sound_migrateLinePull h
    case cardBytesArrive => exact sound_cardBytesArrive h
    case barDecrement => exact sound_barDecrement h
    case cardComplete => exact sound_cardComplete h
    case cpstComplete => exact sound_cpstComplete h
    case slotAdvance => exact sound_slotAdvance h
    case generationCurrent => exact sound_generationCurrent h
    case pagerDecision => exact sound_pagerDecision h
    case semArrive => exact sound_semArrive h
    case creditArrive => exact sound_creditArrive h
    case refundArrive => exact sound_refundArrive h
    case ackArrive => exact sound_ackArrive h
    case nodeUnreachable => exact sound_nodeUnreachable h
    case nodeReachable => exact sound_nodeReachable h
    case uncorrectableError => exact sound_uncorrectableError h
    case messageArrive => exact sound_messageArrive h
    case seedPickup => exact sound_seedPickup h
    case walkerStep => exact sound_walkerStep h
    case continuationEnter => exact sound_continuationEnter h
    case moveSeedArrive => exact sound_moveSeedArrive h
    case roundMerge => exact sound_roundMerge h
    case launchPlace => exact sound_launchPlace h
    case launchRetire => exact sound_launchRetire h
    case cycbExhausted => exact sound_cycbExhausted h
    case coreSave => exact sound_coreSave h
    case contextSave => exact sound_contextSave h
    case restore => exact sound_restore h
    case doorbellWrite => exact sound_doorbellWrite h
    case queueReset => exact sound_queueReset h
    case nop => exact sound_nop h
    case launch => exact sound_launch h
    case regionCreate => exact sound_regionCreate h
    case regionUpdate => exact sound_regionUpdate h
    case regionDestroy => exact sound_regionDestroy h
    case grant => exact sound_grant h
    case slottab => exact sound_slottab h
    case genadv => exact sound_genadv h
    case classdef => exact sound_classdef h
    case call => exact sound_call h
    case join => exact sound_join h
    case signal => exact sound_signal h
    case capset => exact sound_capset h
    case reconcile => exact sound_reconcile h
    case msiXInterrupt => exact sound_msiXInterrupt h
    case heartbeat => exact sound_heartbeat h
    case firmwareReset => exact sound_firmwareReset h
    case liveUpdate => exact sound_liveUpdate h
    case liveUpdateRollback => exact sound_liveUpdateRollback h
    case getVersion => exact sound_getVersion h
    case getCapabilities => exact sound_getCapabilities h
    case negotiateAlgorithms => exact sound_negotiateAlgorithms h
    case getDigests => exact sound_getDigests h
    case getCertificate => exact sound_getCertificate h
    case challenge => exact sound_challenge h
    case getMeasurements => exact sound_getMeasurements h
    case hallCapFrame => exact sound_hallCapFrame h
    case energyBurn => exact sound_energyBurn h
    case supplySag => exact sound_supplySag h
    case thermalLimit => exact sound_thermalLimit h
    case dieReset => exact sound_dieReset h
    case bangleRetire => exact sound_bangleRetire h
    case supplySagEnds => exact sound_supplySagEnds h
    case thermalLimitEnds => exact sound_thermalLimitEnds h
    all_goals exact absurd ⟨_, rfl⟩ hm

theorem sound_runEvent {e : Event} : Sound (runEvent s e) := sound_exec (s := { s with args := e.args }) (h.same rfl) e.what

theorem memWf_withFrame {c : Nat} {f : Frame} : MemWf (withFrame s c f) := h.modCtx

theorem sound_runSlot {c : Nat} {f : Frame} : Sound (runSlot s c f) := by
  unfold runSlot
  split
  · exact sound_exec (memWf_withFrame h) _
  · exact memWf_withFrame h

theorem sound_runHeader {c : Nat} {f : Frame} {i : Option Instr} : Sound (runHeader s c f i) := by
  unfold runHeader
  split
  · exact sound_exec (memWf_withFrame h) _
  · exact memWf_withFrame h

theorem sound_runLand {c : Nat} {f : Frame} {rest : List Todo} : Sound (runLand s c f rest) := by
  have ht : MemWf (nextFree s).2 := h.same rfl
  unfold runLand
  dsimp only
  split
  · exact sound_runEvent (memWf_withFrame ht)
  · exact memWf_withFrame ht

theorem sound_runTodo {c : Nat} {f : Frame} {rest : List Todo} (t : Todo) : Sound (runTodo s c f rest t) := by
  cases t with
  | check n | slot n | last n => exact sound_runSlot h
  | seg | span => exact sound_runHeader h
  | land => exact sound_runLand h
  | event e => exact sound_runEvent (memWf_withFrame h)
  | endTask k => exact memWf_endTask (memWf_withFrame h)
  | tret t => exact memWf_tretStep (memWf_withFrame h)
  | withdraw => exact memWf_withdrawBundle h

theorem sound_runActive {c : Nat} : Sound (runActive s c) := by
  unfold runActive
  split
  · exact h.same rfl
  · split
    · exact memWf_endBundle h
    · exact sound_runTodo h _

theorem sound_chooseEvent : Sound (chooseEvent s) := by
  have ht : MemWf (nextFree (latchSticky s)).2 := (memWf_latchSticky h).same rfl
  unfold chooseEvent
  extract_lets u l
  dsimp only
  split
  · exact sound_runEvent ht
  · exact ht.same rfl

theorem sound_step : Sound (step s) := by
  unfold step
  split
  · exact sound_runActive h
  · split
    · exact sound_runEvent (memWf_latchSticky (s := { s with sched := _ }) (h.same (by rfl)))
    · exact sound_chooseEvent h

end

/-- Settles O48: writes keep the canonical form, and all else moves whole memories, leaves entries out, or does not touch them; so
through the functions of the model, in the order in which they stand in it, up to the step. -/
theorem stepKeepsMemoryCanonical : Obligations.StepKeepsMemoryCanonical := fun _ t h e =>
  memWf_iff.mp (sound_iff.mp (sound_step (memWf_iff.mpr h)) t e)

end Sys2Proof.Machine
end

section
/-! PROOFS for the banks: what a write and a change of tags make of a core (R199, R203). O11 and O39 rest on them. -/

namespace Sys2Proof.Machine

/-! ## What a write into the banks and a change of tags make of a core -/

/-- A set after a number is taken out. -/
theorem NatSet.mem_erase_iff (l : List Nat) (k w : Nat) : NatSet.mem (NatSet.erase l k) w = (NatSet.mem l w && !(w == k)) := by
  rw [Bool.eq_iff_iff]
  simp [NatSet.mem, NatSet.erase]

theorem NatSet.mem_eraseAll (ws : List Nat) (l : List Nat) (w : Nat) :
    NatSet.mem (ws.foldl NatSet.erase l) w = (NatSet.mem l w && !ws.contains w) := by
  induction ws generalizing l with
  | nil => simp
  | cons k ws ih => rw [List.foldl_cons, ih, NatSet.mem_erase_iff, List.contains_cons, Bool.not_or, Bool.and_assoc]

theorem spad_spadWrite (s : State) (k a : Nat) (bs : List Byte) :
    (coreOf (spadWrite s k a bs) k).spad = (coreOf s k).spad.writeBytes a bs := by
  rw [spadWrite, modCore_eq, coreOf_setCore_same]

theorem empty_spadWrite (s : State) (k a : Nat) (bs : List Byte) : (coreOf (spadWrite s k a bs) k).empty = (coreOf s k).empty := by
  rw [spadWrite, modCore_eq, coreOf_setCore_same]

theorem spad_setTags (s : State) (k a n : Nat) (full : Bool) : (coreOf (setTags s k a n full) k).spad = (coreOf s k).spad := by
  rw [setTags, modCore_eq, coreOf_setCore_same]

/-- The tags of a run become FULL: its words leave the set of the EMPTY ones (R203). -/
theorem mem_empty_setFull (s : State) (k a n w : Nat) : NatSet.mem (coreOf (setTags s k a n true) k).empty w =
    (NatSet.mem (coreOf s k).empty w && !(tagWords a n).contains w) := by
  rw [setTags, modCore_eq, coreOf_setCore_same]
  exact NatSet.mem_eraseAll _ _ _

/-- The tags of a run become EMPTY (R205). -/
theorem mem_empty_setEmpty (s : State) (k a n w : Nat) : NatSet.mem (coreOf (setTags s k a n false) k).empty w =
    (NatSet.mem (coreOf s k).empty w || (tagWords a n).contains w) := by
  rw [setTags, modCore_eq, coreOf_setCore_same]
  exact NatSet.mem_insertAll _ _ _

/-- `t` is `s` but for core `k`. -/
structure OnlyCore (s t : State) (k : Nat) : Prop where
  eq : t = { s with cores := t.cores }
  others : ∀ j, j ≠ k → coreOf t j = coreOf s j

theorem OnlyCore.refl (s : State) (k : Nat) : OnlyCore s s k := ⟨rfl, fun _ _ => rfl⟩

theorem OnlyCore.trans {s t u : State} {k : Nat} (h : OnlyCore s t k) (g : OnlyCore t u k) : OnlyCore s u k :=
  ⟨by rw [g.eq, h.eq], fun j hj => (g.others j hj).trans (h.others j hj)⟩

theorem onlyCore_setCore (s : State) (k : Nat) (x : Core) : OnlyCore s (setCore s k x) k := ⟨rfl, fun _ => coreOf_setCore_ne s x⟩

theorem onlyCore_spadWrite (s : State) (k a : Nat) (bs : List Byte) : OnlyCore s (spadWrite s k a bs) k := onlyCore_setCore s k _

theorem onlyCore_setTags (s : State) (k a n : Nat) (full : Bool) : OnlyCore s (setTags s k a n full) k := onlyCore_setCore s k _

theorem OnlyCore.ctxOf {s t : State} {k : Nat} (h : OnlyCore s t k) (c : Nat) : ctxOf t c = ctxOf s c := by rw [h.eq]; rfl

theorem OnlyCore.inRound {s t : State} {k : Nat} (h : OnlyCore s t k) (c : Nat) : inRound t c = inRound s c :=
  inRound_congr (by rw [h.ctxOf]) (by rw [h.ctxOf]) (by rw [h.eq]) (by rw [h.eq])

end Sys2Proof.Machine
end

section
/-! PROOFS for O11. A store performs: its bytes and tags at the banks of its core, its operation out of the queue (R199 to R205). -/

namespace Sys2Proof.Machine

/-! ## A store performs (R189, R199, R202, R203, R205) -/

/-- A store that may proceed performs from the head of its context's queue. -/
theorem execStorePerform_head {s : State} {o : LsOp} {rest : List LsOp} (hls : (ctxOf s s.args.a).ls = o :: rest)
    (hgo : feProceeds s s.args.a o = true) {d : List Byte}
    (hk : o.kind = .store d ∨ o.kind = .stew d ∨ o.kind = .stff d ∨ (d = [] ∧ ∃ n, o.kind = .feclr n)) :
    exec .storePerform s = .next (performStore s s.args.a o) := by
  change execStorePerform s = _
  unfold execStorePerform
  dsimp only
  rw [hls, List.find?_cons_of_pos]
  rcases hk with hk | hk | hk | ⟨-, n, hk⟩ <;> simp [hk, hgo]

/-! ### The banks -/

/-- Outside a round a context's write is one of its core's banks. -/
theorem ctxWrite_banks {s : State} {c : Nat} (h : inRound s c = false) (a : Nat) (bs : List Byte) :
    OnlyCore s (ctxWrite s c a bs) (ctxCore c) ∧
    (coreOf (ctxWrite s c a bs) (ctxCore c)).spad = (coreOf s (ctxCore c)).spad.writeBytes a bs ∧
    (coreOf (ctxWrite s c a bs) (ctxCore c)).empty = (coreOf s (ctxCore c)).empty := by
  by_cases hbs : bs = []
  · rw [ctxWrite, if_pos hbs, hbs]
    exact ⟨.refl _ _, rfl, rfl⟩
  · rw [ctxWrite, if_neg hbs, h]
    exact ⟨onlyCore_spadWrite _ _ _ _, spad_spadWrite _ _ _ _, empty_spadWrite _ _ _ _⟩

/-- Whether word `w` is EMPTY once operation `o` has changed its tags, where `was` says that it was before. -/
def emptyAfter (o : LsOp) (was : Bool) (w : Nat) : Bool :=
  match o.tagWrite with
  | some (n, true) => was && !(tagWords o.addr n).contains w
  | some (n, false) => was || (tagWords o.addr n).contains w
  | none => was

/-- What a store makes of the banks: its bytes and its tags. -/
theorem banksWritten_banks {s : State} {c : Nat} (h : inRound s c = false) (o : LsOp) :
    OnlyCore s (banksWritten s c o) (ctxCore c) ∧
    (coreOf (banksWritten s c o) (ctxCore c)).spad = (coreOf s (ctxCore c)).spad.writeBytes o.addr o.writes ∧
    ∀ w, NatSet.mem (coreOf (banksWritten s c o) (ctxCore c)).empty w = emptyAfter o (NatSet.mem (coreOf s (ctxCore c)).empty w) w := by
  obtain ⟨honly, hspad, hempty⟩ := ctxWrite_banks h o.addr o.writes
  have hround := (honly.inRound c).trans h
  unfold banksWritten
  rw [← hempty]
  split
  · next n full htag =>
    rw [ctxTags, hround, if_neg Bool.false_ne_true]
    refine ⟨honly.trans (onlyCore_setTags _ _ _ _ _), (spad_setTags _ _ _ _ _).trans hspad, fun w => ?_⟩
    cases full with
    | true => rw [mem_empty_setFull, emptyAfter, htag]
    | false => rw [mem_empty_setEmpty, emptyAfter, htag]
  · next htag => exact ⟨honly, hspad, fun _ => by rw [emptyAfter, htag]⟩

/-! ### The context -/

/-- The queue that a store leaves: it is gone, and a STEW takes its doubleword out of what it overtakes (log entry 59). -/
def queueAfter (o : LsOp) (ls : List LsOp) : List LsOp :=
  match o.kind with
  | .stew _ => (ls.filter (· != o)).flatMap fun p => (leaveTags o p).flatMap (leaveBytes o)
  | _ => ls.filter (· != o)

/-- The context whose store has performed, of each kind. -/
def performed (x : Ctx) (o : LsOp) (late : Option TrapInfo) (told : Bool) : Ctx :=
  match o.kind with
  | .stew _ => mapStores (fun p => (leaveTags o p).flatMap (leaveBytes o)) (stored x o late told)
  | _ => stored x o late told

theorem performStore_banks (s : State) (c : Nat) (o : LsOp) : performStore s c o = setCtx (banksWritten s c o) c
    (performed (ctxOf (banksWritten s c o) c) o (storeFault s c o) (storeTold s c o)) := by
  obtain ⟨seq, bundle, unit1, kind, addr, arrive⟩ := o
  cases kind with
  | stew d =>
    unfold performed stored
    cases htold : storeTold s c { seq, bundle, unit1, kind := .stew d, addr, arrive } with
    | true => exact congrArg (setCtx _ c) (if_pos htold)
    | false => exact congrArg (setCtx _ c) (if_neg (Bool.eq_false_iff.mp htold))
  | _ => rfl

theorem performed_regs (x : Ctx) (o : LsOp) (late : Option TrapInfo) (told : Bool) : (performed x o late told).regs = x.regs := by
  unfold performed
  split <;> cases told <;> rfl

theorem performed_ls (x : Ctx) (o : LsOp) (late : Option TrapInfo) (told : Bool) : (performed x o late told).ls = queueAfter o x.ls := by
  unfold performed queueAfter
  split <;> cases told <;> rfl

/-- A STEW behind nothing that it overtakes leaves the queue as it is. -/
theorem leave_later {o : LsOp} {ls : List LsOp} (h : ∀ p ∈ ls, o.seq ≤ p.seq) :
    (ls.flatMap fun p => (leaveTags o p).flatMap (leaveBytes o)) = ls := by
  induction ls with
  | nil => rfl
  | cons p ls ih =>
    have hp := h p List.mem_cons_self
    rw [List.flatMap_cons, ih fun q hq => h q (List.mem_cons_of_mem p hq), leaveTags, if_pos hp, List.flatMap_singleton, leaveBytes,
      if_pos hp]
    rfl

theorem queueAfter_plain {o : LsOp} {ls : List LsOp} (h : (∀ v, o.kind ≠ .stew v) ∨ ∀ p ∈ ls.filter (· != o), o.seq ≤ p.seq) :
    queueAfter o ls = ls.filter (· != o) := by
  unfold queueAfter
  split
  · next v hk => exact leave_later (h.resolve_left fun hn => hn v hk)
  · rfl

theorem queueAfter_stew {o : LsOp} {v : List Byte} (hk : o.kind = .stew v) (ls : List LsOp) :
    queueAfter o ls = (ls.filter (· != o)).flatMap fun p => (leaveTags o p).flatMap (leaveBytes o) := by
  simp only [queueAfter, hk]

/-- Settles O11: the head of the queue is the store that performs; outside a round its bytes and tags go to the banks of its core alone,
and its context loses it. -/
theorem storePerforms : Obligations.StorePerforms := by
  intro s o rest c k hls hround hwf hgo ⟨d, hk⟩
  obtain ⟨honly, hspad, hempty⟩ := banksWritten_banks hround o
  have hrest : (o :: rest).filter (· != o) = rest.filter (· != o) := List.filter_cons_of_neg (by simp)
  have hctx : ctxOf (banksWritten s c o) c = ctxOf s c := honly.ctxOf c
  refine ⟨_, execStorePerform_head hls hgo hk, ?_⟩
  change let t := performStore s c o; _
  rw [performStore_banks, hctx]
  refine ⟨fun i hi => ?_, fun a ha => ?_, fun w => ?_, honly.others, ?_, ?_, ?_, fun e he => ?_, ?_, fun hlater => ?_, fun v hv => ?_⟩
  · rw [coreOf_setCtx, hspad, Memory.read_writeBytes_inside _ _ _ _ hwf hi, List.getD_eq_getElem _ _ hi]
  · rw [coreOf_setCtx, hspad, Memory.read_writeBytes_outside _ _ _ _ hwf ha]
  · rw [coreOf_setCtx, hempty]
    rcases hk with hk | hk | hk | ⟨-, n, hk⟩ <;> simp only [emptyAfter, LsOp.tagWrite, hk, k]
  · rw [setCtx_mem, honly.eq]
  · rw [setCtx_host, honly.eq]
  · rw [setCtx_dies, honly.eq]
  · rw [ctxOf_setCtx_ne _ _ he, honly.ctxOf]
  · rw [ctxOf_setCtx_same, performed_regs]
  · rw [ctxOf_setCtx_same, performed_ls, hls, queueAfter_plain, hrest]
    exact hlater.imp_right fun h p hp => h p (List.mem_of_mem_filter (hrest ▸ hp))
  · rw [ctxOf_setCtx_same, performed_ls, hls, queueAfter_stew hv, hrest]

end Sys2Proof.Machine
end

section
/-! PROOFS for O39. Rings rotate, and the calendars of a die move on (R212, R213, R244, R259). -/

namespace Sys2Proof.Machine

/-! ## The calendars of a die (R244, R259) -/

theorem dieTo_sameRound {d : Die} {t : Nat} (h : t / 16384 ≤ d.cycle / 16384) : dieTo d t = { d with cycle := t } :=
  if_neg (Nat.not_lt.mpr h)

/-- A new slot table comes into force where slot 0 begins again (R259). -/
theorem dieTo_newSlots {d : Die} {t : Nat} {l : List (Nat × Byte)} (h : d.cycle / 16384 < t / 16384) (hnew : d.newSlots = some l) :
    dieTo d t = { d with cycle := t, slots := l, newSlots := none } := by
  rw [dieTo, if_pos h, hnew]
  rfl

theorem dieCalendars_hold : dieCalendars :=
  fun _ => ⟨rfl, rfl, fun _ => ⟨dieTo_sameRound, fun _ => dieTo_newSlots⟩⟩

/-! ## Folds each of whose elements touches its own part of the state -/

theorem foldl_untouched {σ α β : Type} {step : σ → α → σ} {obs : σ → β} {l : List α} (h : ∀ s, ∀ b ∈ l, obs (step s b) = obs s)
    (s : σ) : obs (l.foldl step s) = obs s := by
  induction l generalizing s with
  | nil => rfl
  | cons b l ih =>
    rw [List.foldl_cons, ih (fun s e he => h s e (List.mem_cons_of_mem b he)), h s b List.mem_cons_self]

/-- What one element alone touches, it touches once. -/
theorem foldl_touched {σ α β : Type} {step : σ → α → σ} {obs : σ → β} {g : β → β} {l : List α} {a : α} (hnodup : l.Nodup) (ha : a ∈ l)
    (hmine : ∀ s, obs (step s a) = g (obs s)) (hothers : ∀ s, ∀ b ∈ l, b ≠ a → obs (step s b) = obs s) (s : σ) :
    obs (l.foldl step s) = g (obs s) := by
  induction l generalizing s with
  | nil => nomatch ha
  | cons b l ih =>
    obtain ⟨hb, hl⟩ := List.nodup_cons.mp hnodup
    rw [List.foldl_cons]
    by_cases hab : b = a
    · subst hab
      rw [foldl_untouched (fun s e he => hothers s e (List.mem_cons_of_mem _ he) fun heq => hb (heq ▸ he)), hmine]
    · rw [ih hl ((List.mem_cons.mp ha).resolve_left (Ne.symm hab)) (fun s e he => hothers s e (List.mem_cons_of_mem b he)),
        hothers s b List.mem_cons_self hab]

/-! ## The ring of a bangle (R212, R214) -/

theorem nodup_natsFrom (k n : Nat) : (natsFrom k n).Nodup := List.nodup_range.map fun _ _ => Nat.add_left_cancel

theorem nodup_ringFor (s : State) (k : Nat) : (ringFor s k).Nodup := by
  unfold ringFor
  split
  · exact nodup_natsFrom _ _
  · exact List.nodup_nil

/-- A ring that is whole is the ring of each of its cores, all of one launch. -/
theorem ringFor_of_ringOf {s : State} {a b : Nat} (hb : b ∈ ringOf s a) (hbangle : b / 8 = a) :
    ringFor s b = ringOf s a ∧ ∀ k ∈ ringOf s a, areaLaunch s k = areaLaunch s b := by
  unfold ringOf at hb ⊢
  dsimp only at hb ⊢
  split at hb
  · next hall =>
    have hsame : ∀ k ∈ ringFor s (a * 8), areaLaunch s k = areaLaunch s (a * 8) := by simpa using hall
    rw [if_pos hall]
    refine ⟨?_, fun k hk => (hsame k hk).trans (hsame b hb).symm⟩
    rw [ringFor, ringFor, hsame b hb, hbangle, Nat.mul_div_cancel a (by decide : 0 < 8)]
  · nomatch hb

theorem nodup_ringOf (s : State) (a : Nat) : (ringOf s a).Nodup := by
  unfold ringOf
  dsimp only
  split
  · exact nodup_ringFor _ _
  · exact List.nodup_nil

/-- The cores of `ring` are armed, each by `arm`, for one rotation (R213). -/
structure Armed (s : State) (ring : List Nat) (arm : Nat → RrotArm) : Prop where
  nodup : ring.Nodup
  nonempty : ring ≠ []
  armed : ∀ k ∈ ring, armedAt s k = some (arm k)
  rrot : ∀ k ∈ ring, (coreOf s k).rrot = [arm k]
  core : ∀ k ∈ ring, ctxCore (arm k).ctx = k
  wf : ∀ k ∈ ring, (coreOf s k).spad.wf = true
  turn : ∀ k ∈ ring, (coreOf s k).rrots = (coreOf s (ring.headD 0)).rrots

/-! ### The RROTs complete -/

/-- A core whose rotation is over. -/
def pastRotation (x : Core) : Core := { x with rrot := x.rrot.drop 1, rrots := x.rrots + 1 }

/-- A context whose RROT `q` is over, with its `.st` there. -/
def pastRrot (st : D64) (q : Nat) (x : Ctx) : Ctx := fillResult (dropLs x q) q fun e => { e with st := some st, arrived := true }

theorem finishRrot_eq (st : D64) (s : State) (a : RrotArm) : finishRrot st s a =
    setCtx (setCore s (ctxCore a.ctx) (pastRotation (coreOf s (ctxCore a.ctx)))) a.ctx
      (pastRrot st a.seq (ctxOf s a.ctx)) := rfl

theorem coreOf_finishRrot (st : D64) (s : State) (a : RrotArm) (j : Nat) : coreOf (finishRrot st s a) j =
    if j = ctxCore a.ctx then pastRotation (coreOf s (ctxCore a.ctx)) else coreOf s j := by
  rw [finishRrot_eq, coreOf_setCtx, coreOf_setCore]

theorem ctxOf_finishRrot_same (st : D64) (s : State) (a : RrotArm) :
    ctxOf (finishRrot st s a) a.ctx = pastRrot st a.seq (ctxOf s a.ctx) := by
  rw [finishRrot_eq, ctxOf_setCtx_same]

theorem ctxOf_finishRrot_ne (st : D64) (s : State) {a : RrotArm} {c : Nat} (h : c ≠ a.ctx) :
    ctxOf (finishRrot st s a) c = ctxOf s c := by
  rw [finishRrot_eq, ctxOf_setCtx_ne _ _ h, ctxOf_setCore]

/-- What stands once the RROTs of a ring have completed with `.st`: `t` of `s`, which was armed. -/
structure Completed (st : D64) (s : State) (ring : List Nat) (arm : Nat → RrotArm) (t : State) : Prop where
  mem : t.mem = s.mem
  core : ∀ k ∈ ring, coreOf t k = pastRotation (coreOf s k)
  told : ∀ k ∈ ring, ∀ e ∈ (ctxOf t (arm k).ctx).infl, e.seq = (arm k).seq → e.st = some st ∧ e.arrived = true

theorem completed_finish (st : D64) (s : State) {ring : List Nat} {arm : Nat → RrotArm} (hnodup : ring.Nodup)
    (hcore : ∀ k ∈ ring, ctxCore (arm k).ctx = k) : Completed st s ring arm ((ring.map arm).foldl (finishRrot st) s) := by
  rw [List.foldl_map]
  refine ⟨foldl_untouched (step := fun u k => finishRrot st u (arm k)) (obs := State.mem) (fun _ _ _ => rfl) s, fun k hk => ?_,
    fun k hk e he hseq => ?_⟩
  · exact foldl_touched (step := fun u k => finishRrot st u (arm k)) (obs := fun u => coreOf u k) hnodup hk
      (fun u => by rw [coreOf_finishRrot, hcore k hk, if_pos rfl])
      (fun u j hj hne => by rw [coreOf_finishRrot, hcore j hj, if_neg (Ne.symm hne)]) s
  · have hctx := foldl_touched (step := fun u k => finishRrot st u (arm k)) (obs := fun u => ctxOf u (arm k).ctx)
      (g := pastRrot st (arm k).seq) hnodup hk (fun u => ctxOf_finishRrot_same st u (arm k))
      (fun u j hj hne => ctxOf_finishRrot_ne st u fun heq => hne (by rw [← hcore j hj, ← heq, hcore k hk])) s
    rw [hctx] at he
    obtain ⟨e', rfl⟩ := mem_fillList he hseq
    exact ⟨rfl, rfl⟩

/-! ### The bytes move -/

/-- A move of the rotation: the core, the destination, the bytes, and which bank words of the source are poisoned. -/
abbrev RingMove := Nat × Nat × List Byte × List Nat

/-- The core that a move comes to. -/
def movedCore (m : RingMove) (x : Core) : Core :=
  { x with
    spad := x.spad.writeBytes m.2.1 m.2.2.1
    poison := m.2.2.2.foldl (fun p w => NatSet.insert p (m.2.1 / 16 + w)) (clearPoison x.poison m.2.1 m.2.2.1.length)
    empty := (tagWords m.2.1 m.2.2.1.length).foldl NatSet.erase x.empty
    tagBad := (tagWords m.2.1 m.2.2.1.length).foldl NatSet.erase x.tagBad }

def moveTo (s : State) (m : RingMove) : State := setCore s m.1 (movedCore m (coreOf s m.1))

/-- The move from position `p` of a ring to the next. -/
def ringMove (s : State) (ring : List Nat) (arm : Nat → RrotArm) (p : Nat) : RingMove :=
  let k := ring.getD p 0
  let j := ring.getD ((p + 1) % ring.length) 0
  (j, (arm j).dst, (coreOf s k).spad.readBytes (arm k).src (arm k).size,
    (List.range ((arm k).size / 16)).filter fun w => NatSet.mem (coreOf s k).poison ((arm k).src / 16 + w))

/-- The state once every byte of the rotation has moved. -/
def ringMoved (s : State) (ring : List Nat) (arm : Nat → RrotArm) : State :=
  (List.range ring.length).foldl (fun u p => moveTo u (ringMove s ring arm p)) s

theorem moveTo_eq (s : State) (m : RingMove) : modCore (setTags (spadWrite s m.1 m.2.1 m.2.2.1) m.1 m.2.1 m.2.2.1.length true) m.1
    (fun k => { k with poison := m.2.2.2.foldl (fun p w => NatSet.insert p (m.2.1 / 16 + w)) k.poison }) = moveTo s m := by
  simp only [setTags, spadWrite, modCore_eq, coreOf_setCore_same, setCore_setCore, if_true]
  rfl

theorem map_zipIdx {α β : Type} (l : List α) (d : α) (f : α × Nat → β) :
    l.zipIdx.map f = (List.range l.length).map fun p => f (l.getD p d, p) :=
  List.ext_getElem (by simp) fun p hp _ => by
    have hlt : p < l.length := by simpa using hp
    rw [List.getElem_map, List.getElem_map, List.getElem_zipIdx, List.getElem_range, List.getD_eq_getElem l d hlt, Nat.zero_add]

theorem getD_map_arm {ring : List Nat} (arm : Nat → RrotArm) {p : Nat} (hp : p < ring.length) (d : RrotArm) :
    (ring.map arm).getD p d = arm (ring.getD p 0) := by
  rw [List.getD_eq_getElem _ _ (by rwa [List.length_map]), List.getElem_map, List.getD_eq_getElem _ _ hp]

theorem headD_map_arm {ring : List Nat} (arm : Nat → RrotArm) (hne : ring ≠ []) (d : RrotArm) :
    (ring.map arm).headD d = arm (ring.headD 0) := by
  cases ring with
  | nil => exact absurd rfl hne
  | cons k ring => rfl

theorem execRrotRotation_unarmed {s : State} {k : Nat} (hk : k ∈ ringOf s s.args.a) (hno : armedAt s k = none) :
    exec .rrotRotation s = .next s := by
  refine if_pos (.inr (.inl fun hlen => ?_))
  have hsome := List.filterMap_length_eq_length.mp hlen k hk
  rw [hno] at hsome
  nomatch hsome

theorem Armed.arms {s : State} {ring : List Nat} {arm : Nat → RrotArm} (h : Armed s ring arm) :
    ring.filterMap (armedAt s) = ring.map arm :=
  List.filterMap_eq_map_iff_forall_eq_some.mpr h.armed

/-- The rotation goes on past its first check where every core is armed for the same rotation. -/
theorem Armed.ready {s : State} {ring : List Nat} {arm : Nat → RrotArm} (h : Armed s ring arm) :
    ¬(ring = [] ∨ (ring.map arm).length ≠ ring.length ∨
      (ring.any fun k => (coreOf s k).rrots != (coreOf s (ring.headD 0)).rrots) = true) := by
  simpa [h.nonempty] using h.turn

section
variable {s : State} {arm : Nat → RrotArm} (h : Armed s (ringOf s s.args.a) arm)
include h

theorem execRrotRotation_mixed {k : Nat} (hk : k ∈ ringOf s s.args.a)
    (hsize : (arm k).size ≠ (arm ((ringOf s s.args.a).headD 0)).size) :
    exec .rrotRotation s = .next (((ringOf s s.args.a).map arm).foldl (finishRrot 1) s) := by
  change execRrotRotation s = _
  unfold execRrotRotation
  dsimp only
  rw [h.arms, if_neg h.ready, headD_map_arm arm h.nonempty, if_pos]
  exact List.any_eq_true.mpr ⟨arm k, List.mem_map_of_mem hk, bne_iff_ne.mpr hsize⟩

theorem execRrotRotation_moves (hsize : ∀ k ∈ ringOf s s.args.a, (arm k).size = (arm ((ringOf s s.args.a).headD 0)).size) :
    exec .rrotRotation s =
      .next (((ringOf s s.args.a).map arm).foldl (finishRrot 0) (ringMoved s (ringOf s s.args.a) arm)) := by
  change execRrotRotation s = _
  unfold execRrotRotation
  dsimp only
  rw [h.arms, if_neg h.ready, headD_map_arm arm h.nonempty, if_neg (by simpa using hsize)]
  refine congrArg (fun u => Host.Outcome.next (List.foldl (finishRrot 0) u _)) ?_
  simp only [moveTo_eq]
  rw [map_zipIdx _ (arm 0), List.foldl_map, List.length_map]
  refine List.foldl_ext _ _ _ fun u p hp => ?_
  have hlt : p < (ringOf s s.args.a).length := List.mem_range.mp hp
  have hnext : (p + 1) % (ringOf s s.args.a).length < (ringOf s s.args.a).length := Nat.mod_lt _ (by omega)
  rw [getD_map_arm arm hlt, getD_map_arm arm hnext]
  rfl

theorem execRrotTimeout_armed (hb : s.args.b ∈ ringOf s s.args.a) (hbangle : s.args.b / 8 = s.args.a) :
    exec .rrotTimeout s = .next (((ringOf s s.args.a).map arm).foldl (finishRrot 2) s) := by
  obtain ⟨hring, hlaunch⟩ := ringFor_of_ringOf hb hbangle
  change execRrotTimeout s = _
  unfold execRrotTimeout
  dsimp only
  rw [hring, if_pos ⟨hbangle, by simpa using hb, by simp [h.rrot _ hb]⟩, List.filterMap_eq_map_iff_forall_eq_some.mpr fun k hk => ?_]
  rw [if_pos ⟨hlaunch k hk, (h.turn k hk).trans (h.turn _ hb).symm⟩, h.rrot k hk]
  rfl

end

/-! ### What the rotation has moved -/

theorem Memory.getElem_readBytes (m : Memory) (a n : Nat) {i : Nat} (hi : i < (m.readBytes a n).length) :
    (m.readBytes a n)[i] = m.read (a + i) := by
  induction n generalizing a i with
  | zero => nomatch hi
  | succ n ih =>
    cases i with
    | zero => rfl
    | succ i =>
      simp only [Memory.readBytes, List.getElem_cons_succ, ih]
      rw [Nat.add_right_comm, Nat.add_assoc]

theorem ringMoved_keeps {β : Type} (obs : State → β) (h : ∀ u m, obs (moveTo u m) = obs u) (s : State) (ring : List Nat)
    (arm : Nat → RrotArm) : obs (ringMoved s ring arm) = obs s :=
  foldl_untouched (fun u p _ => h u (ringMove s ring arm p)) s

theorem rrot_moveTo (u : State) (m : RingMove) (k : Nat) :
    (coreOf (moveTo u m) k).rrot = (coreOf u k).rrot ∧ (coreOf (moveTo u m) k).rrots = (coreOf u k).rrots := by
  rw [moveTo, coreOf_setCore]
  split
  · next hk => subst hk; exact ⟨rfl, rfl⟩
  · exact ⟨rfl, rfl⟩

/-- The positions of a ring have different successors, which hold different cores. -/
theorem ring_next_inj {ring : List Nat} (hnodup : ring.Nodup) {p q : Nat} (hp : p < ring.length) (hq : q < ring.length)
    (h : ring.getD ((p + 1) % ring.length) 0 = ring.getD ((q + 1) % ring.length) 0) : p = q := by
  have hlt : ∀ i, i % ring.length < ring.length := fun i => Nat.mod_lt i (Nat.zero_lt_of_lt hp)
  rw [List.getD_eq_getElem _ _ (hlt _), List.getD_eq_getElem _ _ (hlt _), hnodup.getElem_inj_iff] at h
  exact (Nat.ModEq.add_right_cancel' 1 h).eq_of_lt_of_lt hp hq

/-- Each core of the ring has got the bytes of the one before it. -/
theorem coreOf_ringMoved (s : State) {ring : List Nat} (arm : Nat → RrotArm) (hnodup : ring.Nodup) {p : Nat} (hp : p < ring.length) :
    coreOf (ringMoved s ring arm) (ring.getD ((p + 1) % ring.length) 0) =
      movedCore (ringMove s ring arm p) (coreOf s (ring.getD ((p + 1) % ring.length) 0)) :=
  foldl_touched (obs := fun u => coreOf u (ring.getD ((p + 1) % ring.length) 0)) List.nodup_range (List.mem_range.mpr hp)
    (fun _ => coreOf_setCore_same _ _ _)
    (fun _ _ hq hne => coreOf_setCore_ne _ _ fun h => hne (ring_next_inj hnodup hp (List.mem_range.mp hq) h).symm) s

/-- Every RROT of a ring that was armed is over, from a state `u` that has armed it as `s` does. -/
theorem Completed.all {st : D64} {s u t : State} {ring : List Nat} {arm : Nat → RrotArm} (h : Completed st u ring arm t)
    (hmem : u.mem = s.mem) (hrrot : ∀ k ∈ ring, (coreOf u k).rrot = [arm k])
    (hturn : ∀ k ∈ ring, (coreOf u k).rrots = (coreOf s k).rrots) :
    t.mem = s.mem ∧ ∀ k ∈ ring, (coreOf t k).rrot = [] ∧ (coreOf t k).rrots = (coreOf s k).rrots + 1 ∧
      ∀ e ∈ (ctxOf t (arm k).ctx).infl, e.seq = (arm k).seq → e.st = some st ∧ e.arrived = true := by
  refine ⟨h.mem.trans hmem, fun k hk => ⟨?_, ?_, h.told k hk⟩⟩
  · rw [h.core k hk, pastRotation, hrrot k hk]
    rfl
  · rw [h.core k hk, pastRotation, hturn k hk]

/-- A completion without a move leaves the banks and their tags. -/
theorem Completed.still {st : D64} {s t : State} {ring : List Nat} {arm : Nat → RrotArm} (h : Completed st s ring arm t) :
    ∀ k ∈ ring, (coreOf t k).spad = (coreOf s k).spad ∧ (coreOf t k).empty = (coreOf s k).empty := fun k hk => by
  rw [h.core k hk]
  exact ⟨rfl, rfl⟩

/-- The banks behind position `p` once the rotation has moved its bytes: the bytes, what stands around them, the tags. -/
theorem moved_banks {s t : State} {ring : List Nat} {arm : Nat → RrotArm} (h : Armed s ring arm)
    (hsize : ∀ k ∈ ring, (arm k).size = (arm (ring.headD 0)).size) (hdone : Completed 0 (ringMoved s ring arm) ring arm t)
    {p : Nat} (hp : p < ring.length) : let k := ring.getD p 0; let j := ring.getD ((p + 1) % ring.length) 0
    (∀ i, i < (arm k).size → (coreOf t j).spad.read ((arm j).dst + i) = (coreOf s k).spad.read ((arm k).src + i)) ∧
    (∀ i, i < (arm j).dst ∨ (arm j).dst + (arm j).size ≤ i → (coreOf t j).spad.read i = (coreOf s j).spad.read i) ∧
    ∀ w, NatSet.mem (coreOf t j).empty w =
      (NatSet.mem (coreOf s j).empty w && !(tagWords (arm j).dst (arm j).size).contains w) := by
  intro k j
  have hmem : ∀ q, q < ring.length → ring.getD q 0 ∈ ring := fun q hq => by
    rw [List.getD_eq_getElem _ _ hq]
    exact List.getElem_mem hq
  have hk : k ∈ ring := hmem p hp
  have hj : j ∈ ring := hmem _ (Nat.mod_lt _ (Nat.zero_lt_of_lt hp))
  have hsame : (arm k).size = (arm j).size := (hsize k hk).trans (hsize j hj).symm
  have hcore : coreOf t j = pastRotation (movedCore (ringMove s ring arm p) (coreOf s j)) := by
    rw [hdone.core j hj, coreOf_ringMoved s arm h.nodup hp]
  have hlen := Memory.length_readBytes (coreOf s k).spad (arm k).size (arm k).src
  have hspad : (coreOf t j).spad =
      (coreOf s j).spad.writeBytes (arm j).dst ((coreOf s k).spad.readBytes (arm k).src (arm k).size) := by rw [hcore]; rfl
  refine ⟨fun i hi => ?_, fun i hi => ?_, fun w => ?_⟩
  · rw [hspad, Memory.read_writeBytes_inside _ _ _ i (h.wf j hj) (by rwa [hlen]), Memory.getElem_readBytes]
  · rw [hspad, Memory.read_writeBytes_outside _ _ _ i (h.wf j hj) (by rwa [hlen, hsame])]
  · have hempty : (coreOf t j).empty = (tagWords (arm j).dst ((coreOf s k).spad.readBytes (arm k).src (arm k).size).length).foldl
        NatSet.erase (coreOf s j).empty := by rw [hcore]; rfl
    rw [hempty, hlen, hsame, NatSet.mem_eraseAll]

theorem ringRotates_holds : ringRotates := by
  intro s ring
  refine ⟨fun k => execRrotRotation_unarmed, fun arm hne hall => ?_⟩
  dsimp only
  have h : Armed s ring arm := {
    nodup := nodup_ringOf s _
    nonempty := hne
    armed := fun k hk => (hall k hk).2.1
    rrot := fun k hk => (hall k hk).1
    core := fun k hk => (hall k hk).2.2.1
    wf := fun k hk => (hall k hk).2.2.2.1
    turn := fun k hk => (hall k hk).2.2.2.2 }
  have hdone : ∀ st u, Completed st u ring arm ((ring.map arm).foldl (finishRrot st) u) := fun st u => completed_finish st u h.nodup h.core
  refine ⟨fun hsize => ?_, fun k hk hsize => ?_, fun hb hbangle => ?_⟩
  · refine ⟨_, execRrotRotation_moves h hsize, ?_, fun p hp => moved_banks h hsize (hdone 0 _) hp⟩
    refine (hdone 0 _).all (ringMoved_keeps State.mem (fun _ _ => rfl) s ring arm) (fun k hk => ?_) fun k _ => ?_
    · rw [ringMoved_keeps (fun u => (coreOf u k).rrot) (fun u m => (rrot_moveTo u m k).1), h.rrot k hk]
    · exact ringMoved_keeps (fun u => (coreOf u k).rrots) (fun u m => (rrot_moveTo u m k).2) s ring arm
  · exact ⟨_, execRrotRotation_mixed h hk hsize, (hdone 1 s).all rfl h.rrot fun _ _ => rfl, (hdone 1 s).still⟩
  · exact ⟨_, execRrotTimeout_armed h hb hbangle, (hdone 2 s).all rfl h.rrot fun _ _ => rfl, (hdone 2 s).still⟩

/-- Settles O39: the cores of a ring are distinct, so that each move touches one core and each completion one core and one context,
once; a die's calendars are `dieTo` by its definition. -/
theorem ringsAndCalendars : Obligations.RingsAndCalendars := ⟨ringRotates_holds, dieCalendars_hold⟩

end Sys2Proof.Machine
end
